-- ==== Sys2Proof/Word.lean ====
section
/-! DEFINITION. The words of the model: bytes, 32-bit register words, 64-bit counters. -/

namespace Sys2Proof

/-- A byte. -/
abbrev Byte := BitVec 8
/-- A register or command-packet word (R4, R388). -/
abbrev W32 := BitVec 32
/-- A telemetry counter or a time-base value (R401, R421). -/
abbrev W64 := BitVec 64
/-- A byte string, lowest address first. -/
abbrev Bytes := List Byte

end Sys2Proof
end

