-- ==== Sys2Proof/Syntax.lean ====
section
/-! DEFINITION. The commands the block takes: one constructor of `Instr` for each row of
spec/opcode_table.json, with the operands the outside gives the event. -/

namespace Sys2Proof

/-- Who makes a register access: rp_req_fid and rp_req_priv (R387, R390). -/
structure Accessor where
  fid  : Nat
  priv : Bool
  deriving DecidableEq, Repr

/-- What the fabric answers to the accesses of a byte string that one command reads whole (R273 to R276). A failure
comes with the clock of the tick in which it is found (R90) and the bytes of the string that are in the accesses, or
for poison in the beats, that it strikes; a poisoned string has its data. -/
inductive ReadAnswer where
  | ok (data : Bytes)
  | busError (clock : Nat) (offs : List Nat)
  | poisoned (clock : Nat) (data : Bytes) (offs : List Nat)
  | timeout (clock : Nat) (offs : List Nat)
  deriving DecidableEq, Repr

/-- A link: ring number, submission index of the request's first header, link number (R18). -/
structure LinkId where
  ring : Nat
  idx  : Nat
  link : Nat
  deriving DecidableEq, Repr

/-- The unit classes that take faults, self-tests and eclipses (R17, R306, R311). -/
inductive UnitId where
  | lane (n : Nat)
  | engine (n : Nat)
  | macu (n : Nat)
  | quad (q : Nat)
  | oryCore (c : Nat)
  | drbgCore (c : Nat)
  | scintilla
  deriving DecidableEq, Repr

/-- The faults a tick may find in a granted unit (R306); COMMAND_FAULT brings MACU_PARITY. -/
inductive FaultKind where
  | lockstep
  | laneEcc
  | engineEcc
  | dualMismatch
  | macuParity
  deriving DecidableEq, Repr

/-- A fault of the tick: its kind, the unit that found it, the link whose grant it struck, and how many bytes of the
segment's output had left the unit before the clock of detection (R154, R156, R196, R306).
ELIGIBILITY_CUT brings those found before the cut, TICK_BOUNDARY those found after it (R307). -/
structure UnitFault where
  kind     : FaultKind
  unit     : Nat
  link     : LinkId
  before   : Nat := 0
  deriving DecidableEq, Repr

/-- What the outside brings to a tick boundary: the sampled tb_ns (R401); the clocks in which the Orrery cores issued
instructions in the tick, added over the cores (R123), for no rule gives an instruction's clocks; the faults of the tick, and the
single-bit errors corrected in units and in the key caches and stores (R157, R175, R199). -/
structure TickEvents where
  ns        : W64
  oryClocks : Nat
  faults    : List UnitFault
  corrected : List (UnitId × Nat)
  keyFixed  : Nat
  deriving DecidableEq, Repr

/-- One 64-byte beat of read data (R374, R378). -/
structure ReadBeat where
  data   : Bytes
  okay   : Bool
  poison : Bool
  deriving DecidableEq, Repr

/-- The health tests of R249. -/
inductive HealthTest where
  | alive
  | lock
  | rct
  | apt
  deriving DecidableEq, Repr

/-- The oscillator that a test names, and what the test counted of it in four sample periods, or in one for the tests that count
once (R249). -/
structure OscCounts where
  no     : Nat
  counts : List Nat
  deriving DecidableEq, Repr

/-- How the device reads in one mode (R345): the instruction, its dummy and mode clocks, and the 4-byte instruction, where a
table gives one. -/
structure NvRead where
  instr : Nat := 0x03
  dummy : Nat := 0
  modes : Nat := 0
  four  : Option Nat := none
  deriving DecidableEq, Repr

/-- What the block reads in SFDP discovery (R345): the bytes of the SFDP area from its address 0 on, and the status registers
that instructions 0x05, 0x35 and 0x3F read. -/
structure SfdpRead where
  data : Bytes
  st05 : Byte
  st35 : Byte
  st3F : Byte
  deriving DecidableEq, Repr

/-- What comes with reset release: the lifecycle strap and the time base (R356, R401). -/
structure Release where
  lifecycle : BitVec 2
  ns        : W64
  deriving DecidableEq, Repr

/-- What comes with tb_valid's rise: the time base, and the core clocks since the block's time was last counted on (R401). -/
structure TimeBack where
  ns     : W64
  clocks : Nat
  deriving DecidableEq, Repr

/-- The ports an Orrery thread may block on (R235); the request event port with the request that the thread names, none
where it waits for what management asks of it. -/
inductive OryPort where
  | macuQueue
  | digestSlot
  | sdma
  | keyStaging
  | drbg
  | mailbox
  | tick
  | request (named : Option LinkId)
  deriving DecidableEq, Repr

/-- The on-block key caches, and the key stores of the key-staging units (R17 class CACHE, R175). -/
inductive KeyCacheId where
  | keyCache
  | stateCache
  | keyStore
  deriving DecidableEq, Repr

/-- What an SDMA run is started with: the channel registers of R294. -/
structure SdmaSetup where
  src      : Nat
  dst      : Nat
  count    : Nat
  list     : Bool
  listSm   : Bool
  srcSpace : Nat
  dstSpace : Nat
  swap     : Nat
  vault    : Bool
  fid      : Nat
  deriving DecidableEq, Repr

/-- What key staging reads from the Vault for one request (R170): the ledger page of the operating
index, its context and extended record, the ledger page of the target index, page 0, and for
KEY_IMPORT the transfer blob. -/
structure VaultReads where
  page       : ReadAnswer
  context    : ReadAnswer
  extended   : ReadAnswer
  targetPage : ReadAnswer
  page0      : ReadAnswer
  blob       : ReadAnswer
  deriving DecidableEq, Repr

/-- What a job's preparation reads: the source and the three OPERANDS buffers (R206, R211), and the
extended record (R174). -/
structure JobReads where
  source   : ReadAnswer
  op0      : ReadAnswer
  op1      : ReadAnswer
  op2      : ReadAnswer
  extended : ReadAnswer
  deriving DecidableEq, Repr

/-- What a fetch reads: the header entry, then the further entries of the packet (R45, R278). -/
structure FetchReads where
  header : ReadAnswer
  inl    : ReadAnswer
  deriving DecidableEq, Repr

/-- The commands, in the order of spec/opcode_table.json. -/
inductive Instr where
  | rstCoreAssert
  | rstRpAssert
  | resetRelease (release : Release)
  | rootKeyWord (word : W32) (last : Bool)
  | nvmFirstCommand (sfdp : SfdpRead)
  | containerReadDone (data : ReadAnswer)
  | containerVerdict (elapsed : Nat) (ns : W64)
  | seedingEnd (elapsed : Nat)
  | containment
  | blockFault
  | tickBoundary (ev : TickEvents)
  | epochBoundary
  | eligibilityCut (faults : List UnitFault)
  | mac (u : Nat) (mod : BitVec 4) (a b : BitVec 10)
  | shift (u : Nat) (mod : BitVec 4) (b : BitVec 10)
  | load (u : Nat) (b : BitVec 10)
  | store (u : Nat) (a : BitVec 10)
  | vmac (u : Nat) (mod : BitVec 4) (a b : BitVec 10)
  | vshift (u : Nat) (mod : BitVec 4) (s : BitVec 6) (b : BitVec 10)
  | macuNop (u : Nat)
  | macuEnd (u : Nat)
  | commandFault (u : Nat)
  | jobPreparation (id : LinkId) (reads : JobReads)
  | jobWipe (id : LinkId)
  | selfTest (u : UnitId) (pass : Bool)
  | eclipseEffect (u : UnitId)
  | quadrantLoss (q : Nat)
  | orreryCoreLoss (c : Nat)
  | cacheUncorrectable (cache : KeyCacheId) (part index : Nat) (reader : Option LinkId)
  | segmentShaping
  | quadrantGating (q : Nat)
  | powerGovernor
  | powerAck (orrery : Bool) (n : Nat) (level : Bool)
  | producerWrite (who : Accessor) (ring : Nat) (value : W32)
  | consumerWrite (who : Accessor) (ring : Nat) (value : W32)
  | abortWrite (who : Accessor) (ring : Nat) (value : W32)
  | registerWrite (who : Accessor) (addr : Nat) (value : W32)
  | readClears (who : Accessor) (addr : Nat)
  | irqPendClear (who : Accessor) (word : Nat) (value : W32)
  | irqTest (who : Accessor) (value : W32)
  | freezeNow (who : Accessor)
  | frozenClear (who : Accessor)
  | testPatternEnable (who : Accessor)
  | testPatternDisable (who : Accessor)
  | ringFetch (ring : Nat) (reads : FetchReads)
  | ringContextMiss (ring : Nat) (answer : ReadAnswer)
  | headerReread (ring : Nat) (reads : FetchReads)
  | chainIncomplete (ring : Nat)
  | cqStall (ring : Nat)
  | gatherListRead (id : LinkId) (src dst : ReadAnswer)
  | keyStaging (id : LinkId) (reads : VaultReads)
  | ledgerReservationAck (part index : Nat)
  | ledgerWriteRetry (part index : Nat)
  | nop (id : LinkId)
  | fenceRing (id : LinkId)
  | fencePartition (id : LinkId)
  | aeadSeal (id : LinkId)
  | aeadOpen (id : LinkId)
  | cipherEnc (id : LinkId)
  | cipherDec (id : LinkId)
  | gmacGen (id : LinkId)
  | gmacVerify (id : LinkId)
  | digest (id : LinkId)
  | hmacGen (id : LinkId)
  | hmacVerify (id : LinkId)
  | pkJob (id : LinkId)
  | random (id : LinkId)
  | reseed (id : LinkId)
  | keyGenerate (id : LinkId)
  | keyImport (id : LinkId)
  | keyDerive (id : LinkId)
  | keyRetire (id : LinkId)
  | copy (id : LinkId)
  | completionRecordWrite (ring : Nat)
  | recordWriteRetry (ring : Nat)
  | irqTicksTrigger (ring : Nat)
  | interruptMessage (fid : Nat)
  | ringDrainComplete (ring : Nat)
  | ringOpenComplete (ring : Nat)
  | streamInputFrame (port : Nat) (sop : Bool) (ring : Nat) (data : Bytes)
  | streamOutputFrame (port : Nat)
  | streamOutputPause (port : Nat)
  | streamLongPause (port : Nat)
  | readCompletion (port index gen : Nat) (beats : List ReadBeat)
  | readTimeout (port index : Nat)
  | tagQuarantineEnd (port index : Nat)
  | writeResponse (port index gen : Nat) (okay : Bool)
  | bmeSet (fid : Nat)
  | bmeClear (fid : Nat)
  | bmeClearAck (fid : Nat)
  | flrStart (fid : Nat)
  | flrAck (fid : Nat) (duration : Nat)
  | flrWriteLate (fid : Nat)
  | fcReservedOp (fid : Nat)
  | tbLost
  | tbRestored (back : TimeBack)
  | tapReset
  | idcode
  | bypass
  | oryState
  | threadStop (t : Nat)
  | threadResume (t : Nat)
  | holdSet
  | holdClear
  | fork (t : Nat) (entry : Nat)
  | join (t u : Nat)
  | channelWrite (t ch : Nat) (word : W64) (final : Bool)
  | channelRead (t ch : Nat)
  | portRead (t : Nat) (port : OryPort)
  | timeLimit (root : Nat)
  | corePowerDown (c : Nat)
  | coreWake (c : Nat)
  | sdmaStart (n : Nat) (setup : SdmaSetup) (list : ReadAnswer)
  | sdmaAbort (n : Nat)
  | sdmaDone (n : Nat)
  | go (who : Accessor) (ch : Nat) (value : W32)
  | ack (who : Accessor) (ch : Nat) (value : W32)
  | compatDoorbellMsg (who : Accessor) (ch : Nat)
  | compatDoorbellAck (who : Accessor) (ch : Nat)
  | mbDbMaskClear (who : Accessor) (ch : Nat) (value : W32)
  | messageTaken (t : Nat) (read : ReadAnswer)
  | mailboxReply (ch : Nat)
  | partitionRecordAck (part : Nat)
  | partitionRecordRetry (part : Nat)
  | fwVerifyVerdict
  | swapEnter
  | quiesceTimeout (t : Nat)
  | flip
  | initDone
  | initTimeout
  | swapExit
  | windowEnd (samples : List W64)
  | healthTestFailure (test : HealthTest) (osc : OscCounts)
  | retestStart
  | retestVerdict (pass : Bool) (samples : List W64)
  | drbgItemDone (core : Nat)
  | entropyWaitExpiry (id : LinkId)
  | recordCommit
  | readRefused (who : Accessor) (addr : Nat)
  | streamInputBeat (port : Nat) (sop : Bool) (ring : Nat) (data : Bytes)
  | streamPauseEnd (port : Nat)
  | rstRpRelease
  | knownAnswerTestDone (core0 core1 cond : Bool)
  deriving DecidableEq, Repr

end Sys2Proof
end

