-- ==== Sys2Proof/Decode.lean ====
section
/-! DEFINITION. Commands spelled by bits. The opcode table gives no row of it any bits; the manual gives the eight MACU
commands a 32-bit word, which a MACU decodes and the Orrery thread encodes (R202, R203). -/

namespace Sys2Proof

/-! ### MACU command words (R202, R203) -/

/-- Bits [lo + n - 1 : lo] of a command word. -/
def macuField (w : BitVec 32) (lo n : Nat) : BitVec n := w.extractLsb' lo n

/-- The command that MACU u decodes from a word: a reserved code is a command fault (R203, R204). Modifier bits that a command
does not name, and the reserved fields, are not looked at. -/
def decodeMacu (u : Nat) (w : BitVec 32) : Instr :=
  let mod := macuField w 24 4
  let a := macuField w 12 10
  let b := macuField w 0 10
  match (macuField w 28 4).toNat with
  | 0x0 => .macuNop u
  | 0x1 => .mac u mod a b
  | 0x2 => .shift u mod b
  | 0x3 => .load u b
  | 0x4 => .store u a
  | 0x8 => .vmac u mod a b
  | 0x9 => .vshift u mod (macuField w 12 6) b
  | 0xF => .macuEnd u
  | _ => .commandFault u

/-- The command that a word spells. The table gives no row any bits; a word of 32 bits is a MACU command word of R202 and R203,
which names no MACU: it is taken as one of MACU 0 (log 120). -/
def decodeTableWord (nbits w : Nat) : Option Instr := if nbits = 32 then some (decodeMacu 0 (BitVec.ofNat 32 w)) else none

/-- A command word from its fields, the reserved ones 0 (R202). -/
def macuWord (op mod : BitVec 4) (a b : BitVec 10) : BitVec 32 := op ++ mod ++ (0 : BitVec 2) ++ a ++ (0 : BitVec 2) ++ b

/-- The word of a MACU command; none for a command of another kind (R202, R203). -/
def encodeMacu (i : Instr) : Option (BitVec 32) :=
  match i with
  | .macuNop _ => some (macuWord 0x0 0 0 0)
  | .mac _ mod a b => some (macuWord 0x1 mod a b)
  | .shift _ mod b => some (macuWord 0x2 mod 0 b)
  | .load _ b => some (macuWord 0x3 0 0 b)
  | .store _ a => some (macuWord 0x4 0 a 0)
  | .vmac _ mod a b => some (macuWord 0x8 mod a b)
  | .vshift _ mod sh b => some (macuWord 0x9 mod (sh.setWidth 10) b)
  | .macuEnd _ => some (macuWord 0xF 0 0 0)
  | _ => none

end Sys2Proof
end

