-- ==== Sys2Proof/Machine/Bits.lean ====
section
/-! DEFINITION. Bit fields, byte order and byte strings (R3, R4). -/

namespace Sys2Proof.Machine

/-- The field of `n` bits that starts at bit `lo` (R3). -/
def fld (w lo n : Nat) : Nat := (w >>> lo) % 2 ^ n

/-- Bit `i` of `w`. -/
def bit (w i : Nat) : Bool := w.testBit i

/-- A Bool as a bit. -/
def b2n (b : Bool) : Nat := if b then 1 else 0

/-- A byte string read little-endian (R4). -/
def leNat : Bytes → Nat
  | [] => 0
  | b :: l => b.toNat + 256 * leNat l

/-- `n` as `len` little-endian bytes. -/
def natLE : Nat → Nat → Bytes
  | _, 0 => []
  | n, len + 1 => BitVec.ofNat 8 n :: natLE (n / 256) len

/-- A byte string read with its first byte most significant. -/
def beNat (l : Bytes) : Nat := l.foldl (fun a b => 256 * a + b.toNat) 0

/-- `n` as `len` bytes, most significant first. -/
def natBE (n len : Nat) : Bytes := (natLE n len).reverse

/-- Bytes `off` to `off + len - 1` of a string. -/
def slice (l : Bytes) (off len : Nat) : Bytes := (l.drop off).take len

/-- The little-endian field of `len` bytes at byte `off` (R4). -/
def leAt (l : Bytes) (off len : Nat) : Nat := leNat (slice l off len)

/-- Byte `i`, 0 beyond the end. -/
def byteAt (l : Bytes) (i : Nat) : Nat := (l.getD i 0).toNat

/-- Exclusive or of two byte strings, as long as the shorter. -/
def xorB (a b : Bytes) : Bytes := List.zipWith (· ^^^ ·) a b

/-- `n` zero bytes. -/
def zeros (n : Nat) : Bytes := List.replicate n 0

/-- ⌈a / b⌉. -/
def cdiv (a b : Nat) : Nat := (a + b - 1) / b

/-- The string padded with zeros to a multiple of `n`. -/
def padTo (n : Nat) (l : Bytes) : Bytes := l ++ zeros (n * cdiv l.length n - l.length)

/-- The string cut into pieces of `n` bytes, at most `fuel` of them. -/
def chunkF (n : Nat) : Nat → Bytes → List Bytes
  | 0, _ => []
  | fuel + 1, l => if l.isEmpty then [] else l.take n :: chunkF n fuel (l.drop n)

/-- The string cut into pieces of `n` bytes; the last may be short. -/
def chunk (n : Nat) (l : Bytes) : List Bytes := chunkF n l.length l

/-- ASCII text as bytes. -/
def ascii (t : String) : Bytes := t.toList.map fun c => BitVec.ofNat 8 c.toNat

/-- Saturating increment: `a + n`, at most `m` (R157, R184, R199, ...). -/
def sat (m a n : Nat) : Nat := min m (a + n)

/-- Rotate right in words of `w` bits. -/
def rotr (w n x : Nat) : Nat := ((x >>> n) ||| (x <<< (w - n))) % 2 ^ w

/-- Rotate left in words of `w` bits. -/
def rotl (w n x : Nat) : Nat := ((x <<< n) ||| (x >>> (w - n))) % 2 ^ w

/-- b ^ e mod m by squaring, over the `fuel` low bits of e. -/
def powModF (m : Nat) : Nat → Nat → Nat → Nat → Nat
  | 0, _, _, acc => acc
  | fuel + 1, b, e, acc =>
    powModF m fuel (b * b % m) (e / 2) (if e % 2 = 1 then acc * b % m else acc)

/-- b ^ e mod m. -/
def powMod (b e m : Nat) : Nat := powModF m (e.log2 + 1) (b % m) e (1 % m)

/-- The inverse modulo a prime (Fermat). -/
def invMod (a p : Nat) : Nat := powMod a (p - 2) p

/-- a - b mod m. -/
def subMod (a b m : Nat) : Nat := (a + (m - b % m)) % m

end Sys2Proof.Machine
end

