-- ==== Sys2Proof/Machine/Aes.lean ====
section
/-! DEFINITION. FIPS 197 AES (R11). The standard's tables and rounds are taken from general knowledge
of the standard that R11 cites (PRESUMED, log 9). -/

namespace Sys2Proof.Machine

/-- The AES S-box, entry i in bits 8i + 7 to 8i. -/
def aesSbox : Nat := 0x16bb54b00f2d99416842e6bf0d89a18cdf2855cee9871e9b948ed9691198f8e19e1dc186b95735610ef6034866b53e708a8bbd4b1f74dde8c6b4a61c2e2578ba08ae7a65eaf4566ca94ed58d6d37c8e779e4959162acd3c25c2406490a3a32e0db0b5ede14b8ee4688902a22dc4f816073195d643d7ea7c41744975fec130ccdd2f3ff1021dab6bcf5389d928f40a351a89f3c507f02f94585334d43fbaaefd0cf584c4a39becb6a5bb1fc20ed00d153842fe329b3d63b52a05a6e1b1a2c830975b227ebe28012079a059618c323c7041531d871f1e5a534ccf73f362693fdb7c072a49cafa2d4adf04759fa7dc982ca76abd7fe2b670130c56f6bf27b777c63

/-- The inverse S-box, in the same form. -/
def aesInvSbox : Nat := 0x7d0c2155631469e126d677ba7e042b17619953833cbbebc8b0f52aae4d3be0a0ef9cc9939f7ae52d0d4ab519a97f51605fec8027591012b131c7078833a8dd1ff45acd78fec0db9a2079d2c64b3e56fc1bbe18aa0e62b76f89c5291d711af1476edf751ce837f9e28535ade72274ac9673e6b4f0cecff297eadc674f4111913a6b8a130103bdafc1020f3fca8f1e2cd00645b3b80558e4f70ad3bc8c00abd890849d8da75746155edab9edfd5048706c92b6655dcc5ca4d41698688664f6f87225d18b6d49a25b76b224d92866a12e084ec3fa420b954cee3d23c2a632947b54cbe9dec444438e3487ff2f9b8239e37cfbd7f3819ea340bf38a53630d56a0952

/-- One table look-up. -/
def aesSub (table : Nat) (b : Byte) : Byte := BitVec.ofNat 8 (table >>> (8 * b.toNat))

/-- Multiplication by x in GF(2^8). -/
def xtime (b : Byte) : Byte := (b <<< 1) ^^^ (if b.msb then 0x1B else 0)

/-- Multiplication by a small constant in GF(2^8), c below 16. -/
def gmul (c : Nat) (b : Byte) : Byte :=
  let b2 := xtime b
  let b4 := xtime b2
  let b8 := xtime b4
  (if c.testBit 0 then b else 0) ^^^ (if c.testBit 1 then b2 else 0) ^^^
    (if c.testBit 2 then b4 else 0) ^^^ (if c.testBit 3 then b8 else 0)

/-- Key expansion: `n` more words after those in `acc` (newest first), `i` the index of the next. -/
def aesExpandF (nk : Nat) : Nat → Nat → Byte → List Bytes → List Bytes
  | 0, _, _, acc => acc.reverse
  | n + 1, i, rcon, acc =>
    let prev := acc.headD []
    let back := acc.getD (nk - 1) []
    let sub := prev.map (aesSub aesSbox)
    if i % nk = 0 then
      let t := (sub.drop 1 ++ sub.take 1)
      let t := (t.headD 0 ^^^ rcon) :: t.drop 1
      aesExpandF nk n (i + 1) (xtime rcon) (xorB back t :: acc)
    else if nk > 6 ∧ i % nk = 4 then
      aesExpandF nk n (i + 1) rcon (xorB back sub :: acc)
    else
      aesExpandF nk n (i + 1) rcon (xorB back prev :: acc)

/-- The round keys of 16 bytes each, Nr + 1 of them. -/
def aesExpand (key : Bytes) : List Bytes :=
  let nk := key.length / 4
  let words := aesExpandF nk (4 * (nk + 7) - nk) nk 1 (chunk 4 key).reverse
  chunk 16 words.flatten

/-- ShiftRows: byte (r, c) takes byte (r, c + r), bytes numbered 4c + r. -/
def shiftRows (s : Bytes) : Bytes :=
  (List.range 16).map fun i => s.getD ((i + 4 * (i % 4)) % 16) 0

/-- InvShiftRows. -/
def invShiftRows (s : Bytes) : Bytes :=
  (List.range 16).map fun i => s.getD ((i + 12 * (i % 4)) % 16) 0

/-- One column times a circulant matrix whose first row is a b c d. -/
def mixCol (a b c d : Nat) (col : Bytes) : Bytes :=
  let x := col.getD 0 0
  let y := col.getD 1 0
  let z := col.getD 2 0
  let w := col.getD 3 0
  [gmul a x ^^^ gmul b y ^^^ gmul c z ^^^ gmul d w, gmul d x ^^^ gmul a y ^^^ gmul b z ^^^ gmul c w,
   gmul c x ^^^ gmul d y ^^^ gmul a z ^^^ gmul b w, gmul b x ^^^ gmul c y ^^^ gmul d z ^^^ gmul a w]

/-- MixColumns with the given matrix row. -/
def mixCols (a b c d : Nat) (s : Bytes) : Bytes := ((chunk 4 s).map (mixCol a b c d)).flatten

/-- The rounds of the cipher after the first key addition. -/
def aesRounds : List Bytes → Bytes → Bytes
  | [], s => s
  | [k], s => xorB (shiftRows (s.map (aesSub aesSbox))) k
  | k :: ks, s => aesRounds ks (xorB (mixCols 2 3 1 1 (shiftRows (s.map (aesSub aesSbox)))) k)

/-- The cipher on one block under expanded round keys. -/
def aesEncRk (rk : List Bytes) (block : Bytes) : Bytes := aesRounds (rk.drop 1) (xorB block (rk.headD []))

/-- The rounds of the inverse cipher; the round keys come in reverse order, the last dropped. -/
def aesInvRounds : List Bytes → Bytes → Bytes
  | [], s => s
  | [k], s => xorB ((invShiftRows s).map (aesSub aesInvSbox)) k
  | k :: ks, s => aesInvRounds ks (mixCols 14 11 13 9 (xorB ((invShiftRows s).map (aesSub aesInvSbox)) k))

/-- The inverse cipher on one block under expanded round keys. -/
def aesDecRk (rk : List Bytes) (block : Bytes) : Bytes :=
  let r := rk.reverse
  aesInvRounds (r.drop 1) (xorB block (r.headD []))

/-- E_K. -/
def aesEnc (key block : Bytes) : Bytes := aesEncRk (aesExpand key) block

/-- D_K. -/
def aesDec (key block : Bytes) : Bytes := aesDecRk (aesExpand key) block

end Sys2Proof.Machine
end

