-- ==== Sys2Proof/Machine/Sha.lean ====
section
/-! DEFINITION. FIPS 180-4 and FIPS 202 (R11, R185). Constants and rounds are taken from general
knowledge of the standards that R11 cites (PRESUMED, log 9). -/

namespace Sys2Proof.Machine

/-- The SHA-256 round constants, constant i in bits 32i + 31 to 32i. -/
def k256 : Nat := 0xc67178f2bef9a3f7a4506ceb90befffa8cc7020884c8781478a5636f748f82ee682e6ff35b9cca4f4ed8aa4a391c0cb334b0bcb52748774c1e376c0819a4c116106aa070f40e3585d6990624d192e819c76c51a3c24b8b70a81a664ba2bfe8a192722c8581c2c92e766a0abb650a735453380d134d2c6dfc2e1b213827b70a851429296706ca6351d5a79147c6e00bf3bf597fc7b00327c8a831c66d983e515276f988da5cb0a9dc4a7484aa2de92c6f240ca1cc0fc19dc6efbe4786e49b69c1c19bf1749bdc06a780deb1fe72be5d74550c7dc3243185be12835b01d807aa98ab1c5ed5923f82a459f111f13956c25be9b5dba5b5c0fbcf71374491428a2f98

/-- The SHA-512 round constants, constant i in bits 64i + 63 to 64i. -/
def k512 : Nat := 0x6c44198c4a4758175fcb6fab3ad6faec597f299cfc657e2a4cc5d4becb3e42b6431d67c49c100d4c3c9ebe0a15c9bebc32caab7b40c7249328db77f523047d841b710b35131c471b113f9804bef90dae0a637dc5a2c898a606f067aa72176fbaf57d4f7fee6ed178eada7dd6cde0eb1ed186b8c721c0c207ca273eceea26619cc67178f2e372532bbef9a3f7b2c67915a4506cebde82bde990befffa23631e288cc702081a6439ec84c87814a1f0ab7278a5636f43172f60748f82ee5defb2fc682e6ff3d6b2b8a35b9cca4f7763e3734ed8aa4ae3418acb391c0cb3c5c95a6334b0bcb5e19b48a82748774cdf8eeb991e376c085141ab5319a4c116b8d2d0c8106aa07032bbd1b8f40e35855771202ad69906245565a910d192e819d6ef5218c76c51a30654be30c24b8b70d0f89791a81a664bbc423001a2bfe8a14cf1036492722c851482353b81c2c92e47edaee6766a0abb3c77b2a8650a73548baf63de53380d139d95b3df4d2c6dfc5ac42aed2e1b21385c26c92627b70a8546d22ffc142929670a0e6e7006ca6351e003826fd5a79147930aa725c6e00bf33da88fc2bf597fc7beef0ee4b00327c898fb213fa831c66d2db43210983e5152ee66dfab76f988da831153b55cb0a9dcbd41fbd44a7484aa6ea6e4832de92c6f592b0275240ca1cc77ac9c650fc19dc68b8cd5b5efbe4786384f25e3e49b69c19ef14ad2c19bf174cf6926949bdc06a725c7123580deb1fe3b1696b172be5d74f27b896f550c7dc3d5ffb4e2243185be4ee4b28c12835b0145706fbed807aa98a3030242ab1c5ed5da6d8118923f82a4af194f9b59f111f1b605d0193956c25bf348b538e9b5dba58189dbbcb5c0fbcfec4d3b2f7137449123ef65cd428a2f98d728ae22

/-- SHA-2 in words of 32 or 64 bits: its rotation amounts. -/
structure Sha2 where
  w  : Nat
  r  : Nat
  s0 : Nat × Nat × Nat
  s1 : Nat × Nat × Nat
  e0 : Nat × Nat × Nat
  e1 : Nat × Nat × Nat
  k  : Nat

/-- SHA-224 and SHA-256. -/
def sha2w32 : Sha2 := ⟨32, 64, (7, 18, 3), (17, 19, 10), (2, 13, 22), (6, 11, 25), k256⟩

/-- SHA-384, SHA-512 and SHA-512/256. -/
def sha2w64 : Sha2 := ⟨64, 80, (1, 8, 7), (19, 61, 6), (28, 34, 39), (14, 18, 41), k512⟩

/-- The small sigma functions: two rotations and a shift. -/
def Sha2.sml (p : Sha2) (t : Nat × Nat × Nat) (x : Nat) : Nat :=
  rotr p.w t.1 x ^^^ rotr p.w t.2.1 x ^^^ (x >>> t.2.2)

/-- The big sigma functions: three rotations. -/
def Sha2.big (p : Sha2) (t : Nat × Nat × Nat) (x : Nat) : Nat :=
  rotr p.w t.1 x ^^^ rotr p.w t.2.1 x ^^^ rotr p.w t.2.2 x

/-- The message schedule, newest word first. -/
def Sha2.sched (p : Sha2) : Nat → List Nat → List Nat
  | 0, ws => ws
  | n + 1, ws =>
    p.sched n (((p.sml p.s1 (ws.getD 1 0) + ws.getD 6 0 + p.sml p.s0 (ws.getD 14 0) + ws.getD 15 0) % 2 ^ p.w) :: ws)

/-- The rounds over the schedule, `i` the round number. -/
def Sha2.rounds (p : Sha2) : List Nat → Nat → List Nat → List Nat
  | [], _, v => v
  | w :: ws, i, v =>
    match v with
    | [a, b, c, d, e, f, g, h] =>
      let m := 2 ^ p.w
      let t1 := (h + p.big p.e1 e + ((e &&& f) ^^^ ((m - 1 - e) &&& g)) + fld p.k (p.w * i) p.w + w) % m
      let t2 := (p.big p.e0 a + ((a &&& b) ^^^ (a &&& c) ^^^ (b &&& c))) % m
      p.rounds ws (i + 1) [(t1 + t2) % m, a, b, c, (d + t1) % m, e, f, g]
    | _ => v

/-- One compression. -/
def Sha2.compress (p : Sha2) (st : List Nat) (block : Bytes) : List Nat :=
  let ws := (chunk (p.w / 8) block).map beNat
  let all := (p.sched (p.r - 16) ws.reverse).reverse
  List.zipWith (fun a b => (a + b) % 2 ^ p.w) st (p.rounds all 0 st)

/-- The Keccak round constants, constant i in bits 64i + 63 to 64i. -/
def keccakRc : Nat := 0x8000000080008008000000008000000180000000000080808000000080008081800000008000000a000000000000800a8000000000000080800000000000800280000000000080038000000000008089800000000000008b000000008000808b000000008000000a00000000800080090000000000000088000000000000008a800000000000800980000000800080810000000080000001000000000000808b8000000080008000800000000000808a00000000000080820000000000000001

/-- The rotation offsets of lane x + 5y. -/
def keccakRho : List Nat := [0, 1, 62, 28, 27, 36, 44, 6, 55, 20, 3, 10, 43, 25, 39, 41, 45, 15, 21, 8, 18, 2, 61, 56, 14]

/-- One round of Keccak-f[1600] on the 25 lanes, lane (x, y) at x + 5y. -/
def keccakRound (a : List Nat) (rc : Nat) : List Nat :=
  let at' := fun (l : List Nat) i => l.getD i 0
  let c := (List.range 5).map fun x => at' a x ^^^ at' a (x + 5) ^^^ at' a (x + 10) ^^^ at' a (x + 15) ^^^ at' a (x + 20)
  let d := (List.range 5).map fun x => at' c ((x + 4) % 5) ^^^ rotl 64 1 (at' c ((x + 1) % 5))
  let t := (List.range 25).map fun i => rotl 64 (at' keccakRho i) (at' a i ^^^ at' d (i % 5))
  -- pi: B[y, 2x + 3y] = A[x, y], so lane (X, Y) of B takes lane ((X + 3Y) mod 5, X) of A
  let b := (List.range 25).map fun i =>
    let x := i % 5
    let y := i / 5
    at' t ((x + 3 * y) % 5 + 5 * x)
  let e := (List.range 25).map fun i =>
    let x := i % 5
    let y := i / 5
    at' b i ^^^ ((2 ^ 64 - 1 - at' b ((x + 1) % 5 + 5 * y)) &&& at' b ((x + 2) % 5 + 5 * y))
  match e with
  | [] => []
  | l :: ls => (l ^^^ rc) :: ls

/-- Keccak-f[1600]. -/
def keccakF (a : List Nat) : List Nat := (List.range 24).foldl (fun s i => keccakRound s (fld keccakRc (64 * i) 64)) a

/-- Absorb one block of the rate. -/
def keccakAbsorb (st : List Nat) (block : Bytes) : List Nat :=
  let ws := (chunk 8 block).map leNat
  keccakF (List.zipWith (· ^^^ ·) st (ws ++ List.replicate (25 - ws.length) 0))

/-- The lanes as a byte string. -/
def keccakBytes (st : List Nat) : Bytes := (st.map fun l => natLE l 8).flatten

/-- Squeeze `n` bytes at the given rate. -/
def keccakSqueeze (rate : Nat) : Nat → Nat → List Nat → Bytes
  | 0, _, _ => []
  | fuel + 1, n, st =>
    if n ≤ rate then (keccakBytes st).take n
    else (keccakBytes st).take rate ++ keccakSqueeze rate fuel (n - rate) (keccakF st)

/-! ### The functions by their DIGEST subop (R185) -/

/-- Block size in bytes: the compression block or the rate. -/
def hashBlock (alg : Nat) : Nat :=
  match alg with
  | 0x01 | 0x02 => 64
  | 0x03 | 0x04 | 0x05 => 128
  | 0x11 => 144
  | 0x12 => 136
  | 0x13 => 104
  | 0x14 => 72
  | 0x21 => 168
  | 0x22 => 136
  | _ => 64

/-- Output bytes; 0 for SHAKE, whose length is the request's. -/
def hashLen (alg : Nat) : Nat :=
  match alg with
  | 0x01 => 28
  | 0x02 => 32
  | 0x03 => 48
  | 0x04 => 64
  | 0x05 => 32
  | 0x11 => 28
  | 0x12 => 32
  | 0x13 => 48
  | 0x14 => 64
  | _ => 0

/-- SHA-2 functions have subops below 0x10. -/
def isSha2 (alg : Nat) : Bool := alg < 0x10

/-- Pieces of `n` bits from the low end of a table. -/
def words (n cnt w : Nat) : List Nat := (List.range cnt).map fun i => fld w (n * i) n

/-- The initial state. -/
def hashInit (alg : Nat) : List Nat :=
  match alg with
  | 0x01 => words 32 8 0xbefa4fa464f98fa768581511ffc00b31f70e59393070dd17367cd507c1059ed8
  | 0x02 => words 32 8 0x5be0cd191f83d9ab9b05688c510e527fa54ff53a3c6ef372bb67ae856a09e667
  | 0x03 => words 64 8 0x47b5481dbefa4fa4db0c2e0d64f98fa78eb44a876858151167332667ffc00b31152fecd8f70e59399159015a3070dd17629a292a367cd507cbbb9d5dc1059ed8
  | 0x04 => words 64 8 0x5be0cd19137e21791f83d9abfb41bd6b9b05688c2b3e6c1f510e527fade682d1a54ff53a5f1d36f13c6ef372fe94f82bbb67ae8584caa73b6a09e667f3bcc908
  | 0x05 => words 64 8 0xeb72ddc81c52ca22b0199fc2c85b8aabe5e1e255386399296283ee2a88effe3963877195940eabd2393b86b6f53b1519f555fa3c84c64c222312194fc2bf72c
  | _ => List.replicate 25 0

/-- Absorb one block. -/
def hashStep (alg : Nat) (st : List Nat) (block : Bytes) : List Nat :=
  if isSha2 alg then
    (if hashBlock alg = 64 then sha2w32 else sha2w64).compress st block
  else keccakAbsorb st block

/-- The padded tail of a message of `total` bytes: the padding that R11's standards give. -/
def hashPad (alg total : Nat) : Bytes :=
  let blk := hashBlock alg
  if isSha2 alg then
    let lenB := if blk = 64 then 8 else 16
    let z := (blk - (total + 1 + lenB) % blk) % blk
    [0x80] ++ zeros z ++ natBE (8 * total) lenB
  else
    let dom : Nat := if alg = 0x21 ∨ alg = 0x22 then 0x1F else 0x06
    let r := blk - total % blk
    if r = 1 then [BitVec.ofNat 8 (dom + 0x80)]
    else [BitVec.ofNat 8 dom] ++ zeros (r - 2) ++ [0x80]

/-- The hash of `msg`, continued from state `st` after `before` bytes already absorbed, giving `out` bytes. -/
def hashFrom (alg : Nat) (st : List Nat) (before : Nat) (msg : Bytes) (out : Nat) : Bytes :=
  let full := msg ++ hashPad alg (before + msg.length)
  let fin := (chunk (hashBlock alg) full).foldl (hashStep alg) st
  if isSha2 alg then
    (fin.map fun w => natBE w (if hashBlock alg = 64 then 4 else 8)).flatten.take out
  else keccakSqueeze (hashBlock alg) (out + 1) out fin

/-- The digest of `msg`: `out` bytes for SHAKE, the function's length otherwise. -/
def hash (alg : Nat) (msg : Bytes) (out : Nat := hashLen alg) : Bytes := hashFrom alg (hashInit alg) 0 msg out

/-- SHA-256. -/
def sha256 (msg : Bytes) : Bytes := hash 0x02 msg

end Sys2Proof.Machine
end

