-- ==== Sys2Proof/Machine/Kdf.lean ====
section
/-! DEFINITION. HMAC, HKDF, the SP 800-108 counter-mode KDF, KWP and CTR_DRBG (R11, R159, R168, R173,
R179, R254). -/

namespace Sys2Proof.Machine

/-- The HMAC key brought to one block: hashed first where it is longer (R173), zero-padded. -/
def hmacKey (alg : Nat) (key : Bytes) : Bytes :=
  let k := if key.length > hashBlock alg then hash alg key else key
  k ++ zeros (hashBlock alg - k.length)

/-- The inner and outer states after one absorbed block each (R173). -/
def hmacStates (alg : Nat) (key : Bytes) : List Nat × List Nat :=
  let k := hmacKey alg key
  (hashStep alg (hashInit alg) (k.map (· ^^^ 0x36)), hashStep alg (hashInit alg) (k.map (· ^^^ 0x5C)))

/-- HMAC from the two states (R189). -/
def hmacFrom (alg : Nat) (inner outer : List Nat) (msg : Bytes) : Bytes :=
  let b := hashBlock alg
  hashFrom alg outer b (hashFrom alg inner b msg (hashLen alg)) (hashLen alg)

/-- HMAC. -/
def hmac (alg : Nat) (key msg : Bytes) : Bytes :=
  let s := hmacStates alg key
  hmacFrom alg s.1 s.2 msg

/-- R159: a key derived from the root, SP 800-108 counter mode, one iteration. -/
def rootKdf (root : Bytes) (label : String) (part gen : Nat) : Bytes :=
  hmac 0x02 root ([0, 0, 0, 1] ++ ascii label ++ [0] ++ natBE part 2 ++ natBE gen 2 ++ [0, 0, 1, 0])

/-- HKDF expand (RFC 5869): blocks T(i), `n` of them still to make. -/
def hkdfExpandF (alg : Nat) (prk info : Bytes) : Nat → Nat → Bytes → Bytes
  | 0, _, _ => []
  | n + 1, i, prev =>
    let t := hmac alg prk (prev ++ info ++ [BitVec.ofNat 8 i])
    t ++ hkdfExpandF alg prk info n (i + 1) t

/-- HKDF (R179); an absent salt is the hash length of zero bytes. -/
def hkdf (alg : Nat) (salt : Option Bytes) (ikm info : Bytes) (len : Nat) : Bytes :=
  let prk := hmac alg (salt.getD (zeros (hashLen alg))) ikm
  (hkdfExpandF alg prk info (cdiv len (hashLen alg)) 1 []).take len

/-- SP 800-108 counter mode (R179): K(j) = HMAC(parent, [j] ‖ Label ‖ 00 ‖ Context ‖ [L]). -/
def kdfCtr (alg : Nat) (parent label ctx : Bytes) (len : Nat) : Bytes :=
  ((List.range (cdiv len (hashLen alg))).flatMap fun j =>
    hmac alg parent (natBE (j + 1) 4 ++ label ++ [0] ++ ctx ++ natBE (8 * len) 4)).take len

/-! ### KWP (SP 800-38F) -/

/-- The 48 or so steps of the wrapping function W: `t` the step number, `a` the integrity block, `r` the
semiblocks as a queue. -/
def kwF (rk : List Bytes) : Nat → Nat → Bytes → List Bytes → Bytes × List Bytes
  | 0, _, a, r => (a, r)
  | n + 1, t, a, r =>
    let b := aesEncRk rk (a ++ r.headD [])
    kwF rk n (t + 1) (xorB (b.take 8) (natBE t 8)) (r.drop 1 ++ [b.drop 8])

/-- The inverse steps, `n` down to 1. -/
def kwInvF (rk : List Bytes) : Nat → Bytes → List Bytes → Bytes × List Bytes
  | 0, a, r => (a, r)
  | n + 1, a, r =>
    let b := aesDecRk rk (xorB a (natBE (n + 1) 8) ++ r.getLastD [])
    kwInvF rk n (b.take 8) (b.drop 8 :: r.dropLast)

/-- KWP wrapping. -/
def kwpWrap (kek plain : Bytes) : Bytes :=
  let rk := aesExpand kek
  let a := [0xA6, 0x59, 0x59, 0xA6] ++ natBE plain.length 4
  let p := padTo 8 plain
  if p.length = 8 then aesEncRk rk (a ++ p)
  else
    let r := chunk 8 p
    let o := kwF rk (6 * r.length) 1 a r
    o.1 ++ o.2.flatten

/-- KWP unwrapping: none where the integrity check fails. -/
def kwpUnwrap (kek ct : Bytes) : Option Bytes :=
  if ct.length < 16 ∨ ct.length % 8 ≠ 0 then none
  else
    let rk := aesExpand kek
    let o : Bytes × Bytes :=
      if ct.length = 16 then
        let b := aesDecRk rk ct
        (b.take 8, b.drop 8)
      else
        let r := chunk 8 (ct.drop 8)
        let x := kwInvF rk (6 * r.length) (ct.take 8) r
        (x.1, x.2.flatten)
    let len := beNat (o.1.drop 4)
    let n := o.2.length
    if o.1.take 4 = [0xA6, 0x59, 0x59, 0xA6] ∧ len ≤ n ∧ n < len + 8 ∧ (o.2.drop len).all (· == 0) then
      some (o.2.take len)
    else none

/-! ### CTR_DRBG with AES-256 and the derivation function (SP 800-90A, R254) -/

/-- BCC: the CBC-MAC of a string of whole blocks under `rk`. -/
def bcc (rk : List Bytes) (l : Bytes) : Bytes :=
  (chunk 16 l).foldl (fun a b => aesEncRk rk (xorB a b)) (zeros 16)

/-- The derivation function Block_Cipher_df with 48 bytes of output. -/
def blockDf (input : Bytes) : Bytes :=
  let s := padTo 16 (natBE input.length 4 ++ natBE 48 4 ++ input ++ [0x80])
  let rk := aesExpand ((List.range 32).map fun i => BitVec.ofNat 8 i)
  let t := (List.range 3).flatMap fun i => bcc rk (natBE i 4 ++ zeros 12 ++ s)
  let rk2 := aesExpand (t.take 32)
  let x0 := slice t 32 16
  let x1 := aesEncRk rk2 x0
  let x2 := aesEncRk rk2 x1
  x1 ++ x2 ++ aesEncRk rk2 x2

/-- The DRBG's working state: Key and V. -/
abbrev KV := Bytes × Bytes

/-- V plus `n` modulo 2^128 (all 128 bits count: the model's choice, log 10). -/
def incV (v : Bytes) (n : Nat) : Bytes := natBE ((beNat v + n) % 2 ^ 128) 16

/-- CTR_DRBG_Update with 48 bytes of provided data. -/
def drbgUpdate (s : KV) (data : Bytes) : KV :=
  let rk := aesExpand s.1
  let t := (List.range 3).flatMap fun i => aesEncRk rk (incV s.2 (i + 1))
  let o := xorB t data
  (o.take 32, o.drop 32)

/-- Instantiate (R254): entropy, nonce and personalization. -/
def drbgInstantiate (entropy nonce pers : Bytes) : KV :=
  drbgUpdate (zeros 32, zeros 16) (blockDf (entropy ++ nonce ++ pers))

/-- Reseed (R254). -/
def drbgReseed (s : KV) (entropy add : Bytes) : KV := drbgUpdate s (blockDf (entropy ++ add))

/-- Generate (R254): the bytes and the new state. -/
def drbgGenerate (s : KV) (add : Bytes) (len : Nat) : Bytes × KV :=
  let data := if add.isEmpty then zeros 48 else blockDf add
  let s1 := if add.isEmpty then s else drbgUpdate s data
  let rk := aesExpand s1.1
  let n := cdiv len 16
  let out := ((List.range n).flatMap fun i => aesEncRk rk (incV s1.2 (i + 1))).take len
  (out, drbgUpdate (s1.1, incV s1.2 n) data)

end Sys2Proof.Machine
end

