-- ==== Sys2Proof/Machine/PkLattice.lean ====
section
/-! DEFINITION. ML-KEM and ML-DSA (R211 to R216). The algorithms of FIPS 203 and FIPS 204 are PRESUMED
from general knowledge of the standards that the spec cites (log 9). -/

namespace Sys2Proof.Machine

/-- A polynomial: its coefficients modulo q, 256 of them. -/
abbrev Poly := List Nat

/-- The low `n` bits of x in reverse order. -/
def bitRev : Nat → Nat → Nat
  | 0, _ => 0
  | n + 1, x => (x % 2) * 2 ^ n + bitRev n (x / 2)

/-- A ring: modulus, root of unity, depth of the transform. -/
structure Ntt where
  q     : Nat
  zeta  : Nat
  depth : Nat

def kemR : Ntt := ⟨3329, 17, 7⟩
def dsaR : Ntt := ⟨8380417, 1753, 8⟩

def Ntt.root (r : Ntt) (node : Nat) : Nat := powMod r.zeta (bitRev r.depth node) r.q

/-- The transform of the part of a polynomial at a node of the tree of factors. -/
def Ntt.fwd (r : Ntt) : Nat → Nat → Poly → Poly
  | 0, _, l => l
  | n + 1, node, l =>
    let h := l.length / 2
    let z := r.root node
    let lo := l.take h
    let t := (l.drop h).map fun x => z * x % r.q
    r.fwd n (2 * node) (List.zipWith (fun a b => (a + b) % r.q) lo t)
      ++ r.fwd n (2 * node + 1) (List.zipWith (fun a b => subMod a b r.q) lo t)

def Ntt.bwdF (r : Ntt) : Nat → Nat → Poly → Poly
  | 0, _, l => l
  | n + 1, node, l =>
    let h := l.length / 2
    let z := invMod (r.root node) r.q
    let a := r.bwdF n (2 * node) (l.take h)
    let b := r.bwdF n (2 * node + 1) (l.drop h)
    List.zipWith (fun a b => (a + b) % r.q) a b
      ++ List.zipWith (fun a b => z * subMod a b r.q % r.q) a b

def Ntt.ntt (r : Ntt) (l : Poly) : Poly := r.fwd r.depth 1 l

def Ntt.inv (r : Ntt) (l : Poly) : Poly :=
  let c := invMod (2 ^ r.depth) r.q
  (r.bwdF r.depth 1 l).map fun x => c * x % r.q

def Ntt.add (r : Ntt) (a b : Poly) : Poly := List.zipWith (fun a b => (a + b) % r.q) a b
def Ntt.sub (r : Ntt) (a b : Poly) : Poly := List.zipWith (fun a b => subMod a b r.q) a b

/-- Products of degree-one factors (FIPS 203): pair i modulo X^2 - ζ^(2 bitRev(i) + 1). -/
def kemMulF : Nat → Poly → Poly → Poly
  | i, a0 :: a1 :: a, b0 :: b1 :: b =>
    let g := powMod 17 (2 * bitRev 7 i + 1) 3329
    (a0 * b0 + a1 * b1 % 3329 * g) % 3329 :: (a0 * b1 + a1 * b0) % 3329 :: kemMulF (i + 1) a b
  | _, _, _ => []

def Ntt.mul (r : Ntt) (a b : Poly) : Poly :=
  if r.depth = 7 then kemMulF 0 a b else List.zipWith (fun a b => a * b % r.q) a b

def zeroPoly : Poly := List.replicate 256 0

/-- The inner product of two vectors in the transform domain. -/
def Ntt.dot (r : Ntt) (a b : List Poly) : Poly :=
  (List.zipWith r.mul a b).foldl r.add zeroPoly

def Ntt.matVec (r : Ntt) (m : List (List Poly)) (v : List Poly) : List Poly := m.map fun row => r.dot row v

def transposeN (n : Nat) (m : List (List Poly)) : List (List Poly) :=
  (List.range n).map fun j => m.map fun row => row.getD j zeroPoly

/-! ### Packing -/

/-- Coefficients of d bits each, packed little-endian: 256 coefficients make 32 d bytes. -/
def packBits (d : Nat) (l : Poly) : Bytes :=
  ((chunkN 8 l).map fun c => natLE (c.foldr (fun x a => x % 2 ^ d + 2 ^ d * a) 0) d).flatten
where
  chunkN (n : Nat) (l : List Nat) : List (List Nat) :=
    (List.range (cdiv l.length n)).map fun i => (l.drop (n * i)).take n

/-- The inverse of packBits. -/
def unpackBits (d : Nat) (b : Bytes) : Poly :=
  (chunk d b).flatMap fun c => (List.range 8).map fun i => fld (leNat c) (d * i) d

/-- Polynomials of a byte string of n pieces. -/
def unpackVec (d n : Nat) (b : Bytes) : List Poly :=
  (List.range n).map fun i => unpackBits d (slice b (32 * d * i) (32 * d))

/-! ### Sampling a matrix (R216) -/

/-- The accepted coefficients of an output string, three bytes at a time. -/
def kemAccept : Bytes → List Nat
  | a :: b :: c :: l =>
    let d1 := a.toNat + 256 * (b.toNat % 16)
    let d2 := b.toNat / 16 + 16 * c.toNat
    (if d1 < 3329 then [d1] else []) ++ (if d2 < 3329 then [d2] else []) ++ kemAccept l
  | _ => []

def dsaAccept : Bytes → List Nat
  | a :: b :: c :: l =>
    let z := a.toNat + 256 * b.toNat + 65536 * (c.toNat % 128)
    (if z < 8380417 then [z] else []) ++ dsaAccept l
  | _ => []

/-- A polynomial from SHAKE128 output of `blocks` blocks, more where they do not suffice. -/
def sampleF (accept : Bytes → List Nat) (seed : Bytes) : Nat → Nat → Poly
  | 0, _ => zeroPoly
  | fuel + 1, blocks =>
    let l := accept (hash 0x21 seed (168 * blocks))
    if l.length ≥ 256 then l.take 256 else sampleF accept seed fuel (blocks + 1)

def sample (accept : Bytes → List Nat) (seed : Bytes) : Poly := sampleF accept seed 64 5

/-- Five blocks yield too few coefficients (R216). -/
def shortfall (accept : Bytes → List Nat) (seed : Bytes) : Bool :=
  (accept (hash 0x21 seed (168 * 5))).length < 256

/-- The seeds of a matrix of k rows and l columns, byte order column, row. -/
def matSeeds (rho : Bytes) (k l : Nat) : List (List Bytes) :=
  (List.range k).map fun i => (List.range l).map fun j => rho ++ [BitVec.ofNat 8 j, BitVec.ofNat 8 i]

/-! ### ML-KEM (FIPS 203) -/

structure KemP where
  k    : Nat
  eta1 : Nat
  du   : Nat
  dv   : Nat

/-- Parameter set of a code of R79. -/
def kemP (p : Nat) : KemP := if p = 0x21 then ⟨2, 3, 10, 4⟩ else if p = 0x22 then ⟨3, 2, 10, 4⟩ else ⟨4, 2, 11, 5⟩

def kemMatrix (rho : Bytes) (k : Nat) : List (List Poly) :=
  (matSeeds rho k k).map fun r => r.map (sample kemAccept)

/-- Centred binomial sampling from 64 η bytes. -/
def kemCbd (eta : Nat) (b : Bytes) : Poly :=
  let n := leNat b
  (List.range 256).map fun i =>
    let cnt := fun o => sumBits (fld n (2 * eta * i + o) eta) eta
    subMod (cnt 0) (cnt eta) 3329
where
  sumBits (x n : Nat) : Nat := (List.range n).foldl (fun a j => a + x / 2 ^ j % 2) 0

def kemNoise (eta : Nat) (s : Bytes) (n : Nat) : Poly :=
  kemCbd eta (hash 0x22 (s ++ [BitVec.ofNat 8 n]) (64 * eta))

def compressD (d : Nat) (l : Poly) : Poly := l.map fun x => (2 ^ (d + 1) * x + 3329) / 6658 % 2 ^ d
def decompressD (d : Nat) (l : Poly) : Poly := l.map fun x => (2 * 3329 * x + 2 ^ d) / 2 ^ (d + 1)

/-- ek and dk of the seeds d, z. -/
def kemKeygen (p : Nat) (d z : Bytes) : Bytes × Bytes :=
  let q := kemP p
  let g := hash 0x14 (d ++ [BitVec.ofNat 8 q.k])
  let rho := g.take 32
  let sg := g.drop 32
  let s := (List.range q.k).map fun i => kemR.ntt (kemNoise q.eta1 sg i)
  let e := (List.range q.k).map fun i => kemR.ntt (kemNoise q.eta1 sg (q.k + i))
  let t := List.zipWith kemR.add (kemR.matVec (kemMatrix rho q.k) s) e
  let ek := t.flatMap (packBits 12) ++ rho
  (ek, s.flatMap (packBits 12) ++ ek ++ hash 0x12 ek ++ z)

def kemEncrypt (p : Nat) (ek m r : Bytes) : Bytes :=
  let q := kemP p
  let t := (unpackVec 12 q.k ek).map fun l => l.map (· % 3329)
  let a := kemMatrix (ek.drop (384 * q.k)) q.k
  let y := (List.range q.k).map fun i => kemR.ntt (kemNoise q.eta1 r i)
  let e1 := (List.range q.k).map fun i => kemNoise 2 r (q.k + i)
  let e2 := kemNoise 2 r (2 * q.k)
  let u := List.zipWith (fun x e => kemR.add (kemR.inv x) e) (kemR.matVec (transposeN q.k a) y) e1
  let v := kemR.add (kemR.add (kemR.inv (kemR.dot t y)) e2) (decompressD 1 (unpackBits 1 m))
  u.flatMap (fun x => packBits q.du (compressD q.du x)) ++ packBits q.dv (compressD q.dv v)

def kemDecrypt (p : Nat) (dk c : Bytes) : Bytes :=
  let q := kemP p
  let u := (unpackVec q.du q.k c).map (decompressD q.du)
  let v := decompressD q.dv (unpackBits q.dv (c.drop (32 * q.du * q.k)))
  let s := unpackVec 12 q.k dk
  packBits 1 (compressD 1 (kemR.sub v (kemR.inv (kemR.dot s (u.map kemR.ntt)))))

/-- ct ‖ K. -/
def kemEncaps (p : Nat) (ek m : Bytes) : Bytes :=
  let g := hash 0x14 (m ++ hash 0x12 ek)
  kemEncrypt p ek m (g.drop 32) ++ g.take 32

def kemDecaps (p : Nat) (dk c : Bytes) : Bytes :=
  let k := (kemP p).k
  let ek := slice dk (384 * k) (384 * k + 32)
  let h := slice dk (768 * k + 32) 32
  let z := slice dk (768 * k + 64) 32
  let m := kemDecrypt p dk c
  let g := hash 0x14 (m ++ h)
  if kemEncrypt p ek m (g.drop 32) = c then g.take 32 else hash 0x22 (z ++ c) 32

/-- The modulus check of an ek (R217). -/
def kemEkOk (p : Nat) (ek : Bytes) : Bool := ((unpackVec 12 (kemP p).k ek).all fun l => l.all fun x => decide (x < 3329))

/-- Matrix polynomials for which five blocks fall short. -/
def kemShort (p : Nat) (rho : Bytes) : Nat :=
  let k := (kemP p).k
  ((matSeeds rho k k).flatten.filter (shortfall kemAccept)).length

/-! ### ML-DSA (FIPS 204) -/

structure DsaP where
  k     : Nat
  l     : Nat
  eta   : Nat
  tau   : Nat
  lam   : Nat
  g1    : Nat
  g2    : Nat
  beta  : Nat
  omega : Nat

def dsaP (p : Nat) : DsaP :=
  if p = 0x31 then ⟨4, 4, 2, 39, 128, 2 ^ 17, 95232, 78, 80⟩
  else if p = 0x32 then ⟨6, 5, 4, 49, 192, 2 ^ 19, 261888, 196, 55⟩
  else ⟨8, 7, 2, 60, 256, 2 ^ 19, 261888, 120, 75⟩

def qDsa : Nat := 8380417

def shake256 (m : Bytes) (n : Nat) : Bytes := hash 0x22 m n

def dsaMatrix (rho : Bytes) (k l : Nat) : List (List Poly) :=
  (matSeeds rho k l).map fun r => r.map (sample dsaAccept)

def dsaShort (p : Nat) (rho : Bytes) : Nat :=
  let q := dsaP p
  ((matSeeds rho q.k q.l).flatten.filter (shortfall dsaAccept)).length

/-- Short coefficients of an output string, a nibble each. -/
def boundedAccept (eta : Nat) (b : Bytes) : List Nat :=
  b.flatMap fun x => [x.toNat % 16, x.toNat / 16].filterMap fun z =>
    if eta = 2 then if z < 15 then some (subMod 2 (z % 5) qDsa) else none
    else if z < 9 then some (subMod 4 z qDsa) else none

def boundedF (eta : Nat) (seed : Bytes) : Nat → Nat → Poly
  | 0, _ => zeroPoly
  | fuel + 1, n =>
    let l := boundedAccept eta (shake256 seed (136 * n))
    if l.length ≥ 256 then l.take 256 else boundedF eta seed fuel (n + 1)

def dsaSecret (eta : Nat) (rho : Bytes) (i : Nat) : Poly := boundedF eta (rho ++ natLE i 2) 64 2

/-- r mod± m, as an Int. -/
def modPm (r m : Nat) : Int :=
  let x := r % m
  if 2 * x > m then (x : Int) - m else x

def power2Round (r : Nat) : Nat × Int :=
  let r0 := modPm r 8192
  (((r : Int) - r0).toNat / 8192, r0)

/-- An Int modulo q. -/
def toQ (x : Int) : Nat := (x % (qDsa : Int)).toNat

/-- High part and low part of a coefficient. -/
def decompose (g2 r : Nat) : Nat × Int :=
  let r0 := modPm r (2 * g2)
  if (r : Int) - r0 = (qDsa : Int) - 1 then (0, r0 - 1) else (((r : Int) - r0).toNat / (2 * g2), r0)

def highBits (g2 : Nat) (l : Poly) : Poly := l.map fun r => (decompose g2 r).1

/-- The largest absolute value of a polynomial's centred coefficients. -/
def normQ (l : Poly) : Nat := l.foldl (fun a x => max a (min x (qDsa - x))) 0

/-- Coefficients b - x packed in d bits (BitPack). -/
def packOff (b d : Nat) (l : Poly) : Bytes := packBits d (l.map fun x => subMod b x qDsa)
def unpackOff (b d : Nat) (s : Bytes) : Poly := (unpackBits d s).map fun x => subMod b x qDsa

def DsaP.etaBits (q : DsaP) : Nat := if q.eta = 2 then 3 else 4
def DsaP.g1Bits (q : DsaP) : Nat := if q.g1 = 2 ^ 17 then 18 else 20
def DsaP.w1Bits (q : DsaP) : Nat := if q.g2 = 95232 then 6 else 4

/-- pk and sk of the seed ξ. -/
def dsaKeygen (p : Nat) (xi : Bytes) : Bytes × Bytes :=
  let q := dsaP p
  let g := shake256 (xi ++ [BitVec.ofNat 8 q.k, BitVec.ofNat 8 q.l]) 128
  let rho := g.take 32
  let s1 := (List.range q.l).map fun i => dsaSecret q.eta (slice g 32 64) i
  let s2 := (List.range q.k).map fun i => dsaSecret q.eta (slice g 32 64) (q.l + i)
  let t := List.zipWith (fun x e => dsaR.add (dsaR.inv x) e)
    (dsaR.matVec (dsaMatrix rho q.k q.l) (s1.map dsaR.ntt)) s2
  let t1 := t.map fun l => l.map fun r => (power2Round r).1
  let t0 := t.map fun l => l.map fun r => toQ (power2Round r).2
  let pk := rho ++ t1.flatMap (packBits 10)
  (pk, rho ++ slice g 96 32 ++ shake256 pk 64 ++ (s1 ++ s2).flatMap (packOff q.eta q.etaBits)
    ++ t0.flatMap (packOff 4096 13))

/-- The challenge: places taken one byte at a time. -/
def ballF (signs : Nat) (tau : Nat) : Nat → Nat → Bytes → Poly → Poly
  | 0, _, _, c => c
  | _, _, [], c => c
  | fuel + 1, i, b :: l, c =>
    if i ≥ 256 then c
    else if b.toNat ≤ i then
      let c := c.set i (c.getD b.toNat 0)
      let c := c.set b.toNat (if signs / 2 ^ (i + tau - 256) % 2 = 1 then qDsa - 1 else 1)
      ballF signs tau fuel (i + 1) l c
    else ballF signs tau fuel i l c

def sampleInBall (tau : Nat) (seed : Bytes) : Poly :=
  let s := shake256 seed (136 * 8)
  ballF (leNat (s.take 8)) tau (136 * 8) (256 - tau) (s.drop 8) zeroPoly

/-- The hint in its encoding: positions, then the running count of each polynomial. -/
def hintPack (omega : Nat) (h : List Poly) : Bytes :=
  let pos := h.map fun l => (List.range 256).filter fun i => l.getD i 0 == 1
  let all := pos.flatten
  let cnt := (List.range h.length).map fun i => ((pos.take (i + 1)).map (·.length)).sum
  ((all ++ List.replicate (omega - all.length) 0) ++ cnt).map (BitVec.ofNat 8 ·)

/-- Rising positions. -/
def risingB : List Nat → Bool
  | a :: b :: l => decide (a < b) && risingB (b :: l)
  | _ => true

def hintUnpackF (pos : List Nat) : List Nat → Nat → Option (List Poly)
  | [], i => if (pos.drop i).all (· == 0) then some [] else none
  | c :: l, i =>
    let seg := (pos.drop i).take (c - i)
    if c < i ∨ c > pos.length ∨ !risingB seg then none
    else (hintUnpackF pos l c).map fun r => (List.range 256).map (fun j => if seg.contains j then 1 else 0) :: r

def hintUnpack (omega : Nat) (b : Bytes) : Option (List Poly) :=
  let l := b.map (·.toNat)
  hintUnpackF (l.take omega) (l.drop omega) 0

/-- What one iteration of signing gives: the signature where the candidate is accepted. -/
def dsaTry (q : DsaP) (a : List (List Poly)) (s1 s2 t0 : List Poly) (mu rho2 : Bytes) (kappa : Nat) :
    Option Bytes :=
  let y := (List.range q.l).map fun i =>
    unpackOff q.g1 q.g1Bits (shake256 (rho2 ++ natLE (kappa + i) 2) (32 * q.g1Bits))
  let w := (dsaR.matVec a (y.map dsaR.ntt)).map dsaR.inv
  let w1 := w.map (highBits q.g2)
  let ct := shake256 (mu ++ w1.flatMap (packBits q.w1Bits)) (q.lam / 4)
  let c := dsaR.ntt (sampleInBall q.tau ct)
  let times := fun (v : List Poly) => v.map fun x => dsaR.inv (dsaR.mul c x)
  let z := List.zipWith dsaR.add y (times s1)
  let r := List.zipWith dsaR.sub w (times s2)
  let low := r.map fun l => l.map fun x => toQ (decompose q.g2 x).2
  if z.any (fun l => decide (normQ l ≥ q.g1 - q.beta)) ∨ low.any (fun l => decide (normQ l ≥ q.g2 - q.beta)) then none
  else
    let c0 := times t0
    let h := List.zipWith (fun r t => List.zipWith (fun x u =>
      if (decompose q.g2 x).1 = (decompose q.g2 ((x + u) % qDsa)).1 then 0 else 1) r t) r c0
    if c0.any (fun l => decide (normQ l ≥ q.g2)) ∨ (h.map fun l => l.sum).sum > q.omega then none
    else some (ct ++ z.flatMap (packOff q.g1 q.g1Bits) ++ hintPack q.omega h)

/-- The iterations, at most `fuel`: how many were made, and the signature. -/
def dsaLoop (q : DsaP) (a : List (List Poly)) (s1 s2 t0 : List Poly) (mu rho2 : Bytes) :
    Nat → Nat → Nat × Option Bytes
  | 0, i => (i, none)
  | fuel + 1, i => match dsaTry q a s1 s2 t0 mu rho2 (q.l * i) with
    | some s => (i + 1, some s)
    | none => dsaLoop q a s1 s2 t0 mu rho2 fuel (i + 1)

/-- The message representative of pure ML-DSA. -/
def dsaMu (tr ctx msg : Bytes) : Bytes :=
  shake256 (tr ++ [0, BitVec.ofNat 8 ctx.length] ++ ctx ++ msg) 64

/-- MLDSA_SIGN: iterations and the signature, none after 256 (R215). -/
def dsaSign (p : Nat) (sk ctx msg rnd : Bytes) : Nat × Option Bytes :=
  let q := dsaP p
  let eb := 32 * q.etaBits
  let vec := fun (o n : Nat) => (List.range n).map fun i => dsaR.ntt (unpackOff q.eta q.etaBits (slice sk (o + eb * i) eb))
  let s1 := vec 128 q.l
  let s2 := vec (128 + eb * q.l) q.k
  let o := 128 + eb * (q.l + q.k)
  let t0 := (List.range q.k).map fun i => dsaR.ntt (unpackOff 4096 13 (slice sk (o + 416 * i) 416))
  let mu := dsaMu (slice sk 64 64) ctx msg
  dsaLoop q (dsaMatrix (sk.take 32) q.k q.l) s1 s2 t0 mu (shake256 (slice sk 32 32 ++ rnd ++ mu) 64) 256 0

/-- MLDSA_VERIFY: every failure of the signature answers false (R218). -/
def dsaVerify (p : Nat) (pk ctx msg sig : Bytes) : Bool :=
  let q := dsaP p
  let zb := 32 * q.g1Bits
  let ct := sig.take (q.lam / 4)
  let z := (List.range q.l).map fun i => unpackOff q.g1 q.g1Bits (slice sig (q.lam / 4 + zb * i) zb)
  if sig.length ≠ q.lam / 4 + zb * q.l + q.omega + q.k then false
  else match hintUnpack q.omega (sig.drop (q.lam / 4 + zb * q.l)) with
    | none => false
    | some h =>
      let t1 := (unpackVec 10 q.k (pk.drop 32)).map fun l => dsaR.ntt (l.map fun x => x * 8192 % qDsa)
      let c := dsaR.ntt (sampleInBall q.tau ct)
      let az := dsaR.matVec (dsaMatrix (pk.take 32) q.k q.l) (z.map dsaR.ntt)
      let w := List.zipWith (fun x t => dsaR.inv (dsaR.sub x (dsaR.mul c t))) az t1
      let m := (qDsa - 1) / (2 * q.g2)
      let w1 := List.zipWith (fun h l => List.zipWith (fun b r =>
        let d := decompose q.g2 r
        if b = 0 then d.1 else if d.2 > 0 then (d.1 + 1) % m else (d.1 + m - 1) % m) h l) h w
      let mu := dsaMu (shake256 pk 64) ctx msg
      !(z.any fun l => decide (normQ l ≥ q.g1 - q.beta))
        && shake256 (mu ++ w1.flatMap (packBits q.w1Bits)) (q.lam / 4) == ct

end Sys2Proof.Machine
end

