-- ==== Sys2Proof/Machine/PkEcc.lean ====
section
/-! DEFINITION. The NIST curves: ECDSA with the nonce of RFC 6979, and ECDH (R211 to R214). Curves and
procedures of the standards are PRESUMED (log 9). -/

namespace Sys2Proof.Machine

/-- A short Weierstrass curve with a = -3. -/
structure Curve where
  p  : Nat
  b  : Nat
  gx : Nat
  gy : Nat
  n  : Nat
  f  : Nat
  deriving DecidableEq, Repr

def p256 : Curve where
  p := 0xffffffff00000001000000000000000000000000ffffffffffffffffffffffff
  b := 0x5ac635d8aa3a93e7b3ebbd55769886bc651d06b0cc53b0f63bce3c3e27d2604b
  gx := 0x6b17d1f2e12c4247f8bce6e563a440f277037d812deb33a0f4a13945d898c296
  gy := 0x4fe342e2fe1a7f9b8ee7eb4a7c0f9e162bce33576b315ececbb6406837bf51f5
  n := 0xffffffff00000000ffffffffffffffffbce6faada7179e84f3b9cac2fc632551
  f := 32

def p384 : Curve where
  p := 2 ^ 384 - 2 ^ 128 - 2 ^ 96 + 2 ^ 32 - 1
  b := 0xb3312fa7e23ee7e4988e056be3f82d19181d9c6efe8141120314088f5013875ac656398d8a2ed19d2a85c8edd3ec2aef
  gx := 0xaa87ca22be8b05378eb1c71ef320ad746e1d3b628ba79b9859f741e082542a385502f25dbf55296c3a545e3872760ab7
  gy := 0x3617de4a96262c6f5d9e98bf9292dc29f8f41dbd289a147ce9da3113b5f0b8c00a60b1ce1d7e819d7a431d7c90ea0e5f
  n := 0xffffffffffffffffffffffffffffffffffffffffffffffffc7634d81f4372ddf581a0db248b0a77aecec196accc52973
  f := 48

def p521 : Curve where
  p := 2 ^ 521 - 1
  b := 0x0051953eb9618e1c9a1f929a21a0b68540eea2da725b99b315f3b8b489918ef109e156193951ec7e937b1652c0bd3bb1bf073573df883d2c34f1ef451fd46b503f00
  gx := 0x00c6858e06b70404e9cd9e3ecb662395b4429c648139053fb521f828af606b4d3dbaa14b5e77efe75928fe1dc127a2ffa8de3348b3c1856a429bf97e7e31c2e5bd66
  gy := 0x011839296a789a3bc0045c8a5fb42c7d1bd998f54449579b446817afbd17273e662c97ee72995ef42640c550b9013fad0761353c7086a272c24088be94769fd16650
  n := 0x01fffffffffffffffffffffffffffffffffffffffffffffffffffffffffffffffffa51868783bf2f966b7fcc0148f709a5d03bb5c9b8899c47aebb6fb71e91386409
  f := 66

/-- The curve by its index: 0 P-256, 1 P-384, 2 P-521. -/
def curveOf (i : Nat) : Curve := if i = 0 then p256 else if i = 1 then p384 else p521

/-- A point in Jacobian coordinates; z = 0 at infinity. -/
abbrev JPoint := Nat × Nat × Nat

def Curve.dbl (c : Curve) (a : JPoint) : JPoint :=
  let x := a.1
  let y := a.2.1
  let z := a.2.2
  let p := c.p
  if z = 0 ∨ y = 0 then (1, 1, 0)
  else
    let z2 := z * z % p
    let y2 := y * y % p
    let s := 4 * x * y2 % p
    let m := 3 * subMod x z2 p * (x + z2) % p
    let x3 := subMod (m * m % p) (2 * s) p
    (x3, subMod (m * subMod s x3 p % p) (8 * (y2 * y2 % p)) p, 2 * y * z % p)

def Curve.add (c : Curve) (a b : JPoint) : JPoint :=
  let p := c.p
  if a.2.2 = 0 then b
  else if b.2.2 = 0 then a
  else
    let z1 := a.2.2 * a.2.2 % p
    let z2 := b.2.2 * b.2.2 % p
    let u1 := a.1 * z2 % p
    let u2 := b.1 * z1 % p
    let s1 := a.2.1 * z2 * b.2.2 % p
    let s2 := b.2.1 * z1 * a.2.2 % p
    if u1 = u2 then if s1 = s2 then c.dbl a else (1, 1, 0)
    else
      let h := subMod u2 u1 p
      let r := subMod s2 s1 p
      let h2 := h * h % p
      let h3 := h2 * h % p
      let v := u1 * h2 % p
      let x3 := subMod (r * r % p) (h3 + 2 * v) p
      (x3, subMod (r * subMod v x3 p % p) (s1 * h3) p, h * (a.2.2 * b.2.2 % p) % p)

/-- k·A over the `fuel` low bits of k. -/
def Curve.mulF (c : Curve) : Nat → Nat → JPoint → JPoint → JPoint
  | 0, _, _, acc => acc
  | fuel + 1, k, a, acc => c.mulF fuel (k / 2) (c.dbl a) (if k % 2 = 1 then c.add acc a else acc)

def Curve.mul (c : Curve) (k : Nat) (a : JPoint) : JPoint :=
  if k = 0 then (1, 1, 0) else c.mulF (k.log2 + 1) k a (1, 1, 0)

/-- Affine coordinates; none at infinity. -/
def Curve.affine (c : Curve) (a : JPoint) : Option (Nat × Nat) :=
  if a.2.2 = 0 then none
  else
    let zi := invMod a.2.2 c.p
    let z2 := zi * zi % c.p
    some (a.1 * z2 % c.p, a.2.1 * (z2 * zi % c.p) % c.p)

def Curve.g (c : Curve) : JPoint := (c.gx, c.gy, 1)

def Curve.onCurve (c : Curve) (x y : Nat) : Bool :=
  y * y % c.p == (subMod (x * x % c.p * x % c.p) (3 * x) c.p + c.b) % c.p

/-- The uncompressed SEC 1 point of an affine point (R212). -/
def Curve.encode (c : Curve) (a : Option (Nat × Nat)) : Bytes :=
  match a with
  | none => [0x00]
  | some (x, y) => [0x04] ++ natBE x c.f ++ natBE y c.f

/-- The coordinates of an encoded point. -/
def Curve.coords (c : Curve) (b : Bytes) : Nat × Nat :=
  (beNat (slice b 1 c.f), beNat (slice b (1 + c.f) c.f))

/-- The leftmost bits of a digest as a number, at most the bit length of n (FIPS 186-5). -/
def Curve.bits2int (c : Curve) (b : Bytes) : Nat :=
  let l := c.n.log2 + 1
  if 8 * b.length > l then beNat b / 2 ^ (8 * b.length - l) else beNat b

/-- HMAC_DRBG output of RFC 6979: `n` more blocks. -/
def rfc6979Gen (alg : Nat) (k : Bytes) : Nat → Bytes → Bytes × Bytes
  | 0, v => ([], v)
  | n + 1, v =>
    let v := hmac alg k v
    let r := rfc6979Gen alg k n v
    (v ++ r.1, r.2)

/-- The candidates for the nonce: the first k in [1, n - 1] that gives non-zero r and s (RFC 6979,
section 3.2 step h). `accept` makes the signature of a candidate. -/
def rfc6979F (c : Curve) (alg : Nat) (accept : Nat → Option (Nat × Nat)) :
    Nat → Bytes → Bytes → Nat × Nat
  | 0, _, _ => (0, 0)
  | fuel + 1, k, v =>
    let o := rfc6979Gen alg k (cdiv c.f (hashLen alg)) v
    let x := c.bits2int (o.1.take c.f)
    match (if 1 ≤ x ∧ x < c.n then accept x else none) with
    | some r => r
    | none =>
      let k := hmac alg k (o.2 ++ [0])
      rfc6979F c alg accept fuel k (hmac alg k o.2)

/-- ECDSA_SIGN: r ‖ s over a digest; `extra` the hedge bytes, empty for pure RFC 6979 (R213, R214). -/
def ecdsaSign (c : Curve) (alg : Nat) (d : Nat) (digest extra : Bytes) : Bytes :=
  let e := c.bits2int digest
  let seed := natBE d c.f ++ natBE (e % c.n) c.f ++ extra
  let k0 := zeros (hashLen alg)
  let v0 := List.replicate (hashLen alg) (1 : Byte)
  let k1 := hmac alg k0 (v0 ++ [0] ++ seed)
  let v1 := hmac alg k1 v0
  let k2 := hmac alg k1 (v1 ++ [1] ++ seed)
  let v2 := hmac alg k2 v1
  let accept := fun k => match c.affine (c.mul k c.g) with
    | none => none
    | some (x, _) =>
      let r := x % c.n
      let s := invMod k c.n * ((e + r * d) % c.n) % c.n
      if r = 0 ∨ s = 0 then none else some (r, s)
  let rs := rfc6979F c alg accept 64 k2 v2
  natBE rs.1 c.f ++ natBE rs.2 c.f

/-- ECDSA_VERIFY with a point already found to be on the curve. -/
def ecdsaVerify (c : Curve) (pub digest sig : Bytes) : Bool :=
  let r := beNat (sig.take c.f)
  let s := beNat (sig.drop c.f)
  if sig.length ≠ 2 * c.f ∨ r = 0 ∨ s = 0 ∨ r ≥ c.n ∨ s ≥ c.n then false
  else
    let w := invMod s c.n
    let q := c.coords pub
    let u1 := c.bits2int digest % c.n * w % c.n
    let u2 := r * w % c.n
    match c.affine (c.add (c.mul u1 c.g) (c.mul u2 (q.1, q.2, 1))) with
    | none => false
    | some (x, _) => x % c.n == r

/-- The x-coordinate of d · peer, f bytes. -/
def ecdh (c : Curve) (d : Nat) (peer : Bytes) : Bytes :=
  let q := c.coords peer
  natBE (((c.affine (c.mul d (q.1, q.2, 1))).map (·.1)).getD 0) c.f

/-- The public point of a scalar. -/
def eccPublic (c : Curve) (d : Nat) : Bytes := c.encode (c.affine (c.mul d c.g))

/-! ### Curve25519 -/

def q25519 : Nat := 2 ^ 255 - 19

/-- One Montgomery ladder over the bits of k from bit `n - 1` down (RFC 7748). -/
def ladderF (k u : Nat) : Nat → Nat → Nat → Nat → Nat → Nat → Nat × Nat × Nat × Nat × Nat
  | 0, x2, z2, x3, z3, sw => (x2, z2, x3, z3, sw)
  | n + 1, x2, z2, x3, z3, sw =>
    let p := q25519
    let kt := k / 2 ^ n % 2
    let sw' := sw ^^^ kt
    let x2' := if sw' = 1 then x3 else x2
    let x3' := if sw' = 1 then x2 else x3
    let z2' := if sw' = 1 then z3 else z2
    let z3' := if sw' = 1 then z2 else z3
    let a := (x2' + z2') % p
    let aa := a * a % p
    let b := subMod x2' z2' p
    let bb := b * b % p
    let e := subMod aa bb p
    let da := subMod x3' z3' p * a % p
    let cb := (x3' + z3') * b % p
    let t := (da + cb) % p
    let w := subMod da cb p
    ladderF k u n (aa * bb % p) (e * ((aa + 121665 * e) % p) % p) (t * t % p) (u * (w * w % p) % p) kt

/-- X25519 (RFC 7748): scalar of 32 bytes, u-coordinate of 32 bytes. -/
def x25519 (scalar u : Bytes) : Bytes :=
  let k0 := leNat scalar
  let k := k0 % 2 ^ 255 / 8 * 8 % 2 ^ 254 + 2 ^ 254
  let r := ladderF k (leNat u % 2 ^ 255 % q25519) 255 1 0 (leNat u % 2 ^ 255 % q25519) 1 0
  let x := if r.2.2.2.2 = 1 then r.2.2.1 else r.1
  let z := if r.2.2.2.2 = 1 then r.2.2.2.1 else r.2.1
  natLE (x * invMod z q25519 % q25519) 32

def d25519 : Nat := 37095705934669439343138083508754565189542113879843219016388785533085940283555
def l25519 : Nat := 2 ^ 252 + 27742317777372353535851937790883648493

/-- An Edwards point in extended coordinates x, y, z, t. -/
abbrev EPoint := Nat × Nat × Nat × Nat

def edAdd (a b : EPoint) : EPoint :=
  let p := q25519
  let x := subMod a.2.1 a.1 p * subMod b.2.1 b.1 p % p
  let y := (a.2.1 + a.1) * (b.2.1 + b.1) % p
  let c := 2 * d25519 * a.2.2.2 % p * b.2.2.2 % p
  let d := 2 * a.2.2.1 * b.2.2.1 % p
  let e := subMod y x p
  let f := subMod d c p
  let g := (d + c) % p
  let h := (y + x) % p
  (e * f % p, g * h % p, f * g % p, e * h % p)

def edMulF : Nat → Nat → EPoint → EPoint → EPoint
  | 0, _, _, acc => acc
  | fuel + 1, k, a, acc => edMulF fuel (k / 2) (edAdd a a) (if k % 2 = 1 then edAdd acc a else acc)

def edMul (k : Nat) (a : EPoint) : EPoint :=
  if k = 0 then (0, 1, 1, 0) else edMulF (k.log2 + 1) k a (0, 1, 1, 0)

/-- The x of a y and a sign; none where there is no point (RFC 8032, 5.1.3). -/
def edRecover (y sign : Nat) : Option Nat :=
  let p := q25519
  if y ≥ p then none
  else
    let x2 := subMod (y * y % p) 1 p * invMod ((d25519 * (y * y % p) + 1) % p) p % p
    if x2 = 0 then if sign = 1 then none else some 0
    else
      let x := powMod x2 ((p + 3) / 8) p
      let x := if x * x % p = x2 then x else x * powMod 2 ((p - 1) / 4) p % p
      if x * x % p ≠ x2 then none
      else some (if x % 2 = sign then x else p - x)

def edDecode (b : Bytes) : Option EPoint :=
  let n := leNat b
  let y := n % 2 ^ 255
  if b.length ≠ 32 then none
  else (edRecover y (n / 2 ^ 255)).map fun x => (x, y, 1, x * y % q25519)

def edEncode (a : EPoint) : Bytes :=
  let zi := invMod a.2.2.1 q25519
  let x := a.1 * zi % q25519
  let y := a.2.1 * zi % q25519
  natLE (y + 2 ^ 255 * (x % 2)) 32

def edBase : EPoint :=
  let y := 4 * invMod 5 q25519 % q25519
  let x := (edRecover y 0).getD 0
  (x, y, 1, x * y % q25519)

/-- The clamped scalar of a seed, and its prefix. -/
def edSecret (seed : Bytes) : Nat × Bytes :=
  let h := hash 4 seed
  (leNat (h.take 32) % 2 ^ 254 / 8 * 8 + 2 ^ 254, h.drop 32)

def edPublic (seed : Bytes) : Bytes := edEncode (edMul (edSecret seed).1 edBase)

/-- ED25519_SIGN, the public key recomputed from the seed (R213). -/
def edSign (seed msg : Bytes) : Bytes :=
  let s := edSecret seed
  let pub := edPublic seed
  let r := leNat (hash 4 (s.2 ++ msg)) % l25519
  let rb := edEncode (edMul r edBase)
  let k := leNat (hash 4 (rb ++ pub ++ msg)) % l25519
  rb ++ natLE ((r + k * s.1) % l25519) 32

/-- ED25519_VERIFY with a public key already found decodable: 8SB = 8R + 8kA (RFC 8032, 5.1.7). -/
def edVerify (pub msg sig : Bytes) : Bool :=
  let s := leNat (sig.drop 32)
  match edDecode pub, edDecode (sig.take 32) with
  | some a, some r =>
    if sig.length ≠ 64 ∨ s ≥ l25519 then false
    else
      let k := leNat (hash 4 (sig.take 32 ++ pub ++ msg)) % l25519
      edEncode (edMul 8 (edMul s edBase)) == edEncode (edMul 8 (edAdd r (edMul k a)))
  | _, _ => false

end Sys2Proof.Machine
end

