-- ==== Sys2Proof/Config.lean ====
section
/-! DEFINITION. What an implementation fixes, and the free values: constants without a body.
Nothing can be proved about their values; each is named in notes/assumptions/6.md. -/

namespace Sys2Proof.Config

/-- FREE VALUE (log 6). Every value the spec leaves open that the model needs; the first argument says
which open value it is, the second is the counter `State.free` at the draw. -/
opaque freeNat : Nat → Nat → Nat

/-- dbg_mfr, the static manufacturer tie-off of the debug port (R402, R403). -/
opaque dbgMfr : BitVec 11

/-- FREE VALUE (log 6). The code that record 0x0105 carries for a read mode of the NVM (R369). -/
opaque nvmModeCode : Nat → BitVec 8

end Sys2Proof.Config
end

