-- ==== Sys2Proof/Machine/State.lean ====
section
/-! DEFINITION. The state of the block: plain data, holding everything the spec gives it, its value
right after reset, and the reasons a step could stop. -/

namespace Sys2Proof.Machine

/-- A finite map: pairs of a key and a value, keys strictly rising (see Ops.lean for its operations). -/
abbrev Map (α : Type) := List (Nat × α)

/-! ### Faults and refusals -/

/-- Reasons the machine stops with a fault. The block turns its faults into statuses, retries,
eclipses and modes (R306 to R314), so no meaning raises one. -/
inductive Fault where
  /-- Raised by no meaning: kept so that the type names the one thing a fault could be. Safe. -/
  | none
  deriving DecidableEq, Repr

/-- Reasons a command is refused by the model. -/
inductive Refusal where
  /-- A command that has no meaning yet. Raised by Dispatch.lean alone. Safe. -/
  | notModelled (mnemonic : String)
  deriving DecidableEq, Repr

/-! ### Modes, the block as a whole -/

/-- The eight modes of R361, in the order of their codes. -/
inductive Mode where
  | dormant | charterLoad | seeding | service | reduced | swap | containment | factory
  deriving DecidableEq, Repr

/-- The CONTAINMENT reasons of R365. -/
inductive Reason where
  | none | charterInvalid | firmwareInvalid | decommissioned | entropyFailed | noCapacity | blockFault
  deriving DecidableEq, Repr

/-- The block's own registers, resets, time and alarm outputs. -/
structure Blk where
  mode        : Mode := .dormant
  reason      : Reason := .none
  /-- A cause of CONTAINMENT not yet entered, with the code of the record behind it (R363, R369). -/
  cause       : Option (Reason × Nat) := .none
  lifecycle   : BitVec 2 := 0
  wiped       : Bool := false
  reduced     : Bool := false
  charterCopy : Bool := false
  rpReset     : Bool := true
  rpRdata     : W32 := 0
  rpValid     : Bool := false
  scratch     : List W32 := [0, 0, 0, 0]
  time        : W64 := 0
  tbValid     : Bool := true
  startLoad   : Nat := 0
  startSeed   : Nat := 0
  alFatal     : Bool := false
  alReduced   : Bool := false
  alEntropy   : Bool := false
  mbxWake     : Bool := false
  deriving DecidableEq, Repr

/-! ### The Charter -/

/-- A privilege map entry (R350). -/
structure Priv where
  authority : Nat := 0
  lo        : Nat := 0
  hi        : Nat := 0
  fid       : Nat := 0
  deriving DecidableEq, Repr

/-- A partition table entry (R351). -/
structure PartEntry where
  num         : Nat := 0
  fid         : Nat := 0
  client      : Bool := false
  isSealed    : Bool := false
  pkSingle    : Bool := false
  binary      : Bool := false
  detFallback : Bool := false
  modexp      : Bool := false
  nonceHw     : Bool := false
  nonceLimit  : Bool := false
  prio        : Nat := 0
  streamMask  : Nat := 0
  floor       : Nat := 0
  ceiling     : Nat := 0
  maxRings    : Nat := 0
  maxKeys     : Nat := 0
  ctxSlots    : Nat := 0
  extSlots    : Nat := 0
  algMask     : Nat := 0
  reseedIvl   : Nat := 0
  vecBase     : Nat := 0
  vecCount    : Nat := 0
  latency     : Nat := 0
  rsvKeys     : Nat := 0
  rsvStates   : Nat := 0
  rsvEngines  : Nat := 0
  deriving DecidableEq, Repr

/-- The Charter (R349). -/
structure Charter where
  serial      : Nat := 0
  tickSelect  : Nat := 0
  mgmtThreads : Nat := 2
  entThreads  : Nat := 1
  fwMinSec    : Nat := 0
  powerCeil   : Nat := 0
  readTimeout : Nat := 64
  vaultFid    : Nat := 0
  vaultBase   : Nat := 0
  vaultSize   : Nat := 0
  fwOffset    : Nat := 0
  fwLength    : Nat := 0
  privs       : List Priv := []
  parts       : List PartEntry := []
  deriving DecidableEq, Repr

/-- A firmware image: the header fields of R242 that the block keeps, and the code. -/
structure Image where
  version    : W32 := 0
  security   : Nat := 0
  checkpoint : Nat := 0
  init       : Nat := 0
  code       : Bytes := []
  deriving DecidableEq, Repr

/-- The container being read or judged during CHARTER_LOAD (R354). -/
inductive LoadStage where
  | charterA | fwA | charterB | fwB | done
  deriving DecidableEq, Repr

/-- Root key port, NVM and the loading of the Charter. -/
structure Ldr where
  rkWords    : List W32 := []
  rkTaken    : Bool := false
  root       : Bytes := List.replicate 32 0
  owner      : Bytes := List.replicate 48 0
  nvmStarted : Bool := false
  nvmMode    : Nat := 0
  nvmRead    : NvRead := {}
  nvmSlow    : Bool := false
  /-- The NVM address of the read command on the port, or of the last one; the time at reset release. -/
  nvmAddr    : Nat := 0
  began      : W64 := 0
  stage      : LoadStage := .charterA
  container  : Option Bytes := none
  results    : List Nat := [0, 0, 0, 0]
  tried      : Option Charter := none
  katDone    : Bool := false
  seeded     : Bool := false
  /-- SEEDING ends at this boundary (R360). -/
  seedEnd    : Bool := false
  chosen     : Option Charter := none
  deriving DecidableEq, Repr

/-! ### Requests -/

/-- A completion status and its detail (R91). -/
structure Stat where
  code   : Nat
  detail : Nat
  deriving DecidableEq, Repr

/-- An extension block: its type, its length byte and its 60 body bytes (R67). -/
structure Ext where
  type : Nat
  len  : Nat
  body : Bytes
  resv : Bool := false
  deriving DecidableEq, Repr

/-- A header in F2 terms (R63); an F1 packet is mapped onto it (R95). -/
structure Hdr where
  opcode    : Nat := 0
  fmt       : Nat := 2
  hdrExt    : Nat := 0
  subop     : Nat := 0
  chain     : Bool := false
  irq       : Bool := false
  fence     : Bool := false
  inl       : Bool := false
  ts        : Bool := false
  tag       : W32 := 0
  keyIndex  : Nat := 0
  keyPart   : Nat := 0
  keyGen    : Nat := 0
  srcLen    : Nat := 0
  aadLen    : Nat := 0
  tagLen    : Nat := 0
  ivLen     : Nat := 0
  dstMax    : Nat := 0
  slots     : Nat := 0
  srcGather : Nat := 0
  dstGather : Nat := 0
  src       : Nat := 0
  dst       : Nat := 0
  params    : Bytes := List.replicate 16 0
  exts      : List Ext := []
  /-- F1 only: the gen_check of W2 differs from the low byte of the current generation (R95). -/
  f1GenBad  : Bool := false
  /-- F1 only: the entry counts of R93 are broken. -/
  f1Counts  : Bool := false
  /-- The extension blocks, or the F1 parameter entry, could not be read (R278). -/
  unread    : Bool := false
  deriving DecidableEq, Repr

/-- A gather element (R74). -/
structure Elem where
  addr : Nat
  len  : Nat
  swap : Nat := 0
  deriving DecidableEq, Repr

/-- The saved lane context of a link between segments (R150). -/
structure SavedCtx where
  counter : Bytes := []
  acc     : Nat := 0
  chainV  : Bytes := []
  mask    : Bytes := []
  aadDone : Nat := 0
  ctDone  : Nat := 0
  part    : Bytes := []
  unitNo  : Nat := 0
  unitOff : Nat := 0
  srcOff  : Nat := 0
  dstOff  : Nat := 0
  /-- The spill entry of the backing store that holds the context (R151). -/
  spilled : Option Nat := none
  deriving DecidableEq, Repr

/-- An element of a job's sequence (R205). -/
inductive JElem where
  | batch (cost : Nat)
  | slot
  /-- A slot that is one segment of the hash of the caller's message, with its cost, and whether it is the last (R209). -/
  | hash (cost : Nat) (last : Bool)
  deriving DecidableEq, Repr

/-- The element is a digest slot. -/
def JElem.isSlot : JElem → Bool
  | .batch _ => false
  | _ => true

/-- A public-key job or asymmetric key generation from its preparation to its record (R206). -/
structure Job where
  thread   : Nat
  buffers  : List Nat := []
  dual     : Bool := false
  elems    : List JElem := []
  valid    : Nat := 0
  elemNo   : Nat := 0
  /-- A sealed partition's job, while it is not pinned: the length of its partition's partial window, and the elements with
  their validation batches that it has if it is pinned there (R210). -/
  alt      : Option (Nat × List JElem × Nat) := none
  macu     : Option Nat := none
  regions  : Nat := 1
  held     : List Nat := []
  source   : Bytes := []
  ops      : List Bytes := []
  /-- Material of an extended record (R174), or the private key that a key-generation job made. -/
  extRec   : Bytes := []
  /-- The sequence is known: every random input is drawn (R206). -/
  built    : Bool := false
  /-- Stopped for a retry and wiped: the thread prepares it anew before its first element (R206, R224, R307). -/
  stale    : Bool := false
  /-- The ticks charged (R238), whether this one is not, and the limit. -/
  charged  : Nat := 0
  noCharge : Bool := false
  limit    : Nat := 0
  wiped    : Bool := false
  deriving DecidableEq, Repr

/-- A link of a request and its progress. -/
structure Link where
  hdr        : Hdr := {}
  subIdx     : Nat := 0
  /-- On a stream ring, the bytes of the input frame; 0 for one that is cut or too short (R384). -/
  frame      : Option Nat := none
  fetchTick  : Nat := 0
  /-- The tick whose eligibility cut is the first after the fetch (R118). -/
  cutTick    : Nat := 0
  /-- Payload slots of the packet, as one byte string (R72). -/
  inline     : Bytes := []
  srcElems   : List Elem := []
  dstElems   : List Elem := []
  listsDone  : Bool := false
  staged     : Bool := false
  keySlot    : Option (Nat × Nat × Nat) := none
  /-- Type code of the operating key, its HW_NONCE bit and its instance identifier, taken at staging. -/
  keyType    : Nat := 0
  hwNonce    : Bool := false
  instId     : Nat := 0
  /-- The context's ext_length, taken at staging (R168, R180). -/
  extLen     : Nat := 0
  /-- The key material, and the HMAC states, that the unit or the Orrery loaded when the grant or the preparation began
  (R150, R173, R206). -/
  loaded     : Option Bytes := none
  hloaded    : Option (List Nat × List Nat) := none
  count      : Option Nat := none
  /-- Source bytes held in the read-ahead buffer, from byte 0 of the source, without a gap. -/
  source     : Bytes := []
  chunks     : List (Nat × Bytes) := []
  rdPos      : Nat := 0
  /-- Its next reads wait for room in the read-ahead buffer (R101). -/
  rdWait     : Bool := false
  poisoned   : List (Nat × Nat) := []
  granted    : Bool := false
  pos        : Nat := 0
  seg        : Nat := 0
  lastTick   : Option Nat := none
  /-- The last ordinary segment has run; squeeze permutations done (R192). -/
  absDone    : Bool := false
  squeezed   : Nat := 0
  zeroPos    : Option Nat := none
  ctx        : Option SavedCtx := none
  output     : Bytes := []
  outPos     : Nat := 0
  /-- Output bytes, up to outPos, of a swap unit that the segment boundary splits; they wait for the unit's end (log 16). -/
  unitHold   : Bytes := []
  /-- The tag of an AEAD_SEAL that waits for the payload's writes to be done (R87, log 85). -/
  tagDue     : Option Bytes := none
  stat       : Option Stat := none
  /-- The result is a violation that counts once the records of the links before it are made (R84, R92, log 105). -/
  violDue    : Bool := false
  err        : Option Stat := none
  /-- A read of the link timed out: the link ends at the next eligibility cut (R274). -/
  timedOut   : Bool := false
  retried    : Bool := false
  retryDet   : Nat := 0
  retryUsed  : Bool := false
  retryDue   : Bool := false
  excluded   : List UnitId := []
  /-- The units charged for the fault that the retry answers (R306). -/
  charged    : List UnitId := []
  /-- The units charged for the faults that successful retries answered; counted when the link ends (R308). -/
  healed     : List (List UnitId) := []
  bytesOut   : Nat := 0
  /-- The time-base value sampled for TIMESTAMP, and the instance identifier of a created key (R88). -/
  stamp      : Option W64 := none
  newInst    : Nat := 0
  /-- The first destination byte of an AEAD_OPEN not written when a poisoned beat arrived (R277). -/
  openPoison : Option Nat := none
  /-- A segment number and the tick in which that segment became eligible (R112). -/
  eligAt     : Option (Nat × Nat) := none
  /-- The last segment, batch or slot counted as late (R118). -/
  lateSeg    : Option Nat := none
  /-- The message has waited for an engine and is counted (R200). -/
  engWait    : Bool := false
  /-- The wait of R183 for its count is counted. -/
  keyWait    : Bool := false
  job        : Option Job := none
  /-- The tick in which the Orrery prepares the link's work (R206), and what its draws have given (R177). -/
  prepAt     : Option Nat := none
  drawn      : Bytes := []
  /-- Deterministic fallback of R214 taken. -/
  fallback   : Bool := false
  /-- 0: the link does not wait for entropy; else 1 plus the ticks counted (R258). -/
  entWait    : Nat := 0
  /-- The source was FAILED at the cut that counted the last tick of that wait (R258). -/
  entFailed  : Bool := false
  recorded   : Bool := false
  written    : Bool := false
  deriving DecidableEq, Repr

/-- How far an abort has got with a request (R316). -/
inductive AbortMark where
  | none | stopping
  deriving DecidableEq, Repr

/-- A request: a chain of 1 to 8 links fetched on one ring (R82). -/
structure Req where
  ring      : Nat
  idx       : Nat
  part      : Nat
  /-- Order of fetch over the whole block. -/
  order     : Nat := 0
  links     : List Link := []
  /-- The chain's next link is still to be fetched, since this tick (R85). -/
  openSince : Option Nat := none
  eligTick  : Option Nat := none
  quad      : Option Nat := none
  bufs      : Nat := 0
  arrival   : Nat := 0
  /-- Entries of the ring from its first header to sub_head (R315), and whether an observed abort's range covers it. -/
  behind    : Nat := 0
  inAbort   : Bool := false
  abort     : AbortMark := .none
  stream    : Bool := false
  deriving DecidableEq, Repr

/-! ### Rings -/

/-- Ring states (R40), in the order of their codes. -/
inductive RState where
  | closed | opening | active | held | quarantined | draining
  deriving DecidableEq, Repr

/-- Ring attributes (R38). -/
structure Attr where
  stream   : Bool := false
  fmt      : Nat := 2
  tagged   : Bool := false
  foe      : Bool := false
  log2     : Nat := 8
  pair     : Nat := 0
  irqCount : Nat := 0
  irqTicks : Nat := 0
  vector   : Nat := 0
  sqBase   : Nat := 0
  cqBase   : Nat := 0
  deriving DecidableEq, Repr

/-- A ring that is not CLOSED, or that was closed and reopened (R34 to R53). -/
structure Ring where
  st         : RState := .closed
  owner      : Nat := 0
  attr       : Attr := {}
  subHead    : Nat := 0
  prod       : Nat := 0
  wIdx       : Nat := 0
  cons       : Nat := 0
  flushed    : Bool := false
  abortLate  : Bool := false
  cqStall    : Bool := false
  abortIdx   : Nat := 0
  flushIdx   : Nat := 0
  /-- Aborts written and not yet observed: index and the P0 accepted before the write (R315). -/
  aborts     : List (Nat × Nat) := []
  /-- Ranges observed whose records are not all written (R316). -/
  aborting   : List (Nat × Nat) := []
  /-- Observed aborts whose record 0x0830 is not written: the named index, and whether it came too late. -/
  abortRecs  : List (Nat × Bool) := []
  stallTicks : Nat := 0
  viol       : List Nat := []
  hdrFail    : Option Nat := none
  sinceIrq   : Nat := 0
  irqAge     : Option Nat := none
  pend       : Bool := false
  cached     : Bool := true
  /-- Accepted producer values past sub_head, each with the tick of its acceptance (R117). -/
  pubs       : List (Nat × Nat) := []
  /-- The last boundary's tick in which a failed header was read again (R278). -/
  hdrTick    : Nat := 0
  recFail    : Option Nat := none
  recTick    : Nat := 0
  openCh     : Option Nat := none
  closeCh    : Option Nat := none
  next       : Option Attr := none
  lastHead   : Nat := 0
  frameIdx   : Nat := 0
  submitted  : W64 := 0
  completed  : W64 := 0
  errors     : W64 := 0
  bytes      : W64 := 0
  violations : W32 := 0
  deriving DecidableEq, Repr

/-- All rings (by number), the requests fetched and not yet completed in fetch order, and the next
fetch order number. -/
structure Rng where
  rings : Map Ring := []
  reqs  : List Req := []
  order : Nat := 0
  deriving DecidableEq, Repr

/-! ### Partitions -/

/-- Partition states (R31), in the order of their codes. -/
inductive PState where
  | absent | ready | active | suspended | resetting
  deriving DecidableEq, Repr

/-- A partition's sealed pattern (R116): whole units, and a partial window (unit, start, length). -/
structure Pattern where
  epoch   : Nat := 0
  lanes   : List Nat := []
  laneWin : Option (Nat × Nat × Nat) := none
  engines : List Nat := []
  macus   : List Nat := []
  macuWin : Option (Nat × Nat × Nat) := none
  deriving DecidableEq, Repr

/-- A function-level reset sequence under way (R318). -/
structure Flr where
  /-- It ends in ABSENT, with a new generation (R31); the mailbox channels that wait for it. -/
  destroy  : Bool := false
  chans    : List Nat := []
  /-- Steps 7 and 9, made at the boundary, are done. -/
  boundary : Bool := false
  /-- Every step is done; a destruction waits for its partition record. -/
  seqDone  : Bool := false
  /-- That record's write is made. -/
  wrote    : Bool := false
  deriving DecidableEq, Repr

/-- A key generation rotation taken and not yet replied to (R162): its mailbox channel, whether it has reached its commit
point, and how far it is from there. -/
structure Rot where
  ch        : Nat
  committed : Bool := false
  stage     : Nat := 0
  deriving DecidableEq, Repr

/-- A partition-record write not yet acknowledged (R161). -/
structure RecWrite where
  gen    : Nat
  spent  : Bool
  /-- The tick of the first failure and of the last; the write has been issued again since. -/
  failed : Option Nat := none
  tick   : Nat := 0
  again  : Bool := false
  deriving DecidableEq, Repr

/-- A partition's telemetry counters (R423). -/
structure PTel where
  requests : W64 := 0
  errors   : W64 := 0
  retried  : W64 := 0
  grants   : W64 := 0
  clocks   : List W64 := [0, 0, 0]
  violations : W64 := 0
  borrowed : List W64 := [0, 0, 0]
  lent     : List W64 := [0, 0, 0]
  unrun    : W64 := 0
  bytes    : List W64 := List.replicate 16 0
  latency  : List W64 := List.replicate 16 0
  deriving DecidableEq, Repr

/-- A listed partition (R29 to R34, R110). -/
structure Part where
  entry     : PartEntry := {}
  st        : PState := .absent
  gen       : Nat := 0
  hello     : Bool := false
  suspMgmt  : Bool := false
  suspBme   : Bool := false
  mbxVer    : Nat := 0
  fmtMask   : Nat := 0
  ringLimit : Nat := 0
  keyLimit  : Nat := 0
  floor     : Nat := 0
  ceiling   : Nat := 0
  feff      : List Nat := [0, 0, 0]
  feffNext  : List Nat := [0, 0, 0]
  shareNext : Option (Nat × Nat) := none
  digestCut : Bool := false
  segShift  : Nat := 0
  lentLast  : Nat := 0
  borrLast  : Nat := 0
  late      : Nat := 0
  /-- The keys in a sealed partition's slots, index and generation, at the cut of a tick: of the last cut, and of those in
  which a request arrived that is still to come or to end (R117). -/
  resid     : List (Nat × List (Nat × Nat)) := []
  pattern   : Option Pattern := none
  drbgWin   : Option (Nat × Nat) := none
  flr       : Option Flr := none
  /-- BME_CLEAR has come: the partition is flushed at the coming boundary (R282). -/
  flush     : Bool := false
  rot       : Option Rot := none
  recWrite  : Option RecWrite := none
  dc        : List Nat := [0, 0, 0]
  used      : List Nat := [0, 0, 0]
  borrowed  : List Nat := [0, 0, 0]
  shapeDone : Nat := 0
  shapeLate : Nat := 0
  shapeCost : Nat := 0
  shapeSegs : Nat := 0
  tel       : PTel := {}
  telPub    : PTel := {}
  deriving DecidableEq, Repr

/-- The partitions the Charter lists, by number, and the functions whose bus master enable is set
(R364, R396). -/
structure Prt where
  parts   : Map Part := []
  bme     : List Nat := []
  /-- Functions whose BME_SET takes effect at the coming boundary (R396). -/
  bmeNext : List Nat := []
  /-- Functions with a BME_CLEAR and no BME_SET since (R282); for the Vault's function that is what stops it. -/
  bmeOff  : List Nat := []
  deriving DecidableEq, Repr

/-! ### Keys -/

/-- Which write of a ledger entry is outstanding (R183). -/
inductive LedgerWhy where
  | staging | use | evict
  deriving DecidableEq, Repr

/-- A ledger write in progress: its value, the tick in which it failed, whether it is already the repeat. -/
structure LedgerWrite where
  why    : LedgerWhy
  value  : Nat
  failed : Option Nat := none
  again  : Bool := false
  deriving DecidableEq, Repr

/-- An unwrapped key cache slot (R171): tag, context plaintext of 248 bytes, L and D. -/
structure KSlot where
  no      : Nat := 0
  part    : Nat
  index   : Nat
  gen     : Nat
  ctx     : Bytes
  next    : Nat := 0
  acked   : Nat := 0
  write   : Option LedgerWrite := none
  useTick : Nat := 0
  unusable : Bool := false
  deriving DecidableEq, Repr

/-- A digest key-state slot (R173): the hash states after the inner and the outer key block. -/
structure HSlot where
  no    : Nat := 0
  part  : Nat
  index : Nat
  gen   : Nat
  hash  : Nat
  inner : List Nat
  outer : List Nat
  useTick : Nat := 0
  deriving DecidableEq, Repr

/-- The derived keys of a partition (R159). -/
structure Derived where
  ctx : Bytes
  imp : Bytes
  ldg : Bytes
  recd : Bytes
  deriving DecidableEq, Repr

/-- A ledger entry (R182). -/
structure LEntry where
  value : Nat := 0
  live  : Bool := false
  clean : Bool := false
  ext   : Bool := false
  deriving DecidableEq, Repr

/-- A ledger page as the block last verified or wrote it (R181). -/
structure LPage where
  part    : Nat
  page    : Nat
  seq     : Nat := 0
  liveCnt : Nat := 0
  entries : Map LEntry := []
  bad     : Bool := false
  deriving DecidableEq, Repr

/-- What a write of a ledger page changes (R176, R180, R183): an entry's value and clean bit, a new entry with its
extended bit, an entry that is no longer live, page 0's live count. -/
inductive PageUpd where
  | value (i v : Nat) (clean : Bool)
  | create (i : Nat) (ext : Bool)
  | retire (i : Nat)
  | count (up : Bool)
  deriving DecidableEq, Repr

/-- A partition record as last read or written (R160). -/
structure PRec where
  gen   : Nat := 0
  spent : Bool := false
  seq   : Nat := 0
  deriving DecidableEq, Repr

/-- A creation or retirement in its Vault steps (R176, R180): the sealed extended record and context to
write, the step outstanding (1 record, 2 context, 3 ledger; 4 ledger, 5 zeros), whether a write of it failed again. -/
structure VJob where
  id      : LinkId
  part    : Nat
  index   : Nat
  retire  : Bool
  ctx     : Bytes := []
  ext     : Option Bytes := none
  step    : Nat := 0
  bad     : Bool := false
  /-- The quadrant whose key-staging unit makes the writes (R414). -/
  quad    : Nat := 0
  deriving DecidableEq, Repr

/-- What a write is for. -/
inductive WPurpose where
  | data (id : LinkId) (elem : Nat)
  | bad (id : LinkId)
  | record (id : LinkId) (irq : Bool)
  | vault (id : LinkId)
  | ledger (part index : Nat)
  | partRec (part : Nat)
  | sdma (n k : Nat)
  | message (ch : Nat)
  | spill
  deriving DecidableEq, Repr

/-- A write of a ledger page under way (R181): the page is read and verified, then changed and written; writes of one page
follow each other. -/
structure PageOp where
  part    : Nat
  page    : Nat
  why     : WPurpose
  upds    : List PageUpd
  /-- The page's read is made; the parts that arrived, with their offsets; the page has passed its check; the write is
  made. -/
  started : Bool := false
  got     : List (Nat × Bytes) := []
  good    : Option LPage := none
  wrote   : Bool := false
  /-- The read failed and is made again at the next boundary; it is the repeat. -/
  held    : Bool := false
  again   : Bool := false
  deriving DecidableEq, Repr

/-- The key-staging units, the Vault and the usage ledger. -/
structure KeyU where
  slots       : List KSlot := []
  hslots      : List HSlot := []
  derived     : Map Derived := []
  pages       : List LPage := []
  pageOps     : List PageOp := []
  records     : Map PRec := []
  jobs        : List VJob := []
  base        : Nat := 0
  usedPages   : Nat := 0
  ledgerWaits : Nat := 0
  tagFails    : Nat := 0
  uncorr      : Nat := 0
  /-- Single-bit errors corrected in the caches and stores (R175); no register shows the count. -/
  corrected   : Nat := 0
  deriving DecidableEq, Repr

/-! ### Units of the data hierarchy -/

/-- Who asked for an eclipse that waits for the unit to give up its state (R310, R311). -/
inductive EclWhy where
  | threshold | management | selfTest
  deriving DecidableEq, Repr

/-- What every lane, engine, MACU, quadrant, Orrery core and DRBG core has of fault handling and
telemetry. -/
structure UnitSt where
  ecl     : Bool := false
  eclPend : Option EclWhy := none
  /-- It leaves service at this boundary: it holds no state (R310, R311). -/
  eclDue  : Bool := false
  /-- In its self-test tick; the coming tick is its self-test tick; the test's result (R309). -/
  inTest  : Bool := false
  atCut   : Bool := false
  tested  : Option Bool := none
  /-- Due for a self-test tick, after a failed retry; the fault detail its held work would take; exercises to
  answer. -/
  due     : Bool := false
  dueRetry : Bool := false
  dueDet  : Nat := 0
  exer    : List Nat := []
  exPass  : Bool := false
  hist    : List Nat := []
  ecc1    : Nat := 0
  ecc2    : Nat := 0
  busy    : W64 := 0
  segs    : W64 := 0
  trans   : W32 := 0
  stPass  : Nat := 0
  stFail  : Nat := 0
  /-- Busy clocks of the tick in progress. -/
  busyNow : Nat := 0
  pubBusy : W64 := 0
  pubSegs : W64 := 0
  pubTrans : W32 := 0
  pubPass : Nat := 0
  pubFail : Nat := 0
  deriving DecidableEq, Repr

/-- A cipher lane (R157). -/
structure Lane where
  u      : UnitSt := {}
  paired : Bool := false
  deriving DecidableEq, Repr

/-- A digest engine (R199): the bound link and the tick of its first grant. -/
structure Engine where
  u        : UnitSt := {}
  bound    : Option LinkId := none
  part     : Nat := 0
  bindTick : Nat := 0
  deriving DecidableEq, Repr

/-- A MACU (R201, R227). -/
structure Macu where
  u       : UnitSt := {}
  acc     : BitVec 576 := 0
  vec     : List W64 := List.replicate 16 0
  mem     : Map (BitVec 256) := []
  /-- The load and store queues: words with the job they belong to. -/
  loadQ   : List (LinkId × BitVec 256) := []
  storeQ  : List (LinkId × BitVec 256) := []
  regions : List (Option LinkId) := [none, none, none, none]
  /-- In DUAL use in the last tick, and in this one (R227). -/
  dualUse : Bool := false
  dualNow : Bool := false
  /-- The batch in progress: its job's regions bound the addresses (R204); and the clock in which it, or the last one,
  started. -/
  batch   : Option LinkId := none
  batchAt : Option Nat := none
  deriving DecidableEq, Repr

/-- What the leader of a DUAL command shifted out or stored, kept until the follower's words are compared with it (R222). -/
structure Compare where
  id    : LinkId
  lead  : Nat
  words : List (BitVec 256)
  /-- The free value of the leader's command, which is the follower's too (log 6). -/
  free  : Nat := 0
  deriving DecidableEq, Repr

/-- A quadrant's shared resources. -/
structure Quad where
  u      : UnitSt := {}
  gated  : Bool := false
  /-- Ticks in a row without activity, and whether it had a grant in this tick (R122). -/
  idle   : Nat := 0
  active : Bool := false
  deriving DecidableEq, Repr

/-- The units of the data hierarchy. -/
structure Dat where
  lanes   : List Lane := List.replicate 16 {}
  engines : List Engine := List.replicate 32 {}
  macus   : List Macu := List.replicate 16 {}
  quads   : List Quad := List.replicate 4 {}
  /-- The words that the comparators of the MACU pairs hold, oldest first (R201, R222). -/
  compare : List Compare := []
  deriving DecidableEq, Repr

/-! ### Scheduler -/

/-- A grant (R20, R429). -/
structure Grant where
  unit    : UnitId
  pair    : Bool := false
  part    : Nat
  id      : LinkId
  seg     : Nat
  cost    : Nat
  start   : Nat := 0
  len     : Nat := 0
  squeeze : Nat := 0
  last    : Bool := false
  win     : Bool := false
  retry   : Bool := false
  lending : Bool := false
  zero    : Bool := false
  slot    : Bool := false
  /-- A DUAL batch in slot 1, whose leader runs on the odd MACU (R208). -/
  odd     : Bool := false
  /-- The second engine of a DUAL digest slot or message hash (R209). -/
  follow  : Bool := false
  /-- A further segment of a message on the engine bound to it, which its binding charges (R109). -/
  cont    : Bool := false
  deriving DecidableEq, Repr

/-- The Scheduler and the policy loop. -/
structure Sch where
  tick       : Nat := 0
  cutDone    : Bool := false
  epochDone  : Bool := false
  plan       : List Grant := []
  running    : List Grant := []
  decisions  : Nat := 0
  discarded  : Nat := 0
  laneCap    : Nat := 16
  estimate   : Nat := 0
  winSum     : Nat := 0
  winTicks   : Nat := 0
  below90    : Nat := 0
  calmWins   : Nat := 0
  shapeTicks : Nat := 0
  digestWait : Nat := 0
  waitEvents : Nat := 0
  unplaced   : Nat := 0
  /-- A segment of the last cut was left ungranted for lack of a unit (R122). -/
  lack       : Bool := false
  fallback   : Nat := 0
  recompute  : Bool := false
  retryTrans : Nat := 0
  retryFail  : Nat := 0
  stPassed   : Nat := 0
  stFailed   : Nat := 0
  energy     : W64 := 0
  gatedTicks : W64 := 0
  cappedTicks : W64 := 0
  residency  : List W64 := List.replicate 8 0
  telTick    : Nat := 0
  pubEnergy  : W64 := 0
  pubGated   : W64 := 0
  pubCapped  : W64 := 0
  pubRecords : W64 := 0
  pubResid   : List W64 := List.replicate 8 0
  deriving DecidableEq, Repr

/-! ### Orrery -/

/-- What a blocked thread waits on (R235, R236). -/
inductive WaitOn where
  | chanRead (ch : Nat)
  | chanWrite (ch : Nat)
  | port (p : OryPort)
  | join (t : Nat)
  deriving DecidableEq, Repr

/-- Thread states. -/
inductive TState where
  | ended | running | blocked (w : WaitOn)
  deriving DecidableEq, Repr

/-- What a group works for (R237). -/
inductive Work where
  | idle
  | request (id : LinkId)
  | message (ch : Nat)
  | control
  deriving DecidableEq, Repr

/-- An Orrery thread. -/
structure Thread where
  st      : TState := .ended
  stopped : Bool := false
  root    : Nat := 0
  entry   : Nat := 0
  work    : Work := .idle
  /-- Charged ticks of the group (R238), and the cuts in a row at which it was in closed wait (R237). -/
  charged : Nat := 0
  closedCuts : Nat := 0
  /-- The tick in which it blocked. -/
  since   : Nat := 0
  /-- What its last read of a channel or a store queue returned (R235, R236). -/
  got     : List W64 := []
  /-- The result of its last fork: none where that failed (R234). -/
  forked  : Option (Option Nat) := none
  /-- Elements of its job whose end its reads have returned (R235). -/
  seen    : Nat := 0
  deriving DecidableEq, Repr

/-- A hardware channel (R236). -/
structure Chan where
  reader  : Nat := 0
  writers : List Nat := []
  msgs    : List (List W64) := []
  staged  : Map (List W64) := []
  deriving DecidableEq, Repr

/-- An Orrery core. -/
structure Core where
  u     : UnitSt := {}
  awake : Bool := false
  idle  : Nat := 0
  regs  : List W64 := List.replicate 64 0
  deriving DecidableEq, Repr

/-- The Orrery. -/
structure Ory where
  threads    : List Thread := List.replicate 64 {}
  chans      : Map Chan := []
  cores      : List Core := List.replicate 4 {}
  /-- Shared memory: 2 MiB, as bytes that are not zero, addresses strictly rising. -/
  shmem      : Map Byte := []
  /-- Owner thread of each buffer taken. -/
  buffers    : Map Nat := []
  /-- The seats of static threads that are not at home: home thread and seat (R311, R313). -/
  statics    : Map Nat := []
  bankA      : Option Image := none
  bankB      : Option Image := none
  bankAct    : Bool := false
  stageRes   : Nat := 0
  /-- A staged image under verification: the channel, its bytes, and the thread that read it (R243). -/
  staging    : Option (Nat × Bytes × Nat) := none
  /-- The FW_SWAP accepted, how far it is (see Swap.lean), the tick of that, and whether init finished (R244). -/
  swapCh     : Option Nat := none
  swapStage  : Nat := 0
  swapTick   : Nat := 0
  swapOk     : Bool := false
  /-- The control thread's checkpoint while it runs init (R244). -/
  initSave   : Option Thread := none
  closedWait : Nat := 0
  timeLimit  : Nat := 0
  quiesce    : Nat := 0
  forkFail   : Nat := 0
  hold       : Bool := false
  deriving DecidableEq, Repr

/-! ### Scintilla and DRBG -/

/-- Scintilla's states (R267), in the order of their codes. -/
inductive ScnState where
  | off | startup | running | pause | retest | failed
  deriving DecidableEq, Repr

/-- DRBG instance states (R268), in the order of their codes. -/
inductive InstState where
  | uninst | waiting | seeded | reseedWait
  deriving DecidableEq, Repr

/-- A DRBG instance: CTR_DRBG Key and V (R254). -/
structure Inst where
  st      : InstState := .uninst
  key     : Bytes := List.replicate 32 0
  v       : Bytes := List.replicate 16 0
  calls   : Nat := 0
  reseeds : Nat := 0
  deriving DecidableEq, Repr

/-- Kinds of DRBG work (R259). -/
inductive ItemKind where
  | instantiate | generate | reseed | prGenerate | uninstantiate | ahead
  deriving DecidableEq, Repr

/-- An item on a DRBG core: the instance, the link it serves, its additional input and output length, the
entropy blocks it received, the clocks left after those planned, and the tick of its last clock once that is
planned (R259 to R262). -/
structure Item where
  kind   : ItemKind
  inst   : Nat
  who    : Option LinkId := none
  add    : Bytes := []
  n      : Nat := 0
  /-- The bytes its function returns, from its placement on. -/
  out    : Bytes := []
  left   : Nat := 0
  /-- The ticks of its first and last clocks. -/
  first  : Nat := 0
  last   : Option Nat := none
  window : Bool := false
  deriving DecidableEq, Repr

/-- A DRBG AES core (R259): its items, and its busy clocks of this tick and the next. -/
structure DCore where
  u     : UnitSt := {}
  items : List Item := []
  busy  : Nat := 0
  next  : Nat := 0
  /-- The tick in which its eclipse was accepted (R311). -/
  eclTick : Nat := 0
  deriving DecidableEq, Repr

/-- Scintilla, the entropy buffer and the instances. -/
structure Ent where
  scn       : ScnState := .off
  lastTest  : Nat := 0
  lastOsc   : Nat := 0
  failTick  : Nat := 0
  lasting   : Nat := 0
  transient : Nat := 0
  windows   : Nat := 0
  retestBad : Bool := false
  /-- The first tick of the window or retest in progress. -/
  winTick   : Nat := 0
  /-- UNIT_EXERCISE of the source: the channel to answer, and whether the window that answers it has begun. -/
  exercise  : List (Nat × Bool) := []
  /-- The tick in which the first of them was accepted (R251). -/
  exerTick  : Nat := 0
  /-- The failure that led to the pause: its test and oscillator (R266). -/
  failTest  : Nat := 0
  failOsc   : Nat := 0
  /-- Each oscillator's run of equal bits at the end of the last window, where no pause followed: the bit and the length (R249). -/
  runs      : List (Bool × Nat) := []
  /-- Blocks of the window in progress that a flush removed from staging (R248, R265). -/
  flushed   : Nat := 0
  /-- Instances zeroized whose Uninstantiate has not run on a core yet (R255, R259). -/
  drops     : List Nat := []
  /-- The block-internal key drawn from instance 1,026 (R151, R253). -/
  spillKey  : Bytes := []
  buffer    : List Bytes := []
  waiting   : Nat := 0
  testEn    : Bool := false
  testSeed  : W32 := 0
  patSeed   : W32 := 0
  patCount  : Nat := 0
  insts     : Map Inst := []
  cores     : List DCore := List.replicate 2 {}
  sealedCnt : Nat := 0
  deriving DecidableEq, Repr

/-! ### Fabric, streams, service DMA -/

/-- What a tag-level read is for. -/
inductive RPurpose where
  | source (id : LinkId) (off : Nat)
  | sdma (n : Nat) (off : Nat)
  | restore (id : LinkId)
  | page (part page : Nat)
  /-- An access of a string that one command reads whole, at this offset of the string (log 4). -/
  | whole (off : Nat)
  deriving DecidableEq, Repr

/-- A read access (R375): `gen` none while it waits for a tag. -/
structure FRead where
  idx     : Nat := 0
  gen     : Nat := 0
  issued  : Bool := false
  addr    : Nat
  len     : Nat
  fid     : Nat
  cls     : Nat
  vault   : Bool := false
  purpose : RPurpose
  discard : Bool := false
  deriving DecidableEq, Repr

/-- A write access with its data, from its making to its response (R376, R377). -/
structure FWrite where
  idx     : Nat := 0
  gen     : Nat := 0
  issued  : Bool := false
  addr    : Nat
  data    : Bytes
  fid     : Nat
  cls     : Nat
  /-- The 64-byte lines of the access that carry the poison attribute (R277, R377). -/
  poison  : List Nat := []
  purpose : WPurpose
  /-- Given up under R319: its response is discarded when it comes. -/
  given   : Bool := false
  /-- A record or Vault write that failed, until a boundary at which it is issued again; one that is a repeat
  (R176, R180, R281). -/
  held    : Bool := false
  again   : Bool := false
  deriving DecidableEq, Repr

/-- A memory fabric port (R374, R288). -/
structure Port where
  reads  : List FRead := []
  writes : List FWrite := []
  quar   : List Nat := []
  rdGen  : Map Nat := []
  wrGen  : Map Nat := []
  late   : Nat := 0
  tmo    : Nat := 0
  pois   : Nat := 0
  bus    : Nat := 0
  /-- Data beats of this tick (R123). -/
  beats  : Nat := 0
  deriving DecidableEq, Repr

/-- An input frame being received (R383). -/
structure InFrame where
  ring : Nat
  data : Bytes := []
  tooLong : Bool := false
  deriving DecidableEq, Repr

/-- An output frame, of the link whose record it carries (R386). -/
structure OutFrame where
  id   : LinkId
  data : Bytes
  irq  : Bool := false
  deriving DecidableEq, Repr

/-- A beat of an output port: the valid bytes of its data, and the signals beside it (R382). -/
structure OutBeat where
  data : Bytes
  sop  : Bool
  eop  : Bool
  bv   : Nat
  ring : Nat
  deriving DecidableEq, Repr

/-- A stream pair (R382 to R386): the input frame being received, the output frames ready, the last one sent, and the
pauses of its output (R286). -/
structure Stream where
  inp       : Option InFrame := none
  out       : List OutFrame := []
  last      : Option OutFrame := none
  /-- The beats of the frame sent last, as they crossed the port (R382, R383). -/
  sent      : List OutBeat := []
  inHeld    : Bool := false
  /-- Beats are dropped up to the next sop (R58). -/
  lost      : Bool := false
  paused    : Bool := false
  pauseTick : Nat := 0
  pauseTime : W64 := 0
  longDone  : Bool := false
  pauses    : Nat := 0
  long      : Nat := 0
  /-- Beats of this tick, input and output (R123). -/
  beats     : Nat := 0
  deriving DecidableEq, Repr

/-- A service DMA descriptor (R291), or the one transfer of single mode; `addr` is the descriptor's own place. -/
structure Desc where
  src      : Nat
  dst      : Nat
  len      : Nat
  last     : Bool := true
  barrier  : Bool := false
  swap     : Nat := 0
  srcSpace : Nat := 0
  dstSpace : Nat := 0
  resv     : Bool := false
  raw      : Nat := 0
  bad      : Bool := false
  cause    : Nat := 0
  done     : Nat := 0
  addr     : Nat := 0
  deriving DecidableEq, Repr

/-- A service DMA channel (R289 to R294): its registers, the list read whole from fabric memory, the descriptor in
progress with the bytes that its reads brought, and those it has run. -/
structure Sdma where
  setup    : SdmaSetup := ⟨0, 0, 0, false, false, 0, 0, 0, false, 0⟩
  busy     : Bool := false
  abort    : Bool := false
  done     : Bool := false
  error    : Bool := false
  cause    : Nat := 0
  bad      : Nat := 0
  progress : Nat := 0
  list     : Bytes := []
  cur      : Option Desc := none
  got      : List (Nat × Bytes) := []
  old      : List Desc := []
  /-- No further descriptor runs; the next one waits for the writes of the last (BARRIER). -/
  ended    : Bool := false
  barrier  : Bool := false
  deriving DecidableEq, Repr

/-- Data movement. -/
structure Mov where
  ports   : List Port := List.replicate 8 {}
  /-- The model's own field: the accesses, with their tags, that the last command which reads whole strings made and
  had answered (log 4). -/
  made    : List FRead := []
  /-- The model's own field: the read data that answered them, beats under the 16-bit tag (R273, R374; log 4). -/
  heard   : List (Nat × List ReadBeat) := []
  timeout : Nat := 64
  streams : List Stream := List.replicate 4 {}
  sdma    : Map Sdma := []
  deriving DecidableEq, Repr

/-! ### Mailboxes -/

/-- Channel states (R328), in the order of their codes. -/
inductive CState where
  | idle | pending | busy | done | aborted | rejected
  deriving DecidableEq, Repr

/-- A mailbox channel (R328). -/
structure Mbx where
  down      : List W32 := List.replicate 16 0
  msg       : List W32 := List.replicate 16 0
  up        : List W32 := List.replicate 16 0
  st        : CState := .idle
  notify    : Bool := false
  applied   : Bool := false
  /-- The message's outcome is notified under R333: version 1, or started by MB_DB_DOWN before the first HELLO. -/
  compat    : Bool := false
  dbUp      : BitVec 4 := 0
  dbMask    : W32 := 0
  completed : Nat := 0
  refused   : Nat := 0
  aborts    : Nat := 0
  order     : Nat := 0
  /-- The reply words after word 0, once they are known (R329, R331). -/
  reply     : Option (List W32) := none
  deriving DecidableEq, Repr

/-- Management work waiting for its commit or its reply (R336). -/
inductive Mgmt where
  | quota (ch part mask f g rings keys : Nat) (susp : Bool)
  | destroy (ch part : Nat)
  | reset (ch part : Nat)
  | snapshot (ch scope object dst : Nat)
  | copying (ch : Nat) (w2 w3 w4 : W32) (failed : Bool)
  /-- An EPHEMERIS_READ whose records from seq `next` up to, not with, `stop` are still to be copied (R419). -/
  | reading (ch first next stop dst : Nat) (failed : Bool)
  | rotate (ch part : Nat)
  | restore (u : UnitId)
  deriving DecidableEq, Repr

/-- The mailboxes. -/
structure Mbxs where
  chans : Map Mbx := []
  work  : List Mgmt := []
  /-- The next acceptance's number; acceptances before the last boundary have lower numbers than `mark`. -/
  order : Nat := 0
  mark  : Nat := 0
  deriving DecidableEq, Repr

/-! ### Interrupts, function control, power, debug -/

/-- A pending interrupt message (R392). -/
structure IrqMsg where
  fid    : Nat
  vector : Nat
  deriving DecidableEq, Repr

/-- Function control operations in progress (R395). -/
inductive FcOp where
  | bmeSet | bmeClear | flr
  deriving DecidableEq, Repr

/-- The lines of the NVM port: clock, chip select, and of io3 to io0 the output values, the output enables and the input
values last sampled (R397). -/
structure Nvm where
  sck  : Bool := false
  csN  : Bool := true
  ioO  : BitVec 4 := 0
  ioOe : BitVec 4 := 0
  ioI  : BitVec 4 := 0
  deriving DecidableEq, Repr

/-- Interrupt port, function control port, power port and TAP. -/
structure Io where
  msgs    : List IrqMsg := []
  lastIrq : Option IrqMsg := none
  fc      : List (Nat × FcOp) := []
  /-- The acknowledgements that the last function control event brought: function and operation code. -/
  acks    : List (Nat × Nat) := []
  quadReq : List Bool := [false, false, false, false]
  quadAck : List Bool := [false, false, false, false]
  oryReq  : List Bool := [false, false, false, false]
  oryAck  : List Bool := [false, false, false, false]
  tapIr   : BitVec 8 := 0x01
  /-- What the instruction register had captured when its last instruction was shifted in (R403). -/
  tapCap  : BitVec 8 := 0x01
  tapDr   : W32 := 0
  nvm     : Nvm := {}
  deriving DecidableEq, Repr

/-! ### Ephemeris and grant log -/

/-- A record waiting for commit (R415), less its time and sequence number. `tick` is the tick it was
written in and `req` the request it is about (ring, index), for the orders of R415 and R300. -/
structure EphQ where
  source : Nat
  part   : Nat
  code   : Nat
  sev    : Nat
  flags  : Nat
  detail : Bytes
  tick   : Nat := 0
  /-- Written before tick 0: the record is in no tick with another (R415). -/
  early  : Bool := false
  req    : Option (Nat × Nat) := none
  deriving DecidableEq, Repr

/-- A committed Ephemeris record (R412). -/
structure EphRec where
  time   : W64
  seq    : W32
  body   : EphQ
  /-- An EPHEMERIS_READ has copied it (R420). -/
  copied : Bool := false
  deriving DecidableEq, Repr

/-- The Ephemeris (R415, R420): the newest record first, at most 8,192. -/
structure Eph where
  recs      : List EphRec := []
  nextSeq   : W32 := 0
  queue     : List EphQ := []
  heldRecs  : List EphQ := []
  frozen    : Bool := false
  overrun   : Bool := false
  warn      : Nat := 0
  fault     : Nat := 0
  stalls    : Nat := 0
  peak      : Nat := 0
  committed : Nat := 0
  deriving DecidableEq, Repr

/-- A grant log entry (R429). -/
structure GEntry where
  seq   : W32
  tick  : Nat
  /-- The submission index of the link that the grant served. -/
  index : Nat
  grant : Grant
  deriving DecidableEq, Repr

/-- The grant log (R429 to R431): the newest entry first, at most 8,192. -/
structure Glog where
  entries  : List GEntry := []
  nextSeq  : W32 := 0
  post     : Nat := 0x0100
  frozen   : Bool := false
  onFault  : Bool := false
  enable   : Bool := true
  counting : Option Nat := none
  trigger  : W32 := 0
  deriving DecidableEq, Repr

/-! ### The state -/

/-- The state of the block and the queue of commands waiting for it. -/
structure State where
  pending : List Instr := []
  /-- The model's own field: how many free values have been drawn (log 6). -/
  free    : Nat := 0
  blk     : Blk := {}
  ldr     : Ldr := {}
  sch     : Sch := {}
  dat     : Dat := {}
  prt     : Prt := {}
  rng     : Rng := {}
  key     : KeyU := {}
  ory     : Ory := {}
  ent     : Ent := {}
  mov     : Mov := {}
  mbx     : Mbxs := {}
  io      : Io := {}
  eph     : Eph := {}
  glog    : Glog := {}
  deriving DecidableEq, Repr

/-- The block right after reset: DORMANT, both resets asserted (log 2); every field at the value the
spec states or log 7 names. -/
def State.reset : State := {}

end Sys2Proof.Machine
end

