-- ==== Sys2Proof/Machine/Ops.lean ====
section
/-! DEFINITION. The named operations over the state that every family shares: maps, units, free values,
the Ephemeris queue, violations, interrupts, and the memory fabric. -/

namespace Sys2Proof.Machine

/-! ### Maps and lists -/

/-- The value at a key. -/
def mget {α : Type} : Map α → Nat → Option α
  | [], _ => none
  | (a, v) :: m, k => if a = k then some v else mget m k

/-- The map with a key set; keys stay rising. -/
def mset {α : Type} : Map α → Nat → α → Map α
  | [], k, v => [(k, v)]
  | (a, w) :: m, k, v =>
    if a < k then (a, w) :: mset m k v
    else if a = k then (k, v) :: m
    else (k, v) :: (a, w) :: m

/-- The map without a key. -/
def mdel {α : Type} : Map α → Nat → Map α
  | [], _ => []
  | (a, w) :: m, k => if a = k then m else (a, w) :: mdel m k

/-- The map with the value at a key, where there is one, changed. -/
def mupd {α : Type} : Map α → Nat → (α → α) → Map α
  | [], _, _ => []
  | (a, w) :: m, k, f => if a = k then (a, f w) :: m else (a, w) :: mupd m k f

/-- The list with its element `n`, where there is one, changed. -/
def updAt {α : Type} : List α → Nat → (α → α) → List α
  | [], _, _ => []
  | a :: l, 0, f => f a :: l
  | a :: l, n + 1, f => a :: updAt l n f

/-- The sum of a function over a list. -/
def sumBy {α : Type} (l : List α) (f : α → Nat) : Nat := l.foldl (fun n a => n + f a) 0

/-- How many elements satisfy a test. -/
def countP {α : Type} (l : List α) (p : α → Bool) : Nat := (l.filter p).length

/-- The list in rising order of a key; equal keys keep their order. -/
def insertBy {α : Type} (f : α → Nat) (a : α) : List α → List α
  | [] => [a]
  | b :: l => if f a < f b then a :: b :: l else b :: insertBy f a l

/-- Stable sort by a key. -/
def sortBy {α : Type} (f : α → Nat) (l : List α) : List α := l.foldl (fun m a => insertBy f a m) []

/-- The element with the smallest key, the first of equals. -/
def minBy {α : Type} (f : α → Nat) : List α → Option α
  | [] => none
  | a :: l => match minBy f l with
    | none => some a
    | some b => if f b < f a then some b else some a

/-- The lowest number from `lo` below `lo + fuel` that is not in the list. -/
def lowestFree (used : List Nat) : Nat → Nat → Option Nat
  | _, 0 => none
  | lo, fuel + 1 => if used.contains lo then lowestFree used (lo + 1) fuel else some lo

/-! ### Outcome -/

/-- The type of every meaning's answer. -/
abbrev Out := Host.Outcome State Fault Refusal

/-! ### Sub-states -/

def State.onBlk (s : State) (f : Blk → Blk) : State := { s with blk := f s.blk }
def State.onLdr (s : State) (f : Ldr → Ldr) : State := { s with ldr := f s.ldr }
def State.onSch (s : State) (f : Sch → Sch) : State := { s with sch := f s.sch }
def State.onDat (s : State) (f : Dat → Dat) : State := { s with dat := f s.dat }
def State.onPrt (s : State) (f : Prt → Prt) : State := { s with prt := f s.prt }
def State.onRng (s : State) (f : Rng → Rng) : State := { s with rng := f s.rng }
def State.onKey (s : State) (f : KeyU → KeyU) : State := { s with key := f s.key }
def State.onOry (s : State) (f : Ory → Ory) : State := { s with ory := f s.ory }
def State.onEnt (s : State) (f : Ent → Ent) : State := { s with ent := f s.ent }
def State.onMov (s : State) (f : Mov → Mov) : State := { s with mov := f s.mov }
def State.onMbx (s : State) (f : Mbxs → Mbxs) : State := { s with mbx := f s.mbx }
def State.onIo (s : State) (f : Io → Io) : State := { s with io := f s.io }
def State.onEph (s : State) (f : Eph → Eph) : State := { s with eph := f s.eph }
def State.onGlog (s : State) (f : Glog → Glog) : State := { s with glog := f s.glog }

/-! ### Free values -/

/-- A free value of the kind `what` (log 6), and the state with the counter advanced. -/
def State.draw (s : State) (what : Nat) : Nat × State :=
  (Config.freeNat what s.free, { s with free := s.free + 1 })

/-! ### Modes, Charter and time -/

/-- The code of a mode (R361). -/
def Mode.code : Mode → Nat
  | .dormant => 0 | .charterLoad => 1 | .seeding => 2 | .service => 3
  | .reduced => 4 | .swap => 5 | .containment => 6 | .factory => 7

/-- The code of a CONTAINMENT reason (R365). -/
def Reason.code : Reason → Nat
  | .none => 0 | .charterInvalid => 1 | .firmwareInvalid => 2 | .decommissioned => 3
  | .entropyFailed => 4 | .noCapacity => 5 | .blockFault => 6

/-- The block is out of reset and not in CONTAINMENT. -/
def State.live (s : State) : Bool := s.blk.mode != .dormant && s.blk.mode != .containment

/-- The modes in which ring fetch and grants run (R362). -/
def State.serving (s : State) : Bool :=
  s.blk.mode == .service || s.blk.mode == .reduced || s.blk.mode == .factory || s.blk.mode == .swap

/-- The modes in which ticks run: SEEDING and after (R99, R365). -/
def State.ticking (s : State) : Bool := s.serving || s.blk.mode == .seeding

/-- The stage of a swap in which the threads have resumed, and the one in which a boundary has passed since
(R244). -/
def swapResumed : Nat := 4
def swapExitDue : Nat := 5

/-- The SWAP pause: Orrery work waits until the threads resume (R27, R244, R245). -/
def State.paused (s : State) : Bool := s.blk.mode == .swap && decide (s.ory.swapStage < swapResumed)

/-- A swap is accepted or under way (R244). -/
def State.swapOn (s : State) : Bool := s.ory.swapCh.isSome || decide (0 < s.ory.swapStage)

/-- The Orrery takes messages and threads start work: everywhere but in the SWAP pause (R27, R245). -/
def State.oryServing (s : State) : Bool := s.serving && !s.paused

/-- The Charter in force, or the one of all defaults before CHARTER_LOAD ends (R362). -/
def State.charter (s : State) : Charter := s.ldr.chosen.getD {}

/-- L, the clocks of a tick (R98, R349). -/
def State.tickLen (s : State) : Nat :=
  match s.charter.tickSelect with
  | 1 => 2048
  | 2 => 8192
  | _ => 4096

/-- B, the budget of a tick: L less the 256-clock guard (R98). -/
def State.budget (s : State) : Nat := s.tickLen - 256

/-- Ticks of `n` core clocks, rounded up. -/
def State.ticksOf (s : State) (n : Nat) : Nat := cdiv n s.tickLen

/-- The Vault function ID (R164). -/
def State.vaultFid (s : State) : Nat := s.charter.vaultFid

/-- Hardware function: bus master enable is set and no clearing is in progress (R282, R396). -/
def State.bmeOf (s : State) (fid : Nat) : Bool := s.prt.bme.contains fid

/-- The last bus master enable state seen on the function control port: that of the last request pending, or the one
acknowledged (R34, R395, R396). -/
def State.bmeSeen (s : State) (fid : Nat) : Bool :=
  match s.io.fc.reverse.find? fun x => x.1 == fid && x.2 != .flr with
  | some (_, .bmeSet) => true
  | some _ => false
  | none => s.bmeOf fid || s.prt.bmeNext.contains fid

/-! ### Partitions -/

def State.part (s : State) (p : Nat) : Option Part := mget s.prt.parts p

def State.onPart (s : State) (p : Nat) (f : Part → Part) : State :=
  s.onPrt fun t => { t with parts := mupd t.parts p f }

def PState.code : PState → Nat
  | .absent => 0 | .ready => 1 | .active => 2 | .suspended => 3 | .resetting => 4

/-- The state of a partition: ABSENT where the Charter does not list it (R29). -/
def State.partState (s : State) (p : Nat) : PState := ((s.part p).map (·.st)).getD .absent

/-- The partition bound to a function ID (R29, R30). -/
def State.partOfFid (s : State) (fid : Nat) : Option Nat :=
  (s.prt.parts.find? fun x => x.2.entry.fid == fid).map (·.1)

/-- The function ID bound to a partition. -/
def State.fidOf (s : State) (p : Nat) : Nat := ((s.part p).map (·.entry.fid)).getD 0

def State.sealedP (s : State) (p : Nat) : Bool := ((s.part p).map (·.entry.isSealed)).getD false

def State.binaryP (s : State) (p : Nat) : Bool := ((s.part p).map (·.entry.binary)).getD false

/-- An event for a thread of a core without power raises the core's request again, once its acknowledgement is low (R233,
R405). -/
def State.wakeReq (s : State) (c : Nat) : State :=
  if s.io.oryReq.getD c false || s.io.oryAck.getD c false then s
  else s.onIo fun i => { i with oryReq := updAt i.oryReq c fun _ => true }

/-- The core of a thread is powered and in service (R233, R313). -/
def State.coreRuns (s : State) (t : Nat) : Bool :=
  ((s.ory.cores[t / 16]?).map fun c => c.awake && !c.u.ecl).getD false

/-- The debugger has stopped the thread (R240). -/
def State.stoppedT (s : State) (t : Nat) : Bool := ((s.ory.threads[t]?).map (·.stopped)).getD false

/-- The root thread that carries the work, where there is one, issues instructions (R233, R240). -/
def State.carried (s : State) (w : Work) : Bool :=
  s.ory.threads.zipIdx.all fun t => t.1.work != w || t.1.root != t.2 || (!t.1.stopped && s.coreRuns t.2)

/-! ### Rings and requests -/

def RState.code : RState → Nat
  | .closed => 0 | .opening => 1 | .active => 2 | .held => 3 | .quarantined => 4 | .draining => 5

def State.ring (s : State) (r : Nat) : Ring := (mget s.rng.rings r).getD {}

def State.setRing (s : State) (r : Nat) (x : Ring) : State :=
  s.onRng fun t => { t with rings := mset t.rings r x }

def State.onRing (s : State) (r : Nat) (f : Ring → Ring) : State := s.setRing r (f (s.ring r))

/-- D, the depth of a ring, and N = 2 × D (R44). -/
def Ring.depth (r : Ring) : Nat := 2 ^ r.attr.log2
def Ring.span (r : Ring) : Nat := 2 * r.depth

/-- a - b modulo N. -/
def modSub (a b n : Nat) : Nat := (a % n + n - b % n) % n

/-- The owner of a ring: none while it is CLOSED (R35, R435). -/
def State.ringOwner (s : State) (r : Nat) : Option Nat :=
  let x := s.ring r
  if x.st == .closed then none else some x.owner

/-- Rings owned by a partition in any state other than CLOSED (R34). -/
def State.ringsOpen (s : State) (p : Nat) : Nat :=
  countP s.rng.rings fun x => x.2.st != .closed && x.2.owner == p

def Req.is (q : Req) (id : LinkId) : Bool := q.ring == id.ring && q.idx == id.idx

def State.req (s : State) (ring idx : Nat) : Option Req :=
  s.rng.reqs.find? fun q => q.ring == ring && q.idx == idx

def State.link (s : State) (id : LinkId) : Option (Req × Link) :=
  match s.req id.ring id.idx with
  | none => none
  | some q => (q.links[id.link]?).map fun l => (q, l)

def State.onReq (s : State) (ring idx : Nat) (f : Req → Req) : State :=
  s.onRng fun t => { t with reqs := t.reqs.map fun q => if q.ring == ring && q.idx == idx then f q else q }

def State.onLink (s : State) (id : LinkId) (f : Link → Link) : State :=
  s.onReq id.ring id.idx fun q => { q with links := updAt q.links id.link f }

/-- Management, where a partition number is recorded; also an access of no partition (R30, R414). -/
def noPart : Nat := 0xFFFF

/-! ### Unit identifiers (R17) -/

def uidMode : Nat := 0x0000
def uidSched : Nat := 0x0001
def uidPolicy : Nat := 0x0002
def uidLoader : Nat := 0x0003
def uidLane (n : Nat) : Nat := 0x0800 + n
def uidEngine (n : Nat) : Nat := 0x1000 + n
def uidMacu (n : Nat) : Nat := 0x1800 + n
def uidQuad (n : Nat) : Nat := 0x2000 + n
def uidFabric (n : Nat) : Nat := 0x2800 + n
def uidStream (n : Nat) : Nat := 0x3000 + n
def uidThread (n : Nat) : Nat := 0x3800 + n
def uidCore (n : Nat) : Nat := 0x3C00 + n
def uidScn : Nat := 0x4FFF
def uidOsc (g : Nat) : Nat := 0x4800 + g
def uidDrbg (n : Nat) : Nat := 0x5000 + n
def uidInst (i : Nat) : Nat := 0x5100 + i
def uidRp : Nat := 0x6000
def uidFc : Nat := 0x6002
def uidTb : Nat := 0x6005
def uidMbx (c : Nat) : Nat := 0x6800 + c

/-- The identifier of a unit. -/
def uid : UnitId → Nat
  | .lane n => uidLane n
  | .engine n => uidEngine n
  | .macu n => uidMacu n
  | .quad q => uidQuad q
  | .oryCore c => uidCore c
  | .drbgCore c => uidDrbg c
  | .scintilla => uidScn

/-- The unit an identifier names, of those that may be exercised, eclipsed and restored (R311). -/
def unitOf (w : Nat) : Option UnitId :=
  let c := w / 2048
  let i := w % 2048
  match c with
  | 1 => if i < 16 then some (.lane i) else none
  | 2 => if i < 32 then some (.engine i) else none
  | 3 => if i < 16 then some (.macu i) else none
  | 4 => if i < 4 then some (.quad i) else none
  | 7 => if 0x400 ≤ i ∧ i < 0x404 then some (.oryCore (i - 0x400)) else none
  | 9 => if i = 0x7FF then some .scintilla else none
  | 10 => if i < 2 then some (.drbgCore i) else none
  | _ => none

/-- The quadrant of a lane, engine, MACU or quadrant (R12). -/
def quadOf : UnitId → Nat
  | .lane n => n / 4
  | .engine n => n / 8
  | .macu n => n / 4
  | .quad q => q
  | _ => 0

/-! ### Fault state of units -/

/-- The fault-handling part of a unit's state. -/
def State.unitSt (s : State) : UnitId → UnitSt
  | .lane n => ((s.dat.lanes[n]?).map (·.u)).getD {}
  | .engine n => ((s.dat.engines[n]?).map (·.u)).getD {}
  | .macu n => ((s.dat.macus[n]?).map (·.u)).getD {}
  | .quad q => ((s.dat.quads[q]?).map (·.u)).getD {}
  | .oryCore c => ((s.ory.cores[c]?).map (·.u)).getD {}
  | .drbgCore c => ((s.ent.cores[c]?).map (·.u)).getD {}
  | .scintilla => {}

def State.onUnit (s : State) (u : UnitId) (f : UnitSt → UnitSt) : State :=
  match u with
  | .lane n => s.onDat fun d => { d with lanes := updAt d.lanes n fun x => { x with u := f x.u } }
  | .engine n => s.onDat fun d => { d with engines := updAt d.engines n fun x => { x with u := f x.u } }
  | .macu n => s.onDat fun d => { d with macus := updAt d.macus n fun x => { x with u := f x.u } }
  | .quad q => s.onDat fun d => { d with quads := updAt d.quads q fun x => { x with u := f x.u } }
  | .oryCore c => s.onOry fun o => { o with cores := updAt o.cores c fun x => { x with u := f x.u } }
  | .drbgCore c => s.onEnt fun e => { e with cores := updAt e.cores c fun x => { x with u := f x.u } }
  | .scintilla => s

/-- The quadrant is eclipsed whole (R312). -/
def State.quadEcl (s : State) (q : Nat) : Bool := (s.unitSt (.quad q)).ecl

def State.quadGated (s : State) (q : Nat) : Bool := ((s.dat.quads[q]?).map (·.gated)).getD false

/-- The unit is out of service: eclipsed on its own or with its quadrant. -/
def State.eclipsed (s : State) (u : UnitId) : Bool :=
  (s.unitSt u).ecl || match u with
    | .lane _ => s.quadEcl (quadOf u)
    | .engine _ => s.quadEcl (quadOf u)
    | .macu _ => s.quadEcl (quadOf u)
    | _ => false

/-- Not in a self-test tick, or known to have passed it; and none fixed for the coming tick (R309). -/
def UnitSt.clear (x : UnitSt) : Bool := !x.atCut && !x.due && (!x.inTest || x.tested == some true)

/-- The unit runs grants in the coming tick, those of its bindings and pins included: in service, ungated,
not withdrawn for a self-test (R309, R310). -/
def State.runs (s : State) (u : UnitId) : Bool :=
  !s.eclipsed u && (s.unitSt u).clear && (s.unitSt (.quad (quadOf u))).clear && !s.quadGated (quadOf u)

/-- The unit takes new work: no eclipse of it waits (R310). -/
def State.usable (s : State) (u : UnitId) : Bool := s.runs u && (s.unitSt u).eclPend.isNone

def allLanes : List UnitId := (List.range 16).map .lane
def allEngines : List UnitId := (List.range 32).map .engine
def allMacus : List UnitId := (List.range 16).map .macu
def allQuads : List UnitId := (List.range 4).map .quad
def allCores : List UnitId := (List.range 4).map .oryCore
def allDrbg : List UnitId := (List.range 2).map .drbgCore

/-- Every unit whose eclipse makes the condition of R314. -/
def allUnits : List UnitId := allLanes ++ allEngines ++ allMacus ++ allQuads ++ allCores ++ allDrbg

/-! ### The Ephemeris queue (R412 to R416, R443) -/

/-- The severity of a code (R413), where the code is defined; 0x0101 into REDUCED and 0x0103 with a
result other than OK are raised to WARN by their writers. Group 0x05 has no severity of its own in the
spec and takes WARN, 'a refusal that the block contained' (DEDUCED, log 12). -/
def ephSev (code : Nat) : Nat :=
  if code / 256 = 5 then 2
  else if [0x0101, 0x0102, 0x0105, 0x0604].contains code then 0
  else if [0x0201, 0x0202, 0x0203, 0x0204, 0x0205, 0x0401, 0x0601, 0x0607, 0x0704, 0x0801, 0x0802, 0x0803,
      0x0804, 0x0805, 0x0807, 0x0808, 0x0822, 0x0840, 0x0902, 0x0922].contains code then 2
  else if [0x0206, 0x0207, 0x0210, 0x0211, 0x0212, 0x0302, 0x0304, 0x0402, 0x0403, 0x0602, 0x0606, 0x0701,
      0x0702, 0x0705, 0x0706, 0x0809, 0x0904].contains code then 3
  else if code = 0x0106 then 4
  else 1

/-- The highest occupancy of the commit queue (R415). -/
def ephQueueMax : Nat := 256

/-- A record enters the commit queue, or its source holds it with f3 while the queue is full or an
earlier record of the source is held (R415). No record is written in DORMANT or after the freeze. -/
def State.ephPush (s : State) (q : EphQ) : State :=
  let r := { q with early := s.blk.mode == .charterLoad }
  if s.blk.mode == .dormant || s.eph.frozen then s
  else
    let full := s.eph.queue.length ≥ ephQueueMax || s.eph.heldRecs.any fun h => h.source == r.source
    s.onEph fun e =>
      if full then
        { e with heldRecs := e.heldRecs ++ [{ r with flags := r.flags ||| 8 }], stalls := sat 0xFFFF e.stalls 1 }
      else { e with queue := e.queue ++ [r], peak := max e.peak (e.queue.length + 1) }

/-- The flags of a record: f0 in lifecycle FACTORY, f1 for the request form, f2 for a sealed
partition (R413). -/
def State.ephFlags (s : State) (part : Nat) (req : Bool) : Nat :=
  b2n (s.blk.lifecycle == 0) + 2 * b2n req + 4 * b2n (s.sealedP part)

/-- Write a record of the Other form with severity given (R414, R445). -/
def State.logSev (s : State) (sev code source part : Nat) (detail : Bytes) : State :=
  s.ephPush { source := source, part := part, code := code, sev := sev, flags := s.ephFlags part false,
              detail := (detail ++ zeros 12).take 12, tick := s.sch.tick }

/-- Write a record of the Other form. -/
def State.log (s : State) (code source part : Nat) (detail : Bytes := []) : State :=
  s.logSev (ephSev code) code source part detail

/-- The submission index that names a link: the entry number of its own header, the index mod D (R18, R86; log 35). -/
def State.entryIdx (s : State) (id : LinkId) : Nat :=
  let x := s.ring id.ring
  let i := match s.link id with
    | some y => y.2.subIdx
    | none => id.idx
  if x.st == .closed then i else i % x.depth

/-- The index in a record of the request form: on a stream ring the frame index (R414). -/
def State.recIdx (s : State) (id : LinkId) : Nat :=
  if (s.ring id.ring).attr.stream then id.idx else s.entryIdx id

/-- Write a record of the request form with the index given (R414), and with the code-specific word. -/
def State.logAt (s : State) (code source part ring index link word : Nat) (req : Option (Nat × Nat)) : State :=
  s.ephPush { source := source, part := part, code := code, sev := ephSev code, flags := s.ephFlags part true,
              detail := natLE (ring % 2 ^ 17 + 2 ^ 17 * (link % 8)) 4 ++ natLE (index % 2 ^ 21) 4 ++ natLE word 4,
              tick := s.sch.tick, req := req }

/-- Write a record about a request (R414). -/
def State.logReq (s : State) (code source part ring idx link : Nat) (word : Nat := 0) : State :=
  s.logAt code source part ring (s.recIdx ⟨ring, idx, link⟩) link word (some (ring, idx))

/-- A record about the request still waits for its commit (R300, R415). -/
def State.ephWaits (s : State) (ring idx : Nat) : Bool :=
  (s.eph.queue ++ s.eph.heldRecs).any fun r => r.req == some (ring, idx)

/-! ### Violations (R58 to R60) -/

/-- Violations of a ring in the window of 1,024 ticks that ends with tick `t`; the tick count wraps (R60, R99). -/
def violWindow (t : Nat) (l : List Nat) : List Nat := l.filter fun v => decide (modSub t v (2 ^ 32) < 1024)

/-- Count a violation in the partition's telemetry (R58, R423). -/
def State.countViolation (s : State) (part : Nat) : State :=
  s.onPart part fun p => { p with tel := { p.tel with violations := p.tel.violations + 1 } }

/-- Count a violation toward a ring (R59), and quarantine the ring at the 65th within 1,024 ticks
(R60). -/
def State.countRing (s : State) (r : Nat) : State :=
  let t := s.sch.tick
  s.onRing r fun x =>
    let v := violWindow t x.viol ++ [t]
    { x with viol := v, violations := x.violations + 1,
             st := if v.length > 64 && (x.st == .active || x.st == .held) then .quarantined else x.st }

/-- The violations of a ring in the current window, 0 where no ring (R414). -/
def State.violCount (s : State) (r : Option Nat) : Nat :=
  match r with
  | none => 0
  | some x => (violWindow s.sch.tick (s.ring x).viol).length

/-- A violation of the Violation form: counted for the partition, toward the ring where it owns it,
and recorded; in CONTAINMENT the counters are frozen (R58, R59, R367, R414). -/
def State.violation (s : State) (code source part : Nat) (ring : Option Nat) (toward : Bool)
    (value fid : Nat) : State :=
  if s.blk.mode == .containment then s
  else
  let s := s.countViolation part
  let s := match ring with
    | some r => if toward then s.countRing r else s
    | none => s
  let n := s.violCount ring
  s.ephPush { source := source, part := part, code := code, sev := ephSev code, flags := s.ephFlags part false,
              detail := natLE (ring.getD 0xFFFFFFFF) 4 ++ natLE (value % 2 ^ 32) 4 ++ natLE (fid % 1024 + 65536 * n) 4,
              tick := s.sch.tick }

/-- A packet violation: the request form, with the function ID and the ring's count (R414). -/
def State.packetViolation (s : State) (code ring idx link : Nat) : State :=
  let x := s.ring ring
  let p := x.owner
  let s := (s.countViolation p).countRing ring
  s.logReq code (if code = 0x0508 then uidStream x.attr.pair else uidSched) p ring idx link (s.fidOf p + 65536 * s.violCount (some ring))

/-! ### Interrupts (R51, R392, R438) -/

/-- The function's partition is RESETTING (R297, R318). -/
def State.flrOn (s : State) (fid : Nat) : Bool :=
  match s.partOfFid fid with
  | none => false
  | some p => s.partState p == .resetting

/-- A trigger for a function and vector: merged with the pair's pending message, dropped while the
partition is RESETTING (R297, R392). -/
def State.irqMsg (s : State) (fid vector : Nat) : State :=
  if s.flrOn fid || s.io.msgs.contains ⟨fid, vector⟩ then s
  else s.onIo fun i => { i with msgs := i.msgs ++ [⟨fid, vector⟩] }

/-- A trigger of R51 for a ring: the pending bit is set, and the message follows (R438). -/
def State.ringIrq (s : State) (r : Nat) : State :=
  let x := s.ring r
  let s := s.onRing r fun x => { x with pend := true, sinceIrq := 0, irqAge := none }
  s.irqMsg (s.fidOf x.owner) x.attr.vector

/-! ### The memory fabric (R15, R269, R272, R375, R376) -/

/-- The access that starts at `a` within an extent that ends at `e`: its length. Heads end at the first
64-byte boundary, bodies at 256-byte boundaries, none crosses 4 KiB, and a tail takes the rest (R269). -/
def cutLen (a e : Nat) : Nat :=
  let e1 := min e ((a / 4096 + 1) * 4096)
  let al := e1 / 64 * 64
  if a % 64 ≠ 0 then min e1 ((a / 64 + 1) * 64) - a
  else if a < al then min al ((a / 256 + 1) * 256) - a
  else e1 - a

/-- The accesses of the extent from `a` to `e`, at most `fuel`. -/
def cutF : Nat → Nat → Nat → List (Nat × Nat)
  | 0, _, _ => []
  | fuel + 1, a, e => if a < e then (a, cutLen a e) :: cutF fuel (a + cutLen a e) e else []

/-- The accesses, as address and length, of the extent of `n` bytes at `a` (R269). -/
def cut (a n : Nat) : List (Nat × Nat) := cutF (n / 64 + n / 4096 + 4) a (a + n)

/-- The port of an access (R15). -/
def portOf (a : Nat) : Nat := a / 4096 % 8

/-- No request with this function ID may issue: its bus master enable is clear, or its partition is RESETTING (R282, R318);
the Vault's is bound to no partition and is silent from a BME_CLEAR to the BME_SET that follows (log 115); and none issues
in CONTAINMENT (R366). -/
def State.silentFid (s : State) (fid : Nat) : Bool :=
  !s.live || if fid = s.vaultFid then s.prt.bmeOff.contains fid else !s.bmeOf fid || s.flrOn fid

/-- Ordering classes (R380). -/
def clsRelaxed : Nat := 0
def clsOrdered : Nat := 1
def clsVault : Nat := 2

/-- The 64-byte lines, and so the beats, of an access (R375). -/
def lineCount (a n : Nat) : Nat := if n = 0 then 0 else (a + n - 1) / 64 - a / 64 + 1

/-- A beat of write data: its line, the byte enables, one bit for each byte lane, and whether it is the last and poisoned
(R374, R377). -/
structure WdBeat where
  data   : Bytes
  be     : W64
  last   : Bool
  poison : Bool
  deriving DecidableEq, Repr

/-- The beats of a write, one for each 64-byte line that it touches (R374, R375, R377). -/
def FWrite.wdBeats (w : FWrite) : List WdBeat :=
  let n := lineCount w.addr w.data.length
  (List.range n).map fun k =>
    let line := (w.addr / 64 + k) * 64
    let lo := max w.addr line
    let hi := min (w.addr + w.data.length) (line + 64)
    { data := zeros (lo - line) ++ slice w.data (lo - w.addr) (hi - lo), be := BitVec.ofNat 64 ((2 ^ (hi - lo) - 1) * 2 ^ (lo - line))
      last := k + 1 == n, poison := w.poison.contains (line / 64) }

/-- Issue what may issue on a port, in order: writes take the lowest free id, reads the lowest free tag
of their range that is not in quarantine; each issue of an index advances its generation (R272, R273,
R376; the lowest index: DESIGN CHOICE, log 13). -/
def Port.pumpW (silent : Nat → Bool) (p : Port) : List FWrite → List FWrite → Port
  | done, [] => { p with writes := done }
  | done, w :: l =>
    if w.issued || w.held || silent w.fid then p.pumpW silent (done ++ [w]) l
    else match lowestFree (((done ++ l).filter (·.issued)).map (·.idx)) 0 1024 with
      | none => p.pumpW silent (done ++ [w]) l
      | some i =>
        let g := (mget p.wrGen i).getD 0
        let p' := { p with wrGen := mset p.wrGen i ((g + 1) % 64), beats := p.beats + w.wdBeats.length }
        p'.pumpW silent (done ++ [{ w with issued := true, idx := i, gen := g }]) l

def Port.pumpR (silent : Nat → Bool) (p : Port) : List FRead → List FRead → Port
  | done, [] => { p with reads := done }
  | done, w :: l =>
    if w.issued || silent w.fid then p.pumpR silent (done ++ [w]) l
    else
      let lo := if w.vault then 896 else 0
      let n := if w.vault then 128 else 896
      match lowestFree (((done ++ l).filter (·.issued)).map (·.idx) ++ p.quar) lo n with
      | none => p.pumpR silent (done ++ [w]) l
      | some i =>
        let g := (mget p.rdGen i).getD 0
        let p' := { p with rdGen := mset p.rdGen i ((g + 1) % 64) }
        p'.pumpR silent (done ++ [{ w with issued := true, idx := i, gen := g }]) l

/-- Issue on a port what may issue. -/
def Port.pump (silent : Nat → Bool) (p : Port) : Port :=
  let q := if p.writes.all fun w => w.issued then p else p.pumpW silent [] p.writes
  if q.reads.all fun r => r.issued then q else q.pumpR silent [] q.reads

/-- Issue on every port what may issue. -/
def State.pump (s : State) : State :=
  let sil := s.silentFid
  s.onMov fun m => { m with ports := m.ports.map fun p => p.pump sil }

/-- Append a write access to its port. -/
def Mov.addWrite (m : Mov) (w : FWrite) : Mov :=
  { m with ports := updAt m.ports (portOf w.addr) fun p => { p with writes := p.writes ++ [w] } }

def Mov.addRead (m : Mov) (r : FRead) : Mov :=
  { m with ports := updAt m.ports (portOf r.addr) fun p => { p with reads := p.reads ++ [r] } }

/-- Write a byte string at an address: cut under R269, one access each, and issued as ids allow; every access with the Vault
function ID is of its class (R380). -/
def State.write (s : State) (addr : Nat) (data : Bytes) (fid cls : Nat) (purpose : WPurpose)
    (poison : List Nat := []) : State :=
  (s.onMov fun m => (cut addr data.length).foldl (fun m c =>
    m.addWrite { addr := c.1, data := slice data (c.1 - addr) c.2, fid := fid, cls := if fid = s.vaultFid then clsVault else cls, purpose := purpose,
                 poison := poison.filter fun l => c.1 / 64 ≤ l && l ≤ (c.1 + c.2 - 1) / 64 }) m).pump

/-- Write to the Vault (R164, R271). -/
def State.vaultWrite (s : State) (addr : Nat) (data : Bytes) (purpose : WPurpose) : State :=
  s.write addr data s.vaultFid clsVault purpose

/-- All writes standing on the ports, issued or waiting for an id. -/
def State.writes (s : State) : List FWrite := s.mov.ports.flatMap (·.writes)

def State.reads (s : State) : List FRead := s.mov.ports.flatMap (·.reads)

/-- A write of this purpose is not yet done (R279). -/
def State.writeWaits (s : State) (p : WPurpose → Bool) : Bool :=
  s.writes.any fun w => !w.given && p w.purpose

def State.onWrites (s : State) (f : FWrite → Option FWrite) : State :=
  s.onMov fun m => { m with ports := m.ports.map fun p => { p with writes := p.writes.filterMap f } }

def State.onReads (s : State) (f : FRead → Option FRead) : State :=
  s.onMov fun m => { m with ports := m.ports.map fun p => { p with reads := p.reads.filterMap f } }

def State.onPort (s : State) (n : Nat) (f : Port → Port) : State :=
  s.onMov fun m => { m with ports := updAt m.ports n f }

/-! ### Mailbox channels -/

def State.chan (s : State) (c : Nat) : Mbx := (mget s.mbx.chans c).getD {}

def State.onChan (s : State) (c : Nat) (f : Mbx → Mbx) : State :=
  s.onMbx fun m => { m with chans := mset m.chans c (f ((mget m.chans c).getD {})) }

/-! ### Causes of CONTAINMENT -/

/-- Note a cause of CONTAINMENT, to be entered at the next boundary; the first cause stays (R363,
R365). -/
def State.cause (s : State) (r : Reason) (code : Nat) : State :=
  s.onBlk fun b => { b with cause := match b.cause with
    | none => some (r, code)
    | some c => some c }

end Sys2Proof.Machine
end

