-- ==== Sys2Proof/Machine/Flags.lean ====
section
/-! DEFINITION. Completion statuses and details, the completion record, and the status words of the
registers that rings, partitions and units share (R86 to R91, R96, R97, R52, R34). -/

namespace Sys2Proof.Machine

/-! ### Statuses (R91) -/

def stOk : Stat := ⟨0x00, 0⟩
def stRetried (d : Nat) : Stat := ⟨0x01, d⟩
def stAuthFail (d : Nat) : Stat := ⟨0x10, d⟩
def stVerifyFail : Stat := ⟨0x11, 1⟩
def stLengthLimit (d : Nat) : Stat := ⟨0x20, d⟩
def stMismatch (d : Nat) : Stat := ⟨0x21, d⟩
def stPartial (d : Nat) : Stat := ⟨0x22, d⟩
def stKeyInvalid (d : Nat) : Stat := ⟨0x30, d⟩
def stKeyExhausted : Stat := ⟨0x31, 1⟩
def stKeyPolicy (d : Nat) : Stat := ⟨0x32, d⟩
def stKeyForeign (d : Nat) : Stat := ⟨0x33, d⟩
def stBusError (d : Nat) : Stat := ⟨0x40, d⟩
def stPoisoned (d : Nat) : Stat := ⟨0x41, d⟩
def stTimeout (d : Nat) : Stat := ⟨0x42, d⟩
def stEntropy (d : Nat) : Stat := ⟨0x50, d⟩
def stMalformed (d : Nat) : Stat := ⟨0x60, d⟩
def stUnsupported (d : Nat) : Stat := ⟨0x61, d⟩
def stAborted (d : Nat) : Stat := ⟨0x70, d⟩
def stAbandoned (k : Nat) : Stat := ⟨0x71, k⟩
def stFlushed : Stat := ⟨0x72, 1⟩
def stHwFault (d : Nat) : Stat := ⟨0x80, d⟩
def stInvalid (d : Nat) : Stat := ⟨0x81, d⟩
def stQuota (d : Nat) : Stat := ⟨0x90, d⟩

/-- Details of MALFORMED. -/
def dFormat : Nat := 1
def dField : Nat := 2
def dExtension : Nat := 3
def dInline : Nat := 4
def dGatherCount : Nat := 5
def dGatherElem : Nat := 6
def dAlignment : Nat := 7
def dAddress : Nat := 8
def dDestination : Nat := 9
def dKeyHandle : Nat := 10
def dFlags : Nat := 11
def dChainLength : Nat := 12
def dChainOpcode : Nat := 13
def dChainRoute : Nat := 14
def dChainIncomplete : Nat := 15
def dStreamFrame : Nat := 16

/-- Places of a fabric error (R91): the details of BUS_ERROR, POISONED_INPUT and READ_TIMEOUT. -/
def atSource : Nat := 1
def atDestination : Nat := 2
def atList : Nat := 3
def atVault : Nat := 4
def atOperand : Nat := 5

/-- The status a failed read gives its work (R274 to R276), none for good data. -/
def ansFail (place : Nat) : ReadAnswer → Option Stat
  | .ok _ => none
  | .busError _ _ => some (stBusError place)
  | .poisoned _ _ _ => some (stPoisoned place)
  | .timeout _ _ => some (stTimeout place)

/-- The clock in which the read's failure is found (R90). -/
def ansClock : ReadAnswer → Nat
  | .ok _ => 0
  | .busError t _ => t
  | .poisoned t _ _ => t
  | .timeout t _ => t

/-- The data of a read, empty where it failed. -/
def ansData : ReadAnswer → Bytes
  | .ok d => d
  | _ => []

/-- The bytes of an answer as a string of exactly n bytes. -/
def ansBytes (a : ReadAnswer) (n : Nat) : Bytes := (ansData a ++ zeros (n - (ansData a).length)).take n

/-- OK or OK_RETRIED (R87). -/
def Stat.good (t : Stat) : Bool := t.code ≤ 1

/-- An error completion of R41: status 0x10 or above other than ABORTED, CHAIN_ABANDONED, FLUSHED. -/
def Stat.error (t : Stat) : Bool := t.code ≥ 0x10 && !(0x70 ≤ t.code && t.code ≤ 0x72)

/-- The violation code of a completion (R92). -/
def Stat.violation (t : Stat) : Option Nat :=
  if t.code = 0x60 then
    if t.detail = dFormat then some 0x0505
    else if t.detail = dStreamFrame then some 0x0508
    else some 0x0509
  else if t.code = 0x21 then some 0x0507
  else none

/-- The status byte of an F1 record (R97). -/
def f1Status (code : Nat) : Nat :=
  match code with
  | 0x01 => 0x00
  | 0x21 => 0x60
  | 0x32 => 0x30
  | 0x90 => 0x30
  | 0x41 => 0x40
  | c => c

/-! ### The completion record -/

/-- What a completion record says. -/
structure Record where
  fmt     : Nat
  stat    : Stat
  retried : Bool
  link    : Nat
  more    : Bool
  phase   : Bool
  tag     : W32
  entry   : Nat
  bytes   : Nat
  w45     : Nat
  tick    : Nat
  deriving DecidableEq, Repr

/-- The record as 32 bytes: R86 for F2, R96 for F1. -/
def Record.encode (r : Record) : Bytes :=
  let w l := (l.map fun n => natLE (n % 2 ^ 32) 4).flatten
  if r.fmt = 1 then
    w [f1Status r.stat.code + 256 * r.stat.code + 65536 * r.stat.detail + 2 ^ 31 * b2n r.phase,
       r.tag.toNat, r.bytes, r.entry, r.w45 % 2 ^ 32, r.w45 / 2 ^ 32, r.tick, 0]
  else
    w [r.stat.code + 256 * r.stat.detail + 2 ^ 16 * b2n r.retried + 2 ^ 17 * 2 + 2 ^ 21 * r.link
         + 2 ^ 24 * b2n r.more + 2 ^ 31 * b2n r.phase,
       r.tag.toNat, r.entry, r.bytes, r.w45 % 2 ^ 32, r.w45 / 2 ^ 32, r.tick, 0]

/-- The phase bit of the record at write index W: the inverse of bit log2(D) of W (R50). -/
def phaseOf (log2 w : Nat) : Bool := !bit w log2

/-! ### Status words -/

/-- RING_STATUS (R52): everything but the state reads 0 on a CLOSED ring. -/
def Ring.statusWord (r : Ring) : Nat :=
  if r.st == .closed then 0
  else 2 ^ 29 * r.st.code + 2 ^ 28 * b2n r.flushed + 2 ^ 27 * b2n r.abortLate + 2 ^ 26 * b2n r.cqStall
    + (if r.attr.stream then r.frameIdx else r.subHead) % 2 ^ 21

/-- RING_ABORT (R52). -/
def Ring.abortWord (r : Ring) : Nat :=
  if r.st == .closed then 0
  else 2 ^ 31 * b2n (!r.aborts.isEmpty || !r.aborting.isEmpty)
    + (if r.flushed then r.flushIdx else r.abortIdx) % 2 ^ 21

/-- PART_STATE (R34). -/
def State.partWord (s : State) (p : Part) : Nat :=
  65536 * p.gen + 2 ^ 15 * b2n p.entry.isSealed + 2 ^ 13 * b2n (s.bmeSeen p.entry.fid)
    + 2 ^ 12 * b2n p.hello + 2 ^ 5 * b2n p.suspMgmt + 2 ^ 4 * b2n p.suspBme + p.st.code

end Sys2Proof.Machine
end

