-- ==== Sys2Proof/Machine/Reads.lean ====
section
/-! DEFINITION. Reads of the memory fabric: what a failed access counts and records, and the strings that one
command reads whole, each cut into accesses that carry a function ID and take a tag (R15, R269, R271 to R276, R288). -/

namespace Sys2Proof.Machine

/-! ### Failed accesses (R274 to R276) -/

/-- Count and record an access that failed on the port of its address: 0x0801, 0x0803 or 0x0804 with the
address, in the request form where it is about a request. -/
def State.readFailed (s : State) (a : ReadAnswer) (addr part : Nat) (about : Option LinkId) : State :=
  let n := portOf addr
  let write (s : State) (code : Nat) : State := match about with
    | some id => s.logReq code (uidFabric n) part id.ring id.idx id.link (addr % 2 ^ 32)
    | none => s.log code (uidFabric n) part (natLE addr 8)
  match a with
  | .ok _ => s
  | .timeout _ _ => write (s.onPort n fun p => { p with tmo := sat 0xFF p.tmo 1 }) 0x0801
  | .poisoned _ _ _ => write (s.onPort n fun p => { p with pois := sat 0xFF p.pois 1 }) 0x0803
  | .busError _ _ => write (s.onPort n fun p => { p with bus := sat 0xFF p.bus 1 }) 0x0804

/-! ### The beats of a read (R374, R375, R378) -/

/-- The beats of an access: one for each 64-byte line it touches (R375). -/
def FRead.beats (r : FRead) : Nat := lineCount r.addr r.len

/-- The access's bytes of its beats (R375, R378). -/
def FRead.bytes (r : FRead) (bs : List ReadBeat) : Bytes :=
  slice (bs.flatMap fun b => (b.data ++ zeros 64).take 64) (r.addr % 64) r.len

/-- The parts of the access that poisoned beats carried, as offset and length (R276). -/
def FRead.poisonedParts (r : FRead) (bs : List ReadBeat) : List (Nat × Nat) :=
  bs.zipIdx.filterMap fun b =>
    let line := (r.addr / 64 + b.2) * 64
    let lo := max r.addr line
    let hi := min (r.addr + r.len) (line + 64)
    if b.1.poison && lo < hi then some (lo - r.addr, hi - lo) else none

/-- What a read brought (R275, R276, R378): a wrong number of beats is a bus error. -/
def FRead.answer (r : FRead) (bs : List ReadBeat) : ReadAnswer :=
  if bs.length ≠ r.beats || bs.any (fun b => !b.okay) then .busError 0 []
  else if (r.poisonedParts bs).isEmpty then .ok (r.bytes bs)
  else .poisoned 0 (r.bytes bs) ((r.poisonedParts bs).map (·.1))

/-! ### Strings read whole (log 4) -/

/-- How a string is read: the function ID of its accesses, whether they take the tags that only Vault accesses and
service DMA have, their class, and the partition and link they are about (R271, R272, R380). -/
structure Reader where
  fid   : Nat
  resv  : Bool := false
  cls   : Nat
  part  : Nat
  about : Option LinkId := none
  deriving DecidableEq, Repr

/-- The accesses of the extents, addresses and lengths, of a string: offset in the string, address, length (R269). -/
def accesses : Nat → List (Nat × Nat) → List (Nat × Nat × Nat)
  | _, [] => []
  | o, (a, n) :: l => (cut a n).map (fun c => (o + (c.1 - a), c.1, c.2)) ++ accesses (o + n) l

/-- The 64-byte beats of an access: the bytes of the string that each carries, as offset and length (R276, R375). -/
def beatsOf (x : Nat × Nat × Nat) : List (Nat × Nat) :=
  let first := x.2.1 / 64
  (List.range ((x.2.1 + x.2.2 - 1) / 64 - first + 1)).map fun k =>
    let lo := max x.2.1 ((first + k) * 64)
    let hi := min (x.2.1 + x.2.2) ((first + k + 1) * 64)
    (x.1 + (lo - x.2.1), hi - lo)

/-- The lowest tag of the range that serves such reads which is neither held nor in quarantine (R272, R274, log 13). -/
def Port.tagFree (vault : Bool) (p : Port) : Option Nat :=
  lowestFree ((p.reads.filter (·.issued)).map (·.idx) ++ p.quar) (if vault then 896 else 0) (if vault then 128 else 896)

/-- Every access of the string may issue: requests with the function ID may, and a suitable tag of each port it needs
is free (R272, R282). -/
def State.canRead (s : State) (x : Reader) (exts : List (Nat × Nat)) : Bool :=
  !s.silentFid x.fid && (accesses 0 exts).all fun c => ((s.mov.ports[portOf c.2.1]?).bind (Port.tagFree x.resv)).isSome

/-- One access of a string: it takes a tag, whose generation advances, and is answered before the next issues
(R272, R273). -/
def Mov.readWhole (m : Mov) (x : Reader) (c : Nat × Nat × Nat) : Mov × FRead :=
  let r : FRead := { addr := c.2.1, len := c.2.2, fid := x.fid, cls := x.cls, vault := x.resv, purpose := .whole c.1 }
  match (m.ports[portOf c.2.1]?).bind fun p => (p.tagFree x.resv).map fun i => (i, (mget p.rdGen i).getD 0) with
  | none => (m, r)
  | some (i, g) =>
    let r := { r with idx := i, gen := g, issued := true }
    ({ m with
      ports := updAt m.ports (portOf c.2.1) fun p => { p with rdGen := mset p.rdGen i ((g + 1) % 64), beats := p.beats + r.beats }
      made := m.made ++ [r] }, r)

/-- The bytes of the string that an answer's failure names. -/
def ansOffs : ReadAnswer → List Nat
  | .ok _ => []
  | .busError _ l => l
  | .poisoned _ _ l => l
  | .timeout _ l => l

/-- The range holds one of the bytes named. -/
def hits (l : List Nat) (off n : Nat) : Bool := l.any fun o => decide (off ≤ o) && decide (o < off + n)

/-- The accesses that failed: those with a byte named, or the first where none has one. -/
def failing (a : ReadAnswer) (l : List (Nat × Nat × Nat)) : List (Nat × Nat × Nat) :=
  match a with
  | .ok _ => []
  | a =>
    let f := l.filter fun c => hits (ansOffs a) c.1 c.2.2
    if f.isEmpty then l.take 1 else f

/-- The lowest address of a failed access of a string (R90). -/
def failAddr (exts : List (Nat × Nat)) (a : ReadAnswer) : Nat :=
  ((minBy (fun c => c.2.1) (failing a (accesses 0 exts))).map fun c => c.2.1).getD 0

/-- What decides among the failures of strings read side by side, each with its place and extents: the first in time, in
one clock the earlier row of R91, then the lowest-addressed access (R90). -/
def firstFail (l : List (Nat × List (Nat × Nat) × ReadAnswer)) : Option Stat :=
  let fails := l.filterMap fun x => (ansFail x.1 x.2.2).map fun st => ((ansClock x.2.2 * 256 + st.code) * 2 ^ 64 + failAddr x.2.1 x.2.2, st)
  (minBy (fun x => x.1) fails).map (·.2)

/-- The bytes of the string that poisoned beats carried, as offsets and lengths (R276). -/
def poisonParts (a : ReadAnswer) (exts : List (Nat × Nat)) : List (Nat × Nat) :=
  match a with
  | .poisoned _ _ l =>
    let beats := (accesses 0 exts).flatMap beatsOf
    let f := beats.filter fun b => hits l b.1 b.2
    if f.isEmpty then beats.take 1 else f
  | _ => []

/-- The data of a read, poisoned data with it, as a string of exactly n bytes. -/
def ansKept (a : ReadAnswer) (n : Nat) : Bytes :=
  let d := match a with
    | .ok d => d
    | .poisoned _ d _ => d
    | _ => []
  (d ++ zeros (n - d.length)).take n

/-- The beats that answer an access of a string, whose bytes are `d`; a failure strikes those that carry a byte it names, or
the first where it names none; an access that times out has none (R274 to R276, R378). -/
def answerBeats (a : ReadAnswer) (fail : Bool) (c : Nat × Nat × Nat) (d : Bytes) : List ReadBeat :=
  let named := hits (ansOffs a) c.1 c.2.2
  (beatsOf c).zipIdx.map fun b =>
    let hit := fail && if named then hits (ansOffs a) b.1.1 b.1.2 else b.2 == 0
    { data := zeros ((c.2.1 + (b.1.1 - c.1)) % 64) ++ slice d (b.1.1 - c.1) b.1.2
      okay := !(hit && match a with
        | .busError _ _ => true
        | _ => false)
      poison := hit && match a with
        | .poisoned _ _ _ => true
        | _ => false }

/-- An access of a string is answered: its beats come with its tag and are judged as any read's; a failure is counted and
recorded at its own address, and a timed-out tag goes into quarantine (R273 to R276, R288, R378). -/
def State.wholeAnswered (s : State) (x : Reader) (a : ReadAnswer) (fail : Bool) (r : FRead) (bs : List ReadBeat) : State :=
  match a, fail with
  | .timeout _ _, true => (s.readFailed a r.addr x.part x.about).onPort (portOf r.addr) fun p =>
      if r.issued then { p with quar := p.quar ++ [r.idx] } else p
  | _, _ => (s.onMov fun m => { m with heard := m.heard ++ [(r.idx + 1024 * r.gen, bs)] }).readFailed (r.answer bs) r.addr x.part x.about

/-- A string is read: its accesses issue and are answered, in order, and the failed ones leave their marks; the tag of one
that timed out is not issued again (R274; log 4). -/
def State.readString (s : State) (x : Reader) (exts : List (Nat × Nat)) (a : ReadAnswer) : State :=
  let l := accesses 0 exts
  let f := failing a l
  let x := { x with cls := if x.fid = s.vaultFid then clsVault else x.cls }
  (l.foldl (fun (u : State × Bytes) c =>
    let r := u.1.mov.readWhole x c
    let s := u.1.onMov fun _ => r.1
    (s.wholeAnswered x a (f.contains c) r.2 (answerBeats a (f.contains c) c (u.2.take c.2.2)), u.2.drop c.2.2))
    (s, ansKept a (sumBy exts (·.2)))).1

/-- The command that begins to read strings: the accesses of the one before are forgotten. -/
def State.newReads (s : State) : State := if s.mov.made.isEmpty then s else s.onMov fun m => { m with made := [], heard := [] }

/-- Reads of a partition's ring entries and gather lists (R271, R380). -/
def State.ringReader (s : State) (part : Nat) (about : Option LinkId) : Reader :=
  { fid := s.fidOf part, cls := clsOrdered, part := part, about := about }

/-- Reads of a request's source and operands through service DMA (R206, R271, R272, R380). -/
def State.dmaReader (s : State) (part : Nat) (about : Option LinkId) : Reader :=
  { fid := s.fidOf part, resv := true, cls := clsRelaxed, part := part, about := about }

/-- Reads of the Vault (R164, R271, R272, R380). -/
def State.vaultReader (s : State) (part : Nat) (about : Option LinkId) : Reader :=
  { fid := s.vaultFid, resv := true, cls := clsVault, part := part, about := about }

end Sys2Proof.Machine
end

