-- ==== Sys2Proof/Machine/Operands.lean ====
section
/-! DEFINITION. Command packets: their F2 and F1 headers, extension blocks, gather lists, the lengths S
and O of every opcode, and the fetch-stage checks in their order (R62 to R83, R90, R93 to R95, R128 to
R137, R187, R188, R211, R212, R442). -/

namespace Sys2Proof.Machine

/-! ### Opcodes -/

def opNop : Nat := 0x00
def opFence : Nat := 0x01
def opSeal : Nat := 0x10
def opOpen : Nat := 0x11
def opEnc : Nat := 0x12
def opDec : Nat := 0x13
def opGmacGen : Nat := 0x14
def opGmacVer : Nat := 0x15
def opDigest : Nat := 0x20
def opHmacGen : Nat := 0x21
def opHmacVer : Nat := 0x22
def opPk : Nat := 0x30
def opRandom : Nat := 0x40
def opReseed : Nat := 0x41
def opGenerate : Nat := 0x50
def opImport : Nat := 0x51
def opDerive : Nat := 0x52
def opRetire : Nat := 0x53
def opCopy : Nat := 0x60

/-- The opcodes of R78. -/
def opcodes : List Nat :=
  [opNop, opFence, opSeal, opOpen, opEnc, opDec, opGmacGen, opGmacVer, opDigest, opHmacGen, opHmacVer,
   opPk, opRandom, opReseed, opGenerate, opImport, opDerive, opRetire, opCopy]

/-- The hashes of HMAC: SHA-2 and SHA-3 (R78). -/
def hashCodes : List Nat := [1, 2, 3, 4, 5, 0x11, 0x12, 0x13, 0x14]

/-- The subops of an opcode (R78). -/
def subops (op : Nat) : List Nat :=
  if op = opFence then [0, 1]
  else if op = opSeal ∨ op = opOpen then [1, 2, 3]
  else if op = opEnc ∨ op = opDec then [1, 2, 3]
  else if op = opGmacGen ∨ op = opGmacVer then [1]
  else if op = opDigest then hashCodes ++ [0x21, 0x22]
  else if op = opHmacGen ∨ op = opHmacVer then hashCodes
  else if op = opPk then
    [1, 2, 3, 4, 5, 6, 7, 8, 0x10, 0x11, 0x12, 0x18, 0x19, 0x1A, 0x20, 0x21, 0x22, 0x28, 0x29, 0x2A, 0x30]
  else if op = opRandom then [0, 1]
  else if op = opGenerate then [1, 2, 3, 4, 5, 6, 0x10, 0x18, 0x28, 0x29, 0x2A, 0x2C, 0x2D]
  else if op = opDerive then [1, 2]
  else [0]

/-- The pairs an F1 ring accepts (R78, F1 column). -/
def f1Permits (op sub : Nat) : Bool :=
  if op = opSeal ∨ op = opOpen then sub != 2
  else if op = opDigest ∨ op = opHmacGen ∨ op = opHmacVer then sub ≤ 5
  else if op = opPk then sub ≤ 0x12
  else if op = opRandom then sub == 0
  else !(List.contains [opReseed, opGenerate, opDerive] op)

/-- Opcodes that lanes run. -/
def isLane (op : Nat) : Bool := (opSeal ≤ op && op ≤ opGmacVer) || op == opCopy

/-- Opcodes that digest engines run. -/
def isDigest (op : Nat) : Bool := opDigest ≤ op && op ≤ opHmacVer

/-- PK_JOB key generations. -/
def isPkGen (op sub : Nat) : Bool := op == opPk && (sub == 0x20 || sub == 0x28)

/-- KEY_GENERATE of a type whose public key a MACU computes (R177). -/
def isAsymGen (op sub : Nat) : Bool := op == opGenerate && 0x28 ≤ sub

/-- Links that run as jobs with batches: PK_JOB and asymmetric key generation (R206). -/
def isJob (op sub : Nat) : Bool := op == opPk || isAsymGen op sub

/-- Links whose work on units is granted element by element: the jobs, and KEY_DERIVE, whose HMACs run in one digest slot
(R78, R107; log 89). -/
def hasElems (op sub : Nat) : Bool := isJob op sub || op == opDerive

/-- Key-creating opcodes (R80, R88). -/
def isCreate (op sub : Nat) : Bool :=
  op == opGenerate || op == opImport || op == opDerive || isPkGen op sub

/-- Work that an Orrery thread carries (R27). -/
def isOrrery (op sub : Nat) : Bool := isJob op sub || (opGenerate ≤ op && op ≤ opRetire)

/-- PK_JOB subops that name an operating key (R80). -/
def pkOperates (sub : Nat) : Bool :=
  sub ≤ 4 || [0x10, 0x12, 0x18, 0x19, 0x22, 0x29, 0x30].contains sub

/-- The opcode uses an operating key (R80). -/
def usesKey (op sub : Nat) : Bool :=
  (opSeal ≤ op && op ≤ opGmacVer) || op == opHmacGen || op == opHmacVer || op == opDerive || op == opRetire
    || (op == opPk && pkOperates sub)

/-- key_handle names the index a new context is written to (R80). -/
def usesTarget (op sub : Nat) : Bool := op == opGenerate || op == opImport || isPkGen op sub

/-- Chainable opcodes (R82). -/
def chainable (op : Nat) : Bool := isLane op || isDigest op || op == opPk

/-- The opcode reads no source (R66, R68, R211). -/
def noSource (op sub : Nat) : Bool := op == opGenerate || op == opRetire || isPkGen op sub

/-! ### Lengths of functions -/

/-- k, f of a parameter set (R211): modulus or field bytes. -/
def psetLen (p : Nat) : Nat :=
  match p with
  | 0x01 => 256 | 0x02 => 384 | 0x03 => 512 | 0x04 => 1024
  | 0x11 => 32 | 0x12 => 48 | 0x13 => 66
  | _ => 32

/-- Output bytes of a DIGEST function (R185); 0 for SHAKE. -/
def hashOut (c : Nat) : Nat :=
  match c with
  | 1 => 28 | 2 => 32 | 3 => 48 | 4 => 64 | 5 => 32
  | 0x11 => 28 | 0x12 => 32 | 0x13 => 48 | 0x14 => 64
  | _ => 0

/-- Block bytes of a DIGEST function (R185). -/
def hashBlk (c : Nat) : Nat :=
  match c with
  | 1 => 64 | 2 => 64 | 3 => 128 | 4 => 128 | 5 => 128
  | 0x11 => 144 | 0x12 => 136 | 0x13 => 104 | 0x14 => 72
  | 0x21 => 168
  | _ => 136

/-- The parameter sets a PK_JOB subop accepts (R79). -/
def psets (sub : Nat) : List Nat :=
  if sub ≤ 8 ∨ sub = 0x30 then [1, 2, 3, 4]
  else if sub ≤ 0x12 then [0x11, 0x12, 0x13]
  else if sub ≤ 0x1A then [0]
  else if sub ≤ 0x22 then [0x21, 0x22, 0x23]
  else [0x31, 0x32, 0x33]

/-- Encoded lengths of ML-KEM (FIPS 203): ek, ct. -/
def mlkemEk (p : Nat) : Nat := if p = 0x21 then 800 else if p = 0x22 then 1184 else 1568
def mlkemCt (p : Nat) : Nat := if p = 0x21 then 768 else if p = 0x22 then 1088 else 1568

/-- Encoded lengths of ML-DSA (FIPS 204): pk, sig. -/
def mldsaPk (p : Nat) : Nat := if p = 0x31 then 1312 else if p = 0x32 then 1952 else 2592
def mldsaSig (p : Nat) : Nat := if p = 0x31 then 2420 else if p = 0x32 then 3309 else 4627

/-! ### Fields of a header -/

/-- Word n of the parameters, n = 12 to 15. -/
def Hdr.w (h : Hdr) (n : Nat) : Nat := leAt h.params (4 * (n - 12)) 4

def Hdr.pset (h : Hdr) : Nat := fld (h.w 12) 0 8
def Hdr.pkHash (h : Hdr) : Nat := fld (h.w 12) 8 8
def Hdr.salt (h : Hdr) : Nat := fld (h.w 12) 16 8
def Hdr.policy (h : Hdr) : Nat := fld (h.w 12) 0 16
def Hdr.keyLen (h : Hdr) : Nat := fld (h.w 12) 16 16
def Hdr.outType (h : Hdr) : Nat := fld (h.w 14) 0 8
def Hdr.prf (h : Hdr) : Nat := fld (h.w 14) 8 8
def Hdr.outHash (h : Hdr) : Nat := fld (h.w 14) 16 8

def Hdr.ext (h : Hdr) (t : Nat) : Option Ext := h.exts.find? fun e => e.type == t

/-- Key staging has something to do for the packet (R80). -/
def needsKey (h : Hdr) : Bool := usesKey h.opcode h.subop || usesTarget h.opcode h.subop

/-- OPERANDS descriptor n: address, length (R67); length 0 where unused. -/
def Hdr.operand (h : Hdr) (n : Nat) : Nat × Nat :=
  match h.ext 1 with
  | none => (0, 0)
  | some e => (leAt e.body (12 + 16 * n) 8, leAt e.body (20 + 16 * n) 4)

/-- The INLINE_PARAMS string, where the block is present. -/
def Hdr.inlineParams (h : Hdr) : Option Bytes := (h.ext 2).map fun e => e.body.take e.len

/-- xts_unit: the extension's, or the whole source (R67, R137). -/
def Hdr.xtsUnit (h : Hdr) : Nat :=
  match h.ext 3 with
  | none => h.srcLen
  | some e => leAt e.body 0 4

/-- tag_len as it acts: for HMAC, 0 means the full length (R68, R188). -/
def Hdr.tagBytes (h : Hdr) : Nat :=
  if (h.opcode == opHmacGen || h.opcode == opHmacVer) && h.tagLen == 0 then hashOut h.subop else h.tagLen

/-- S, the source bytes (R68). -/
def Hdr.sLen (h : Hdr) : Nat :=
  let op := h.opcode
  if op = opSeal then h.aadLen + h.srcLen
  else if op = opOpen then h.aadLen + h.srcLen + h.tagLen
  else if op = opGmacVer ∨ op = opHmacVer then h.srcLen + h.tagBytes
  else if op = opNop ∨ op = opFence ∨ op = opRetire ∨ op = opGenerate then 0
  else h.srcLen

/-- O of a PK_JOB, or the largest it may be (R211). -/
def Hdr.pkOut (h : Hdr) : Nat :=
  let p := h.pset
  let k := psetLen p
  let hl := hashOut h.pkHash
  match h.subop with
  | 0x01 => k | 0x02 => k
  | 0x03 => k - 11
  | 0x04 => k - 2 * hl - 2
  | 0x07 => k | 0x08 => k
  | 0x10 => 2 * k
  | 0x12 => k
  | 0x18 => 32
  | 0x19 => 64
  | 0x20 => mlkemEk p
  | 0x21 => mlkemCt p + 32
  | 0x22 => 32
  | 0x28 => mldsaPk p
  | 0x29 => mldsaSig p
  | 0x30 => k
  | _ => 0

/-- Public-key bytes of an asymmetric KEY_GENERATE (R177). -/
def genOut (sub : Nat) : Nat :=
  match sub with
  | 0x28 => 65 | 0x29 => 97 | 0x2A => 133 | 0x2C => 32 | 0x2D => 32
  | _ => 0

/-- O, the output bytes, or the largest where it depends on the data (R68, R71, R211). -/
def Hdr.oLen (h : Hdr) : Nat :=
  let op := h.opcode
  if op = opSeal then h.srcLen + h.tagLen
  else if op = opOpen ∨ op = opEnc ∨ op = opDec ∨ op = opCopy then h.srcLen
  else if op = opGmacGen then h.tagLen
  else if op = opDigest then if h.subop ≥ 0x21 then h.w 12 else hashOut h.subop
  else if op = opHmacGen then h.tagBytes
  else if op = opPk then h.pkOut
  else if op = opRandom then h.dstMax
  else if op = opGenerate then genOut h.subop
  else 0

/-- O depends on the data (R83, R211). -/
def Hdr.oUnknown (h : Hdr) : Bool := h.opcode == opPk && (h.subop == 3 || h.subop == 4)

/-- O is 0 for every request of the opcode, subop and key type, and the rule is R77's and not R68's. -/
def alwaysNoOutput (op sub : Nat) : Bool :=
  (op == opGenerate && sub < 0x28) || (op == opPk && [5, 6, 0x11, 0x1A, 0x2A].contains sub)

/-- The handle is the zero handle (R64, R95). -/
def Hdr.zeroHandle (h : Hdr) : Bool :=
  h.keyIndex == 0 && h.keyPart == 0 && h.keyGen == 0 && !h.f1GenBad

/-- F1: a generation check that fails. -/
def genLow (g : Nat) : Nat := g % 256

/-! ### Reading a packet -/

/-- The extension blocks at the head of the further slots (R62, R67). -/
def readExts : Nat → Bytes → List Ext
  | 0, _ => []
  | n + 1, b => { type := byteAt b 0, len := byteAt b 1, body := slice b 4 60 } :: readExts n (b.drop 64)

/-- inline_slots of an F2 header (R45, R63). -/
def f2Slots (b : Bytes) : Nat := byteAt b 28

/-- An F2 header with the further slots' extension blocks (R62, R63). -/
def readF2 (b further : Bytes) : Hdr :=
  let w0 := leAt b 0 4
  let w5 := leAt b 20 4
  let w7 := leAt b 28 4
  let ne := fld w0 12 4
  { opcode := fld w0 0 8, fmt := fld w0 8 4, hdrExt := ne, subop := fld w0 16 8,
    chain := bit w0 24, irq := bit w0 25, fence := bit w0 26, inl := bit w0 27, ts := bit w0 28,
    tag := BitVec.ofNat 32 (leAt b 4 4), keyIndex := leAt b 8 4, keyPart := leAt b 12 2,
    keyGen := leAt b 14 2, srcLen := leAt b 16 4, aadLen := fld w5 0 16, tagLen := fld w5 16 8,
    ivLen := fld w5 24 8, dstMax := leAt b 24 4, slots := fld w7 0 8, srcGather := fld w7 8 8,
    dstGather := fld w7 16 8, src := leAt b 32 8, dst := leAt b 40 8, params := slice b 48 16,
    exts := if ne ≤ 3 ∧ ne ≤ fld w7 0 8 then readExts ne further else [] }

/-- inline_entries of an F1 header (R93). -/
def f1Entries (b : Bytes) : Nat := byteAt b 24 % 128

/-- An F1 header and its parameter entry, mapped onto F2 terms (R93 to R95), for the submitting
partition `p` at key generation `g`. `slots` counts the payload entries. -/
def readF1 (p g : Nat) (b further : Bytes) : Hdr :=
  let w0 := leAt b 0 4
  let w2 := leAt b 8 4
  let w4 := leAt b 16 4
  let w6 := leAt b 24 4
  let param := bit w0 12
  let n := f1Entries b
  let e := if param && n ≥ 1 then slice further 0 32 else zeros 32
  let zero := w2 == 0
  { opcode := fld w0 0 8, fmt := fld w0 8 4, subop := fld w0 16 8,
    irq := bit w0 25, fence := bit w0 26, inl := bit w0 27,
    tag := BitVec.ofNat 32 (leAt b 4 4), keyIndex := fld w2 0 24,
    keyPart := if zero then 0 else p, keyGen := if zero then 0 else g,
    f1GenBad := !zero && fld w2 24 8 != genLow g,
    f1Counts := decide (n > 65) || (param && n == 0) || decide (n - b2n param > 64),
    srcLen := leAt b 12 4, aadLen := fld w4 0 16, tagLen := fld w4 16 8, ivLen := fld w4 24 8,
    dstMax := leAt b 20 4, slots := n - b2n param, srcGather := fld w6 8 8, dstGather := fld w6 16 8,
    src := leAt e 0 8, dst := leAt e 8 8, params := slice e 16 16 }

/-- The payload of the further slots or entries: what follows the extension blocks, or the parameter
entry (R62, R93). -/
def payloadOf (fmt : Nat) (b further : Bytes) : Bytes :=
  if fmt = 1 then further.drop (32 * b2n (bit (leAt b 0 4) 12))
  else further.drop (64 * fld (leAt b 0 4) 12 4)

/-! ### The fetch-stage checks -/

/-- The mask bits that govern an opcode and subop (R352); none: always permitted, or governed by a flag.
For KEY_GENERATE of an HMAC or DERIVATION key the bound hash decides, for KEY_DERIVE the prf. -/
def hashBit (c : Nat) : List Nat :=
  if 1 ≤ c ∧ c ≤ 5 then [6] else if c ≥ 0x11 ∧ c ≤ 0x22 then [7] else []

/-- Mask bits of a key type; any of them permits it. `hash` is the bound hash. -/
def typeBits (t hash : Nat) : List Nat :=
  if t ≤ 3 then [0, 1, 3, 4]
  else if t ≤ 5 then [5]
  else if t = 6 then [2]
  else if t = 0x10 ∨ t = 0x18 then hashBit hash
  else if t ≤ 0x23 then [8]
  else if t ≤ 0x2A then [9, 10]
  else if t = 0x2C then [11]
  else if t = 0x2D then [12]
  else if t ≤ 0x32 then [13]
  else if t ≤ 0x3A then [14]
  else []

def maskBits (h : Hdr) : List Nat :=
  let op := h.opcode
  let sub := h.subop
  if op = opSeal ∨ op = opOpen then [sub - 1]
  else if op = opGmacGen ∨ op = opGmacVer then [0]
  else if op = opEnc ∨ op = opDec then [sub + 2]
  else if isDigest op then hashBit sub
  else if op = opPk then
    if sub ≤ 8 then [8] else if sub ≤ 0x11 then [9] else if sub = 0x12 then [10]
    else if sub = 0x18 then [11] else if sub ≤ 0x1A then [12] else if sub ≤ 0x22 then [13]
    else if sub ≤ 0x2A then [14] else []
  else if op = opGenerate then typeBits sub h.outHash
  else if op = opDerive then hashBit h.prf
  else []

/-- The Charter's mask permits the algorithm; MODEXP is governed by its own flag (R352). -/
def permitted (e : PartEntry) (h : Hdr) : Bool :=
  let b := maskBits h
  if h.opcode = opPk ∧ h.subop = 0x30 then e.modexp
  else b.isEmpty || b.any fun i => bit e.algMask i

/-- Extension types that the opcode uses: R67 gives OPERANDS and INLINE_PARAMS to PK_JOB and KEY_DERIVE, CIPHER_PARAMS
to XTS (R67, R179, R211). -/
def extTypes (op sub : Nat) : List Nat :=
  if op = opPk then [1, 2]
  else if op = opDerive then [1, 2]
  else if (op = opEnc ∨ op = opDec) ∧ sub = 3 then [3]
  else []

/-- OPERANDS descriptors that the opcode and subop use (R179, R211). -/
def operandUse (op sub : Nat) : List Nat :=
  if op = opDerive then [0]
  else match sub with
    | 0x05 => [0, 1] | 0x06 => [0, 1] | 0x07 => [0] | 0x08 => [0]
    | 0x11 => [0, 1] | 0x1A => [0, 1] | 0x29 => [0] | 0x2A => [0, 1, 2]
    | _ => []

/-- The types of the blocks are distinct. -/
def distinctExts : List Ext → Bool
  | [] => true
  | e :: l => !(l.any fun x => x.type == e.type) && distinctExts l

/-- Row 1 of R442: EXTENSION. `read` says that the further slots were read. An ext_len of INLINE_PARAMS above its 60-byte
body is EXTENSION (DESIGN CHOICE, log 83). -/
def badExtension (read : Bool) (h : Hdr) : Bool :=
  decide (h.hdrExt > 3) || decide (h.hdrExt > h.slots)
    || (h.hdrExt > 0 && (extTypes h.opcode h.subop).isEmpty)
    || (read && (!distinctExts h.exts
      || h.exts.any (fun e => !(extTypes h.opcode h.subop).contains e.type)
      || h.exts.any (fun e => e.type == 2 && decide (e.len > 60))
      || (h.exts.any fun e => e.type == 1 &&
          ((slice e.body 0 12).any (· != 0)
            || [0, 1, 2].any fun n => leAt e.body (24 + 16 * n) 4 != 0
                || (leAt e.body (20 + 16 * n) 4 != 0 && !(operandUse h.opcode h.subop).contains n)))
      || (h.opcode == opDerive && ((h.operand 1).1 != 0 || (h.operand 2).1 != 0 || ((h.ext 1).isSome && (h.ext 2).isSome)))))

/-- The parameter words break R70, R129, R166, R167 or R212; PK_JOB ignores the reserved W12[31:24] (R5, R70). -/
def badParams (h : Hdr) : Bool :=
  let op := h.opcode
  let sub := h.subop
  let wz := fun n => h.w n != 0
  if (opSeal ≤ op && op ≤ opGmacVer) then (h.params.drop h.ivLen).any (· != 0)
  else if op = opDigest then
    if sub ≥ 0x21 then wz 13 || wz 14 || wz 15 else h.params.any (· != 0)
  else if op = opPk then
    wz 13 || wz 14 || wz 15
      || (if sub ≤ 8 then !hashCodes.contains h.pkHash
          else if sub = 0x10 then h.pkHash != 0 && !hashCodes.contains h.pkHash
          else h.pkHash != 0)
      || (h.salt != 0 && sub != 2 && sub != 6)
  else if op = opGenerate then
    wz 13 || wz 15 || h.policy ≥ 0x1000 || h.outType != 0 || h.prf != 0 || fld (h.w 14) 24 8 != 0
      || (if sub = 0x10 then !hashCodes.contains h.outHash
          else if sub = 0x18 then h.outHash != 0 && !hashCodes.contains h.outHash
          else h.outHash != 0 || h.keyLen != 0)
  else if op = opDerive then
    wz 13 || h.policy ≥ 0x1000 || fld (h.w 14) 24 8 != 0
      || !(List.contains [1, 2, 3, 4, 5, 6, 0x10, 0x18] h.outType)
      || !(List.contains [2, 3, 4, 0x11, 0x12, 0x13, 0x14] h.prf)
      || (if h.outType = 0x10 then !hashCodes.contains h.outHash
          else if h.outType = 0x18 then h.outHash != 0 && !hashCodes.contains h.outHash
          else h.outHash != 0 || h.keyLen != 0)
  else h.params.any (· != 0)

/-- Fields that R68 lists as 0 for the opcode are not. -/
def badZeroFields (h : Hdr) : Bool :=
  let op := h.opcode
  let dst := h.dst != 0 || h.dstGather != 0
  let len3 := h.aadLen != 0 || h.tagLen != 0 || h.ivLen != 0
  if op = opSeal ∨ op = opOpen then false
  else if op = opEnc ∨ op = opDec then h.aadLen != 0 || h.tagLen != 0
  else if op = opGmacGen then h.aadLen != 0
  else if op = opGmacVer then h.aadLen != 0 || dst
  else if op = opHmacGen then h.aadLen != 0 || h.ivLen != 0
  else if op = opHmacVer then h.aadLen != 0 || h.ivLen != 0 || dst
  else if op = opReseed then len3 || dst || h.dstMax != 0 || !h.zeroHandle
  else if op = opCopy then len3 || !h.zeroHandle
  else if op = opGenerate then len3 || h.srcLen != 0
  else if op = opImport ∨ op = opDerive then len3 || dst
  else if op = opRetire then
    len3 || dst || h.srcLen != 0 || h.dstMax != 0 || h.src != 0 || h.srcGather != 0
  else len3

def addrBad (a : Nat) : Bool := decide (a ≥ 2 ^ 52)

/-- Row 4 of R442: an address of more than 52 bits, or not 0 where the request does not use it: a source of no bytes that
names no list, a link buffer, a descriptor of length 0 (R65, log 104). With INLINE, R66 gives a nonzero src another detail. -/
def badAddress (read : Bool) (h : Hdr) : Bool :=
  addrBad h.src || (!h.inl && h.src != 0 && (h.srcGather == 0xFF || (h.srcGather == 0 && h.sLen == 0)))
    || addrBad h.dst || (h.dstGather == 0xFF && h.dst != 0)
    || (read && [0, 1, 2].any fun n => addrBad (h.operand n).1 || ((h.operand n).2 == 0 && (h.operand n).1 != 0))

/-- The MALFORMED checks of R442 that one packet decides, in their rows; `link` its number in the chain
so far, `chained` whether it is part of a chain. Where the rules name no detail the model takes one (DESIGN CHOICE,
log 83): FIELD for broken F1 entry counts and for a source length on a key generation, CHAIN_ROUTE for a link buffer
on an opcode that may not be chained, FLAGS for TIMESTAMP on KEY_DERIVE. -/
def malformed (read : Bool) (attr : Attr) (link : Nat) (h : Hdr) : Option Stat :=
  let op := h.opcode
  let sub := h.subop
  let chained := h.chain || link > 0
  let known := read || attr.fmt != 1
  let fieldBad := h.f1Counts || badZeroFields h || (isPkGen op sub && h.srcLen != 0) || (known && badParams h)
  let zero := h.zeroHandle
  let payload := h.slots - h.hdrExt
  if badExtension read h then some (stMalformed dExtension)
  else if fieldBad then some (stMalformed dField)
  else if zero == (usesKey op sub || usesTarget op sub) then some (stMalformed dKeyHandle)
  else if badAddress read h then some (stMalformed dAddress)
  else if (noSource op sub && h.srcGather != 0)
      || (attr.fmt == 1 && (h.srcGather == 0xFF || h.dstGather == 0xFF)) then
    some (stMalformed dGatherCount)
  else if (1 ≤ h.srcGather && h.srcGather ≤ 254 && h.src % 16 != 0)
      || (1 ≤ h.dstGather && h.dstGather ≤ 254 && h.dst % 16 != 0) then some (stMalformed dAlignment)
  else if (h.fence && link > 0) || (h.ts && isCreate op sub) then some (stMalformed dFlags)
  else if (h.inl && (h.srcGather != 0 || h.src != 0 || op == opGenerate || op == opRetire))
      || (!h.inl && payload > 0) then some (stMalformed dInline)
  else if h.chain && link == 7 then some (stMalformed dChainLength)
  else if chained && !chainable op then some (stMalformed dChainOpcode)
  else if (link == 0 && h.srcGather == 0xFF) || (!h.chain && h.dstGather == 0xFF) then
    some (stMalformed dChainRoute)
  else if alwaysNoOutput op sub then
    if h.dst != 0 || h.dstGather != 0 then some (stMalformed dDestination) else none
  else if known && h.oLen > 0 && !attr.stream && h.dst == 0 && h.dstGather == 0 then some (stMalformed dDestination)
  else none

/-- Inline output on a stream ring (R77). -/
def inlineOut (attr : Attr) (h : Hdr) : Bool := attr.stream && h.dst == 0 && h.dstGather == 0 && h.oLen > 0

/-- tag_len is outside the set of R128 or R188. -/
def badTagLen (h : Hdr) : Bool :=
  let op := h.opcode
  let t := h.tagLen
  if op = opSeal ∨ op = opOpen then
    match h.subop with
    | 1 => !(12 ≤ t && t ≤ 16)
    | 2 => !(List.contains [4, 6, 8, 10, 12, 14, 16] t)
    | _ => t != 16
  else if op = opGmacGen ∨ op = opGmacVer then !(12 ≤ t && t ≤ 16)
  else if op = opHmacGen ∨ op = opHmacVer then t != 0 && !(10 ≤ t && t ≤ hashOut h.subop)
  else false

/-- iv_len is outside the set of R128. -/
def badIvLen (h : Hdr) : Bool :=
  let op := h.opcode
  let n := h.ivLen
  if op = opSeal ∨ op = opOpen then
    let z := op = opSeal && n == 0
    match h.subop with
    | 1 => !(z || (1 ≤ n && n ≤ 16))
    | 2 => !(z || (7 ≤ n && n ≤ 13))
    | _ => !(z || n == 12)
  else if op = opGmacGen then n > 16
  else if op = opGmacVer then !(1 ≤ n && n ≤ 16)
  else if op = opEnc ∨ op = opDec then n != 16
  else false

/-- A length beyond a bound of the standard or of R68 (R128, R167, R187, R211, R212). -/
def badStandard (h : Hdr) : Bool :=
  let op := h.opcode
  let sub := h.subop
  let k := psetLen h.pset
  let hl := hashOut h.pkHash
  if (op = opSeal ∨ op = opOpen) ∧ sub = 2 then
    let n := if h.ivLen = 0 then 12 else h.ivLen
    decide (h.srcLen ≥ 256 ^ (15 - n))
  else if op = opDigest ∧ sub ≥ 0x21 then !(1 ≤ h.w 12 && h.w 12 ≤ 65536)
  else if op = opRandom then h.srcLen > 256 || !(1 ≤ h.dstMax && h.dstMax ≤ 65536)
  else if op = opReseed then h.srcLen > 256
  else if op = opImport then !(1 ≤ h.srcLen && h.srcLen ≤ 8448)
  else if op = opGenerate ∨ op = opDerive then
    let t := if op = opGenerate then sub else h.outType
    (op = opDerive && (h.srcLen > 1024 || (h.operand 0).2 > 1024))
      || (t = 0x10 && !(16 ≤ h.keyLen && h.keyLen ≤ 144))
      || (t = 0x18 && !(16 ≤ h.keyLen && h.keyLen ≤ 64))
  else if op = opPk then
    (h.salt > hl)
      || (sub = 7 && h.srcLen > k - 11) || (sub = 8 && h.srcLen > k - 2 * hl - 2)
      || ((sub = 0x19 || sub = 0x1A || sub = 0x29 || sub = 0x2A) && h.srcLen > 65536)
      || (sub = 0x29 && (h.operand 0).2 > 255) || (sub = 0x2A && (h.operand 2).2 > 255)
  else false

/-- LENGTH_LIMIT in the order of its details in R91 (DESIGN CHOICE, log 106). -/
def lengthLimit (attr : Attr) (h : Hdr) : Option Stat :=
  let o := h.oLen
  if h.sLen ≥ 2 ^ 32 ∨ o ≥ 2 ^ 32 then some (stLengthLimit 1)
  else if badStandard h then some (stLengthLimit 2)
  else if o > 0 ∧ o > h.dstMax then some (stLengthLimit 3)
  else if badTagLen h then some (stLengthLimit 4)
  else if badIvLen h then some (stLengthLimit 5)
  else if h.dstGather = 0xFF ∧ o > 65536 then some (stLengthLimit 6)
  else if inlineOut attr h ∧ o > 16384 then some (stLengthLimit 7)
  else if (h.opcode = opEnc ∨ h.opcode = opDec) ∧ h.subop = 3 ∧ h.xtsUnit > 2 ^ 24 then some (stLengthLimit 8)
  else none

/-- PARTIAL_BLOCK (R128, R137). -/
def partialBlock (h : Hdr) : Option Stat :=
  if h.opcode = opEnc ∨ h.opcode = opDec then
    if h.subop = 1 ∧ h.srcLen % 16 ≠ 0 then some (stPartial 1)
    else if h.subop = 3 ∧ (h.srcLen = 0 ∨ h.srcLen % 16 ≠ 0) then some (stPartial 2)
    else if h.subop = 3 ∧ (h.xtsUnit < 16 ∨ h.xtsUnit % 16 ≠ 0) then some (stPartial 3)
    else none
  else none

/-- The inline slot count (R72). -/
def inlineMismatch (attr : Attr) (h : Hdr) : Option Stat :=
  let unit := if attr.fmt = 1 then 32 else 64
  if h.inl ∧ h.slots - h.hdrExt ≠ cdiv h.sLen unit then some (stMismatch 1) else none

/-- The length of a stream frame of n bytes, checked in the data stage (R72, R90). -/
def frameMismatch (n : Nat) (h : Hdr) : Option Stat :=
  if n ≠ 64 * (1 + h.hdrExt) + (if h.inl then h.sLen else 0) then some (stMismatch 3) else none

/-- The fetch checks that one packet decides, in the order of R90. NOP and FENCE are checked for W0 and
W7[7:0] alone (R64). `read` says that what the header's fields announce was read: an F1 packet's parameter entry
that was not (R278) is checked by no rule. -/
def fetchCheck (read : Bool) (e : PartEntry) (attr : Attr) (link : Nat) (h : Hdr) : Option Stat :=
  let op := h.opcode
  let first (l : List (Option Stat)) : Option Stat := l.findSome? id
  if h.fmt ≠ attr.fmt then some (stMalformed dFormat)
  else if !opcodes.contains op then some (stUnsupported 1)
  else if !(subops op).contains h.subop then some (stUnsupported 2)
  else if op = opPk ∧ (read || attr.fmt != 1) ∧ !(psets h.subop).contains h.pset then some (stUnsupported 3)
  else if attr.fmt = 1 ∧ !f1Permits op h.subop then some (stUnsupported 4)
  else if !permitted e h then some (stUnsupported 5)
  else if op = opNop ∨ op = opFence then
    if h.hdrExt ≠ 0 then some (stMalformed dExtension)
    else if h.f1Counts then some (stMalformed dField)
    else if h.fence ∧ link > 0 then some (stMalformed dFlags)
    else if h.inl ∨ h.slots > 0 then some (stMalformed dInline)
    else if h.chain ∧ link = 7 then some (stMalformed dChainLength)
    else if h.chain ∨ link > 0 then some (stMalformed dChainOpcode)
    else none
  else first [malformed read attr link h, inlineMismatch attr h,
    if op = opPk ∧ !read ∧ attr.fmt = 1 then none else lengthLimit attr h, partialBlock h]

/-- The place of a fetch-stage failure in the order of R90 and R442, to merge a link's own failure with
the chain's. -/
def fetchRank (t : Stat) : Nat :=
  if t.code = 0x60 then
    if t.detail = dFormat then 0
    else 200 + (([dExtension, dField, dKeyHandle, dAddress, dGatherCount, dAlignment, dFlags, dInline,
      dChainLength, dChainOpcode, dChainRoute, dDestination].idxOf? t.detail).getD 12)
  else if t.code = 0x61 then 100
  else if t.code = 0x21 then 300
  else if t.code = 0x20 then 400
  else 500

/-- The packet takes its source from the link buffer, or directs its output there; the gather counts of a NOP or FENCE
are ignored (R64, R68, R83). -/
def Hdr.takesBuf (h : Hdr) : Bool := h.srcGather == 0xFF && h.opcode != opNop && h.opcode != opFence
def Hdr.givesBuf (h : Hdr) : Bool := h.dstGather == 0xFF && h.opcode != opNop && h.opcode != opFence

/-- The checks between links k - 1, k and k + 1 (R83): routing, and S against the previous O where both
are known. -/
def chainPair (prev : Option Hdr) (h : Hdr) (next : Option Hdr) : Option Stat :=
  let noPrev := match prev with
    | some p => h.takesBuf && !p.givesBuf
    | none => false
  let noNext := match next with
    | some n => h.givesBuf && !n.takesBuf
    | none => false
  if noPrev || noNext then some (stMalformed dChainRoute)
  else match prev with
    | some p => if h.takesBuf ∧ !p.oUnknown ∧ h.sLen ≠ p.oLen then some (stMismatch 4) else none
    | none => none

/-- The earlier of two failures in the order of R90. -/
def earlierStat : Option Stat → Option Stat → Option Stat
  | none, b => b
  | some a, none => some a
  | some a, some b => if fetchRank b < fetchRank a then some b else some a

/-- The checks of a whole chain: each link's own result merged with the routing checks; the first failing
link keeps its status and every other is CHAIN_ABANDONED with its number (R82). -/
def chainPairs : Option Hdr → List (Hdr × Option Stat) → List (Option Stat)
  | _, [] => []
  | prev, (h, own) :: l =>
    earlierStat own (chainPair prev h (l.head?.map (·.1))) :: chainPairs (some h) l

def chainCheck (l : List (Hdr × Option Stat)) : Option Nat × List (Option Stat) :=
  let r := chainPairs none l
  match r.findIdx? (·.isSome) with
  | none => (none, r)
  | some k => (some k, (List.range r.length).map fun i => if i = k then (r[i]?).getD none
      else some (stAbandoned k))

/-! ### Gather lists (R74, R75) -/

/-- A list of n elements as read: each element with its LAST and BAD bits. -/
def readElems : Nat → Bytes → List (Elem × Bool × Bool)
  | 0, _ => []
  | n + 1, b =>
    let w := leAt b 8 4
    ({ addr := leAt b 0 8, len := fld w 0 24, swap := fld w 24 2 }, bit w 26, bit w 27)
      :: readElems n (b.drop 16)

/-- The unit of a swap. -/
def swapUnit (k : Nat) : Nat := if k = 1 then 2 else if k = 0 then 1 else 4

/-- The detail of the first element that breaks R65 (ADDRESS) or R75 (GATHER_ELEMENT). -/
def elemsBad : List (Elem × Bool × Bool) → Option Nat
  | [] => none
  | (e, last, bad) :: l =>
    if addrBad e.addr then some dAddress
    else if e.len == 0 || bad || e.len % swapUnit e.swap != 0 || last != l.isEmpty then some dGatherElem
    else elemsBad l

/-- One swap unit turned about (R74); bytes that fill no whole unit stay as they are (log 16). -/
def swapChunk (k : Nat) (c : Bytes) : Bytes :=
  if c.length < swapUnit k then c
  else match k with
  | 1 => c.reverse
  | 2 => c.drop 2 ++ c.take 2
  | 3 => c.reverse
  | _ => c

/-- The byte string of an element with its swap applied (R270). -/
def applySwap (k : Nat) (b : Bytes) : Bytes :=
  if k = 0 then b else ((chunk (swapUnit k) b).map (swapChunk k)).flatten

end Sys2Proof.Machine
end

