-- ==== Sys2Proof/Machine/Costs.lean ====
section
/-! DEFINITION. The cost model, segmenting, and the fixed sequences of public-key jobs (R104 to R108,
R134, R191, R192, R205, R220, R221). -/

namespace Sys2Proof.Machine

/-! ### Lane segments (R105, R108, R134) -/

/-- The bytes that segments cover: AAD and payload, without a tag to be checked (R108). -/
def Hdr.cover (h : Hdr) : Nat := h.aadLen + h.srcLen

/-- AAD bytes as the lane counts them: for GMAC the whole source (R105, R132). -/
def Hdr.aadCover (h : Hdr) : Nat :=
  if h.opcode = opGmacGen ∨ h.opcode = opGmacVer then h.srcLen else h.aadLen

/-- Rounds of a key type (R105). -/
def rounds (kt : Nat) : Nat :=
  match kt with
  | 1 => 10 | 2 => 12 | 4 => 10 | _ => 14

/-- ⌈b × f⌉ (R105). -/
def feed (kt b : Nat) : Nat :=
  match kt with
  | 1 => cdiv (4 * b) 5 | 2 => cdiv (7 * b) 8 | 4 => cdiv (4 * b) 5 | _ => b

/-- AAD blocks that end at or before source position e; the partial last block ends with the AAD. -/
def aadBlocks (h : Hdr) (e : Nat) : Nat :=
  if e ≥ h.aadCover then cdiv h.aadCover 16 else e / 16

/-- Payload blocks that end at or before source position e. -/
def payBlocks (h : Hdr) (e : Nat) : Nat :=
  let n := h.cover - h.aadCover
  let x := e - h.aadCover
  if x ≥ n then cdiv n 16 else x / 16

/-- Bytes of the AAD length encoding (R133). -/
def ccmEnc (aad : Nat) : Nat := if aad = 0 then 0 else if aad < 65280 then 2 else 6

/-- CBC-MAC blocks of the formatted input, without B0, that end at or before source position e (R134). -/
def ccmBlocks (h : Hdr) (e : Nat) : Nat :=
  let a := h.aadLen
  let enc := ccmEnc a
  (if e ≥ a then (if a = 0 then 0 else cdiv (enc + a) 16) else (enc + e) / 16) + payBlocks h e

/-- The cost of the lane segment from p to e; the body of an empty input is 0, but for a CCM seal's (R104, R105, R130; for a
CCM open, log 91). -/
def laneCost (h : Hdr) (kt p e : Nat) (last pair : Bool) : Nat :=
  let op := h.opcode
  let sub := h.subop
  let first := decide (p = 0)
  let setup := if first then 40 else 24
  let a := aadBlocks h e - aadBlocks h p
  let b := payBlocks h e - payBlocks h p
  let fin := if last then 20 else 0
  let body :=
    if op = opGmacGen ∨ op = opGmacVer then cdiv a 2 + fin
    else if op = opSeal ∨ op = opOpen then
      if sub = 1 then cdiv a 2 + feed kt b + fin
      else if h.cover = 0 ∧ ¬ (op = opSeal ∧ sub = 2) then fin
      else if sub = 2 then (rounds kt + 2) * (b2n first + (ccmBlocks h e - ccmBlocks h p)) + fin
      else cdiv ((a + b + b2n last) * 64) 25 + fin
    else if op = opCopy then cdiv (e - p) 20
    else if sub = 1 then if op = opEnc then b * (rounds kt + 2) else feed kt b
    else if sub = 2 then feed kt b
    else feed kt b + (rounds kt + 2) * (cdiv e h.xtsUnit - cdiv p h.xtsUnit)
  setup + body + 8 * b2n pair

/-- The largest multiple of 64 from 64 × n down whose continuation cost fits. -/
def laneFit (h : Hdr) (kt p budget : Nat) (pair : Bool) : Nat → Nat
  | 0 => 0
  | n + 1 =>
    if laneCost h kt p (p + 64 * (n + 1)) false pair ≤ budget then 64 * (n + 1)
    else laneFit h kt p budget pair n

/-- The next segment of a lane link at source position p: its length and whether it is the last; none
where not even 64 bytes fit (R108). -/
def laneCut (h : Hdr) (kt p limit budget : Nat) (pair : Bool) : Option (Nat × Bool) :=
  let rem := h.cover - p
  if rem ≤ limit ∧ laneCost h kt p (p + rem) true pair ≤ budget then some (rem, true)
  else
    let n := laneFit h kt p budget pair (min limit (rem - 1) / 64)
    if n = 0 then none else some (n, false)

/-- The next zero-fill segment: up to 4 × M bytes, a multiple of 64 but for the last (R105, R108). -/
def zeroCut (rem m budget : Nat) (pair : Bool) : Option (Nat × Nat) :=
  let room := min (4 * m) (32 * (budget - 16 - 8 * b2n pair))
  let n := if rem ≤ room then rem else room / 64 * 64
  if n = 0 then none else some (n, 16 + cdiv n 32 + 8 * b2n pair)

/-! ### Digest segments (R106, R191, R192) -/

/-- The body of k blocks (R106). -/
def digestBody (c k : Nat) : Nat :=
  if c ≤ 2 then cdiv (k * 1024) 15 else if c ≤ 5 then cdiv (k * 256) 3 else 25 * k

/-- Blocks of a message of n bytes with its padding. -/
def paddedBlocks (c n : Nat) : Nat :=
  if c ≤ 2 then cdiv (n + 9) 64 else if c ≤ 5 then cdiv (n + 17) 128 else n / hashBlk c + 1

/-- Squeeze permutations after the first output block (R192). -/
def squeezes (c xof : Nat) : Nat := if c ≥ 0x21 then cdiv xof (hashBlk c) - 1 else 0

/-- A digest segment: bytes covered, whether the last absorbing one, squeezes in it, cost. -/
structure DigSeg where
  len  : Nat
  last : Bool
  sq   : Nat
  cost : Nat
  deriving DecidableEq, Repr

/-- The next digest segment at position p of a message of n bytes, of which `done` says that all is
absorbed and `sq` squeezes are made; none where nothing is left (R191, R192). -/
def digestCut (c n xof : Nat) (mac : Bool) (p : Nat) (done : Bool) (sq limit budget : Nat) :
    Option DigSeg :=
  let blk := hashBlk c
  let total := squeezes c xof
  if done then
    if sq ≥ total then none
    else
      let j := min (total - sq) ((budget - 16) / 25)
      if j = 0 then none else some ⟨0, false, j, 16 + 25 * j⟩
  else
    let rem := n - p
    let k := paddedBlocks c n - p / blk
    let costLast := 16 + digestBody c k + (if mac then digestBody c 1 else 0)
    if rem ≤ limit ∧ costLast ≤ budget then
      let j := min total ((budget - costLast) / 25)
      some ⟨rem, true, j, costLast + 25 * j⟩
    else
      let byCost := if c ≤ 2 then (budget - 16) * 15 / 1024
        else if c ≤ 5 then (budget - 16) * 3 / 256 else (budget - 16) / 25
      let m := min byCost (min limit rem / blk)
      if m = 0 then none else some ⟨m * blk, false, 0, 16 + digestBody c m⟩

/-- The slots that the hash of a caller's message takes from byte p on, one for each segment (R106, R191, R209). -/
def hashElemsF (mac : Bool) (c n limit budget : Nat) : Nat → Nat → List JElem
  | 0, _ => []
  | fuel + 1, p => match digestCut c n 0 mac p false 0 limit budget with
    | none => []
    | some g => .hash g.cost g.last :: if g.last then [] else hashElemsF mac c n limit budget fuel (p + g.len)

/-- The slots of a message of n bytes. -/
def hashElems (c n limit budget : Nat) : List JElem := hashElemsF false c n limit budget (n / 64 + 2) 0

/-- The slots of an HMAC over n bytes whose key states are not held: its two key blocks count with the message (R106, R107; log
89). -/
def hmacElems (c n limit budget : Nat) : List JElem :=
  let m := 2 * hashBlk c + n
  hashElemsF true c m limit budget (m / 64 + 2) 0

/-! ### Jobs (R205, R220, R221) -/

/-- A phase of n steps of c clocks packed into batches of at most lam clocks (R205). -/
def phase (lam n c : Nat) : List JElem :=
  let per := lam / c
  if per = 0 then [] else
  List.replicate (n / per) (.batch (per * c)) ++ (if n % per = 0 then [] else [.batch (n % per * c)])

def slots (n : Nat) : List JElem := List.replicate n .slot

/-- The RSA size index, 0 for 2048 to 3 for 8192. -/
def sizeIx (p : Nat) : Nat := p - 1

/-- The ECC size index. -/
def curveIx (p : Nat) : Nat := p - 0x11

/-- Regions of an operation (R220). -/
def jobRegions (op sub pset : Nat) : Nat :=
  if op = opGenerate then 1
  else if sub ≤ 4 ∨ sub = 0x30 then [1, 1, 2, 4].getD (sizeIx pset) 4
  else if sub ≤ 8 then [1, 1, 1, 2].getD (sizeIx pset) 2
  else if sub ≤ 0x1A then 1
  else if sub ≤ 0x22 then pset - 0x1F
  else [3, 4, 4].getD (pset - 0x31) 4

/-- The sequence of an operation in its fixed order, and the number of its validation batches (R220,
R221). `msg` are the slots of its message hash, `msg2` those of Ed25519's second, `kappa` the iterations of MLDSA_SIGN, `extra`
the expansion slots added by R216. -/
def jobSeq (lam op sub pset : Nat) (msg msg2 : List JElem) (kappa extra : Nat) : List JElem × Nat :=
  let ph := phase lam
  let ix := sizeIx pset
  let cx := curveIx pset
  let vOf (n c : Nat) := ph n c
  let withV (v : List JElem) (rest : List JElem) := (v ++ rest, v.length)
  let rsaPriv := ph ([1330, 3591, 7093, 68816].getD ix 0) ([64, 80, 96, 67].getD ix 1)
  let rsaV := vOf 1 ([213, 300, 390, 600].getD ix 1)
  let rsaPub := ph ([64, 64, 64, 256].getD ix 0) ([160, 320, 560, 560].getD ix 1)
  let pubV := vOf 1 ([120, 160, 200, 300].getD ix 1)
  let ecdhM (i : Nat) := ph ([330, 570, 760].getD i 0) ([96, 192, 320].getD i 1)
  let eccV := vOf 1 ([160, 300, 500].getD cx 1)
  if op = opGenerate then
    if sub = 0x2C then (ph 420 64, 0)
    else if sub = 0x2D then (slots 1 ++ ph 180 64, 0)
    else (ecdhM (sub - 0x28), 0)
  else match sub with
    | 0x01 => withV rsaV rsaPriv
    | 0x02 => withV rsaV (slots 1 ++ rsaPriv)
    | 0x03 => withV rsaV rsaPriv
    | 0x04 => withV rsaV (rsaPriv ++ slots 1)
    | 0x05 => withV pubV rsaPub
    | 0x06 => withV pubV (rsaPub ++ slots 1)
    | 0x07 => withV pubV rsaPub
    | 0x08 => withV pubV (slots 1 ++ rsaPub)
    | 0x10 => withV (vOf 1 ([84, 150, 250].getD cx 1))
        (slots 1 ++ ph ([350, 600, 800].getD cx 0) ([96, 192, 320].getD cx 1))
    | 0x11 => withV eccV (ph ([440, 760, 1000].getD cx 0) ([96, 192, 320].getD cx 1))
    | 0x12 => withV eccV (ecdhM cx)
    | 0x18 => withV (vOf 1 40) (ph 420 64)
    | 0x19 => withV (vOf 1 40) (slots 1 ++ ph 180 64 ++ msg ++ ph 180 64 ++ msg2 ++ ph 10 64)
    | 0x1A => withV (vOf 5 400) (msg ++ ph 300 64)
    | 0x20 => (slots ([1, 2, 2].getD (pset - 0x21) 1 + extra) ++ ph ([100, 170, 270].getD (pset - 0x21) 0) 80, 0)
    | 0x21 => withV (vOf 1 ([70, 99, 130].getD (pset - 0x21) 1))
        (slots ([1, 2, 2].getD (pset - 0x21) 1 + extra) ++ ph ([110, 187, 300].getD (pset - 0x21) 0) 80)
    | 0x22 => withV (vOf 1 ([60, 80, 100].getD (pset - 0x21) 1))
        (slots ([1, 2, 2].getD (pset - 0x21) 1 + extra) ++ ph ([145, 245, 390].getD (pset - 0x21) 0) 80 ++ slots 1)
    | 0x28 => (slots ([3, 4, 6].getD (pset - 0x31) 3 + extra) ++ ph ([90, 130, 200].getD (pset - 0x31) 0) 96, 0)
    | 0x29 =>
      let i := pset - 0x31
      let iter := slots 1 ++ ph ([80, 120, 200].getD i 0) 96 ++ slots 1 ++ ph ([30, 40, 60].getD i 0) 96
      withV (vOf 1 ([100, 158, 220].getD i 1))
        (msg ++ slots ([2, 3, 4].getD i 2 + extra) ++ ph ([140, 208, 320].getD i 0) 96
          ++ (List.replicate kappa iter).flatten)
    | 0x2A =>
      let i := pset - 0x31
      withV (vOf 1 ([110, 150, 200].getD i 1))
        (msg ++ slots ([2, 3, 4].getD i 2 + extra) ++ ph ([100, 150, 230].getD i 0) 96 ++ slots 1)
    | _ => withV pubV (ph ([1280, 1280, 1280, 5120].getD ix 0) ([160, 320, 560, 560].getD ix 1))

/-- The longest main-step cost is 896 clocks, so a batch limit of 896 suffices for every job (R205). -/
def minJobWindow : Nat := 896

end Sys2Proof.Machine
end

