-- ==== Sys2Proof/Machine/Modes.lean ====
section
/-! DEFINITION. What a lane computes, byte for byte (R131 to R139): the modes of AES and
ChaCha20-Poly1305. -/

namespace Sys2Proof.Machine

/-- The keystream blocks E_K(f 0), E_K(f 1), ... cut to `n` bytes. -/
def keystream (rk : List Bytes) (ctr : Nat → Bytes) (n : Nat) : Bytes :=
  ((List.range (cdiv n 16)).flatMap fun j => aesEncRk rk (ctr j)).take n

/-- R131 step 3: the last 32 bits of the block plus `n`, modulo 2^32. -/
def inc32 (block : Bytes) (n : Nat) : Bytes :=
  block.take 12 ++ natBE ((beNat (block.drop 12) + n) % 2 ^ 32) 4

/-- Multiplication in GF(2^128) in the bit order of SP 800-38D, blocks read as 128-bit numbers with
the first bit most significant. -/
def gfMulF (x : Nat) : Nat → Nat → Nat → Nat
  | 0, _, z => z
  | n + 1, v, z =>
    gfMulF x n (if v % 2 = 1 then (v >>> 1) ^^^ (0xE1 <<< 120) else v >>> 1)
      (if x.testBit n then z ^^^ v else z)

/-- x · y. -/
def gfMul (x y : Nat) : Nat := gfMulF x 128 y 0

/-- GHASH_H continued from `acc` over a string that is a multiple of 16 bytes long. -/
def ghashFrom (h : Nat) (acc : Nat) (l : Bytes) : Nat :=
  (chunk 16 l).foldl (fun a b => gfMul (a ^^^ beNat b) h) acc

/-- GHASH_H. -/
def ghash (h : Nat) (l : Bytes) : Nat := ghashFrom h 0 l

/-- H = E_K(0^128) (R131 step 1). -/
def gcmH (rk : List Bytes) : Nat := beNat (aesEncRk rk (zeros 16))

/-- J0 (R131 step 2). -/
def gcmJ0 (rk : List Bytes) (iv : Bytes) : Bytes :=
  if iv.length = 12 then iv ++ [0, 0, 0, 1]
  else natBE (ghash (gcmH rk) (padTo 16 iv ++ zeros 8 ++ natBE (8 * iv.length) 8)) 16

/-- The payload transform: encryption and decryption are one function. -/
def gcmCrypt (key iv payload : Bytes) : Bytes :=
  let rk := aesExpand key
  let j0 := gcmJ0 rk iv
  xorB payload (keystream rk (fun j => inc32 j0 (j + 1)) payload.length)

/-- The full 16-byte tag over AAD and ciphertext (R131 steps 4 and 5). -/
def gcmTag (key iv aad ct : Bytes) : Bytes :=
  let rk := aesExpand key
  let s := ghash (gcmH rk)
    (padTo 16 aad ++ padTo 16 ct ++ natBE (8 * aad.length) 8 ++ natBE (8 * ct.length) 8)
  xorB (aesEncRk rk (gcmJ0 rk iv)) (natBE s 16)

/-- CCM flags byte, B0, AAD encoding and formatted input (R133). -/
def ccmInput (nonce aad payload : Bytes) (t : Nat) : Bytes :=
  let n := nonce.length
  let q := 15 - n
  let flags := (if aad.isEmpty then 0 else 0x40) + 8 * ((t - 2) / 2) + (q - 1)
  let b0 := [BitVec.ofNat 8 flags] ++ nonce ++ natBE payload.length q
  let enc : Bytes :=
    if aad.isEmpty then []
    else if aad.length < 0xFF00 then natBE aad.length 2
    else [0xFF, 0xFE] ++ natBE aad.length 4
  b0 ++ padTo 16 (enc ++ aad) ++ padTo 16 payload

/-- Ctr_i (R133). -/
def ccmCtr (nonce : Bytes) (i : Nat) : Bytes :=
  let q := 15 - nonce.length
  [BitVec.ofNat 8 (q - 1)] ++ nonce ++ natBE i q

/-- CBC-MAC continued from a chaining value. -/
def cbcMac (rk : List Bytes) (acc : Bytes) (l : Bytes) : Bytes :=
  (chunk 16 l).foldl (fun a b => aesEncRk rk (xorB a b)) acc

/-- The CCM payload transform. -/
def ccmCrypt (key nonce payload : Bytes) : Bytes :=
  let rk := aesExpand key
  xorB payload (keystream rk (fun j => ccmCtr nonce (j + 1)) payload.length)

/-- The CCM tag over the plaintext, `t` bytes. -/
def ccmTag (key nonce aad pt : Bytes) (t : Nat) : Bytes :=
  let rk := aesExpand key
  (xorB (cbcMac rk (zeros 16) (ccmInput nonce aad pt t)) (aesEncRk rk (ccmCtr nonce 0))).take t

/-- AES-CTR over a 128-bit big-endian counter (R135). -/
def ctrCrypt (key icb src : Bytes) : Bytes :=
  let rk := aesExpand key
  xorB src (keystream rk (fun j => natBE ((beNat icb + j) % 2 ^ 128) 16) src.length)

/-- AES-CBC encryption, the blocks of the source in turn (R136). -/
def cbcEncF (rk : List Bytes) : List Bytes → Bytes → Bytes
  | [], _ => []
  | b :: bs, prev =>
    let c := aesEncRk rk (xorB b prev)
    c ++ cbcEncF rk bs c

/-- AES-CBC encryption. -/
def cbcEnc (key iv src : Bytes) : Bytes := cbcEncF (aesExpand key) (chunk 16 src) iv

/-- AES-CBC decryption, the blocks of the source in turn (R136). -/
def cbcDecF (rk : List Bytes) : List Bytes → Bytes → Bytes
  | [], _ => []
  | b :: bs, prev => xorB (aesDecRk rk b) prev ++ cbcDecF rk bs b

/-- AES-CBC decryption. -/
def cbcDec (key iv src : Bytes) : Bytes := cbcDecF (aesExpand key) (chunk 16 src) iv

/-- Multiplication by α in GF(2^128), the tweak read little-endian (R138). -/
def xtsAlpha (t : Nat) : Nat := ((t <<< 1) % 2 ^ 128) ^^^ (if t.testBit 127 then 0x87 else 0)

/-- One XTS data unit: its blocks under Key1, the tweak advanced by α. -/
def xtsUnitF (enc : Bool) (rk1 : List Bytes) : List Bytes → Nat → Bytes
  | [], _ => []
  | b :: bs, t =>
    let tw := natLE t 16
    let x := xorB b tw
    xorB (if enc then aesEncRk rk1 x else aesDecRk rk1 x) tw ++ xtsUnitF enc rk1 bs (xtsAlpha t)

/-- The units of an XTS source; unit k has data-unit number i0 + k mod 2^128 (R138). -/
def xtsF (enc : Bool) (rk1 rk2 : List Bytes) : List Bytes → Nat → Bytes
  | [], _ => []
  | u :: us, i =>
    xtsUnitF enc rk1 (chunk 16 u) (leNat (aesEncRk rk2 (natLE i 16))) ++
      xtsF enc rk1 rk2 us ((i + 1) % 2 ^ 128)

/-- AES-XTS with data units of `unit` bytes. -/
def xtsCrypt (enc : Bool) (key tweak : Bytes) (unit : Nat) (src : Bytes) : Bytes :=
  let half := key.length / 2
  xtsF enc (aesExpand (key.take half)) (aesExpand (key.drop half)) (chunk unit src) (leNat tweak)

/-! ### ChaCha20-Poly1305 (R139) -/

/-- A ChaCha20 quarter round on the words a b c d of the state. -/
def chachaQr (s : List Nat) (a b c d : Nat) : List Nat :=
  let g := fun (l : List Nat) i => l.getD i 0
  let add := fun x y => (x + y) % 2 ^ 32
  let a1 := add (g s a) (g s b)
  let d1 := rotl 32 16 (g s d ^^^ a1)
  let c1 := add (g s c) d1
  let b1 := rotl 32 12 (g s b ^^^ c1)
  let a2 := add a1 b1
  let d2 := rotl 32 8 (d1 ^^^ a2)
  let c2 := add c1 d2
  let b2 := rotl 32 7 (b1 ^^^ c2)
  (((s.set a a2).set b b2).set c c2).set d d2

/-- One double round. -/
def chachaDouble (s : List Nat) : List Nat :=
  let s := chachaQr (chachaQr (chachaQr (chachaQr s 0 4 8 12) 1 5 9 13) 2 6 10 14) 3 7 11 15
  chachaQr (chachaQr (chachaQr (chachaQr s 0 5 10 15) 1 6 11 12) 2 7 8 13) 3 4 9 14

/-- The ChaCha20 block function. -/
def chachaBlock (key nonce : Bytes) (ctr : Nat) : Bytes :=
  let init := [0x61707865, 0x3320646e, 0x79622d32, 0x6b206574] ++ (chunk 4 key).map leNat ++
    [ctr % 2 ^ 32] ++ (chunk 4 nonce).map leNat
  let fin := (List.range 10).foldl (fun s _ => chachaDouble s) init
  (List.zipWith (fun a b => natLE (a + b) 4) init fin).flatten

/-- The payload transform, keystream from counter 1. -/
def chachaCrypt (key nonce payload : Bytes) : Bytes :=
  xorB payload (((List.range (cdiv payload.length 64)).flatMap fun j => chachaBlock key nonce (j + 1)).take payload.length)

/-- Poly1305 over a string, continued from `acc`. -/
def polyFrom (r acc : Nat) (l : Bytes) : Nat :=
  (chunk 16 l).foldl (fun a b => (a + leNat b + 2 ^ (8 * b.length)) * r % (2 ^ 130 - 5)) acc

/-- The Poly1305 tag under a one-time key of 32 bytes. -/
def poly1305 (otk l : Bytes) : Bytes :=
  let r := leNat (otk.take 16) &&& 0x0ffffffc0ffffffc0ffffffc0fffffff
  natLE ((polyFrom r 0 l + leNat (otk.drop 16)) % 2 ^ 128) 16

/-- The tag over AAD and ciphertext. -/
def chachaTag (key nonce aad ct : Bytes) : Bytes :=
  poly1305 ((chachaBlock key nonce 0).take 32)
    (padTo 16 aad ++ padTo 16 ct ++ natLE aad.length 8 ++ natLE ct.length 8)

/-! ### The AEADs by subop (R78) -/

/-- The ciphertext of an AEAD seal, or the plaintext of an open: the same transform. -/
def aeadCrypt (subop : Nat) (key iv payload : Bytes) : Bytes :=
  match subop with
  | 0x01 => gcmCrypt key iv payload
  | 0x02 => ccmCrypt key iv payload
  | _ => chachaCrypt key iv payload

/-- The tag of an AEAD: over AAD and ciphertext, for CCM over AAD and plaintext. -/
def aeadTag (subop : Nat) (key iv aad pt ct : Bytes) (t : Nat) : Bytes :=
  match subop with
  | 0x01 => (gcmTag key iv aad ct).take t
  | 0x02 => ccmTag key iv aad pt t
  | _ => (chachaTag key iv aad ct).take t

/-- Seal: the ciphertext followed by the tag (R68). -/
def aeadSealOut (subop : Nat) (key iv aad pt : Bytes) (t : Nat) : Bytes :=
  let ct := aeadCrypt subop key iv pt
  ct ++ aeadTag subop key iv aad pt ct t

/-- Open: the plaintext, and whether the received tag is right (R146). -/
def aeadOpenOut (subop : Nat) (key iv aad ct tag : Bytes) : Bytes × Bool :=
  let pt := aeadCrypt subop key iv ct
  (pt, aeadTag subop key iv aad pt ct tag.length == tag)

end Sys2Proof.Machine
end

