-- ==== Sys2Proof/Machine/LaneRun.lean ====
section
/-! DEFINITION. What one lane segment computes from the saved context and its source bytes: output, next
context and, in the last segment, the tag (R126, R131 to R139, R147, R150). -/

namespace Sys2Proof.Machine

/-- What a segment leaves: the context after it, the payload bytes it outputs, the computed tag. -/
structure SegOut where
  ctx : SavedCtx
  out : Bytes
  tag : Bytes
  deriving DecidableEq, Repr

/-- A counter block advanced: the last `n` bytes count, big-endian. -/
def incLow (n : Nat) (b : Bytes) : Bytes :=
  b.take (b.length - n) ++ natBE ((beNat (b.drop (b.length - n)) + 1) % 256 ^ n) n

/-- Blocks combined with keystream blocks from a counter on; the counter after them. -/
def ctrBlocks (rk : List Bytes) (n : Nat) : List Bytes → Bytes → Bytes × Bytes
  | [], c => ([], c)
  | b :: l, c =>
    let r := ctrBlocks rk n l (incLow n c)
    (xorB b (aesEncRk rk c) ++ r.1, r.2)

/-- ChaCha20 blocks of 64 bytes at 16-byte block index `i` on: keystream byte position is 64 plus the
payload offset (R139). -/
def chachaAt (key nonce : Bytes) (off : Nat) (b : Bytes) : Bytes :=
  let first := off / 64
  let n := cdiv (off % 64 + b.length) 64
  let ks := (List.range n).flatMap fun j => chachaBlock key nonce (1 + first + j)
  xorB b (ks.drop (off % 64))

/-- XTS over whole blocks from a tweak state: unit number, offset in the unit, tweak T (R138). -/
def xtsBlocks (enc : Bool) (rk1 rk2 : List Bytes) (unit i0 : Nat) :
    List Bytes → Nat → Nat → Nat → Bytes × Nat × Nat × Nat
  | [], k, off, t => ([], k, off, t)
  | b :: l, k, off, t =>
    let t := if off = 0 then leNat (aesEncRk rk2 (natLE ((i0 + k) % 2 ^ 128) 16)) else t
    let tw := natLE t 16
    let x := xorB b tw
    let o := xorB (if enc then aesEncRk rk1 x else aesDecRk rk1 x) tw
    let off' := off + 16
    let r := if off' ≥ unit then xtsBlocks enc rk1 rk2 unit i0 l (k + 1) 0 0
      else xtsBlocks enc rk1 rk2 unit i0 l k off' (xtsAlpha t)
    (o ++ r.1, r.2)

/-- The context before the first segment (R131, R133, R135 to R139). -/
def initCtx (h : Hdr) (key iv : Bytes) : SavedCtx :=
  let op := h.opcode
  let sub := h.subop
  let rk := aesExpand key
  if op = opGmacGen ∨ op = opGmacVer ∨ ((op = opSeal ∨ op = opOpen) ∧ sub = 1) then
    let j0 := gcmJ0 rk iv
    { counter := incLow 4 j0, mask := aesEncRk rk j0 }
  else if (op = opSeal ∨ op = opOpen) ∧ sub = 2 then
    let q := 15 - iv.length
    let flags := (if h.aadLen = 0 then 0 else 0x40) + 8 * ((h.tagLen - 2) / 2) + (q - 1)
    let b0 := [BitVec.ofNat 8 flags] ++ iv ++ natBE h.srcLen q
    { counter := ccmCtr iv 1, mask := aesEncRk rk (ccmCtr iv 0), chainV := cbcMac rk (zeros 16) b0 }
  else if op = opSeal ∨ op = opOpen then
    { counter := natLE 1 4, mask := (chachaBlock key iv 0).take 32 }
  else if op = opCopy then {}
  else if sub = 1 then { chainV := iv }
  else if sub = 2 then { counter := iv }
  else {}

/-- The AAD bytes that a segment absorbs: whole blocks, or all of it padded where the AAD ends in the
segment; and what is carried over. -/
def absorbable (stream : Bytes) (ends : Bool) : Bytes × Bytes :=
  if ends then (padTo 16 stream, []) else (stream.take (stream.length / 16 * 16), stream.drop (stream.length / 16 * 16))

/-- One segment: source bytes `src` from position p on, `last` in the last segment (R126, R150). -/
def laneSeg (h : Hdr) (key iv : Bytes) (ctx : SavedCtx) (p : Nat) (src : Bytes) (last : Bool) : SegOut :=
  let op := h.opcode
  let sub := h.subop
  let rk := aesExpand key
  let e := p + src.length
  let al := h.aadCover
  let gcm := op = opGmacGen ∨ op = opGmacVer ∨ ((op = opSeal ∨ op = opOpen) ∧ sub = 1)
  let ccm := (op = opSeal ∨ op = opOpen) ∧ sub = 2
  let aead := op = opSeal ∨ op = opOpen ∨ op = opGmacGen ∨ op = opGmacVer
  if op = opCopy then
    { ctx := { ctx with srcOff := e, dstOff := e }, out := src, tag := [] }
  else
    let aad := src.take (al - p)
    let pay := src.drop (al - p)
    -- the AAD of this segment
    let inAad := decide (p < al)
    let aadEnds := inAad && decide (al ≤ e)
    let enc : Bytes :=
      if ccm ∧ p = 0 ∧ al > 0 then
        if al < 0xFF00 then natBE al 2 else [0xFF, 0xFE] ++ natBE al 4
      else []
    let a := if aead && inAad then absorbable (ctx.part ++ enc ++ aad) aadEnds else ([], ctx.part)
    let part := if aead && inAad then a.2 else ctx.part
    -- the payload of this segment
    let stream := if inAad && !aadEnds then [] else part ++ pay
    let n := if last then stream.length else stream.length / 16 * 16
    let text := stream.take n
    let part' := if inAad && !aadEnds then part else stream.drop n
    let blocks := chunk 16 text
    if gcm then
      let hk := gcmH rk
      let acc := ghashFrom hk ctx.acc a.1
      let o := if op = opGmacGen ∨ op = opGmacVer then ([], ctx.counter) else ctrBlocks rk 4 blocks ctx.counter
      let ct := if op = opSeal then o.1 else text
      let acc := if op = opGmacGen ∨ op = opGmacVer then acc else ghashFrom hk acc (padTo 16 ct)
      let ad := ctx.aadDone + aad.length
      let cd := ctx.ctDone + if op = opGmacGen ∨ op = opGmacVer then 0 else text.length
      let tag := if last then
          xorB ctx.mask (natBE (ghashFrom hk acc (natBE (8 * ad) 8 ++ natBE (8 * cd) 8)) 16)
        else []
      { ctx := { ctx with counter := o.2, acc := acc, aadDone := ad, ctDone := cd, part := part' },
        out := o.1, tag := tag.take h.tagLen }
    else if ccm then
      let mac := cbcMac rk ctx.chainV a.1
      let o := ctrBlocks rk (15 - iv.length) blocks ctx.counter
      let pt := if op = opSeal then text else o.1
      let mac := cbcMac rk mac (padTo 16 pt)
      { ctx := { ctx with counter := o.2, chainV := mac, part := part' },
        out := o.1, tag := if last then (xorB mac ctx.mask).take h.tagLen else [] }
    else if aead then
      let r := leNat (ctx.mask.take 16) &&& 0x0ffffffc0ffffffc0ffffffc0fffffff
      let acc := polyFrom r ctx.acc a.1
      let o := chachaAt key iv ctx.ctDone text
      let ct := if op = opSeal then o else text
      let acc := polyFrom r acc (padTo 16 ct)
      let ad := ctx.aadDone + aad.length
      let cd := ctx.ctDone + text.length
      let tag := if last then
          natLE ((polyFrom r acc (natLE ad 8 ++ natLE cd 8) + leNat (ctx.mask.drop 16)) % 2 ^ 128) 16
        else []
      { ctx := { ctx with counter := natLE (1 + cd / 64) 4, acc := acc, aadDone := ad, ctDone := cd, part := part' },
        out := o, tag := tag }
    else if sub = 1 then
      if op = opEnc then
        let o := cbcEncF rk blocks ctx.chainV
        { ctx := { ctx with chainV := if text.isEmpty then ctx.chainV else o.drop (o.length - 16) }, out := o, tag := [] }
      else
        { ctx := { ctx with chainV := if text.isEmpty then ctx.chainV else text.drop (text.length - 16) },
          out := cbcDecF rk blocks ctx.chainV, tag := [] }
    else if sub = 2 then
      let o := ctrBlocks rk 16 blocks ctx.counter
      { ctx := { ctx with counter := o.2, part := part' }, out := o.1, tag := [] }
    else
      let half := key.length / 2
      let r := xtsBlocks (op == opEnc) (aesExpand (key.take half)) (aesExpand (key.drop half)) h.xtsUnit
        (leNat iv) blocks ctx.unitNo ctx.unitOff (leNat ctx.chainV)
      { ctx := { ctx with unitNo := r.2.1, unitOff := r.2.2.1, chainV := natLE r.2.2.2 16 }, out := r.1, tag := [] }

/-! ### Poisoned source (R277) -/

/-- The output byte at offset `o` of a link is affected by a poisoned source range, given as payload
offset and length. AEAD_OPEN and tags are handled by their callers. -/
def affectedBy (h : Hdr) (o : Nat) (r : Nat × Nat) : Bool :=
  let op := h.opcode
  let sub := h.subop
  let last := r.1 + r.2 - 1
  let ccm := (op = opSeal ∨ op = opOpen) ∧ sub = 2
  if r.2 = 0 then false
  else if (op = opEnc ∧ sub = 1) ∨ ccm then r.1 ≤ o
  else if op = opDec ∧ sub = 1 then r.1 / 16 ≤ o / 16 && o / 16 ≤ last / 16 + 1
  else r.1 / 16 ≤ o / 16 && o / 16 ≤ last / 16

/-- Poisoned source ranges as payload ranges: AAD affects only the tag. -/
def payloadPoison (h : Hdr) (l : List (Nat × Nat)) : List (Nat × Nat) :=
  l.filterMap fun r =>
    let lo := max r.1 h.aadLen
    let hi := min (r.1 + r.2) (h.aadLen + h.srcLen)
    if lo < hi then some (lo - h.aadLen, hi - lo) else none

end Sys2Proof.Machine
end

