-- ==== Sys2Proof/Machine/Work.lean ====
section
/-! DEFINITION. A link's work between its fetch and its record: the source it reads, the output it
writes, how it ends, and what one grant of a lane or a digest engine does (R74, R76, R83, R84, R87, R88,
R90, R146 to R151, R185 to R192, R269, R270, R275 to R277, R279, R280). -/

namespace Sys2Proof.Machine

/-! ### Byte strings in memory, with gather and swap (R74, R270) -/

def Hdr.bufSrc (h : Hdr) : Bool := h.srcGather == 0xFF
def Hdr.bufDst (h : Hdr) : Bool := h.dstGather == 0xFF

/-- The elements a source is read from: the list, or the one extent. Inline and link-buffer sources are
byte strings already. -/
def Link.srcList (l : Link) : List Elem :=
  if l.hdr.inl || l.hdr.bufSrc then [⟨0, l.hdr.sLen, 0⟩]
  else if l.hdr.srcGather = 0 then [⟨l.hdr.src, l.hdr.sLen, 0⟩]
  else l.srcElems

/-- The elements a destination is written to; a contiguous destination has no end. -/
def Link.dstList (l : Link) : List Elem :=
  if l.hdr.dstGather = 0 then [⟨l.hdr.dst, 2 ^ 52, 0⟩] else l.dstElems

/-- The place, in the bytes as they lie in memory, of byte p of the string after swaps: a swap exchanges
byte o of an element with byte o xor its code. -/
def rawPos : List Elem → Nat → Nat → Nat
  | [], base, p => base + p
  | e :: l, base, p => if p < e.len then base + (p ^^^ e.swap) else rawPos l (base + e.len) (p - e.len)

/-- How many bytes, as they lie in memory, must be held for the first p bytes of the string. -/
def rawNeed : List Elem → Nat → Nat → Nat
  | [], base, p => base + p
  | e :: l, base, p =>
    if p ≤ e.len then base + (if e.swap = 0 then p else min e.len (4 * cdiv p 4))
    else rawNeed l (base + e.len) (p - e.len)

/-- Bytes p to p + n - 1 of the source string. -/
def Link.srcSlice (l : Link) (p n : Nat) : Bytes :=
  let es := l.srcList
  if es.all (fun e => e.swap == 0) then slice l.source p n
  else (List.range n).map fun i => l.source.getD (rawPos es 0 (p + i)) 0

/-- The source bytes up to p are held (R101). -/
def Link.holds (l : Link) (p : Nat) : Bool := decide (rawNeed l.srcList 0 p ≤ l.source.length)

/-- The bytes before output byte p that are of four bytes of an element not yet whole there: a swap unit has at most four,
and the bytes wait whatever the swap, which the cut does not depend on (R270, log 16). -/
def unitRest : List Elem → Nat → Nat
  | [], _ => 0
  | e :: l, p => if p < e.len then p % 4 else if p = e.len then 0 else unitRest l (p - e.len)

/-- Pieces of an output string that begins at output byte `pos`, one for each element it enters: element number,
address, output byte of the piece's first byte, bytes as they lie in memory, swap (R270). -/
def outPieces : List Elem → Nat → Nat → Nat → Bytes → List (Nat × Nat × Nat × Bytes × Nat)
  | [], _, _, _, _ => []
  | e :: l, i, o, pos, b =>
    if b.isEmpty then []
    else if o ≥ e.len then outPieces l (i + 1) (o - e.len) pos b
    else
      let n := min (e.len - o) b.length
      (i, e.addr + o, pos, applySwap e.swap (b.take n), e.swap) :: outPieces l (i + 1) 0 (pos + n) (b.drop n)

/-- The 64-byte lines that hold an affected byte of a piece (R277). -/
def badLines (bad : Nat → Bool) (p : Nat × Nat × Nat × Bytes × Nat) : List Nat :=
  let n := p.2.2.2.1.length
  let u := swapUnit p.2.2.2.2
  (List.range n).filterMap fun i =>
    if bad (p.2.2.1 + i) then some ((p.2.1 + (if (i / u + 1) * u ≤ n then i ^^^ p.2.2.2.2 else i)) / 64) else none

/-! ### Reading ahead (R101, R269, R271) -/

/-- The accesses of an extent from `a`, where one begins, as far as they begin below `stop`; `fuel` bounds them. -/
def cutTo : Nat → Nat → Nat → Nat → List (Nat × Nat)
  | 0, _, _, _ => []
  | fuel + 1, a, stop, e => if a < min stop e then (a, cutLen a e) :: cutTo fuel (a + cutLen a e) stop e else []

/-- The accesses of a list of elements that hold the bytes from raw position a, where one begins, to b: raw position,
address, length. Each element is one extent, whose cut does not depend on what is read when (R269). -/
def rawAccs : List Elem → Nat → Nat → Nat → List (Nat × Nat × Nat)
  | [], _, _, _ => []
  | e :: l, base, a, b =>
    let lo := max a base - base
    let hi := min b (base + e.len) - base
    (if lo < hi then (cutTo ((hi - lo) / 64 + (hi - lo) / 4096 + 4) (e.addr + lo) (e.addr + hi) (e.addr + e.len)).map
        fun c => (base + (c.1 - e.addr), c.1, c.2) else []) ++ rawAccs l (base + e.len) a b

/-- Issue the source reads up to source byte `want` (log 15). -/
def State.readAhead (s : State) (id : LinkId) (want : Nat) : State :=
  match s.link id with
  | none => s
  | some (q, l) =>
    if l.hdr.inl || l.hdr.bufSrc then s
    else
      let goal := rawNeed l.srcList 0 (min want l.hdr.sLen)
      if goal ≤ l.rdPos then s
      else
        let fid := s.fidOf q.part
        let l' := rawAccs l.srcList 0 l.rdPos goal
        let add (m : Mov) (x : Nat × Nat × Nat) : Mov :=
          m.addRead { addr := x.2.1, len := x.2.2, fid := fid, cls := clsRelaxed, purpose := .source id x.1 }
        let reach := l'.foldl (fun n x => max n (x.1 + x.2.2)) goal
        ((s.onMov fun m => l'.foldl add m).onLink id fun l => { l with rdPos := reach }).pump

/-- M, the largest lane segment payload (R98). -/
def State.maxSeg (s : State) : Nat := 4 * s.tickLen

/-- Bytes of the read-ahead buffer (R101). -/
def aheadSize : Nat := 2097152

/-- The bytes of the read-ahead buffer that a link holds: what it has read and no grant has taken (R101). -/
def Link.heldAhead (l : Link) : Nat :=
  if l.stat.isSome || l.hdr.inl || l.hdr.bufSrc then 0 else l.rdPos - rawNeed l.srcList 0 (min l.pos l.hdr.sLen)

/-- Read ahead the segment that follows source byte `e`, the tag with the last, where the read-ahead buffer has room; else
the link waits for it (R101, R108; log 15). -/
def State.readNext (s : State) (id : LinkId) (e : Nat) : State :=
  match s.link id with
  | none => s
  | some (_, l) =>
    let w := e + s.maxSeg
    let want := if w ≥ l.hdr.cover then l.hdr.sLen else w
    let more := rawNeed l.srcList 0 (min want l.hdr.sLen) - l.rdPos
    let used := sumBy s.rng.reqs fun q => sumBy q.links Link.heldAhead
    let wait := !l.hdr.inl && !l.hdr.bufSrc && decide (0 < more) && decide (aheadSize < used + more)
    let s := if l.rdWait == wait then s else s.onLink id fun l => { l with rdWait := wait }
    if wait then s else s.readAhead id want

/-- At a boundary the links that wait for the read-ahead buffer try again, in the order of their fetch (log 15). -/
def State.readWaiting (s : State) : State :=
  s.rng.reqs.foldl (fun s q => if q.abort != .none then s else
    q.links.zipIdx.foldl (fun s l =>
      if l.1.rdWait && l.1.stat.isNone && !l.1.timedOut then s.readNext ⟨q.ring, q.idx, l.2⟩ l.1.pos else s) s) s

/-- Bytes that arrived at raw source position `off` join those held. -/
def absorbChunks : Nat → Bytes → List (Nat × Bytes) → Bytes × List (Nat × Bytes)
  | 0, src, cs => (src, cs)
  | n + 1, src, cs => match cs.find? fun c => c.1 == src.length with
    | none => (src, cs)
    | some c => absorbChunks n (src ++ c.2) (cs.filter fun d => d.1 != c.1)

def Link.arrive (l : Link) (off : Nat) (b : Bytes) : Link :=
  let r := absorbChunks (l.chunks.length + 1) l.source (l.chunks ++ [(off, b)])
  { l with source := r.1, chunks := r.2 }

/-! ### Writing output -/

def isLinkWrite (id : LinkId) : WPurpose → Bool
  | .data i _ => i == id
  | .bad i => i == id
  | .vault i => i == id
  | _ => false

def isLinkRead (id : LinkId) : RPurpose → Bool
  | .source i _ => i == id
  | .restore i => i == id
  | _ => false

/-- Reads of the later links of a link's request. -/
def isLaterRead (id : LinkId) : RPurpose → Bool
  | .source i _ => i.ring == id.ring && i.idx == id.idx && decide (id.link < i.link)
  | _ => false

/-- Reads of any link of a link's request. -/
def isRequestRead (id : LinkId) : RPurpose → Bool
  | .source i _ => i.ring == id.ring && i.idx == id.idx
  | .restore i => i.ring == id.ring && i.idx == id.idx
  | _ => false

/-- Outstanding reads of a kind are marked for discard; those not yet issued never issue (R274, R282). -/
def State.discardReads (s : State) (p : RPurpose → Bool) : State :=
  s.onReads fun r => if p r.purpose then if r.issued then some { r with discard := true } else none else some r

/-- A write of the link is not done (R279). -/
def State.linkWaits (s : State) (id : LinkId) : Bool := s.writeWaits (isLinkWrite id)

/-- A write of the link's output. -/
def isLinkData (id : LinkId) : WPurpose → Bool
  | .data i _ => i == id
  | _ => false

/-- A data write of the link is not done (R88). -/
def State.dataWaits (s : State) (id : LinkId) : Bool := s.writeWaits (isLinkData id)

/-- The link's output goes into an output frame (R77). -/
def State.inlineDst (s : State) (l : Link) (id : LinkId) : Bool := inlineOut (s.ring id.ring).attr l.hdr

/-- Write output bytes at output byte `pos`; `bad` names the affected bytes (R277). Bytes of a gather element's unit that is
not whole yet wait, unless `last` (R270, log 16). -/
def State.emitAt (s : State) (id : LinkId) (pos : Nat) (b : Bytes) (bad : Nat → Bool) (last : Bool) : State :=
  match s.link id with
  | none => s
  | some (q, l) =>
    if l.hdr.bufDst || s.inlineDst l id then s.onLink id fun l => { l with output := l.output ++ b }
    else
      let fid := s.fidOf q.part
      let anyBad := !l.poisoned.isEmpty
      let whole := l.unitHold ++ b
      let from' := pos - l.unitHold.length
      let n := whole.length - if last || l.hdr.dstGather == 0 then 0 else min whole.length (unitRest l.dstList (pos + b.length))
      let s := s.onLink id fun l => { l with unitHold := whole.drop n }
      (outPieces l.dstList 0 from' from' (whole.take n)).foldl (fun s p =>
        s.write p.2.1 p.2.2.2.1 fid clsRelaxed (.data id p.1) (if anyBad then badLines bad p else [])) s

/-- The next output bytes of a link as they are written: affected bytes read zero (R277). -/
def Link.masked (l : Link) (b : Bytes) (bad : Nat → Bool) : Bytes :=
  if l.poisoned.isEmpty then b else (List.range b.length).map fun i => if bad (l.outPos + i) then 0 else b.getD i 0

/-- Write the next output bytes of a link, `last` of what it writes. -/
def State.emit (s : State) (id : LinkId) (b : Bytes) (bad : Nat → Bool) (last : Bool := true) : State :=
  match s.link id with
  | none => s
  | some (_, l) =>
    (s.emitAt id l.outPos (l.masked b bad) bad last).onLink id fun l => { l with outPos := l.outPos + b.length }

/-! ### Ending a link -/

/-- Release the engine that a link binds (R109, R194). -/
def State.unbind (s : State) (id : LinkId) : State :=
  s.onDat fun d => { d with engines := d.engines.map fun e => if e.bound == some id then { e with bound := none } else e }

/-- A unit counts one transient; at the third of a lane, engine or MACU in 1,024 ticks the policy loop marks it for eclipse, unless
management's eclipse of it already waits (R308, R310). -/
def State.transient (s : State) (u : UnitId) : State :=
  let t := s.sch.tick
  let s := s.onUnit u fun x => { x with trans := x.trans + 1, hist := (x.hist.filter fun v => decide (modSub t v (2 ^ 32) < 1024)) ++ [t] }
  let x := s.unitSt u
  let watched := match u with
    | .lane _ => true
    | .engine _ => true
    | .macu _ => true
    | _ => false
  let isOver := watched && x.hist.length ≥ 3 && !x.ecl
  if !isOver then s
  else match x.eclPend with
    | none => (s.onUnit u fun x => { x with eclPend := some .threshold }).onSch fun c => { c with decisions := c.decisions + 1 }
    | some .management => s.onSch fun c => { c with decisions := c.decisions + 1, discarded := c.discarded + 1 }
    | some _ => s

/-- A link ends: for each retry of it that succeeded the units charged count a transient each, and record 0x0301 is
written (R308; at the link's end, log 32). -/
def State.healLink (s : State) (id : LinkId) : State :=
  match s.link id with
  | none => s
  | some (q, l) =>
    let s := s.onLink id fun l => { l with healed := [] }
    l.healed.foldl (fun s us =>
      let s := s.onSch fun c => { c with retryTrans := sat 0xFFFF c.retryTrans 1 }
      let s := s.logReq 0x0301 (uid (us.headD (.lane 0))) q.part id.ring id.idx id.link
      us.foldl (fun s u => s.transient u) s) s

/-! ### Outcomes that replace whatever stage a link had reached (R84, R90) -/

/-- Writes of ledger pages that are not yet made are dropped, with their reads. -/
def State.dropOps (s : State) (f : PageOp → Bool) : State :=
  let gone := s.key.pageOps.filter fun o => f o && !o.wrote
  if gone.isEmpty then s
  else
    let s := s.discardReads fun u => gone.any fun o => o.started && u == .page o.part o.page
    s.onKey fun k => { k with pageOps := k.pageOps.filter fun o => !f o || o.wrote }

/-- Drop what the Orrery and the DRBG cores and the Vault steps still hold for a link. -/
def State.dropWork (s : State) (id : LinkId) : State :=
  let s := s.dropOps fun o => o.why == .vault id
  let s := s.onEnt fun e => { e with cores := e.cores.map fun c => { c with items := c.items.filter fun i => i.who != some id } }
  let s := s.onKey fun k => { k with jobs := k.jobs.filter fun v => v.id != id }
  s.onSch fun c => { c with plan := c.plan.filter (fun g => g.id != id), running := c.running.filter fun g => g.id != id }

/-- Give a link whose record is not made a result, whatever stage it had reached: its binding ends, its
output is wiped (R84, R90, R317). -/
def State.forceStat (s : State) (id : LinkId) (st : Stat) : State :=
  match s.link id with
  | none => s
  | some (_, l) =>
    if l.recorded then s
    else
      let now := some s.blk.time
      let s := s.onLink id fun l =>
        { l with stat := some st, violDue := false, bytesOut := 0, ctx := none, retryDue := false, zeroPos := none, output := [],
                 unitHold := [], tagDue := none, loaded := none, hloaded := none, source := [], chunks := [],
                 stamp := if l.hdr.ts then now else none }
      (((s.healLink id).unbind id).dropWork id).discardReads (isLinkRead id)

def Req.linkId (q : Req) (k : Nat) : LinkId := ⟨q.ring, q.idx, k⟩

/-- Give every link of a request from number k on, whose record is not made, a result. -/
def State.forceFrom (s : State) (q : Req) (k : Nat) (st : Nat → Stat) : State :=
  (List.range q.links.length).foldl (fun s i => if k ≤ i then s.forceStat (q.linkId i) (st i) else s) s

/-- The links after number k complete CHAIN_ABANDONED, those that had failed a stage of their own or were granted already
too (R84). -/
def State.abandonAfter (s : State) (id : LinkId) : State :=
  match s.req id.ring id.idx with
  | none => s
  | some q => s.forceFrom q (id.link + 1) fun _ => stAbandoned id.link

/-- The output writes of a link that have not issued never issue. -/
def State.dropWrites (s : State) (id : LinkId) : State :=
  s.onWrites fun w => match w.purpose with
    | .data i _ => if i == id && !w.issued then none else some w
    | _ => some w

/-- A link's result is `st`, whatever stage it had reached: its context entry is wiped, its binding ends,
output that no one may see is wiped, later links are abandoned, and a violation is recorded, once the links before it
have their records (R84, R87, R92, R109, R150, log 105). -/
def State.endAs (s : State) (id : LinkId) (st : Stat) : State :=
  match s.link id with
  | none => s
  | some (q, l) =>
    if l.stat.isSome then s
    else
      let waits := s.dataWaits id
      let now := some s.blk.time
      let s := s.onLink id fun l =>
        { l with stat := some st, bytesOut := if st.good then l.outPos else 0, ctx := none, retryDue := false,
                 zeroPos := none, output := if st.good then l.output else [], unitHold := [], tagDue := none,
                 loaded := none, hloaded := none, stamp := if l.hdr.ts && !waits then now else l.stamp }
      let s := (s.healLink id).unbind id
      let s := s.onSch fun c => { c with running := c.running.filter fun g => g.id != id }
      let s := s.discardReads fun u => isLinkRead id u || (!st.good && isLaterRead id u)
      let s := match st.violation with
        | some c =>
          if (q.links.take id.link).all (·.recorded) then s.packetViolation c id.ring id.idx id.link
          else s.onLink id fun l => { l with violDue := true }
        | none => s
      if st.good then s else s.abandonAfter id

/-- Hand a link's output to the next link through the link buffer; a length that differs is found here
(R83). -/
def State.handOver (s : State) (id : LinkId) : State :=
  match s.link id with
  | none => s
  | some (_, l) =>
    if !l.hdr.bufDst then s
    else
      let nid := { id with link := id.link + 1 }
      let s := s.onLink nid fun n => { n with source := l.output }
      match s.link nid with
      | none => s
      | some (_, n) => if n.hdr.sLen = l.output.length then s else s.endAs nid (stMismatch 4)

/-- The link ends with a result; an earlier failure of the data stage stands instead, and a retry that
succeeded shows in the status (R89, R90). -/
def State.endLink (s : State) (id : LinkId) (st : Stat) : State :=
  match s.link id with
  | none => s
  | some (_, l) =>
    let st := l.err.getD st
    let st := if st.code = 0 ∧ l.retried then stRetried l.retryDet else st
    let s := s.endAs id st
    if st.good then s.handOver id else s

/-- A failure of the data stage ends the link; the first in time stands (R90). -/
def State.failData (s : State) (id : LinkId) (st : Stat) : State := s.endLink id st

/-- Note a failure of the data stage that lets the link run on (R277, R280). -/
def State.noteErr (s : State) (id : LinkId) (st : Stat) : State :=
  s.onLink id fun l => { l with err := some (l.err.getD st) }

/-- A read of the link timed out: the other reads of its request are marked for discard, and the link ends at the next
eligibility cut (R90, R274). -/
def State.readTimedOut (s : State) (id : LinkId) (st : Stat) : State :=
  ((s.noteErr id st).onLink id fun l => { l with timedOut := true }).discardReads (isRequestRead id)

/-- A stage of the link failed for a read: at once, but for a timeout at the next eligibility cut (R274 to R276). -/
def State.failStage (s : State) (id : LinkId) (st : Stat) : State :=
  if st.code = 0x42 then s.readTimedOut id st else s.endAs id st

/-! ### Keys in use -/

def State.slot (s : State) (k : Nat × Nat × Nat) : Option KSlot :=
  s.key.slots.find? fun x => x.part == k.1 && x.index == k.2.1 && x.gen == k.2.2

/-- Key material of a context plaintext (R168). -/
def ctxMaterial (c : Bytes) : Bytes := slice c 48 (byteAt c 23)
def ctxType (c : Bytes) : Nat := byteAt c 1
def ctxPolicy (c : Bytes) : Nat := leAt c 6 2
def ctxInst (c : Bytes) : Nat := leAt c 12 4
def ctxLimit (c : Bytes) : Nat := leAt c 16 6
def ctxHash (c : Bytes) : Nat := byteAt c 22
def ctxRecord (c : Bytes) : Nat := leAt c 32 8

/-- The key of a link that runs: what its unit loaded, or the slot's. -/
def State.linkKey (s : State) (l : Link) : Bytes :=
  match l.loaded with
  | some b => b
  | none => match l.keySlot.bind s.slot with
    | none => []
    | some x => ctxMaterial x.ctx

/-- The digest key-state slot of a link (R173). -/
def State.hslot (s : State) (l : Link) : Option HSlot :=
  match l.keySlot with
  | none => none
  | some k => s.key.hslots.find? fun x => x.part == k.1 && x.index == k.2.1 && x.gen == k.2.2 && x.hash == l.hdr.subop

/-- A unit, or the Orrery, loads the key, and for HMAC the states, that a link's slots hold (R150, R173, R206). -/
def State.loadKey (s : State) (id : LinkId) : State :=
  match s.link id with
  | none => s
  | some (_, l) =>
    if l.keySlot.isNone then s
    else
      let key := (l.keySlot.bind s.slot).map fun x => ctxMaterial x.ctx
      let st := (s.hslot l).map fun x => (x.inner, x.outer)
      s.onLink id fun l => { l with loaded := key <|> l.loaded, hloaded := st <|> l.hloaded }

/-- The IV of a link: the caller's, or the one built from the count (R141, R143). -/
def Link.iv (l : Link) : Bytes :=
  if l.hdr.ivLen = 0 ∧ l.hwNonce then natBE l.instId 4 ++ natBE (l.count.getD 0) 8
  else l.hdr.params.take l.hdr.ivLen

/-! ### One grant on a lane -/

/-- Affected output bytes of a lane link (R277). -/
def Link.badByte (l : Link) (o : Nat) : Bool :=
  if l.hdr.opcode = opOpen then match l.openPoison with
    | none => false
    | some p => p ≤ o
  else if o ≥ l.hdr.srcLen || l.hdr.opcode = opGmacGen then !l.poisoned.isEmpty
  else (payloadPoison l.hdr l.poisoned).any fun r => affectedBy l.hdr o r

/-- An AEAD_SEAL whose payload's writes are done writes its tag and completes; after a write that failed it completes
without (R87, R280). -/
def State.tagNow (s : State) (id : LinkId) : State :=
  match s.link id with
  | none => s
  | some (_, l) => match l.tagDue with
    | none => s
    | some tag =>
      if s.linkWaits id then s
      else if l.err.isSome then s.endLink id stOk
      else (s.emit id tag l.badByte).endLink id stOk

/-- The last segment's result, once its output is placed: the tag of a seal, the check of an open or a
verification (R87, R131, R132, R146 to R149). -/
def State.laneEnd (s : State) (id : LinkId) (l : Link) (single : Bool) (out tag : Bytes) : State :=
  let h := l.hdr
  let clean := l.poisoned.isEmpty
  let good := l.srcSlice h.cover h.tagLen == tag
  if h.opcode = opSeal then
    if !clean || h.bufDst || s.inlineDst l id then (s.emit id (out ++ tag) l.badByte).endLink id stOk
    else ((s.emit id out l.badByte false).onLink id fun l => { l with pos := l.hdr.cover, seg := l.seg + 1, tagDue := some tag }).tagNow id
  else if h.opcode = opGmacGen then (s.emit id tag l.badByte).endLink id stOk
  else if h.opcode = opGmacVer then s.endLink id (if good then stOk else stAuthFail 3)
  else if h.opcode = opOpen then
    if !clean || good || (l.err.isSome && !single) then (s.emit id out l.badByte).endLink id stOk
    else if single then s.endLink id (stAuthFail 1)
    else if s.inlineDst l id || h.bufDst || h.srcLen = 0 then s.endLink id (stAuthFail 2)
    else (s.emit id out l.badByte).onLink id fun l => { l with unitHold := [], zeroPos := some 0, pos := l.hdr.cover, seg := l.seg + 1 }
  else (s.emit id out l.badByte).endLink id stOk

/-- A quadrant's context entries in use: saved contexts that are not spilled (R150, R151). -/
def State.ctxCount (s : State) (q : Nat) : Nat :=
  sumBy s.rng.reqs fun r => if r.quad = some q then
    countP r.links fun l => match l.ctx with
      | none => false
      | some c => c.spilled.isNone && l.pos > 0
  else 0

/-- Every link with its identifier. -/
def State.allLinks (s : State) : List (LinkId × Req × Link) :=
  s.rng.reqs.flatMap fun q => (List.range q.links.length).filterMap fun k =>
    (q.links[k]?).map fun l => (⟨q.ring, q.idx, k⟩, q, l)

def spillBase : Nat := 0x10000 + 131072 * 256

/-- Contexts of a quadrant that are on their way back. -/
def State.ctxComing (s : State) (q : Nat) : Nat :=
  countP s.allLinks fun x => x.2.1.quad == some q && s.reads.any fun r => r.purpose == .restore x.1 && !r.discard

/-- With no free entry, the least recently granted ordinary link's entry of the quadrant goes to the
Vault; a link whose grant has just been fixed is no such link (R151). What the sealed entry holds is a free value (log 6). -/
def State.spill (s : State) (q : Nat) : State :=
  if s.ctxCount q + s.ctxComing q < 2048 then s
  else
    let used := s.allLinks.filterMap fun x => x.2.2.ctx.bind (·.spilled)
    let cand := s.allLinks.filter fun x => x.2.1.quad == some q && !s.sealedP x.2.1.part
      && !((s.sch.plan ++ s.sch.running).any fun g => g.id == x.1) && (match x.2.2.ctx with
        | none => false
        | some c => c.spilled.isNone && x.2.2.pos > 0)
    let age (l : Link) : Nat := modSub s.sch.tick (l.lastTick.getD 0) (2 ^ 32)
    match minBy (fun x => 2 ^ 32 - age x.2.2) cand, lowestFree used 0 262144 with
    | some x, some i =>
      let r := s.draw 0
      let s := r.2.onLink x.1 fun l => { l with ctx := l.ctx.map fun c => { c with spilled := some i } }
      s.vaultWrite (s.key.base + spillBase + 128 * i) (natLE r.1 128) .spill
    | _, _ => s

/-- What a lane segment puts out, its context after it, and the tag. -/
def State.laneRun (s : State) (g : Grant) (l : Link) : SegOut :=
  let key := s.linkKey l
  laneSeg l.hdr key l.iv (l.ctx.getD (initCtx l.hdr key l.iv)) l.pos (l.srcSlice l.pos g.len) g.last

/-- Run one lane grant: the segment from the saved context, its output, the context after it, and at
the end the result (R126, R146 to R150). -/
def State.runLane (s : State) (g : Grant) (l : Link) : State :=
  let id := g.id
  if g.zero then
    let p := l.zeroPos.getD 0
    let s := s.emitAt id p (zeros g.len) (fun _ => false) (decide (p + g.len ≥ l.hdr.srcLen))
    if p + g.len ≥ l.hdr.srcLen then s.endLink id (stAuthFail 2)
    else s.onLink id fun l => { l with zeroPos := some (p + g.len), seg := l.seg + 1 }
  else
    let o := s.laneRun g l
    let single := g.last && l.pos == 0
    if g.last then s.laneEnd id l single o.out o.tag
    else
      let s := match g.unit with
        | .lane n => if l.ctx.isNone then s.spill (n / 4) else s
        | _ => s
      let s := s.emit id o.out l.badByte false
      s.onLink id fun l => { l with ctx := some { o.ctx with spilled := none }, pos := l.pos + g.len, seg := l.seg + 1,
                                    retryDue := false, retryUsed := false, excluded := [] }

/-! ### One grant on a digest engine -/

/-- The whole result of a digest link: the digest, the tag, or all the SHAKE output. -/
def State.digestOut (s : State) (l : Link) : Bytes :=
  let h := l.hdr
  let msg := l.srcSlice 0 h.srcLen
  if h.opcode = opDigest then hash h.subop msg (if h.subop ≥ 0x21 then h.w 12 else hashLen h.subop)
  else match l.hloaded <|> (s.hslot l).map fun x => (x.inner, x.outer) with
    | none => []
    | some x => (hmacFrom h.subop x.1 x.2 msg).take h.tagBytes

/-- The result's bytes that are there once the grant has run: all of it, or of a SHAKE the blocks squeezed so far. -/
def Link.digestUpto (l : Link) (g : Grant) (out : Bytes) : Nat :=
  if l.hdr.opcode = opDigest ∧ l.hdr.subop ≥ 0x21 then min out.length (hashBlk l.hdr.subop * (1 + l.squeezed + g.squeeze)) else out.length

/-- What a running grant's segment writes to memory (R147, R149, R154, R196). -/
def State.segOut (s : State) (g : Grant) (l : Link) : Bytes :=
  let h := l.hdr
  if isLane h.opcode then
    if g.zero then zeros g.len
    else if (h.opcode == opOpen && g.last && l.pos == 0) || h.opcode == opGmacVer then []
    else if h.opcode == opGmacGen then []
    else (s.laneRun g l).out
  else if h.opcode == opHmacVer || (!l.absDone && !g.last) then []
  else
    let out := s.digestOut l
    slice out l.outPos (l.digestUpto g out - l.outPos)

/-- Run one digest grant: absorbing, the result in the last absorbing segment, squeezes after it (R189,
R190, R192). -/
def State.runDigest (s : State) (g : Grant) (l : Link) : State :=
  let id := g.id
  let h := l.hdr
  let bad := fun (_ : Nat) => !l.poisoned.isEmpty
  let total := if h.opcode = opDigest then squeezes h.subop (h.w 12) else 0
  if !l.absDone && !g.last then
    s.onLink id fun l => { l with pos := l.pos + g.len, seg := l.seg + 1 }
  else
    let out := s.digestOut l
    let sq := l.squeezed + g.squeeze
    let s := s.onLink id fun l => { l with pos := if l.absDone then l.pos else l.pos + g.len, seg := l.seg + 1,
                                           absDone := true, squeezed := sq }
    if h.opcode = opHmacVer then
      s.endLink id (if l.srcSlice h.srcLen h.tagBytes == out then stOk else stAuthFail 4)
    else
      let s := s.emit id (slice out l.outPos (l.digestUpto g out - l.outPos)) bad (decide (sq ≥ total))
      if sq ≥ total then s.endLink id stOk else s

/-! ### Reads and writes that fail -/

/-- The address of the word of a gather element that holds BAD (R74): the word's top byte carries LAST and
BAD; the block writes that byte. -/
def badAddr (list n : Nat) : Nat := list + 16 * n + 11

/-- The flag byte of an element with BAD set. -/
def badByteOf (e : Elem) (last : Bool) : Byte := BitVec.ofNat 8 (e.swap + 4 * b2n last + 8)

/-- Write BAD into element n of a list (R76, R380). -/
def State.markBad (s : State) (id : LinkId) (part list n : Nat) (es : List Elem) : State :=
  match es[n]? with
  | none => s
  | some e => s.write (badAddr list n) [badByteOf e (n + 1 == es.length)] (s.fidOf part) clsOrdered (.bad id)

/-- The element that holds raw source position `off`. -/
def elemAt : List Elem → Nat → Nat → Nat
  | [], i, _ => i
  | e :: l, i, off => if off < e.len then i else elemAt l (i + 1) (off - e.len)

/-- Mark the element of the source list that holds raw source position `off`, where there is a list (R76). -/
def State.markSourceAt (s : State) (id : LinkId) (off : Nat) : State :=
  match s.link id with
  | none => s
  | some (q, l) =>
    if 0 < l.hdr.srcGather && l.hdr.srcGather < 255 then s.markBad id q.part l.hdr.src (elemAt l.srcElems 0 off) l.srcElems
    else s

/-- A source read of a link failed with a bus error: the link fails and, where that decides its status,
the element is marked (R76, R275). -/
def State.sourceBusError (s : State) (id : LinkId) (off : Nat) : State :=
  match s.link id with
  | none => s
  | some (_, l) =>
    if l.stat.isSome then s
    else (if l.err.isNone then s.markSourceAt id off else s).endLink id (stBusError atSource)

/-- The extents of a referenced source (R269). -/
def Link.srcExtents (l : Link) : List (Nat × Nat) := l.srcList.map fun e => (e.addr, e.len)

/-- The bus error of a source read whole decides the status: the element of its lowest-addressed failed access is
marked (R76, R90). -/
def State.markSource (s : State) (id : LinkId) (a : ReadAnswer) : State :=
  match s.link id with
  | none => s
  | some (_, l) => match minBy (fun c => c.2.1) (failing a (accesses 0 l.srcExtents)) with
    | none => s
    | some c => s.markSourceAt id c.1

/-- Reads of a transfer blob (R178, R271, R272, R380). -/
def State.sourceReader (s : State) (part : Nat) (id : LinkId) : Reader :=
  { fid := s.fidOf part, cls := clsRelaxed, part := part, about := some id }

/-- A destination write of a link failed: the remaining writes still issue, and the status follows from
the stages (R90, R148, R280). -/
def State.destBusError (s : State) (id : LinkId) (elem : Nat) : State :=
  match s.link id with
  | none => s
  | some (q, l) =>
    let st := stBusError atDestination
    let replaces := match l.stat with
      | none => l.err.isNone
      | some t => t.good || t.code == 0x10 || t.code == 0x11
    let s := match l.stat with
      | none => s.noteErr id st
      | some t =>
        if t.good || t.code == 0x10 || t.code == 0x11 then
          (s.onLink id fun l => { l with stat := some st, bytesOut := 0, output := [] }).abandonAfter id
        else s
    if replaces && 0 < l.hdr.dstGather && l.hdr.dstGather < 255 then
      s.markBad id q.part l.hdr.dst elem l.dstElems
    else s

end Sys2Proof.Machine
end

