-- ==== Sys2Proof/Machine/Requests.lean ====
section
/-! DEFINITION. Requests as wholes: when a link is done, wiping a job, outcomes that the ring gives,
flushing without records, fences, and the counters that a written record moves (R41, R47, R81, R90,
R224, R279, R282, R295, R302 to R304, R316, R422 to R425). -/

namespace Sys2Proof.Machine

/-! ### Threads and jobs -/

/-- Threads of the control, management and entropy classes, where the Charter puts them (R230). -/
def State.staticHome (s : State) (t : Nat) : Bool :=
  decide (t < s.charter.mgmtThreads) || (decide (16 ≤ t) && decide (t < 16 + s.charter.entThreads))

def State.thread (s : State) (t : Nat) : Thread := (s.ory.threads[t]?).getD {}

def State.onThread (s : State) (t : Nat) (f : Thread → Thread) : State :=
  s.onOry fun o => { o with threads := updAt o.threads t f }

/-- The static home whose thread sits on thread t: the one that moved here, or t itself (R230, R311, R313). -/
def State.homeOf (s : State) (t : Nat) : Option Nat :=
  match s.ory.statics.find? fun x => x.2 == t with
  | some x => some x.1
  | none => if s.staticHome t && (mget s.ory.statics t).isNone then some t else none

/-- A pool thread: neither a static home nor the seat of a static thread that has moved (R230, R311). -/
def State.poolThread (s : State) (t : Nat) : Bool := !s.staticHome t && (s.homeOf t).isNone

/-- A thread of the control and management reservation, at home or on the seat it moved to (R230, R311). -/
def State.mgmtThread (s : State) (t : Nat) : Bool := (s.homeOf t).any fun h => decide (h < s.charter.mgmtThreads)

/-- An entropy thread, at home or on the seat it moved to (R230, R311). -/
def State.entThread (s : State) (t : Nat) : Bool := (s.homeOf t).any fun h => decide (16 ≤ h)

/-- A thread without work: a pool thread has ended, a static one is blocked at its port (R230, R235): the control
thread on the tick, the management threads on the mailbox, the entropy threads on an event that management asks
for (log 18). On a core out of service none rests; a debugger's stop stands (R240). -/
def State.restThread (s : State) (t : Nat) : Thread :=
  let stop := (s.thread t).stopped
  match if (s.unitSt (.oryCore (t / 16))).ecl then none else s.homeOf t with
  | none => { stopped := stop }
  | some h =>
    let p : OryPort := if h = 0 then .tick else if h < s.charter.mgmtThreads then .mailbox else .request none
    { st := .blocked (.port p), stopped := stop, root := t, work := if h = 0 then .control else .idle }

/-- The live threads of a group. -/
def State.groupOf (s : State) (root : Nat) : List Nat :=
  (List.range 64).filter fun t => match s.ory.threads[t]? with
    | some x => x.st != .ended && x.root == root
    | none => false

/-- A service DMA channel stops at its next access boundary: nothing more issues, reads are discarded on arrival (R293). -/
def State.dmaStop (s : State) (n : Nat) : State :=
  let s := s.discardReads fun u => match u with
    | .sdma m _ => m == n
    | _ => false
  s.onWrites fun w => match w.purpose with
    | .sdma m _ => if m == n && !w.issued then none else some w
    | _ => some w

/-- Threads end or go back to rest: what they staged is discarded, their channels return to the pools, and their service
DMA channels stop (R231, R234, R236, R293). A job's buffers return with its wipe (R224). -/
def State.endThreads (s : State) (ids : List Nat) : State :=
  let s := s.onOry fun o => { o with
    threads := o.threads.zipIdx.map fun t => if ids.contains t.2 then s.restThread t.2 else t.1
    chans := (o.chans.filter fun c => !ids.contains c.2.reader).map fun c =>
      (c.1, { c.2 with staged := c.2.staged.filter fun w => !ids.contains w.1 }) }
  let mine := s.mov.sdma.filter fun d => ids.contains d.1 && d.2.busy
  let s := s.onMov fun m => { m with sdma := m.sdma.map fun d => (d.1, { d.2 with abort := d.2.abort || mine.any fun x => x.1 == d.1 }) }
  mine.foldl (fun s d => s.dmaStop d.1) s

/-- A group ends with all its threads (R237). -/
def State.freeGroup (s : State) (root : Nat) : State := s.endThreads (s.groupOf root)

/-- Thread b takes over the state of thread a, which is left empty: its place in its group, its channels, its buffers, its
service DMA channel and the image that it has staged (R311). -/
def State.moveThread (s : State) (a b : Nat) : State :=
  let f (t : Nat) : Nat := if t == a then b else t
  let wait (x : TState) : TState := match x with
    | .blocked (.join u) => .blocked (.join (f u))
    | x => x
  let fix (x : Thread) : Thread :=
    if x.st == .ended then x else { x with st := wait x.st, root := f x.root, forked := x.forked.map fun r => r.map f }
  let chan (k : Chan) : Chan :=
    { k with reader := f k.reader, writers := k.writers.map f
             staged := match mget k.staged a with
               | some w => mset (mdel k.staged a) b w
               | none => k.staged }
  let old := s.thread a
  let s := s.onOry fun o => { o with
    threads := (updAt (updAt o.threads b fun _ => old) a fun _ => {}).map fix
    chans := o.chans.map fun c => (c.1, chan c.2)
    buffers := o.buffers.map fun c => (c.1, f c.2)
    staging := o.staging.map fun x => (x.1, x.2.1, f x.2.2) }
  match mget s.mov.sdma a with
  | none => s
  | some d =>
    let rp (u : RPurpose) : RPurpose := match u with
      | .sdma n k => .sdma (f n) k
      | u => u
    let wp (u : WPurpose) : WPurpose := match u with
      | .sdma n k => .sdma (f n) k
      | u => u
    s.onMov fun m => { m with
      sdma := mset (mdel m.sdma a) b d
      ports := m.ports.map fun p => { p with reads := p.reads.map fun r => { r with purpose := rp r.purpose }
                                             writes := p.writes.map fun w => { w with purpose := wp w.purpose } } }

/-! ### Units of a grant -/

/-- The other half of a pair. -/
def mate (n : Nat) : Nat := if n % 2 = 0 then n + 1 else n - 1

/-- Every unit that a grant runs on. -/
def Grant.units (g : Grant) : List UnitId :=
  match g.unit with
  | .lane n => if g.pair then [.lane n, .lane (mate n)] else [.lane n]
  | .macu n => if g.pair then [.macu n, .macu (mate n)] else [.macu n]
  | u => [u]

/-- The unit on which the leader copy of a grant runs: of a MACU pair the even one, or in slot 1 the odd (R208). -/
def Grant.leads (g : Grant) : UnitId :=
  match g.unit with
  | .macu n => if g.pair && g.odd then .macu (mate n) else .macu n
  | u => u

/-- The clock in which a grant's copy on a unit starts; a follower's comes `h` clocks after its leader's (R208). -/
def Grant.clockOn (g : Grant) (h : Nat) (u : UnitId) : Nat :=
  g.start + match u with
    | .macu _ => if g.pair && u != g.leads then h else 0
    | _ => 0

/-- The batch that starts next on a MACU after the clock given, the first of the tick where none is, with its clock (R204,
R208). -/
def State.nextBatch (s : State) (u : Nat) (after : Option Nat) : Option (LinkId × Nat) :=
  let h := s.budget / 2
  let l := (s.sch.running.filter fun g => g.units.contains (.macu u)).map fun g => (g.id, g.clockOn h (.macu u))
  minBy (·.2) (l.filter fun x => match after with
    | some k => decide (k < x.2)
    | none => true)

/-- A batch begins on a MACU, with empty accumulators; none waits for its clock to come (R204). -/
def Macu.begin (m : Macu) (next : Option (LinkId × Nat)) : Macu :=
  { m with acc := 0, vec := List.replicate 16 0, batch := next.map (·.1), batchAt := next.map (·.2) <|> m.batchAt }

/-- A job's batch is over on the MACUs where it is in progress, and the next of the tick begins (R203, R204, R224). -/
def State.stopBatch (s : State) (id : LinkId) : State :=
  s.onDat fun d => { d with
    compare := d.compare.filter fun w => w.id != id
    macus := d.macus.zipIdx.map fun m => if m.1.batch == some id then m.1.begin (s.nextBatch m.2 m.1.batchAt) else m.1 }

/-- The words of region r of a MACU's operand memory: 256 words (R202). -/
def inRegion (r k : Nat) : Bool := k / 256 == r

/-- Clear a job's regions and its words in the queues of a MACU (R224). -/
def Macu.wipe (m : Macu) (id : LinkId) : Macu :=
  let mine := (List.range 4).filter fun r => (m.regions.getD r none) == some id
  { m with
    regions := m.regions.map fun r => if r == some id then none else r
    mem := m.mem.filter fun w => !mine.any fun r => inRegion r w.1
    loadQ := m.loadQ.filter fun w => w.1 != id
    storeQ := m.storeQ.filter fun w => w.1 != id }

/-- The bytes of a job's buffers in Orrery shared memory are zeroed (R224, R231). -/
def wipeBuffers (bufs : List Nat) (m : Map Byte) : Map Byte := m.filter fun b => !bufs.contains (b.1 / 16384)

/-- The thread works for the link's job. -/
def State.jobThread (s : State) (id : LinkId) (t : Nat) : Bool := ((s.ory.threads[t]?).map (·.work)) == some (.request id)

/-- Wipe a job: its regions and queues on every MACU, and its buffers, which return to the pool; its thread's group ends
(R224, R231). -/
def State.wipeJob (s : State) (id : LinkId) : State :=
  match (s.link id).bind fun x => x.2.job with
  | none => s
  | some j =>
    let s := (s.stopBatch id).onDat fun d => { d with macus := d.macus.map fun m => m.wipe id }
    let s := s.onOry fun o => { o with buffers := j.buffers.foldl (fun b k => mdel b k) o.buffers, shmem := wipeBuffers j.buffers o.shmem }
    let s := if s.jobThread id j.thread then s.freeGroup j.thread else s
    s.onLink id fun l => { l with job := some { j with macu := none, held := [], source := [], ops := [],
                                                       extRec := [], buffers := [], wiped := true } }

/-- A kill ends a job at once, the batch in progress included, and starts its wipe (R224, R239). -/
def State.killJob (s : State) (id : LinkId) : State :=
  (s.wipeJob id).onSch fun c => { c with plan := c.plan.filter (fun g => g.id != id), running := c.running.filter fun g => g.id != id }

/-- Every job of a partition is killed. -/
def State.killJobs (s : State) (p : Nat) : State :=
  s.rng.reqs.foldl (fun s q =>
    if q.part ≠ p then s
    else q.links.zipIdx.foldl (fun s l => if l.1.job.isSome then s.killJob ⟨q.ring, q.idx, l.2⟩ else s) s) s

/-! ### When a link is done -/

/-- The link's result is known, its writes are done and its job is wiped (R224, R279, R302). -/
def State.linkDone (s : State) (id : LinkId) (l : Link) : Bool :=
  l.stat.isSome && !s.linkWaits id && (match l.job with
    | none => true
    | some j => j.wiped)

/-- The number of the first link of a request whose record is not made. -/
def Req.front (q : Req) : Nat := (q.links.findIdx? fun l => !l.recorded).getD q.links.length

/-- The first link whose result is not known. -/
def Req.current (q : Req) : Nat := (q.links.findIdx? fun l => l.stat.isNone).getD q.links.length

/-- A key-management request, granted on the Orrery, is under way from its preparation on (R27, R78, R162). -/
def Link.keyWork (l : Link) : Bool :=
  l.job.isSome && [opGenerate, opImport, opDerive, opRetire].contains l.hdr.opcode

/-- Any link of the request has been granted, on a unit, a DRBG core or the Orrery (R41, R78, R316). -/
def Req.granted (q : Req) : Bool := q.links.any fun l => l.granted || l.keyWork

/-- Every record of the request is done, and no further link can come. -/
def Req.over (q : Req) : Bool := q.openSince.isNone && q.links.all (·.written)

/-- Every earlier request of the ring has its record done (R81, R304). -/
def State.ringClear (s : State) (q : Req) : Bool :=
  s.rng.reqs.all fun r => r.ring != q.ring || r.order ≥ q.order

/-- Every request of the partition fetched before has its record done (R81, R304). -/
def State.partClear (s : State) (q : Req) : Bool :=
  s.rng.reqs.all fun r => r.part != q.part || r.order ≥ q.order

/-- A fence of the ring stands before the request: a FENCE whose record is not done, or a FENCE_BEFORE, the request's own
or an earlier one's, that earlier records still keep from completing; that of a NOP delays only the NOP's record (R66,
R81). -/
def State.fenced (s : State) (q : Req) : Bool :=
  let before (r : Req) : Bool := (match r.links.head? with
    | some l => l.hdr.fence && (l.hdr.opcode != opNop || r.idx == q.idx)
    | none => false) && !s.ringClear r
  s.rng.reqs.any fun r => r.ring == q.ring && ((r.order ≤ q.order && before r)
    || (r.order < q.order && r.links.any fun l => l.hdr.opcode == opFence && !l.written))

/-! ### Flushing without records (R33, R282, R283, R318) -/

/-- Drop requests: bindings end, jobs are killed and wiped, reads are marked for discard, writes not yet
issued never issue. -/
def State.dropReqs (s : State) (p : Req → Bool) : State :=
  let gone := s.rng.reqs.filter p
  let ids := gone.flatMap fun q => (List.range q.links.length).map q.linkId
  let s := ids.foldl (fun s id => ((s.unbind id).wipeJob id).dropWork id) s
  let s := s.discardReads fun u => ids.any fun id => isLinkRead id u
  let s := s.onWrites fun w => if !w.issued && ids.any (fun id => isLinkWrite id w.purpose) then none else some w
  s.onRng fun t => { t with reqs := t.reqs.filter fun q => !p q }

/-- The record writes of a request that have issued. -/
def Req.allRecorded (q : Req) : Bool := q.openSince.isNone && q.links.all (·.recorded)

/-- The lowest submission index of a request whose record write has not issued: that of its first link without a record,
or of the chain's next link, not yet fetched (R283). -/
def Req.firstOpen (q : Req) (next : Nat) : Nat :=
  match q.links.find? fun l => !l.recorded with
  | some l => l.subIdx
  | none => next

/-- The number of that link. -/
def Req.openLink (q : Req) : Nat := (q.links.findIdx? fun l => !l.recorded).getD q.links.length

/-- Flush a ring: drop every request whose record write has not issued, set flushed and the lowest index
flushed, and record 0x0806, of the request form, with that index as RING_ABORT reads it and sub_head (R282, R283, R414). -/
def State.flushRing (s : State) (r : Nat) : State :=
  let out := s.rng.reqs.filter fun q => q.ring == r && !q.allRecorded
  match minBy (·.order) out with
  | none => s
  | some q =>
    let x := s.ring r
    let head := if x.attr.stream then x.frameIdx else x.subHead
    let s := s.dropReqs fun q => q.ring == r && !q.allRecorded
    let i := q.firstOpen head
    let s := s.onRing r fun x => { x with flushed := true, flushIdx := i, aborts := [], aborting := [] }
    s.logAt 0x0806 uidFc x.owner r i q.openLink head none

/-! ### Counters of a written record (R422 to R425) -/

/-- The algorithm class of a link (R425). -/
def algClass (h : Hdr) : Nat :=
  let op := h.opcode
  if op = opGmacGen ∨ op = opGmacVer then 0
  else if op = opSeal ∨ op = opOpen then (if h.subop = 1 then 0 else if h.subop = 2 then 1 else 5)
  else if op = opEnc ∨ op = opDec then h.subop + 1
  else if op = opCopy then 6
  else if isDigest op then (if h.subop ≤ 5 then 7 else 8)
  else if isJob op h.subop then 9
  else if op = opRandom then 10
  else if op = opGenerate ∨ op = opImport ∨ op = opDerive ∨ op = opRetire then 11
  else 15

/-- The histogram bin of a latency (R424). -/
def latencyBin (n : Nat) : Nat :=
  if n ≤ 1 then 0 else if n ≤ 5 then n - 1 else if n ≤ 7 then 5
  else if n ≥ 4096 then 15 else n.log2 + 3

/-- A count raised by n. -/
def bump (l : List W64) (i n : Nat) : List W64 := updAt l i fun w => w + BitVec.ofNat 64 n

/-- Count a written record toward its ring and partition; the request enters the histogram with its last
record (R422 to R424). -/
def State.countRecord (s : State) (q : Req) (l : Link) (st : Stat) (last : Bool) : State :=
  let n := if st.good then l.bytesOut else 0
  let err := BitVec.ofNat 64 (b2n st.error)
  let start := q.eligTick.getD ((q.links.head?.map (·.fetchTick)).getD 0)
  let lat := modSub s.sch.tick start (2 ^ 32)
  let s := s.onRing q.ring fun x => { x with completed := x.completed + 1, errors := x.errors + err,
                                             bytes := x.bytes + BitVec.ofNat 64 n }
  let s := s.onPart q.part fun p =>
    if last && !p.entry.isSealed && 0 < p.entry.latency then
      { p with shapeDone := p.shapeDone + 1, shapeLate := p.shapeLate + b2n (decide (p.entry.latency < lat)) }
    else p
  s.onPart q.part fun p => { p with tel := { p.tel with
    requests := p.tel.requests + BitVec.ofNat 64 (b2n last)
    errors := p.tel.errors + err
    retried := p.tel.retried + BitVec.ofNat 64 (b2n l.retried)
    unrun := p.tel.unrun + BitVec.ofNat 64 (b2n (0x70 ≤ st.code && st.code ≤ 0x72))
    bytes := bump p.tel.bytes (algClass l.hdr) n
    latency := if last then bump p.tel.latency (latencyBin lat) 1 else p.tel.latency } }


end Sys2Proof.Machine
end

