-- ==== Sys2Proof/Machine/Drbg.lean ====
section
/-! DEFINITION. The DRBG instances: the draws that work makes, the plan of the two cores at a cut, and the
end of an item (R177, R214, R252 to R262, R266). -/

namespace Sys2Proof.Machine

/-! ### Instances -/

/-- The hedging instance (R253). -/
def hedgeInst : Nat := 1024

def State.inst (s : State) (i : Nat) : Inst := (mget s.ent.insts i).getD {}

def State.onInst (s : State) (i : Nat) (f : Inst → Inst) : State :=
  s.onEnt fun e => { e with insts := mset e.insts i (f ((mget e.insts i).getD {})) }

/-- The reseed interval of an instance (R253). -/
def State.interval (s : State) (i : Nat) : Nat :=
  if i < 1024 then ((s.part i).map (·.entry.reseedIvl)).getD 1024 else 2 ^ 20

/-- The instance is to be instantiated (R255). -/
def State.instWait (s : State) (i : Nat) : State := s.onInst i fun _ => { st := .waiting }

/-- An instance is uninstantiated and zeroized, and its items end; the 16 clocks of Uninstantiate are planned at the next cut
(R255, R259; log 95). -/
def State.instDrop (s : State) (i : Nat) : State :=
  s.onEnt fun e => { e with insts := mdel e.insts i
                            drops := if (mget e.insts i).isSome then e.drops ++ [i] else e.drops
                            cores := e.cores.map fun c => { c with items := c.items.filter fun x => x.inst != i } }

/-! ### Draws -/

/-- Material bytes that a KEY_GENERATE type draws (R165, R177). -/
def drawMaterial (h : Hdr) : Nat :=
  match h.subop with
  | 1 => 16 | 2 => 24 | 3 => 32 | 4 => 32 | 5 => 64 | 6 => 32
  | 0x28 => 32 | 0x29 => 48 | 0x2A => 66 | 0x2C => 32 | 0x2D => 32
  | _ => h.keyLen

/-- The material a draw gave is refused: for an ECC type 0, or not below the order (R177). -/
def badScalar (h : Hdr) (d : Bytes) : Bool :=
  h.opcode == opGenerate && 0x28 ≤ h.subop && h.subop ≤ 0x2A &&
    (let k := beNat (d.take (drawMaterial h))
     k == 0 || decide ((curveOf (h.subop - 0x28)).n ≤ k))

/-- Bytes of material before the identifier in what a key-creating link draws: in one call, for MLKEM_KEYGEN and MLDSA_KEYGEN
too (R177; of those two DEDUCED, log 123). -/
def drawHead (h : Hdr) : Nat :=
  if h.opcode = opGenerate then drawMaterial h
  else if h.opcode = opPk then (if h.subop = 0x20 then 64 else 32)
  else 0

/-- The next draw a link has still to make: the instance and the bytes (R177, R179, R214). A KEY_IMPORT
draws only where its blob names no identifier, which `importId` says. -/
def drawNext (part : Nat) (importId : Bool) (h : Hdr) (drawn : Bytes) (fallback : Bool) : Option (Nat × Nat) :=
  let op := h.opcode
  let once (i n : Nat) : Option (Nat × Nat) := if drawn.isEmpty && 0 < n then some (i, n) else none
  if isCreate op h.subop then
    if op = opImport && !importId then none
    else
      let m := drawHead h
      if drawn.isEmpty then some (part, m + 4)
      else if beNat (slice drawn m 4) = 0 then some (part, 4) else none
  else if op = opPk then
    match h.subop with
    | 0x02 => once part h.salt
    | 0x07 => once part (psetLen h.pset - 3 - h.srcLen)
    | 0x08 => once part (hashOut h.pkHash)
    | 0x21 => once part 32
    | 0x10 => if fallback then none else once hedgeInst 32
    | 0x29 => if fallback then none else once hedgeInst 32
    | _ => none
  else none

/-- What a link has drawn once a call has given `out` (R177). -/
def drawTake (h : Hdr) (drawn out : Bytes) : Bytes :=
  let d := if drawn.isEmpty then out else drawn.take (drawHead h) ++ out
  if badScalar h d then [] else d

/-! ### Costs (R259) -/

def dfCost (x : Nat) : Nat := 64 + 16 * cdiv (x + 9) 16

/-- The cost of an item; `reseed` where a generate finds its interval used up. -/
def itemCost (k : ItemKind) (n a : Nat) (reseed : Bool) : Nat :=
  match k with
  | .instantiate => 176
  | .uninstantiate => 16
  | .reseed => 32 + dfCost (32 + a)
  | .ahead => 32 + dfCost 32
  | .prGenerate => 32 + dfCost (32 + a) + 48 + cdiv n 16
  | .generate => 48 + cdiv n 16 + (if a > 0 then dfCost a else 0) + (if reseed then 144 else 0)

/-- Blocks an item needs (R252, R254). -/
def itemBlocks (k : ItemKind) (reseed : Bool) : Nat :=
  match k with
  | .instantiate => 2
  | .uninstantiate => 0
  | .generate => b2n reseed
  | _ => 1

/-! ### The plan of a cut (R257, R260, R261, R262) -/

/-- The workspace of a plan: the state, clocks free on each core, clocks free in each sealed window. -/
structure DPlan where
  s      : State
  room   : List Nat
  win    : Map Nat

/-- What became of an item that was to be placed. -/
inductive Placed where
  | done | noRoom | noBlock
  deriving DecidableEq, Repr

/-- A DRBG core is in service (R263). -/
def State.drbgUp (s : State) (c : Nat) : Bool := !(s.unitSt (.drbgCore c)).ecl

/-- The core that carries the sealed windows (R260, R263). -/
def State.winCore (s : State) : Nat := if s.drbgUp 1 then 1 else 0

/-- The items of an instance planned and not ended. -/
def State.itemsOf (s : State) (i : Nat) : List Item := s.ent.cores.flatMap fun c => c.items.filter fun x => x.inst == i

/-- The DRBG function of an item over its instance, with the blocks handed out to it, planned for tick t, which an
instantiation's personalization names (DESIGN CHOICE, log 125): the instance after it and the bytes it returns (R254, R256). An instantiated instance is SEEDED when its item ends (R262). The count of
calls stops one past what its register can show, where the longest interval is used up (R253). -/
def itemRun (x : Item) (t : Nat) (bs : List Bytes) (y : Inst) : Inst × Bytes :=
  let kv : KV := (y.key, y.v)
  let b := bs.headD []
  let fresh (kv : KV) (calls : Nat) : Inst :=
    { y with key := kv.1, v := kv.2, calls := calls, reseeds := sat 0xFFF y.reseeds 1 }
  match x.kind with
  | .instantiate =>
    let k := drbgInstantiate b ((bs.getD 1 []).take 16) (ascii "BRODKAI-DRBG" ++ natBE x.inst 2 ++ natBE t 4)
    ({ y with key := k.1, v := k.2, calls := 0, reseeds := 0 }, [])
  | .uninstantiate => (y, [])
  | .reseed => (fresh (drbgReseed kv b x.add) 0, [])
  | .ahead => (fresh (drbgReseed kv b []) 0, [])
  | .prGenerate =>
    let g := drbgGenerate (drbgReseed kv b x.add) [] x.n
    (fresh g.2 1, g.1)
  | .generate =>
    if bs.isEmpty then
      let g := drbgGenerate kv x.add x.n
      ({ y with key := g.2.1, v := g.2.2, calls := sat (2 ^ 32) y.calls 1 }, g.1)
    else
      let g := drbgGenerate (drbgReseed kv b []) x.add x.n
      (fresh g.2 1, g.1)

/-- A link's item stands on a core. -/
def State.hasItem (s : State) (id : LinkId) : Bool := s.ent.cores.any fun c => c.items.any fun x => x.who == some id

/-- Continue an item of core c in the coming tick T (R260, R261). -/
def planContinue (t c : Nat) (p : DPlan) (x : Item) : DPlan × Item :=
  if x.left = 0 then (p, x)
  else
    let w := x.window
    let room := if w then (mget p.win x.inst).getD 0 else p.room.getD c 0
    let k := min room x.left
    let p := if w then { p with win := mset p.win x.inst (room - k) } else { p with room := updAt p.room c fun n => n - k }
    let s := p.s.onEnt fun e => { e with cores := updAt e.cores c fun d => { d with next := d.next + k } }
    ({ p with s := s }, { x with left := x.left - k, last := if x.left - k = 0 then some t else none })

/-- The core an item is placed on: for a sealed partition its window's, else the one with more clocks
remaining, core 0 on a tie (R261). -/
def DPlan.core (p : DPlan) (sealedW : Bool) : Nat :=
  if sealedW then p.s.winCore
  else if p.room.getD 0 0 < p.room.getD 1 0 then 1 else 0

/-- Place an item of instance i, handing out the blocks it needs; one that the buffer cannot serve whole waits, and so does
one that finds no clock (R257, R261; log 22). The items of an instance run in the order of their placement: each has its
blocks and its bytes from here on (log 38). -/
def DPlan.place (p : DPlan) (t : Nat) (x : Item) (sealedW : Bool) : DPlan × Placed :=
  let i := x.inst
  let re := x.kind == .generate && decide (p.s.interval i ≤ (p.s.inst i).calls)
  let c := p.core sealedW
  let room := if sealedW then (mget p.win i).getD 0 else p.room.getD c 0
  let need := itemBlocks x.kind re
  if p.s.ent.buffer.length < need then (p, .noBlock)
  else if room = 0 then (p, .noRoom)
  else
    let cost := itemCost x.kind x.n x.add.length re
    let k := min room cost
    let r := itemRun x t (p.s.ent.buffer.take need) (p.s.inst i)
    let x := { x with add := [], out := r.2, left := cost - k, window := sealedW, first := t,
                      last := if cost - k = 0 then some t else none }
    let s := (if x.kind == .uninstantiate then p.s else p.s.onInst i fun _ => r.1).onEnt fun e =>
      { e with buffer := e.buffer.drop need
               cores := updAt e.cores c fun d => { d with items := d.items ++ [x], next := d.next + k } }
    ({ p with s := s, win := if sealedW then mset p.win i (room - k) else p.win
              room := if sealedW then p.room else updAt p.room c fun n => n - k }, .done)

/-- A link waits for a block: the first cut begins the wait, and each later one counts its tick unless the source is in a
pause or a retest; the cut that counts the eighth notes whether the source is FAILED (R258; log 36). -/
def State.countWait (s : State) (id : LinkId) : State :=
  let still := s.ent.scn == .pause || s.ent.scn == .retest || s.ent.scn == .startup || s.ent.scn == .off
  s.onLink id fun l => if l.entWait != 0 && still then l else
    { l with entWait := l.entWait + 1, entFailed := if l.entWait ≤ 8 then s.ent.scn == .failed else l.entFailed }

/-- RANDOM and RESEED are granted on a DRBG core (R78). -/
def direct (h : Hdr) : Bool := h.opcode == opRandom || h.opcode == opReseed

/-- Work of a link waits for a block, which it counts; its instance, where it is instantiated, shows RESEED_WAIT (R258,
R268). -/
def DPlan.waitBlock (p : DPlan) (id : LinkId) (i : Nat) : DPlan :=
  let s := (p.s.onEnt fun e => { e with waiting := e.waiting + 1 }).countWait id
  { p with s := if (s.inst i).st == .seeded then s.onInst i fun y => { y with st := .reseedWait } else s }

/-- Partition work of one link at a cut: a RANDOM, a RESEED or a draw, and whether it lacks a block. The instance must be
instantiated; work on one that still waits for that waits for entropy, for lack of a block or of clocks (R255, R258, R262). -/
def DPlan.work (p : DPlan) (t : Nat) (id : LinkId) (x : Item) (sealedW : Bool) : DPlan × Bool :=
  let inst := p.s.inst x.inst
  let busy := (p.s.itemsOf x.inst).any fun y => y.kind == .instantiate
  if busy then (p, false)
  else if inst.st == .seeded || inst.st == .reseedWait then
    let r := p.place t { x with who := some id } sealedW
    match r.2 with
    | .done => ({ r.1 with s := r.1.s.onLink id fun l => { l with entWait := 0, granted := l.granted || direct l.hdr } }, false)
    | .noRoom => (r.1, false)
    | .noBlock => (r.1.waitBlock id x.inst, true)
  else if inst.st == .waiting then (p.waitBlock id x.inst, true)
  else (p, false)

/-- The item that a RANDOM, RESEED or drawing link asks for. -/
def linkItem (part : Nat) (importId : Bool) (l : Link) : Option Item :=
  let h := l.hdr
  let add := l.srcSlice 0 h.srcLen
  if h.opcode = opRandom then
    some { kind := if h.subop = 1 then .prGenerate else .generate, inst := part, add := add, n := h.dstMax }
  else if h.opcode = opReseed then some { kind := .reseed, inst := part, add := add }
  else (drawNext part importId h l.drawn l.fallback).map fun d => { kind := .generate, inst := d.1, n := d.2 }

/-- Blocks that the entropy buffer holds (R248). -/
def bufferMax : Nat := 128

/-- Append `fuel` pattern blocks (R265). -/
def patternBlocks (seed : Nat) : Nat → Nat → List Bytes
  | 0, _ => []
  | k + 1, n => sha256 (natBE seed 4 ++ natBE n 4) :: patternBlocks seed k (n + 1)

/-- While the test pattern is in force the buffer is kept full of its blocks (R265, log 29). -/
def State.patternFill (s : State) : State :=
  let k := bufferMax - s.ent.buffer.length
  if !s.ent.testEn then s
  else s.onEnt fun e => { e with buffer := e.buffer ++ patternBlocks e.patSeed.toNat k e.patCount, patCount := e.patCount + k }

/-- Start a cut's plan for the coming tick T: the clocks of the cores and windows, items continued. -/
def State.drbgStart (s : State) (t : Nat) : DPlan :=
  let b := s.budget
  let wins : Map Nat := s.prt.parts.filterMap fun x => x.2.drbgWin.map fun w => (x.1, w.2)
  let room := (List.range 2).map fun c =>
    if !s.drbgUp c then 0 else b - (if c = s.winCore then sumBy wins (·.2) else 0)
  let s := s.patternFill.onEnt fun e => { e with
    waiting := 0, insts := e.insts.map fun x => if x.2.st == .reseedWait then (x.1, { x.2 with st := .seeded }) else x
    cores := e.cores.map fun c => { c with next := 0 } }
  let p : DPlan := { s := s, room := room, win := wins }
  (List.range 2).foldl (fun p c =>
    let items := ((p.s.ent.cores[c]?).map (·.items)).getD []
    let r := items.foldl (fun (a : DPlan × List Item) x => let y := planContinue t c a.1 x; (y.1, a.2 ++ [y.2])) (p, [])
    { r.1 with s := r.1.s.onEnt fun e => { e with cores := updAt e.cores c fun d => { d with items := r.2 } } }) p

/-- Instantiations of the instances of a range that wait for one, ascending; a sealed partition's in its window alone (R257,
R260). -/
def DPlan.instantiate (p : DPlan) (t lo hi : Nat) : DPlan :=
  (p.s.ent.insts.filter fun x => lo ≤ x.1 && x.1 < hi && x.2.st == .waiting).foldl (fun p x =>
    if (p.s.itemsOf x.1).any fun y => y.kind == .instantiate then p
    else (p.place t { kind := .instantiate, inst := x.1 } (p.s.sealedP x.1)).1) p

/-- The Uninstantiate items of the instances that were dropped, a sealed partition's in its window (R255, R259, R260; log 95). -/
def DPlan.uninstantiate (p : DPlan) (t : Nat) : DPlan :=
  p.s.ent.drops.foldl (fun p i =>
    let r := p.place t { kind := .uninstantiate, inst := i } (mget p.win i).isSome
    if r.2 == .done then { r.1 with s := r.1.s.onEnt fun e => { e with drops := e.drops.erase i } } else r.1) p

/-- The instance of block-internal keys (R253). -/
def keyInst : Nat := 1026

/-- The draw of the key that seals spilled lane contexts, 32 bytes, made once the instance is seeded (R151, R253; log 96). -/
def DPlan.drawSpill (p : DPlan) (t : Nat) : DPlan :=
  if !p.s.ent.spillKey.isEmpty || (p.s.inst keyInst).st != .seeded || !(p.s.itemsOf keyInst).isEmpty then p
  else (p.place t { kind := .generate, inst := keyInst, n := 32 } false).1

/-- Reseeds ahead of need, from the blocks left over (R256, R257). -/
def DPlan.ahead (p : DPlan) (t : Nat) : DPlan :=
  p.s.ent.insts.foldl (fun p x =>
    let i := x.1
    let due := x.2.st == .seeded && decide (cdiv (3 * p.s.interval i) 4 ≤ (p.s.inst i).calls) && !p.s.sealedP i
      && (p.s.itemsOf i).all fun y => y.kind != .ahead
    if due then (p.place t { kind := .ahead, inst := i } false).1 else p) p

/-! ### The end of an item (R254, R256, R262) -/

/-- The bytes that a generate gives its link: RANDOM's output and result, or what a job or a key has drawn. -/
def State.giveBytes (s : State) (id : LinkId) (out : Bytes) : State :=
  match s.link id with
  | none => s
  | some (_, l) =>
    if l.stat.isSome then s
    else if l.hdr.opcode = opRandom then
      ((s.onLink id fun l => { l with lastTick := some s.sch.tick }).emit id out fun _ => false).endLink id stOk
    else s.onLink id fun l => { l with drawn := drawTake l.hdr l.drawn out }

/-- The internal instances are all seeded for the first time: record 0x0604 (R264). -/
def State.seedCheck (s : State) : State :=
  let all := (List.range 16).all fun k => (s.inst (1024 + k)).st == .seeded
  if s.blk.mode == .seeding && !s.ldr.seeded && all then
    (s.onLdr fun l => { l with seeded := true }).log 0x0604 uidScn noPart (natLE s.sch.tick 4)
  else s

/-- Run the last core clock of an item: its instance is SEEDED, its link has its bytes. -/
def State.itemDone (s : State) (x : Item) : State :=
  match x.kind with
  | .instantiate => (s.onInst x.inst fun y => { y with st := .seeded }).seedCheck
  | .uninstantiate => s
  | .ahead => s
  | .reseed =>
    match x.who with
    | some id => (s.onLink id fun l => { l with lastTick := some s.sch.tick }).endLink id stOk
    | none => s
  | .prGenerate | .generate =>
    match x.who with
    | some id => s.giveBytes id x.out
    | none => s.onEnt fun e => { e with spillKey := x.out }

/-- The first item of a core whose last clock is planned for this tick or before. -/
def DCore.due (c : DCore) (t : Nat) : Option Item :=
  c.items.find? fun x => match x.last with
    | some k => k == t || modSub t k (2 ^ 32) < 2 ^ 31
    | none => false

/-- End the first due item of core c. -/
def State.coreDone (s : State) (c : Nat) : State :=
  match (s.ent.cores[c]?).bind fun d => d.due s.sch.tick with
  | none => s
  | some x =>
    let s := s.onEnt fun e => { e with cores := updAt e.cores c fun d => { d with items := d.items.erase x } }
    s.itemDone x

/-- End every due item, at the end of the tick. -/
def State.coresDone (s : State) : State :=
  (List.range 2).foldl (fun s c =>
    (((s.ent.cores[c]?).map (·.items)).getD []).foldl (fun s _ => s.coreDone c) s) s

/-- DRBG_ITEM_DONE: the last clock of a core's item runs (R262). -/
def execDrbgItemDone (c : Nat) (s : State) : Out :=
  .next (if s.ticking then s.coreDone c else s)

/-- The DRBG command of a RANDOM or RESEED request: its item's last clock runs (R254, R262). -/
def State.runItemOf (s : State) (id : LinkId) (op : Nat) : State :=
  match s.link id with
  | none => s
  | some (_, l) =>
    if l.hdr.opcode ≠ op || !s.serving then s
    else
      let due (d : DCore) := d.items.find? fun x => x.who == some id && (match x.last with
        | some k => k == s.sch.tick
        | none => false)
      (List.range 2).foldl (fun s c => match (s.ent.cores[c]?).bind due with
        | none => s
        | some x => (s.onEnt fun e => { e with cores := updAt e.cores c fun d => { d with items := d.items.erase x } }).itemDone x) s

/-- RANDOM (R254). -/
def execRandom (id : LinkId) (s : State) : Out := .next (s.runItemOf id opRandom)

/-- RESEED (R254). -/
def execReseed (id : LinkId) (s : State) : Out := .next (s.runItemOf id opReseed)

/-! ### Waiting for entropy (R214, R258) -/

/-- ENTROPY_WAIT_EXPIRY: after 8 counted ticks the work stops waiting; the record follows in the tick after the eighth
(R258). -/
def execEntropyWaitExpiry (id : LinkId) (s : State) : Out :=
  .next (match s.link id with
    | none => s
    | some (q, l) =>
      if !s.serving || l.stat.isSome || l.entWait ≤ 8 then s
      else
        let s := s.onLink id fun l => { l with entWait := 0 }
        let hedge := l.hdr.opcode == opPk && (l.hdr.subop == 0x10 || l.hdr.subop == 0x29)
        let det := ((s.part q.part).map (·.entry.detFallback)).getD false
        if hedge && det then
          ((s.onLink id fun l => { l with fallback := true }).onSch fun c => { c with fallback := sat 0xFFFF c.fallback 1 }).logReq
            0x0630 (uidInst hedgeInst) q.part id.ring id.idx id.link
        else
          let d := if hedge then 3 else if l.entFailed then 2 else 1
          let s := s.logReq 0x0605 (uidInst q.part) q.part id.ring id.idx id.link
          let s := s.onLink id fun l => { l with lastTick := if s.sch.cutDone then some s.sch.tick else l.lastTick }
          s.endLink id (stEntropy d))

end Sys2Proof.Machine
end

