-- ==== Sys2Proof/Machine/PkRsa.lean ====
section
/-! DEFINITION. RSA and modular exponentiation (R211 to R213): PKCS #1 encodings, CRT, and what each
subop computes. The standards' definitions are PRESUMED (log 9). -/

namespace Sys2Proof.Machine

/-- The DER prefix of DigestInfo for a hash of `hl` bytes named by its DIGEST subop. -/
def digestInfo (alg : Nat) : Bytes :=
  let last : Nat := match alg with
    | 1 => 4 | 2 => 1 | 3 => 2 | 4 => 3 | 5 => 6
    | 0x11 => 7 | 0x12 => 8 | 0x13 => 9 | _ => 10
  let hl := hashLen alg
  [0x30, BitVec.ofNat 8 (0x11 + hl), 0x30, 0x0d, 0x06, 0x09, 0x60, 0x86, 0x48, 0x01, 0x65, 0x03, 0x04, 0x02,
   BitVec.ofNat 8 last, 0x05, 0x00, 0x04, BitVec.ofNat 8 hl]

/-- EMSA-PKCS1-v1_5 of a digest in k bytes. -/
def emsaPkcs1 (alg k : Nat) (digest : Bytes) : Bytes :=
  let t := digestInfo alg ++ digest
  [0x00, 0x01] ++ List.replicate (k - t.length - 3) 0xFF ++ [0x00] ++ t

/-- MGF1. -/
def mgf1 (alg : Nat) (seed : Bytes) (n : Nat) : Bytes :=
  ((List.range (cdiv n (hashLen alg))).flatMap fun i => hash alg (seed ++ natBE i 4)).take n

/-- The n leftmost bits of the first byte cleared: of a masked data block, those by which the encoded message's whole bytes
exceed its bits. -/
def maskTop (n : Nat) (b : Bytes) : Bytes :=
  match b with
  | [] => []
  | x :: l => BitVec.ofNat 8 (x.toNat % 2 ^ (8 - n)) :: l

/-- The bit length of a number. -/
def bitLen (n : Nat) : Nat := if n = 0 then 0 else n.log2 + 1

/-- EMSA-PSS encoding of a digest for a modulus of `bits` bits. -/
def pssEncode (alg bits : Nat) (digest salt : Bytes) : Bytes :=
  let em := bits - 1
  let len := cdiv em 8
  let hl := hashLen alg
  let hm := hash alg (zeros 8 ++ digest ++ salt)
  let db := zeros (len - salt.length - hl - 2) ++ [0x01] ++ salt
  maskTop (8 * len - em) (xorB db (mgf1 alg hm (len - hl - 1))) ++ hm ++ [0xBC]

/-- EMSA-PSS verification. -/
def pssVerify (alg bits sl : Nat) (digest em : Bytes) : Bool :=
  let eb := bits - 1
  let len := cdiv eb 8
  let hl := hashLen alg
  let md := em.take (len - hl - 1)
  let hm := slice em (len - hl - 1) hl
  let db := maskTop (8 * len - eb) (xorB md (mgf1 alg hm (len - hl - 1)))
  let ps := len - sl - hl - 2
  em.length == len && decide (hl + sl + 2 ≤ len) && byteAt em (len - 1) == 0xBC
    && maskTop (8 * len - eb) md == md && (db.take ps).all (· == 0) && byteAt db ps == 1
    && hash alg (zeros 8 ++ digest ++ db.drop (ps + 1)) == hm

/-- EME-OAEP encoding with a seed. -/
def oaepEncode (alg k : Nat) (msg label seed : Bytes) : Bytes :=
  let hl := hashLen alg
  let db := hash alg label ++ zeros (k - msg.length - 2 * hl - 2) ++ [0x01] ++ msg
  let mdb := xorB db (mgf1 alg seed (k - hl - 1))
  [0x00] ++ xorB seed (mgf1 alg mdb hl) ++ mdb

/-- EME-OAEP decoding: the message, or none. -/
def oaepDecode (alg k : Nat) (em label : Bytes) : Option Bytes :=
  let hl := hashLen alg
  let mdb := em.drop (1 + hl)
  let seed := xorB (slice em 1 hl) (mgf1 alg mdb hl)
  let db := xorB mdb (mgf1 alg seed (k - hl - 1))
  let rest := (db.drop hl).dropWhile (· == 0)
  if byteAt em 0 = 0 ∧ db.take hl = hash alg label ∧ rest.head? = some 1 then some (rest.drop 1) else none

/-- EME-PKCS1-v1_5 encoding with padding bytes given, none of them zero. -/
def pkcs1Pad (msg ps : Bytes) : Bytes := [0x00, 0x02] ++ ps ++ [0x00] ++ msg

/-- EME-PKCS1-v1_5 decoding: the message, or none. -/
def pkcs1Unpad (em : Bytes) : Option Bytes :=
  let rest := em.drop 2
  let ps := rest.takeWhile (· != 0)
  if em.take 2 = [0x00, 0x02] ∧ 8 ≤ ps.length ∧ ps.length < rest.length then some (rest.drop (ps.length + 1))
  else none

/-- The private operation with the CRT over the stored material n, e, p, q, dp, dq, qinv (R213, R225). -/
def rsaPrivate (k : Nat) (mat : Bytes) (c : Nat) : Nat :=
  let half := k / 2
  let f := fun i => beNat (slice mat (k + 4 + half * i) half)
  let p := f 0
  let q := f 1
  let m1 := powMod c (f 2) p
  let m2 := powMod c (f 3) q
  m2 + q * (subMod m1 m2 p * f 4 % p)

/-- The modulus of a stored RSA or MODEXP key, or of a public key operand (R212, R225). -/
def rsaN (k : Nat) (b : Bytes) : Nat := beNat (b.take k)

end Sys2Proof.Machine
end

