-- ==== Sys2Proof/Machine/Vault.lean ====
section
/-! DEFINITION. The Vault: its layout, ledger pages, key contexts and extended records, the key cache, and
the ledger and Vault writes with their acknowledgements (R158 to R184, R225). -/

namespace Sys2Proof.Machine

/-! ### Layout (R163) -/

def roundUp (n m : Nat) : Nat := cdiv n m * m

/-- Bytes of a partition's three regions. -/
def ctxRegion (e : PartEntry) : Nat := roundUp (256 * e.ctxSlots) 4096
def ledgerRegion (e : PartEntry) : Nat := roundUp (512 * cdiv e.ctxSlots 60) 4096
def extRegion (e : PartEntry) : Nat := 8192 * e.extSlots

def regionsBase : Nat := 0x4010000

/-- Where partition p's regions begin. -/
def State.regionBase (s : State) (p : Nat) : Nat :=
  s.key.base + regionsBase + sumBy (s.charter.parts.filter fun e => e.num < p) fun e =>
    ctxRegion e + ledgerRegion e + extRegion e

def State.entryOf (s : State) (p : Nat) : PartEntry := ((s.part p).map (·.entry)).getD {}

def State.recordAddr (s : State) (p : Nat) : Nat := s.key.base + 64 * p
def State.ctxAddr (s : State) (p i : Nat) : Nat := s.regionBase p + 256 * i
def State.pageAddr (s : State) (p n : Nat) : Nat := s.regionBase p + ctxRegion (s.entryOf p) + 512 * n
def State.extAddr (s : State) (p i : Nat) : Nat :=
  s.regionBase p + ctxRegion (s.entryOf p) + ledgerRegion (s.entryOf p) + 8192 * (i - 1)

/-! ### Derived keys (R159) -/

/-- Derive a partition's keys at its generation. -/
def deriveKeys (root : Bytes) (p g : Nat) : Derived :=
  { ctx := rootKdf root "BRODKAI-CTX" p g, imp := rootKdf root "BRODKAI-IMP" p g
    ldg := rootKdf root "BRODKAI-LDG" p g, recd := rootKdf root "BRODKAI-REC" p 0 }

def State.keysOf (s : State) (p : Nat) : Derived := (mget s.key.derived p).getD ⟨[], [], [], []⟩

/-- The quadrant whose key-staging unit acts: the spec leaves open which of those in service, a free value (R312; log 6). -/
def State.stager (s : State) : Nat × State :=
  let d := s.draw 3
  let up := (List.range 4).filter fun q => !(s.unitSt (.quad q)).ecl
  (up.getD (d.1 % up.length) 0, d.2)

/-- A record of group 0x07; its code-specific bytes are 0 where the code's definition names none (R414). -/
def State.logKey (s : State) (code part : Nat) (detail : Bytes := []) : State :=
  let d := s.stager
  d.2.log code (uidQuad d.1) part detail

def State.logKeyReq (s : State) (code part : Nat) (v : VJob) : State :=
  s.logReq code (uidQuad v.quad) part v.id.ring v.id.idx v.id.link

/-! ### Partition records (R160) -/

/-- The 64 bytes of a partition record. -/
def recordBytes (key : Bytes) (p : Nat) (r : PRec) : Bytes :=
  let body := natLE p 2 ++ natLE r.gen 2 ++ natLE (b2n r.spent) 1 ++ zeros 3 ++ natLE r.seq 8 ++ zeros 32
  body ++ gcmTag key (natBE p 2 ++ zeros 2 ++ natBE r.seq 8) body []

/-- A record as read: none where its tag or partition fails. -/
def readRecord (key : Bytes) (p : Nat) (b : Bytes) : Option PRec :=
  if b.all (· == 0) then some {}
  else
    let r : PRec := { gen := leAt b 2 2, spent := bit (byteAt b 4) 0, seq := leAt b 8 8 }
    if gcmTag key (natBE p 2 ++ zeros 2 ++ natBE r.seq 8) (b.take 48) [] = slice b 48 16 ∧ leAt b 0 2 = p then some r else none

/-! ### Ledger pages (R181, R182) -/

def entryWord (e : LEntry) : Nat := e.value % 2 ^ 48 + 2 ^ 48 * b2n e.live + 2 ^ 49 * b2n e.clean + 2 ^ 50 * b2n e.ext

def readEntry (w : Nat) : LEntry := { value := fld w 0 48, live := bit w 48, clean := bit w 49, ext := bit w 50 }

/-- The 512 bytes of a page. -/
def pageBytes (key : Bytes) (gen : Nat) (p : LPage) : Bytes :=
  let ent (i : Nat) : Bytes :=
    if p.page = 0 ∧ i = 0 then natLE (p.liveCnt % 2 ^ 32) 8
    else natLE (entryWord ((mget p.entries i).getD {})) 8
  let body := natLE p.part 2 ++ natLE gen 2 ++ natLE p.page 4 ++ natLE p.seq 8 ++ (List.range 60).flatMap ent
  body ++ gcmTag key (natBE p.page 4 ++ natBE p.seq 8) body []

/-- A page as read: fresh where it is zero or of another generation, none where its tag fails. -/
def readPage (key : Bytes) (part gen n : Nat) (b : Bytes) : Option LPage :=
  if b.all (· == 0) || leAt b 2 2 != gen then some { part := part, page := n, seq := leAt b 8 8 }
  else
    let seq := leAt b 8 8
    if gcmTag key (natBE n 4 ++ natBE seq 8) (b.take 496) [] != slice b 496 16 || leAt b 0 2 != part || leAt b 4 4 != n then none
    else
      let ents := (List.range 60).filterMap fun i =>
        let e := readEntry (leAt b (16 + 8 * i) 8)
        if (n = 0 ∧ i = 0) ∨ e = {} then none else some (i, e)
      some { part := part, page := n, seq := seq, liveCnt := if n = 0 then leAt b 16 4 else 0, entries := ents }

def State.page (s : State) (p n : Nat) : LPage :=
  (s.key.pages.find? fun x => x.part == p && x.page == n).getD { part := p, page := n }

def State.setPage (s : State) (x : LPage) : State :=
  s.onKey fun k => { k with pages := (k.pages.filter fun y => !(y.part == x.part && y.page == x.page)) ++ [x] }

def State.ledger (s : State) (p i : Nat) : LEntry := (mget (s.page p (i / 60)).entries (i % 60)).getD {}

/-- One change of a page. -/
def LPage.upd (x : LPage) (u : PageUpd) : LPage :=
  let old (i : Nat) : LEntry := (mget x.entries i).getD {}
  match u with
  | .value i v c => { x with entries := mset x.entries i { old i with value := v, clean := c } }
  | .create i e => { x with entries := mset x.entries i { value := 0, live := true, clean := true, ext := e } }
  | .retire i => { x with entries := mset x.entries i { old i with live := false } }
  | .count up => { x with liveCnt := if up then x.liveCnt + 1 else x.liveCnt - 1 }

/-- The page write is over: no access of it stands. -/
def State.opOver (s : State) (o : PageOp) : Bool :=
  let a := s.pageAddr o.part o.page
  o.wrote && !s.writes.any fun w => !w.given && w.purpose == o.why && decide (a ≤ w.addr) && decide (w.addr < a + 512)

/-- A write of this purpose waits for its page. -/
def State.opWaits (s : State) (why : WPurpose) : Bool := s.key.pageOps.any fun o => o.why == why && !o.wrote

/-- Page writes that are over leave, and the first of each page begins with its read (R181). -/
def State.opsNext (s : State) : State :=
  if s.key.pageOps.isEmpty then s
  else
    let ops := s.key.pageOps.filter fun o => !s.opOver o
    let first (o : PageOp) : Bool := (ops.find? fun x => x.part == o.part && x.page == o.page) == some o && !o.started && !o.held
    let go := ops.filter first
    let s := s.onKey fun k => { k with pageOps := ops.map fun o => if first o then { o with started := true } else o }
    let add (m : Mov) (o : PageOp) : Mov := (cut (s.pageAddr o.part o.page) 512).foldl (fun m c => m.addRead
      { addr := c.1, len := c.2, fid := s.vaultFid, cls := clsVault, vault := true, purpose := .page o.part o.page }) m
    (s.onMov fun m => go.foldl add m).pump

/-- Write a page: read, verify, update, new tag and write (R181). -/
def State.writePage (s : State) (p n : Nat) (why : WPurpose) (us : List PageUpd) : State :=
  (s.onKey fun k => { k with pageOps := k.pageOps ++ [{ part := p, page := n, why := why, upds := us }] }).opsNext

/-- The page of a write has arrived and its tag is right: it is changed and written with its next write_seq and new tag. -/
def State.opWrite (s : State) (o : PageOp) (x : LPage) : State :=
  let x := o.upds.foldl LPage.upd { x with seq := (x.seq + 1) % 2 ^ 64 }
  let s := s.onKey fun k => { k with pageOps := k.pageOps.map fun y => if y == o then { y with wrote := true, got := [] } else y }
  (s.setPage x).vaultWrite (s.pageAddr o.part o.page) (pageBytes (s.keysOf o.part).ldg ((s.part o.part).map (·.gen) |>.getD 0) x) o.why

/-! ### Key types, policies and contexts (R127, R165, R166, R168, R169, R211) -/

/-- The key type fits the opcode and subop, `hash` the key's bound hash. -/
def typeFits (h : Hdr) (t hash : Nat) : Bool :=
  let op := h.opcode
  let sub := h.subop
  let aes := decide (1 ≤ t) && decide (t ≤ 3)
  if op = opSeal ∨ op = opOpen then (if sub = 3 then t == 6 else aes)
  else if op = opGmacGen ∨ op = opGmacVer then aes
  else if op = opEnc ∨ op = opDec then (if sub = 3 then t == 4 || t == 5 else aes)
  else if op = opHmacGen ∨ op = opHmacVer then t == 0x10 && hash == sub
  else if op = opDerive then t == 0x18
  else if op = opPk then
    if sub ≤ 4 then t == 0x1F + h.pset
    else if sub ≤ 0x12 then t == 0x17 + h.pset
    else if sub = 0x18 then t == 0x2C
    else if sub = 0x19 then t == 0x2D
    else if sub = 0x22 then t == 0x0F + h.pset
    else if sub = 0x29 then t == 0x07 + h.pset
    else t == 0x3B + h.pset
  else true

/-- The policy bit an operation needs (R166); none for KEY_RETIRE. -/
def policyBit (h : Hdr) : Option Nat :=
  let op := h.opcode
  if op = opSeal ∨ op = opEnc ∨ op = opGmacGen then some 0
  else if op = opOpen ∨ op = opDec ∨ op = opGmacVer then some 1
  else if op = opHmacGen ∨ op = opHmacVer then some 2
  else if op = opDerive then some 5
  else if op = opPk then
    if [1, 2, 0x10, 0x19, 0x29].contains h.subop then some 3
    else if h.subop = 0x30 then some 6 else some 4
  else none

/-- Counting keys: AES and ChaCha20 (R165). -/
def counting (t : Nat) : Bool := (decide (1 ≤ t) && decide (t ≤ 3)) || t == 6

/-- The key needs an extended record (R165). -/
def needsExt (t : Nat) : Bool := (0x20 ≤ t && t ≤ 0x23) || 0x30 ≤ t

/-- The policy bits a type allows (R166). -/
def policyMask (t : Nat) : Nat :=
  if counting t then 0x0F83
  else if t = 4 ∨ t = 5 then 0x03
  else if t = 0x10 then 0x04
  else if t = 0x18 then 0x20
  else if t ≤ 0x2A then 0x18
  else if t = 0x2C then 0x10
  else if t = 0x2D then 0x08
  else if t ≤ 0x32 then 0x10
  else if t ≤ 0x3A then 0x08
  else 0x40

/-- The checks of a creation's policy; a reserved bit in an unwrapped blob is an operation that no type permits (R166, R178; log
103). -/
def createPolicy (e : PartEntry) (t pol : Nat) : Option Stat :=
  if pol &&& policyMask t ≠ pol ∨ pol % 128 = 0 then some (stKeyPolicy 1)
  else if counting t ∧ !(if bit pol 7 then e.nonceHw else e.nonceLimit) then some (stKeyPolicy 2)
  else none

/-- The usage limit of a new key (R165, R166). -/
def newLimit (t pol : Nat) : Nat :=
  if !counting t then 0xFFFFFFFFFFFF
  else if fld pol 8 4 = 0 then 2 ^ 32 else 2 ^ (16 + 2 * fld pol 8 4)

/-- Type of the key a creating link makes; for KEY_IMPORT the blob's. -/
def createType (h : Hdr) (blob : Bytes) : Nat :=
  if h.opcode = opGenerate then h.subop
  else if h.opcode = opDerive then h.outType
  else if h.opcode = opImport then byteAt blob 1
  else if h.subop = 0x20 then 0x0F + h.pset else 0x07 + h.pset

/-- Its policy. A key-generation job's W12 holds the parameter set, so the key takes the one policy its type
allows (log 17). -/
def createPol (h : Hdr) (blob : Bytes) : Nat :=
  if h.opcode = opImport then leAt blob 6 2
  else if h.opcode = opPk then (if h.subop = 0x20 then 0x10 else 0x08)
  else h.policy

/-- The index a creating link writes to (R80, R167). -/
def createIndex (h : Hdr) : Nat := if h.opcode = opDerive then h.w 15 else h.keyIndex

/-- The hash bound to the new key. -/
def createHash (h : Hdr) (blob : Bytes) : Nat :=
  if h.opcode = opImport then byteAt blob 22 else if h.opcode = opPk then 0 else h.outHash

/-- What a new key is made of. -/
structure NewKey where
  type  : Nat
  pol   : Nat
  inst  : Nat
  limit : Nat
  hash  : Nat
  org   : Nat
  recId : Nat
  mat   : Bytes
  deriving DecidableEq, Repr

/-- The 248-byte plaintext of a context (R168). -/
def ctxPlain (p g i : Nat) (k : NewKey) : Bytes :=
  let e := needsExt k.type
  let m := if e then [] else k.mat
  ([BitVec.ofNat 8 2, BitVec.ofNat 8 k.type] ++ natLE p 2 ++ natLE g 2 ++ natLE k.pol 2 ++ natLE i 4 ++ natLE k.inst 4
    ++ natLE k.limit 6 ++ natLE k.hash 1 ++ natLE m.length 1 ++ natLE k.org 1 ++ zeros 7
    ++ natLE (if e then k.recId else 0) 8 ++ natLE (if e then 32 + k.mat.length else 0) 4 ++ zeros 4 ++ m ++ zeros 200).take 248

/-- The plaintext of an extended record (R169). -/
def extPlain (p g i : Nat) (k : NewKey) : Bytes :=
  [BitVec.ofNat 8 2, BitVec.ofNat 8 k.type] ++ natLE p 2 ++ natLE g 2 ++ zeros 2 ++ natLE i 4 ++ zeros 4
    ++ natLE k.recId 8 ++ natLE k.mat.length 4 ++ zeros 4 ++ k.mat

/-- A context unwrapped and checked against the handle (R170 step 5). -/
def openCtx (kek : Bytes) (p g i : Nat) (b : Bytes) : Option Bytes :=
  match kwpUnwrap kek b with
  | none => none
  | some c => if c.length = 248 ∧ byteAt c 0 = 2 ∧ leAt c 2 2 = p ∧ leAt c 4 2 = g ∧ leAt c 8 4 = i then some c else none

/-- The material of an extended record whose header agrees with its context (R169); its length on the Vault
is the context's ext_length wrapped. -/
def openExt (kek ctx b : Bytes) : Option Bytes :=
  let n := leAt ctx 40 4
  match kwpUnwrap kek (b.take (roundUp n 8 + 8)) with
  | none => none
  | some x =>
    if x.length = n ∧ byteAt x 0 = 2 ∧ byteAt x 1 = byteAt ctx 1 ∧ slice x 2 4 = slice ctx 2 4 ∧ slice x 8 4 = slice ctx 8 4
        ∧ slice x 16 8 = slice ctx 32 8 ∧ leAt x 24 4 + 32 = n then some (x.drop 32) else none

/-! ### The key cache (R171, R172, R173) -/

/-- A request that staged the slot's key is not yet completed: its result is not known (R171). -/
def State.holds (s : State) (p i g : Nat) : Bool :=
  s.rng.reqs.any fun q => q.links.any fun l => l.stat.isNone && l.keySlot == some (p, i, g)

def State.pinned (s : State) (x : KSlot) : Bool := x.write.isSome || s.holds x.part x.index x.gen

def State.onSlot (s : State) (k : Nat × Nat × Nat) (f : KSlot → KSlot) : State :=
  s.onKey fun u => { u with slots := u.slots.map fun x => if x.part == k.1 && x.index == k.2.1 && x.gen == k.2.2 then f x else x }

/-- Wipe a key's slot and its key-state slots. -/
def State.wipeSlot (s : State) (k : Nat × Nat × Nat) : State :=
  s.onKey fun u => { u with
    slots := u.slots.filter fun x => !(x.part == k.1 && x.index == k.2.1 && x.gen == k.2.2)
    hslots := u.hslots.filter fun x => !(x.part == k.1 && x.index == k.2.1 && x.gen == k.2.2) }

/-- Wipe every slot of a partition, without ledger write-back (R180, R282, R318). -/
def State.wipePart (s : State) (p : Nat) : State :=
  (s.dropOps fun o => o.part == p).onKey fun u => { u with slots := u.slots.filter fun x => x.part != p, hslots := u.hslots.filter fun x => x.part != p }

/-- Wipe the unusable slots of a partition that no request holds, without write-back (R181). -/
def State.dropUnusable (s : State) (p : Nat) : State :=
  (s.key.slots.filter fun x => x.part == p && x.unusable && !s.holds p x.index x.gen).foldl
    (fun s x => s.wipeSlot (p, x.index, x.gen)) s

/-- A ledger page's tag fails: record 0x0701, counted, and every key of the page is unusable from then on:
requests that hold one and were not yet granted complete KEY_INVALID with detail UNWRAP (R181). -/
def State.pageBad (s : State) (p n : Nat) : State :=
  if (s.page p n).bad then s
  else
  let s := s.setPage { s.page p n with bad := true }
  let s := s.onKey fun k => { k with
    tagFails := sat 0xFF k.tagFails 1
    slots := k.slots.map fun x => if x.part == p && x.index / 60 == n then { x with unusable := true } else x }
  let s := s.logKey 0x0701 p
  let mine (l : Link) : Bool := match l.keySlot with
    | some k => k.1 == p && k.2.1 / 60 == n && l.stat.isNone && !l.granted
    | none => false
  let ids := (s.allLinks.filter fun x => !x.2.1.granted && mine x.2.2 && !s.key.jobs.any fun v => v.id == x.1).map (·.1)
  (ids.foldl (fun s id => s.endAs id (stKeyInvalid 2)) s).dropUnusable p

/-- A page arrives from the Vault: its status where the read failed, or the state with the page as read. A
poisoned page is a tag failure (R276). -/
def State.takePage (s : State) (p n : Nat) (a : ReadAnswer) (id : LinkId) : State × Option Stat :=
  let s := s.readString (s.vaultReader p (some id)) [(s.pageAddr p n, 512)] a
  match a with
  | .busError _ _ => (s, some (stBusError atVault))
  | .timeout _ _ => (s, some (stTimeout atVault))
  | .poisoned _ _ _ => (s.pageBad p n, some (stKeyInvalid 2))
  | .ok _ =>
    match readPage (s.keysOf p).ldg p ((s.part p).map (·.gen) |>.getD 0) n (ansBytes a 512) with
    | none => (s.pageBad p n, some (stKeyInvalid 2))
    | some x => (s.setPage x, none)

/-- Slots of a partition's pool: a sealed partition's own, or those that the sealed do not reserve (R172). -/
def State.pool (s : State) (total : Nat) (rsv : PartEntry → Nat) (p : Nat) : Nat :=
  if s.sealedP p then rsv (s.entryOf p)
  else total - sumBy (s.charter.parts.filter fun e => e.isSealed) rsv

/-- Two partitions use one pool (R172). -/
def State.samePool (s : State) (a b : Nat) : Bool := a == b || (!s.sealedP a && !s.sealedP b)

/-- Room in the key cache for a key of partition p. -/
inductive Room where
  | free | evicting | full
  deriving DecidableEq, Repr

/-- Start a ledger write of a slot (R183). -/
def State.ledgerWrite (s : State) (k : Nat × Nat × Nat) (why : LedgerWhy) (v : Nat) (clean : Bool) : State :=
  let s := s.writePage k.1 (k.2.1 / 60) (.ledger k.1 k.2.1) [.value (k.2.1 % 60) v clean]
  s.onSlot k fun x => { x with write := some { why := why, value := v } }

/-- Slots in the order in which they are taken: the least recently used first, the lowest number of equals (R99, R171). -/
def State.lruKey (s : State) (useTick no : Nat) : Nat := (2 ^ 32 - modSub s.sch.tick useTick (2 ^ 32)) * 65536 + no

/-- Make room: a free slot, or the least recently used unpinned one, whose ledger value is written back
first (R171, R183). -/
def State.makeRoom (s : State) (p : Nat) : State × Room :=
  let mine := s.key.slots.filter fun x => s.samePool p x.part
  if mine.length < s.pool 65536 (·.rsvKeys) p then (s, .free)
  else if mine.any (fun x => match x.write with
    | some w => w.why == .evict
    | none => false) then (s, .evicting)
  else match minBy (fun x => s.lruKey x.useTick x.no) (mine.filter fun x => !s.pinned x) with
    | none => (s, .full)
    | some x =>
      let k := (x.part, x.index, x.gen)
      if counting (ctxType x.ctx) && !x.unusable && (s.part x.part).map (·.gen) == some x.gen then (s.ledgerWrite k .evict x.next true, .evicting)
      else (s.wipeSlot k, .free)

/-- Place a key in the cache. For a counting key L and D follow its ledger entry, and its reservation is
written (R183); an inexact value resumes above it. -/
def State.placeKey (s : State) (p i g : Nat) (c : Bytes) : State :=
  let no := (lowestFree (s.key.slots.map (·.no)) 0 65536).getD 0
  let e := s.ledger p i
  let l := if e.clean then e.value else (e.value / 4096 + 1) * 4096
  let k := (p, i, g)
  let cnt := counting (ctxType c)
  let s := s.onKey fun u => { u with slots := u.slots ++
    [{ no := no, part := p, index := i, gen := g, ctx := c, next := if cnt then l else 0, useTick := s.sch.tick }] }
  if cnt then s.ledgerWrite k .staging (l / 4096 * 4096) false else s

/-- Room for a key-state slot: the least recently used unpinned one is wiped where none is free (R173). -/
def State.makeHRoom (s : State) (p : Nat) : State × Bool :=
  let mine := s.key.hslots.filter fun x => s.samePool p x.part
  if mine.length < s.pool 16384 (·.rsvStates) p then (s, true)
  else match minBy (fun x => s.lruKey x.useTick x.no) (mine.filter fun x => !s.holds x.part x.index x.gen) with
    | none => (s, false)
    | some x => (s.onKey fun u => { u with hslots := u.hslots.filter fun y => y.no != x.no }, true)

/-- Compute and place an HMAC key's states (R173). -/
def State.placeStates (s : State) (p i g hash : Nat) (mat : Bytes) : State :=
  let st := hmacStates hash mat
  let no := (lowestFree (s.key.hslots.map (·.no)) 0 16384).getD 0
  s.onKey fun u => { u with hslots := u.hslots ++
    [{ no := no, part := p, index := i, gen := g, hash := hash, inner := st.1, outer := st.2, useTick := s.sch.tick }] }

/-! ### Ledger acknowledgements (R183) -/

/-- A ledger write of this entry is not yet done. -/
def State.ledgerWaits (s : State) (p i : Nat) : Bool :=
  s.opWaits (.ledger p i) || s.writeWaits fun u => u == .ledger p i

/-- The slot of a partition's index whose ledger write is outstanding. -/
def State.writing (s : State) (p i : Nat) : Option (KSlot × LedgerWrite) :=
  s.key.slots.findSome? fun x => if x.part == p && x.index == i then x.write.map fun w => (x, w) else none

/-- Links that wait for a slot to be staged become staged. -/
def State.stageWaiters (s : State) (k : Nat × Nat × Nat) : State :=
  let f (l : Link) : Link := if l.keySlot == some k && l.stat.isNone then { l with staged := true } else l
  s.onRng fun r => { r with reqs := r.reqs.map fun q => { q with links := q.links.map f } }

/-- LEDGER_RESERVATION_ACK: the write is acknowledged: at staging D takes the value and the key is staged;
in use D advances; after eviction the slot is wiped (R183). -/
def execLedgerReservationAck (p i : Nat) (s : State) : Out :=
  .next (match s.writing p i with
    | none => s
    | some (x, w) =>
      if !s.live || w.failed.isSome || s.ledgerWaits p i then s
      else
        let k := (x.part, x.index, x.gen)
        match w.why with
        | .evict => s.wipeSlot k
        | .use => s.onSlot k fun x => { x with acked := w.value, write := none }
        | .staging => (s.onSlot k fun x => { x with acked := w.value, write := none }).stageWaiters k)

/-- LEDGER_WRITE_RETRY: a failed ledger write is repeated once, at the next tick; a value of an old generation is not written
back (R162, R183). -/
def execLedgerWriteRetry (p i : Nat) (s : State) : Out :=
  .next (match s.writing p i with
    | none => s
    | some (x, w) =>
      if !s.live || w.failed.isNone || w.failed == some s.sch.tick || w.again then s
      else
        let k := (x.part, x.index, x.gen)
        if (s.part p).map (·.gen) != some x.gen then
          if w.why == .evict then s.wipeSlot k else s.onSlot k fun y => { y with write := none }
        else
          (s.ledgerWrite k w.why w.value (w.why == .evict)).onSlot k fun y =>
            { y with write := some { w with failed := none, again := true } })

/-- Links with their identifiers that satisfy a test. -/
def State.linksWith (s : State) (f : Req → Link → Bool) : List LinkId :=
  (s.allLinks.filter fun x => f x.2.1 x.2.2).map (·.1)

/-- A ledger write ended in an error: it is to be repeated, or, as a repeat, record 0x0702 is written and
the outcome is the write's own (R183). -/
def State.ledgerFailed (s : State) (p i : Nat) : State :=
  match s.writing p i with
  | none => s
  | some (x, w) =>
    let k := (x.part, x.index, x.gen)
    if w.failed.isSome then s
    else if !w.again then s.onSlot k fun y => { y with write := some { w with failed := some s.sch.tick } }
    else
      let s := s.logKey 0x0702 p
      match w.why with
      | .use => s.onSlot k fun y => { y with write := some { w with failed := some s.sch.tick } }
      | .evict => s.wipeSlot k
      | .staging =>
        let ids := s.linksWith fun _ l => l.keySlot == some k && !l.staged && l.stat.isNone
        (ids.foldl (fun s id => s.endAs id (stBusError atVault)) s).wipeSlot k

/-! ### Creations and retirements (R176, R180) -/

/-- Pages a creation or retirement changes: page 0 with the live count, then its entry's page, so that an entry changes last
(R180). -/
def State.ledgerStep (s : State) (v : VJob) : State :=
  let n := v.index / 60
  let put : PageUpd := if v.retire then .retire (v.index % 60) else .create (v.index % 60) v.ext.isSome
  let cnt : PageUpd := .count !v.retire
  if n = 0 then s.writePage v.part 0 (.vault v.id) [put, cnt]
  else (s.writePage v.part 0 (.vault v.id) [cnt]).writePage v.part n (.vault v.id) [put]

/-- Issue the writes of a step. -/
def State.vaultStep (s : State) (v : VJob) : State :=
  match v.step with
  | 1 => s.vaultWrite (s.extAddr v.part v.index) (v.ext.getD []) (.vault v.id)
  | 2 => s.vaultWrite (s.ctxAddr v.part v.index) v.ctx (.vault v.id)
  | 3 => s.ledgerStep v
  | 4 => s.ledgerStep v
  | 5 =>
    let s := s.vaultWrite (s.ctxAddr v.part v.index) (zeros 256) (.vault v.id)
    match v.ext with
    | some b => s.vaultWrite (s.extAddr v.part v.index) b (.vault v.id)
    | none => s
  | _ => s

/-- The Vault writes of a creation or retirement begin. -/
def State.vaultBegin (s : State) (v : VJob) : State :=
  let d := s.stager
  let s := d.2
  let v := { v with step := if v.retire then 4 else if v.ext.isSome then 1 else 2, quad := d.1 }
  (s.onKey fun k => { k with jobs := k.jobs ++ [v] }).vaultStep v

def State.onVJob (s : State) (id : LinkId) (f : VJob → VJob) : State :=
  s.onKey fun k => { k with jobs := k.jobs.map fun v => if v.id == id then f v else v }

def State.dropVJob (s : State) (id : LinkId) : State :=
  (s.dropOps fun o => o.why == .vault id).onKey fun k => { k with jobs := k.jobs.filter fun v => v.id != id }

/-- A creation or retirement has begun its Vault writes: one handed to its port counts as issued (log 99), and the reads of
the pages that a retirement is to write come before its first (R316). -/
def State.vaultUnder (s : State) (id : LinkId) : Bool :=
  let left := countP s.key.pageOps fun o => o.why == .vault id && !o.wrote
  s.key.jobs.any fun v => v.id == id && !(v.step == 4 && left == (if v.index / 60 = 0 then 1 else 2))

def isVaultWrite (id : LinkId) : WPurpose → Bool
  | .vault i => i == id
  | _ => false

/-- The page that a creation or retirement changes next is written, once all of its step have passed their checks (R176, R180,
R181). -/
def State.opsReady (s : State) (id : LinkId) : State :=
  let mine := s.key.pageOps.filter fun o => o.why == .vault id && !o.wrote
  if mine.all fun o => o.good.isSome then
    match mine.head? with
    | some o => s.opWrite o (o.good.getD { part := o.part, page := o.page })
    | none => s
  else s

/-- A Vault write of a creation or retirement is done, or failed again: once none of its step is left the next begins at
once, or the request ends; the SWAP pause holds them (R27, R176, R180, R444). -/
def State.vaultAnswered (s : State) (id : LinkId) : State :=
  if s.writeWaits (isVaultWrite id) || s.paused then s
  else match s.key.jobs.find? fun v => v.id == id with
    | none => s
    | some v =>
      if v.bad then ((s.logKeyReq 0x0702 v.part v).dropVJob id).endLink id (stBusError atVault)
      else if s.opWaits (.vault id) then s.opsReady id
      else if v.step = 3 ∨ v.step = 5 then (s.dropVJob id).endLink id stOk
      else
        let v := { v with step := v.step + 1 }
        (s.onVJob id fun _ => v).vaultStep v

/-- A Vault write of a creation or retirement failed: that write stands until the next boundary; as a repeat it fails the
request (R176, R180). -/
def State.vaultFailed (s : State) (n : Nat) (w : FWrite) (id : LinkId) : State :=
  if w.again then s.onVJob id fun v => { v with bad := true }
  else s.onPort n fun p => { p with writes := p.writes ++ [{ w with issued := false, held := true, again := true }] }

/-- The tag of a page that is to be written fails: the write is not made, nor another of the same step, and its outcome is
that of the write (R181, R183). -/
def State.opTagFails (s : State) (o : PageOp) : State :=
  let s := s.dropOps fun x => x == o
  match o.why with
  | .ledger p i =>
    let s := match s.writing p i with
      | some (x, _) => s.onSlot (x.part, x.index, x.gen) fun y => { y with write := none }
      | none => s
    s.pageBad o.part o.page
  | .vault id => ((s.pageBad o.part o.page).dropVJob id).endLink id (stKeyInvalid 2)
  | _ => s

def State.onOp (s : State) (o : PageOp) (f : PageOp → PageOp) : State :=
  s.onKey fun k => { k with pageOps := k.pageOps.map fun y => if y == o then f y else y }

/-- The failed read of a page counts as the failure of the write that it belongs to: a creation's or retirement's is made
again once at the next boundary, and where the second read times out the request does (R176, R180, R183, R274; log 37). -/
def State.opReadFails (s : State) (o : PageOp) (late : Bool) : State :=
  match o.why with
  | .ledger p i => (s.dropOps fun x => x == o).ledgerFailed p i
  | .vault id =>
    if o.again && late then (s.dropVJob id).failStage id (stTimeout atVault)
    else if o.again then ((s.dropOps fun x => x.why == o.why).onVJob id fun v => { v with bad := true }).vaultAnswered id
    else
      (s.discardReads fun u => u == .page o.part o.page).onOp o fun o => { o with started := false, got := [], held := true, again := true }
  | _ => s.dropOps fun x => x == o

/-- A page that is to be written has passed its check: it is changed and written, a creation's or retirement's in its turn
(R176, R180, R181). -/
def State.opReady (s : State) (o : PageOp) (x : LPage) : State :=
  let o' := { o with good := some x, got := [] }
  let s := s.onOp o fun _ => o'
  match o.why with
  | .vault id => s.opsReady id
  | _ => s.opWrite o' x

/-- Bytes of a page that is to be written arrive; the whole page is verified. A page that failed its tag before stays
unusable (R181). -/
def State.opPart (s : State) (o : PageOp) (addr : Nat) (b : Bytes) : State :=
  let o' := { o with got := o.got ++ [(addr - s.pageAddr o.part o.page, b)] }
  let s := s.onOp o fun _ => o'
  let r := absorbChunks (o'.got.length + 1) [] o'.got
  if r.1.length < 512 then s
  else if (s.page o.part o.page).bad then s.opTagFails o'
  else match readPage (s.keysOf o.part).ldg o.part (((s.part o.part).map (·.gen)).getD 0) o.page r.1 with
    | none => s.opTagFails o'
    | some x => s.opReady o' x

/-- A part of a page that is to be written arrives; a poisoned part is a tag failure (R181, R276). -/
def State.pageArrived (s : State) (p n addr : Nat) (a : ReadAnswer) : State :=
  match s.key.pageOps.find? fun o => o.part == p && o.page == n && o.started && !o.wrote with
  | none => s
  | some o =>
    let t := match a with
      | .ok b => s.opPart o addr b
      | .poisoned _ _ _ => s.opTagFails o
      | .timeout _ _ => s.opReadFails o true
      | .busError _ _ => s.opReadFails o false
    t.opsNext

/-- A write of a creation's or retirement's step. -/
def stepWrite : WPurpose → Bool
  | .vault _ => true
  | _ => false

/-- At a boundary the Vault writes, and the reads of pages, that failed once in the tick before are issued again (R176,
R180). -/
def State.vaultRepeat (s : State) : State :=
  let s := s.onKey fun k => { k with pageOps := k.pageOps.map fun o => { o with held := false } }
  (s.onWrites fun w => some (if stepWrite w.purpose then { w with held := false } else w)).pump

/-- At a boundary the Vault steps that the SWAP pause held go on (R27). -/
def State.vaultResume (s : State) : State := s.key.jobs.foldl (fun s v => s.vaultAnswered v.id) s

end Sys2Proof.Machine
end

