-- ==== Sys2Proof/Machine/Keys.lean ====
section
/-! DEFINITION. Key staging and the key-management commands (R142, R144, R165 to R181, R184, R225). -/

namespace Sys2Proof.Machine

/-! ### Retirement and serialization -/

/-- A retirement of the index has been staged and has not ended (R180 step 1). -/
def State.retiring (s : State) (p i : Nat) (but : LinkId) : Bool :=
  s.allLinks.any fun x => x.1 != but && x.2.1.part == p && x.2.2.hdr.opcode == opRetire && x.2.2.stat.isNone
    && (match x.2.2.keySlot with
      | some k => k.2.1 == i
      | none => false)

/-- Creations and retirements, which are serialized per partition in fetch order (R176). -/
def serialOp (op sub : Nat) : Bool := isCreate op sub || op == opRetire

/-- An earlier creation or retirement of the partition has not ended (R176). -/
def State.mustQueue (s : State) (q : Req) (k : Nat) (h : Hdr) : Bool :=
  isCreate h.opcode h.subop && s.rng.reqs.any fun r => r.part == q.part
    && ((r.order < q.order && r.links.any fun l => serialOp l.hdr.opcode l.hdr.subop && l.stat.isNone)
      || (r.order == q.order && (r.links.take k).any fun l => serialOp l.hdr.opcode l.hdr.subop && l.stat.isNone))

/-! ### The material that a type allows (R165, R225) -/

/-- The key length in bytes of a type whose length is fixed; 0 otherwise. -/
def keyBytes (t : Nat) : Nat :=
  match t with
  | 1 => 16 | 2 => 24 | 3 => 32 | 4 => 32 | 5 => 64 | 6 => 32
  | 0x20 => 900 | 0x21 => 1348 | 0x22 => 1796 | 0x23 => 3588
  | 0x28 => 32 | 0x29 => 48 | 0x2A => 66 | 0x2C => 32 | 0x2D => 32
  | 0x30 => 1632 | 0x31 => 2400 | 0x32 => 3168
  | 0x38 => 2560 | 0x39 => 4032 | 0x3A => 4896
  | 0x3C => 384 | 0x3D => 512 | 0x3E => 640 | 0x3F => 1152
  | _ => 0

/-- Modulus bytes of an RSA or MODEXP type. -/
def modBytes (t : Nat) : Nat := [256, 384, 512, 1024].getD (t % 4) 256

/-- An odd integer whose top byte is not zero. -/
def oddFull (b : Bytes) : Bool := beNat b % 2 == 1 && byteAt b 0 != 0

/-- Imported material fits its type (R165, R225): p and q are odd with the length of half of n. -/
def matOk (t : Nat) (m : Bytes) : Bool :=
  if t = 0x10 then 16 ≤ m.length && m.length ≤ 144
  else if t = 0x18 then 16 ≤ m.length && m.length ≤ 64
  else keyBytes t != 0 && m.length == keyBytes t &&
    (let k := modBytes t
     if 0x20 ≤ t ∧ t ≤ 0x23 then
       oddFull (m.take k) && oddFull (slice m (k + 4) (k / 2)) && oddFull (slice m (k + 4 + k / 2) (k / 2))
     else if 0x3C ≤ t then oddFull (m.take k)
     else true)

/-- The Charter permits keys of a type (R352). -/
def typePermitted (e : PartEntry) (t hash : Nat) : Bool :=
  if 0x3C ≤ t then e.modexp
  else
    let b := typeBits t hash
    b.isEmpty || b.any fun i => bit e.algMask i

/-! ### The steps of R170 -/

/-- What a part of key staging finds; where the key passes, whether its ledger page was read. -/
inductive Got where
  | ok (read : Bool) | wait | fail (st : Stat)
  deriving DecidableEq, Repr

/-- Where an extended record lies: its KWP output is ext_length rounded up and one block (R163, R168, R169). -/
def State.extExtent (s : State) (p i : Nat) (ctx : Bytes) : Nat × Nat := (s.extAddr p i, roundUp (leAt ctx 40 4) 8 + 8)

/-- The context record is read and opened, with its extended record where its type has one, and the key takes a slot (R171,
R172, R174). -/
def State.readKey (s : State) (id : LinkId) (p g i : Nat) (r : VaultReads) : State × Got :=
  let s := s.readString (s.vaultReader p (some id)) [(s.ctxAddr p i, 256)] r.context
  match ansFail atVault r.context with
  | some st => (s, .fail st)
  | none => match openCtx (s.keysOf p).ctx p g i (ansBytes r.context 256) with
    | none => (s, .fail (stKeyInvalid 2))
    | some c =>
      let ext := needsExt (ctxType c)
      let s := if ext then s.readString (s.vaultReader p (some id)) [s.extExtent p i c] r.extended else s
      match if ext then ansFail atVault r.extended else none with
      | some st => (s, .fail st)
      | none =>
        if ext && (openExt (s.keysOf p).ctx c (ansData r.extended)).isNone then (s, .fail (stKeyInvalid 2))
        else
          let m := s.makeRoom p
          match m.2 with
          | .free => (m.1.placeKey p i g c, .ok true)
          | _ => (m.1, .wait)

/-- Steps 3 to 5 for the operating key: after `ok` its slot is in the cache (R170, R171, R174, R183). A staging is a use
of the slot, as is the taking of a seal's count; a later load of the key is none (DESIGN CHOICE, log 122). -/
def State.stageOperating (s : State) (id : LinkId) (p g i : Nat) (r : VaultReads) : State × Got :=
  let e := s.entryOf p
  if i = 0 ∨ i ≥ e.ctxSlots then (s, .fail (stKeyInvalid 5))
  else if s.retiring p i id || s.key.jobs.any (fun v => v.part == p && v.index == i && v.retire) then (s, .fail (stKeyInvalid 1))
  else match s.slot (p, i, g) with
    | some x =>
      if x.unusable then (s, .fail (stKeyInvalid 2))
      else if (x.write.map (·.why)) == some .evict then (s, .wait)
      else (s.onSlot (p, i, g) fun y => { y with useTick := s.sch.tick }, .ok false)
    | none =>
      if (s.page p (i / 60)).bad then (s, .fail (stKeyInvalid 2))
      else
        let t := s.takePage p (i / 60) r.page id
        match t.2 with
        | some st => (t.1, .fail st)
        | none =>
          if (t.1.ledger p i).live then t.1.readKey id p g i r else (t.1, .fail (stKeyInvalid 1))

/-- Steps 6, 8 and 9 for the operating key (R127, R142, R144, R166, R170, R188). -/
def operatingCheck (h : Hdr) (c : Bytes) (next : Nat) (counted : Bool) : Option Stat :=
  let pol := ctxPolicy c
  let sl := h.opcode == opSeal || h.opcode == opGmacGen
  let hw := bit pol 7
  if h.opcode = opDerive ∧ !bit pol 5 then some (stKeyPolicy 4)
  else if h.opcode = opDerive ∧ ctxHash c ≠ 0 ∧ ctxHash c ≠ h.prf then some (stKeyPolicy 4)
  else if (match policyBit h with
    | some b => !bit pol b
    | none => false) then some (stKeyPolicy 1)
  else if sl && hw && h.ivLen != 0 || sl && !hw && h.ivLen == 0 then some (stKeyPolicy 2)
  else if sl && hw && h.ts then some (stKeyPolicy 3)
  else if sl && !counted && decide (ctxLimit c ≤ next) then some stKeyExhausted
  else none

/-- The transfer blob of a KEY_IMPORT opened and checked: its plaintext, or step 5 or 6's failure (R178,
R225). Reserved bytes that are not 0 and a hash byte that the type does not allow are taken as they are (DESIGN CHOICE, log 121). -/
def openBlob (kek : Bytes) (p g i : Nat) (b : Bytes) : Bytes × Option Stat :=
  match kwpUnwrap kek b with
  | none => ([], some (stKeyInvalid 2))
  | some x =>
    if x.length < 32 ∨ byteAt x 0 ≠ 1 ∨ leAt x 2 2 ≠ p ∨ leAt x 4 2 ≠ g ∨ leAt x 8 4 ≠ i then ([], some (stKeyInvalid 2))
    else if leAt x 24 4 + 32 ≠ x.length ∨ !matOk (byteAt x 1) (x.drop 32) then (x, some (stKeyInvalid 3))
    else (x, none)

/-- Step 7: the target index (R170). -/
def State.targetCheck (s : State) (id : LinkId) (p i : Nat) (r : VaultReads) (same : Bool) : State × Option Stat :=
  let e := s.entryOf p
  if i = 0 ∨ i ≥ e.ctxSlots then (s, some (stKeyInvalid 5))
  else if (s.page p (i / 60)).bad then (s, some (stKeyInvalid 2))
  else
    let t := if same then (s, none) else s.takePage p (i / 60) r.targetPage id
    match t.2 with
    | some st => (t.1, some st)
    | none => (t.1, if (t.1.ledger p i).live then some (stKeyInvalid 4) else none)

/-- Step 10: the live count of page 0 against the quota (R170, R181). -/
def State.quotaCheck (s : State) (id : LinkId) (p : Nat) (r : VaultReads) (read : Bool) : State × Option Stat :=
  let t := if read && !(s.page p 0).bad then s.takePage p 0 r.page0 id else (s, none)
  match t.2 with
  | some st => (t.1, some st)
  | none =>
    let pg := t.1.page p 0
    let lim := ((t.1.part p).map (·.keyLimit)).getD 0
    (t.1, if pg.bad then some (stKeyInvalid 2) else if pg.liveCnt ≥ lim then some (stQuota 1) else none)

/-- Steps 7, 8 and 10 for a key to be created (R166, R170, R178). -/
def State.createCheck (s : State) (id : LinkId) (p : Nat) (h : Hdr) (blob : Bytes) (opPage : Option Nat)
    (op : Option Stat) (r : VaultReads) : State × Option Stat :=
  let e := s.entryOf p
  let i := createIndex h
  let n := i / 60
  let t := createType h blob
  let a := s.targetCheck id p i r (opPage == some n)
  match a.2 with
  | some st => (a.1, some st)
  | none =>
    let pol := if h.opcode == opGenerate || typePermitted e t (createHash h blob) then createPolicy e t (createPol h blob)
      else some (stKeyPolicy 1)
    match op <|> pol with
    | some st => (a.1, some st)
    | none =>
      let b := a.1.quotaCheck id p r (n != 0 && opPage != some 0)
      match b.2 with
      | some st => (b.1, some st)
      | none => (b.1, if needsExt t && decide (e.extSlots < i) then some (stQuota 2) else none)

/-- An HMAC key's states are in the key-state cache, or are put there; false where staging must wait
(R173). -/
def State.stageStates (s : State) (p g i : Nat) (h : Hdr) (c : Bytes) : State × Bool :=
  if !(h.opcode == opHmacGen || h.opcode == opHmacVer) then (s, true)
  else if s.key.hslots.any fun x => x.part == p && x.index == i && x.gen == g && x.hash == h.subop then
    (s.onKey fun u => { u with hslots := u.hslots.map fun x =>
      if x.part == p && x.index == i && x.gen == g then { x with useTick := s.sch.tick } else x }, true)
  else
    let m := s.makeHRoom p
    if m.2 then (m.1.placeStates p i g h.subop (ctxMaterial c), true) else (m.1, false)

/-- The operating key passed every step: the link holds its slot, and is staged once no reservation write
of the staging is outstanding (R171, R183). -/
def State.holdKey (s : State) (id : LinkId) (k : Nat × Nat × Nat) (c : Bytes) : State :=
  let waits := match s.slot k with
    | some x => (x.write.map (·.why)) == some .staging
    | none => false
  s.onLink id fun l => { l with keySlot := some k, keyType := ctxType c, hwNonce := counting (ctxType c) && bit (ctxPolicy c) 7,
                                instId := ctxInst c, extLen := leAt c 40 4, staged := !waits }

/-- The transfer blob read at staging (R178). -/
def State.takeBlob (s : State) (id : LinkId) (p g : Nat) (l : Link) (a : ReadAnswer) : State × Bytes × Option Stat :=
  let h := l.hdr
  match l.err with
  | some st => (s, [], some st)
  | none =>
    let s := if h.inl then s else s.readString (s.sourceReader p id) l.srcExtents a
    match if h.inl then none else ansFail atSource a with
    | some st => (if st == stBusError atSource then s.markSource id a else s, [], some st)
    | none =>
      let l := if h.inl then l else { l with source := ansBytes a h.sLen }
      let o := openBlob (s.keysOf p).imp p g h.keyIndex (l.srcSlice 0 h.srcLen)
      (s, o.1, o.2)

/-- What the key stage of a link may read: its Vault pages, context and extended record, and a transfer blob. -/
def State.stageReads (s : State) (q : Req) (l : Link) : Bool :=
  let h := l.hdr
  let p := q.part
  let op := usesKey h.opcode h.subop
  let i := h.keyIndex
  let t := createIndex h
  let vault := (if op then [(s.pageAddr p (i / 60), 512), (s.ctxAddr p i, 256), (s.extAddr p i, 8192)] else [])
    ++ (if isCreate h.opcode h.subop then [(s.pageAddr p (t / 60), 512), (s.pageAddr p 0, 512)] else [])
  s.canRead (s.vaultReader p none) vault
    && (h.opcode != opImport || h.inl || s.canRead (s.sourceReader p ⟨q.ring, q.idx, 0⟩) l.srcExtents)

/-- The key stage of a link whose handle passed steps 1 and 2 (R170). -/
def State.stageLink (s : State) (id : LinkId) (q : Req) (l : Link) (r : VaultReads) : State :=
  let h := l.hdr
  let p := q.part
  let g := ((s.part p).map (·.gen)).getD 0
  let k := (p, h.keyIndex, g)
  let create := isCreate h.opcode h.subop
  if usesKey h.opcode h.subop then
    let o := s.stageOperating id p g h.keyIndex r
    match o.2 with
    | .wait => o.1
    | .fail st => o.1.failStage id st
    | .ok read =>
      let s := o.1
      match s.slot k with
      | none => s
      | some x =>
        if !typeFits h (ctxType x.ctx) (ctxHash x.ctx) then s.endAs id (stKeyInvalid 3)
        else
          let own := operatingCheck h x.ctx x.next l.count.isSome
          let c := if create then s.createCheck id p h [] (if read then some (h.keyIndex / 60) else none) own r
            else (s, own)
          match c.2 with
          | some st => c.1.failStage id st
          | none =>
            let t := c.1.stageStates p g h.keyIndex h x.ctx
            if t.2 then t.1.holdKey id k x.ctx else t.1
  else if usesTarget h.opcode h.subop then
    let b := if h.opcode = opImport then s.takeBlob id p g l r.blob else (s, [], none)
    match b.2.2 with
    | some st => b.1.failStage id st
    | none =>
      let c := b.1.createCheck id p h b.2.1 none none r
      match c.2 with
      | some st => c.1.failStage id st
      | none => c.1.onLink id fun l => { l with staged := true, source := if h.opcode = opImport then b.2.1 else l.source }
  else s

/-- KEY_STAGING: the key-staging unit takes a link's key (R142, R144, R162, R170 to R183). -/
def execKeyStaging (id : LinkId) (r : VaultReads) (s : State) : Out :=
  .next (match s.link id with
    | none => s
    | some (q, l) => match s.part q.part with
      | none => s
      | some p =>
        if !s.serving || l.stat.isSome || l.timedOut || l.staged || l.keySlot.isSome || !l.listsDone || q.openSince.isSome
            || q.abort != .none || !s.stageReads q l then s
        else if l.hdr.keyPart ≠ q.part then s.endAs id (stKeyForeign 1)
        else if l.hdr.f1GenBad ∨ l.hdr.keyGen ≠ p.gen ∨ p.recWrite.isSome ∨ p.rot.any (fun r => r.committed && r.stage == 0) then s.endAs id (stKeyForeign 2)
        else if s.mustQueue q id.link l.hdr then s
        else s.newReads.stageLink id q l r)

/-! ### Creating keys (R165, R168, R169, R176 to R179) -/

/-- A prepared job has run every element and drawn all it draws. -/
def Link.jobReady (l : Link) (part : Nat) : Bool :=
  match l.job with
  | none => false
  | some j => !j.wiped && (j.built || !hasElems l.hdr.opcode l.hdr.subop) && j.elemNo ≥ j.elems.length
      && (drawNext part (leAt l.source 12 4 == 0) l.hdr l.drawn l.fallback).isNone

/-- The derived key bytes (R179). -/
def deriveBytes (h : Hdr) (parent info : Bytes) (operand : Option Bytes) : Bytes :=
  let t := h.outType
  let n := if t = 0x10 ∨ t = 0x18 then h.keyLen else keyBytes t
  let salt := match h.inlineParams with
    | some b => some b
    | none => operand
  if h.subop = 1 then hkdf h.prf salt parent info n
  else kdfCtr h.prf parent info (salt.getD []) n

/-- The new key's material (R177 to R179, R225); a key-generation job's is the private key of its seed. -/
def State.newMaterial (s : State) (l : Link) (j : Job) : Bytes :=
  let h := l.hdr
  if h.opcode = opGenerate then l.drawn.take (drawMaterial h)
  else if h.opcode = opImport then l.source.drop 32
  else if h.opcode = opDerive then
    deriveBytes h (s.linkKey l) j.source (if (h.operand 0).2 = 0 then none else some (j.ops.headD []))
  else j.extRec

/-- What the new key is (R165, R166, R168). -/
def State.newKey (s : State) (l : Link) (j : Job) (recId : Nat) : NewKey :=
  let h := l.hdr
  let blob := l.source
  let t := createType h blob
  let imp := h.opcode == opImport
  let drawn := beNat (slice l.drawn (drawHead h) 4)
  { type := t, pol := createPol h blob
    inst := if imp && leAt blob 12 4 != 0 then leAt blob 12 4 else drawn
    limit := if imp && leAt blob 16 6 != 0 then leAt blob 16 6 else newLimit t (createPol h blob)
    hash := createHash h blob
    org := if h.opcode = opGenerate then 1 else if imp then 2 else if h.opcode = opDerive then 3 else 4
    recId := recId, mat := s.newMaterial l j }

/-- The Vault writes of a creation begin, once its work has run and its output is written; a destination
error ends it with nothing written (R176). The 64-bit record_id is a free value (log 6). -/
def State.createKey (s : State) (id : LinkId) : State :=
  match s.link id with
  | none => s
  | some (q, l) => match l.job with
    | none => s
    | some j =>
      if !s.oryServing || !s.carried (.request id) || l.stat.isSome || l.timedOut || !isCreate l.hdr.opcode l.hdr.subop || !l.jobReady q.part || s.linkWaits id
          || (s.key.jobs.any fun v => v.id == id) || q.abort != .none then s
      else match l.err with
        | some st => s.endLink id st
        | none =>
          let d := s.draw 4
          let s := d.2
          let k := s.newKey l j (d.1 % 2 ^ 64)
          let p := q.part
          let g := ((s.part p).map (·.gen)).getD 0
          let i := createIndex l.hdr
          let kek := (s.keysOf p).ctx
          let s := s.onLink id fun l => { l with newInst := k.inst }
          s.vaultBegin { id := id, part := p, index := i, retire := false, ctx := kwpWrap kek (ctxPlain p g i k)
                         ext := if needsExt k.type then some (kwpWrap kek (extPlain p g i k)) else none }

/-- A creation of one opcode. -/
def State.createOf (s : State) (op : Nat) (id : LinkId) : State :=
  match s.link id with
  | none => s
  | some (_, l) => if l.hdr.opcode = op then s.createKey id else s

/-- KEY_GENERATE (R176, R177). -/
def execKeyGenerate (id : LinkId) (s : State) : Out := .next (s.createOf opGenerate id)

/-- KEY_IMPORT (R176, R178). -/
def execKeyImport (id : LinkId) (s : State) : Out := .next (s.createOf opImport id)

/-- KEY_DERIVE (R176, R179). -/
def execKeyDerive (id : LinkId) (s : State) : Out := .next (s.createOf opDerive id)

/-- KEY_RETIRE: once no other request holds the key its slots are wiped and the Vault writes begin; while
page 0 fails its tag it completes with nothing changed (R180, R181). -/
def execKeyRetire (id : LinkId) (s : State) : Out :=
  .next (match s.link id with
    | none => s
    | some (q, l) => match l.keySlot with
      | none => s
      | some k =>
        let held := s.allLinks.any fun x => x.1 != id && x.2.2.stat.isNone && x.2.2.keySlot == some k
        let busy := match (s.slot k).bind (·.write) with
          | some w => !(w.again && w.failed.isSome)
          | none => false
        if !s.oryServing || !s.carried (.request id) || l.hdr.opcode != opRetire || l.stat.isSome || !l.jobReady q.part || held || busy
            || (s.key.jobs.any fun v => v.id == id) || q.abort != .none then s
        else
          let s := s.wipeSlot k
          if (s.page q.part 0).bad then s.endAs id (stKeyInvalid 2)
          else s.vaultBegin { id := id, part := k.1, index := k.2.1, retire := true
                              ext := if l.extLen = 0 then none else some (zeros (roundUp l.extLen 8 + 8)) })

/-! ### Uncorrectable errors (R175) -/

/-- The request that read an uncorrectable word: the writes of it that have not issued never issue, and it fails (R175). -/
def State.readerFails (s : State) (id : LinkId) : State := (s.dropWrites id).endLink id (stHwFault 5)

/-- A double-bit error in a slot of a cache: the slot is invalid, the request that read it fails, the others stage the key
again (R175). -/
def State.slotLost (s : State) (state : Bool) (k : Nat × Nat × Nat) (reader : Option LinkId) : State :=
  let s := s.onKey fun u => if state then { u with hslots := u.hslots.filter fun x => (x.part, x.index, x.gen) != k }
    else { u with slots := u.slots.filter fun x => (x.part, x.index, x.gen) != k }
  let s := match reader with
    | some id => match s.link id with
      | some (_, l) => if l.keySlot == some k then s.readerFails id else s
      | none => s
    | none => s
  let lose (l : Link) : Link :=
    let uses := l.keySlot == some k && l.stat.isNone && !(l.hdr.opcode == opRetire && l.job.isSome) && (!state || isDigest l.hdr.opcode)
    if uses then { l with keySlot := none, staged := false, eligAt := none } else l
  s.onRng fun t => { t with reqs := t.reqs.map fun q => { q with links := q.links.map lose } }

/-- A double-bit error in the key stores of the staging units, which hold the partition's derived keys: the request whose
staging read it fails, and the keys are derived anew (R159, R175; the second, log 84). -/
def State.storeLost (s : State) (p : Nat) (reader : Option LinkId) : State :=
  match reader with
  | none => s
  | some id => match s.link id with
    | some (q, l) => if q.part == p && needsKey l.hdr && l.stat.isNone then s.readerFails id else s
    | none => s

/-- CACHE_UNCORRECTABLE: a double-bit error in a key cache or in a key store, counted and recorded (R175, R184). -/
def execCacheUncorrectable (cache : KeyCacheId) (p i : Nat) (reader : Option LinkId) (s : State) : Out :=
  let key := (s.key.slots.find? fun x => x.part == p && x.index == i).map fun x => (x.part, x.index, x.gen)
  let hs := (s.key.hslots.find? fun x => x.part == p && x.index == i).map fun x => (x.part, x.index, x.gen)
  let note (s : State) : State := (s.onKey fun u => { u with uncorr := sat 0xFF u.uncorr 1 }).logKey 0x0704 p
  .next (
    if !s.live then s
    else match cache with
      | .keyCache => match key with
        | none => s
        | some k => (note s).slotLost false k reader
      | .stateCache => match hs with
        | none => s
        | some k => (note s).slotLost true k reader
      | .keyStore => if (mget s.key.derived p).isNone then s else (note s).storeLost p reader)

end Sys2Proof.Machine
end

