-- ==== Sys2Proof/Machine/Access.lean ====
section
/-! DEFINITION. Who makes a register access and how a refused access is answered (R7, R30, R433 to
R435). -/

namespace Sys2Proof.Machine

/-- The register port answers: rst_rp_n is released and the block is out of DORMANT (R362, R371). -/
def State.portOpen (s : State) : Bool := !s.blk.rpReset && s.blk.mode != .dormant

/-- Register writes and reads act under R434 steps 2 to 5: the port answers and R367 does not apply. -/
def State.portActs (s : State) : Bool := s.portOpen && s.blk.mode != .containment

/-- A response with its read data (R387). -/
def State.respond (s : State) (v : W32) : State := s.onBlk fun b => { b with rpRdata := v, rpValid := true }

/-- The response to a write, read data 0, in every case but the port's reset (R7, R387 to R389). -/
def State.wrote (s : State) : State := if s.blk.rpReset then s else s.respond 0

/-- The partition an access is attributed to (R30, R390). -/
def State.accPart (s : State) (who : Accessor) : Nat :=
  if who.priv then noPart else (s.partOfFid who.fid).getD noPart

/-- A refused access: violation 0x0503, against the accessing partition and no ring (R7, R59, R434). -/
def State.refuse (s : State) (who : Accessor) (addr : Nat) (ring : Option Nat) : State :=
  s.violation 0x0503 uidRp (s.accPart who) ring false addr who.fid

/-- The access may act on an object of the partition `owner` (R433). -/
def State.mayAct (s : State) (who : Accessor) (owner : Option Nat) : Bool :=
  who.priv || match s.partOfFid who.fid, owner with
    | some p, some o => p == o
    | _, _ => false

/-- The doorbell and the status words of ring r (R44, R52). -/
def dbAddr (r : Nat) : Nat := 8 * r
def ringStatAddr (r : Nat) : Nat := 0x200000 + 8 * r

end Sys2Proof.Machine
end

