-- ==== Sys2Proof/Machine/Rings.lean ====
section
/-! DEFINITION. The meanings of the ring commands: doorbells, aborts, fetch, gather lists, completion
records, interrupts, and the ring's opening and closing (R35 to R53, R75, R76, R81 to R86, R278 to R281,
R302, R303, R315, R392). -/

namespace Sys2Proof.Machine

/-! ### Doorbells -/

/-- The answer of R46 to a producer value. -/
inductive ProdAns where
  | ignore | accept | backward | beyond
  deriving DecidableEq, Repr

/-- The check of R46. -/
def prodCheck (log2 h p0 p : Nat) : ProdAns :=
  let d := 2 ^ log2
  let n := 2 * d
  if p ≥ n then .beyond
  else if p = p0 then .ignore
  else
    let a := modSub p h n
    let e0 := modSub p0 h n
    let e := if e0 > d then 0 else e0
    if a ≤ d ∧ a ≥ e then .accept
    else if a ≤ d then .backward
    else if modSub p0 p n ≤ d then .backward
    else .beyond

/-- A doorbell or abort write that the ring drops: on a quarantined ring counted in its error counter,
otherwise a violation (R58, R60); a privileged write counts toward no ring (R435). -/
def State.dropDoorbell (s : State) (who : Accessor) (r code value : Nat) : State :=
  if (s.ring r).st == .quarantined then s.onRing r fun x => { x with errors := x.errors + 1 }
  else s.violation code uidRp (s.accPart who) (some r) (!who.priv) value who.fid

/-- The accessing function's partition is RESETTING, or the ring's owner is: the write is dropped and is no violation
(R32). -/
def State.resetDrops (s : State) (who : Accessor) (r : Nat) : Bool :=
  let own (p : Option Nat) : Bool := (p.map s.partState) == some .resetting
  (!who.priv && own (s.partOfFid who.fid)) || (s.mayAct who (s.ringOwner r) && own (s.ringOwner r))

/-- What stands before the checks of a doorbell: the port, the ownership of R435, the partition's state of
R32. `go` acts where they pass. -/
def State.doorbell (s : State) (who : Accessor) (r addr value : Nat) (go : State → State) : State :=
  if !s.portActs || s.resetDrops who r then s
  else if !s.mayAct who (s.ringOwner r) then s.refuse who addr (some r)
  else
    let x := s.ring r
    if x.st == .closed then s.dropDoorbell who r 0x050A value
    else match s.partState x.owner with
      | .ready => s.dropDoorbell who r 0x050A value
      | .absent => s.refuse who addr (some r)
      | _ => go s

/-- PRODUCER_WRITE (R32, R46, R117, R435). -/
def execProducerWrite (who : Accessor) (r : Nat) (value : W32) (s : State) : Out :=
  .next (State.wrote (s.doorbell who r (dbAddr r) value.toNat fun s =>
    let x := s.ring r
    let p := value.toNat % 2 ^ 21
    if x.attr.stream || !(x.st == .active || x.st == .held || x.st == .quarantined) then
      s.dropDoorbell who r 0x050A value.toNat
    else match prodCheck x.attr.log2 x.subHead x.prod p with
      | .ignore => s
      | .accept => s.onRing r fun x => { x with prod := p, pubs := x.pubs ++ [(p, s.sch.tick)] }
      | .backward => s.dropDoorbell who r 0x0502 value.toNat
      | .beyond => s.dropDoorbell who r 0x0501 value.toNat))

/-- CONSUMER_WRITE (R49, R435; a value at or above N, log 64). -/
def execConsumerWrite (who : Accessor) (r : Nat) (value : W32) (s : State) : Out :=
  .next (State.wrote (s.doorbell who r (dbAddr r + 4) value.toNat fun s =>
    let x := s.ring r
    let c := value.toNat % 2 ^ 21
    if x.attr.stream || x.st == .opening then s.dropDoorbell who r 0x050A value.toNat
    else if modSub c x.cons x.span ≤ modSub x.wIdx x.cons x.span then
      s.onRing r fun x => { x with cons := c % x.span }
    else s.dropDoorbell who r 0x050B value.toNat))

/-- P0 - H, or 0 where sub_head has passed P0 (R46). -/
def Ring.published (x : Ring) : Nat :=
  let e := modSub x.prod x.subHead x.span
  if e > x.depth then 0 else e

/-- The published range of R53: sub_head minus D up to P0; on a stream ring up to the next frame index. -/
def Ring.abortable (x : Ring) (i : Nat) : Bool :=
  let h := if x.attr.stream then x.frameIdx else x.subHead
  let lo := modSub h x.depth x.span
  decide (i < x.span) && decide (modSub i lo x.span ≤ x.depth + if x.attr.stream then 0 else x.published)

/-- ABORT_WRITE (R52, R53, R315): the abort is observed at the next eligibility cut. A write to a ring whose partition is
RESETTING, or a privileged one to a CLOSED ring, is dropped and leaves nothing (DESIGN CHOICE, log 108). -/
def execAbortWrite (who : Accessor) (r : Nat) (value : W32) (s : State) : Out :=
  .next (State.wrote (
    if !s.portActs then s
    else if !s.mayAct who (s.ringOwner r) then s.refuse who (ringStatAddr r + 4) (some r)
    else
      let x := s.ring r
      let i := value.toNat % 2 ^ 21
      if x.st == .closed || s.partState x.owner == .resetting then s
      else if x.abortable i then
        s.onRing r fun x => { x with abortIdx := i, aborts := x.aborts ++ [(i, if x.attr.stream then x.frameIdx else x.prod)] }
      else s.dropDoorbell who r 0x050C value.toNat))

/-! ### The ring-context cache (R35) -/

def ringCtxBase : Nat := 0x10000

/-- Bring a ring's context into the cache; where 8,192 are held, one of them, a free value says which, goes
to the ring-context store, sealed (R35, log 6). -/
def State.cacheRing (s : State) (r : Nat) : State :=
  let held := (s.rng.rings.filter fun x => x.1 != r && x.2.st != .closed && x.2.cached).map (·.1)
  let s := if held.length < 8192 then s
    else
      let d := s.draw 1
      let v := held.getD (d.1 % held.length) 0
      let e := d.2.draw 2
      (e.2.onRing v fun x => { x with cached := false }).vaultWrite (s.key.base + ringCtxBase + 256 * v) (natLE e.1 256) .spill
  s.onRing r fun x => { x with cached := true }

/-- RING_CONTEXT_MISS: the context is read back from the store; a read that fails leaves the ring missing
(R35). -/
def execRingContextMiss (r : Nat) (a : ReadAnswer) (s : State) : Out :=
  let x := s.ring r
  .next (
    let rd := s.vaultReader x.owner none
    let exts := [(s.key.base + ringCtxBase + 256 * r, 256)]
    if !s.serving || x.st == .closed || x.cached || !s.canRead rd exts then s
    else
      let s := s.newReads.readString rd exts a
      match a with
      | .ok _ => s.cacheRing r
      | _ => s)

/-! ### Fetch -/

/-- Slots taken: records written and slots reserved, beyond the consumer index (R47). -/
def State.slotsTaken (s : State) (r : Nat) : Nat :=
  let x := s.ring r
  modSub x.wIdx x.cons x.span
    + sumBy s.rng.reqs fun q => if q.ring = r then countP q.links fun l => !l.recorded else 0

/-- The ring has a published header at sub_head (R45). -/
def Ring.hasHeader (x : Ring) : Bool := 0 < x.published

/-- Why the ring may fetch now, but for the header's own read (R32, R40, R47). -/
def State.mayFetch (s : State) (r : Nat) : Bool :=
  let x := s.ring r
  s.serving && x.st == .active && !x.attr.stream && x.hasHeader && x.cached
    && s.partState x.owner == .active && !s.silentFid (s.fidOf x.owner) && decide (s.slotsTaken r < x.depth)

/-- Entry bytes of a format (R36). -/
def entryBytes (fmt : Nat) : Nat := if fmt = 1 then 32 else 64

/-- Address of the entry an index names (R36, R44). -/
def Ring.entryAddr (x : Ring) (i : Nat) : Nat := x.attr.sqBase + entryBytes x.attr.fmt * (i % x.depth)

/-- A range of submission indices holds i (R315). -/
def inRange (n a p i : Nat) : Bool := decide (modSub i a n < modSub p a n)

/-- An observed abort covers the header about to be fetched, which the producer index of the abort is ahead of (R315,
R316). -/
def Ring.aborted (x : Ring) (i : Nat) : Bool :=
  x.aborting.any fun a => inRange x.span a.1 a.2 i && decide (modSub a.2 i x.span ≤ x.depth)

/-- Abort ranges whose records are all written end (R316). -/
def State.abortTidy (s : State) (r : Nat) : State :=
  let x := s.ring r
  if x.aborting.isEmpty then s
  else
    let keep (a : Nat × Nat) : Bool :=
      (s.rng.reqs.any fun q => q.ring == r && q.inAbort && inRange x.span a.1 a.2 q.idx)
        || (x.st == .active && !x.attr.stream && a.1 != a.2 && a.2 != x.subHead && decide (modSub a.2 x.subHead x.span ≤ x.depth))
    s.onRing r fun x => { x with aborting := x.aborting.filter keep }

/-- Sources that the fabric reads beat by beat, ahead of the work; the others arrive with the step that
needs them (log 4). -/
def tagRead (op : Nat) : Bool := isLane op || isDigest op || op == opRandom || op == opReseed

/-- The gather counts that name a list. -/
def isList (n : Nat) : Bool := decide (1 ≤ n) && decide (n ≤ 254)

/-- A link that passed the fetch stage begins: its first source bytes are read ahead once its lists are
known (R75, R101). -/
def State.beginLink (s : State) (id : LinkId) : State :=
  match s.link id with
  | none => s
  | some (_, l) =>
    if l.stat.isSome then s
    else
      let lists := isList l.hdr.srcGather || isList l.hdr.dstGather
      let s := s.onLink id fun l => { l with listsDone := !lists, staged := !needsKey l.hdr }
      if lists || !tagRead l.hdr.opcode then s else s.readNext id 0

/-- A request whose last link has been fetched: the chain is checked as a whole (R82), violations are
recorded, and the links that passed begin. -/
def State.chainFetched (s : State) (q : Req) (own : List (Option Stat)) : State :=
  let c := chainCheck ((q.links.map (·.hdr)).zip own)
  let ids := (List.range q.links.length).map q.linkId
  let s := match c.1 with
    | none => s
    | some k =>
      let s := (ids.zip c.2).foldl (fun s x => match x.2 with
        | some st => s.forceStat x.1 st
        | none => s) s
      match ((c.2[k]?).bind id).bind Stat.violation with
      | some v => s.packetViolation v q.ring q.idx k
      | none => s
  ids.foldl (fun s id => s.beginLink id) s

/-- The own fetch checks of a request's links, made again from their headers. -/
def State.ownChecks (s : State) (q : Req) : List (Option Stat) :=
  let attr := (s.ring q.ring).attr
  let e := ((s.part q.part).map (·.entry)).getD {}
  (List.range q.links.length).map fun k => match q.links[k]? with
    | none => none
    | some l => if l.frame == some 0 then some (stMalformed dStreamFrame) else fetchCheck (!l.hdr.unread) e attr k l.hdr

/-- The links of a request from number k on are ABORTED; their records come in a later tick (R316). -/
def State.abortFrom (s : State) (q : Req) (k : Nat) (st : Nat → Stat) : State :=
  let t := some s.sch.tick
  (s.forceFrom q k st).onReq q.ring q.idx fun q => { q with links := q.links.zipIdx.map fun x =>
    if k ≤ x.2 && !x.1.recorded then { x.1 with lastTick := t } else x.1 }

/-- Add the fetched link to its request; where it is the last, check the chain; where an observed abort
covers the request, every link is ABORTED (R82, R85, R315). -/
def State.addLink (s : State) (r idx arrival : Nat) (l : Link) (chain : Bool) : State :=
  let x := s.ring r
  let t := s.sch.tick
  let cur := s.rng.reqs.find? fun q => q.ring == r && q.openSince.isSome
  let k := (cur.map fun q => q.links.length).getD 0
  let more := chain && k < 7
  let s := s.onRing r fun x => { x with submitted := x.submitted + 1 }
  let q : Req := match cur with
    | some q => { q with links := q.links ++ [l], openSince := if more then some t else none, arrival := arrival }
    | none => { ring := r, idx := idx, part := x.owner, order := s.rng.order, links := [l], arrival := arrival,
                openSince := if more then some t else none, stream := x.attr.stream }
  let s := s.onRng fun g => { g with order := if cur.isSome then g.order else g.order + 1,
                                     reqs := (g.reqs.filter fun o => !(o.ring == q.ring && o.idx == q.idx)) ++ [q] }
  if x.aborted q.idx || q.abort != .none then
    (s.onReq r q.idx fun q => { q with abort := .stopping, inAbort := true }).abortFrom q 0 fun _ => stAborted 1
  else if more then s
  else s.chainFetched q (s.ownChecks q)

/-- Bytes of the further slots or entries that stand before the payload (R62, R93). -/
def headBytes (fmt : Nat) (h : Bytes) : Nat := if fmt = 1 then 32 * b2n (bit (leAt h 0 4) 12) else 64 * fld (leAt h 0 4) 12 4

/-- The parts of the payload, S bytes, that poisoned parts of the further slots strike (R276). -/
def payloadParts (head sLen : Nat) (bad : List (Nat × Nat)) : List (Nat × Nat) :=
  bad.filterMap fun p => if p.1 < head ∨ sLen ≤ p.1 - head then none else some (p.1 - head, min p.2 (sLen - (p.1 - head)))

/-- The link that a header and its further entries make; `bad` are the parts of these that poisoned beats carried. A
failed read of the further entries is the link's failure in the data stage; where poison strikes the payload alone, a
lane or digest link runs on with those parts of it poisoned (R72, R276 to R278). -/
def State.makeLink (s : State) (part fmt subIdx : Nat) (h further : Bytes) (a : ReadAnswer) (bad : List (Nat × Nat)) : Link :=
  let gen := ((s.part part).map (·.gen)).getD 0
  let head := headBytes fmt h
  let lost := 0 < head && match a with
    | .ok _ => false
    | .poisoned _ _ _ => bad.any fun p => decide (p.1 < head)
    | _ => true
  let hdr := if fmt = 1 then readF1 part gen h (if lost then [] else further)
    else { readF2 h further with exts := if lost then [] else (readF2 h further).exts }
  let hdr := { hdr with unread := lost }
  let pay := if hdr.inl then (payloadOf fmt h further).take hdr.sLen else []
  let parts := if !lost && (isLane hdr.opcode || isDigest hdr.opcode) then payloadParts head hdr.sLen bad else []
  { hdr := hdr, subIdx := subIdx, fetchTick := s.sch.tick, cutTick := (s.sch.tick + b2n s.sch.cutDone) % 2 ^ 32, inline := pay, source := pay,
    err := ansFail atSource a, poisoned := parts, openPoison := if parts.isEmpty then none else some 0 }

/-- The tick of the doorbell that published the entry at H, a packet's last (R117). -/
def Ring.arrivalOf (x : Ring) (h t : Nat) : Nat :=
  ((x.pubs.find? fun p => decide (0 < modSub p.1 h x.span) && decide (modSub p.1 h x.span ≤ x.depth)).map (·.2)).getD t

/-- The further entries that a header announces (R45). -/
def furtherCount (fmt : Nat) (hb : Bytes) : Nat := if fmt = 1 then f1Entries hb else f2Slots hb

/-- The extents of n entries from an index on: the fetch is split at the wrap (R36). -/
def Ring.entryExts (x : Ring) (i n : Nat) : List (Nat × Nat) :=
  let eb := entryBytes x.attr.fmt
  let m := min n (x.depth - i % x.depth)
  if n = 0 then [] else (x.entryAddr i, m * eb) :: if m < n then [(x.attr.sqBase, (n - m) * eb)] else []

/-- The name of a request whose first header is at an index: the index, and N more for as long as an earlier request of
the ring, not yet over, has the name (R45, R47, log 107). -/
def State.freshIdx (s : State) (r i : Nat) : Nat :=
  let n := (s.ring r).span
  ((List.range (s.rng.reqs.length + 1)).find? fun k => (s.req r (i + n * k)).isNone).elim i fun k => i + n * k

/-- The request that the header at sub_head begins or goes on with: its index, and the link's number (R82). -/
def State.fetchId (s : State) (r : Nat) : LinkId :=
  match s.rng.reqs.find? fun q => q.ring == r && q.openSince.isSome with
  | some q => ⟨r, q.idx, q.links.length⟩
  | none => ⟨r, s.freshIdx r (s.ring r).subHead, 0⟩

/-- The header at sub_head and the further entries have been read: move sub_head past them and take the packet (R45,
R82, R278). -/
def State.takePacket (s : State) (r : Nat) (hb : Bytes) (inl : ReadAnswer) : State :=
  let x := s.ring r
  let eb := entryBytes x.attr.fmt
  let n := furtherCount x.attr.fmt hb
  let a : ReadAnswer := if n = 0 then .ok [] else inl
  let further := ansKept a (n * eb)
  let h0 := x.subHead
  let idx := (s.fetchId r).idx
  let h1 := (h0 + 1 + n) % x.span
  let arrival := x.arrivalOf ((h0 + n) % x.span) s.sch.tick
  let s := s.onRing r fun x => { x with subHead := h1, hdrFail := none,
                                        pubs := x.pubs.filter fun p => 0 < modSub p.1 h1 x.span && modSub p.1 h1 x.span ≤ x.depth }
  let l := s.makeLink x.owner x.attr.fmt h0 hb further a (poisonParts a (x.entryExts (h0 + 1) n))
  let s := s.addLink r idx arrival l (x.attr.fmt != 1 && l.hdr.chain)
  (s.onRng fun t => { t with reqs := t.reqs.map fun q => if q.ring == r then { q with behind := q.behind + 1 + n } else q }).abortTidy r

/-- The header's read failed: fetch stops at sub_head and record 0x0808 is written, at first and every 256
ticks (R278). -/
def State.headerFailed (s : State) (r : Nat) : State :=
  let x := s.ring r
  let t := s.sch.tick
  let addr := x.entryAddr x.subHead
  let first := x.hdrFail.getD t
  let s := s.onRing r fun x => { x with hdrFail := some first, hdrTick := t }
  if modSub t first (2 ^ 32) % 256 = 0 then s.logReq 0x0808 (uidFabric (portOf addr)) x.owner r x.subHead 0 else s

/-- The reads of a fetch, and what follows: the header's entry, then the further entries it announces, cut under R269.
Where a read cannot issue for want of a tag the fetch waits (R36, R45, R271, R272, R278). -/
def State.fetchAt (s : State) (r : Nat) (reads : FetchReads) : State :=
  let x := s.ring r
  let rd := s.ringReader x.owner (some (s.fetchId r))
  let he := x.entryExts x.subHead 1
  let hb := ansBytes reads.header (entryBytes x.attr.fmt)
  let fe := x.entryExts (x.subHead + 1) (furtherCount x.attr.fmt hb)
  if !s.canRead rd he then s
  else match reads.header with
    | .ok _ =>
      if !s.canRead rd fe then s
      else ((s.newReads.readString rd he reads.header).readString rd fe (if fe.isEmpty then .ok [] else reads.inl)).takePacket r hb reads.inl
    | a => (s.newReads.readString rd he a).headerFailed r

/-- RING_FETCH (R32, R40, R45, R47, R56, R62 to R85, R90, R278). -/
def execRingFetch (r : Nat) (reads : FetchReads) (s : State) : Out :=
  .next (if !s.mayFetch r || (s.ring r).hdrFail.isSome then s else s.fetchAt r reads)

/-- HEADER_REREAD: at each boundary after a failed header read, the header is read again (R278). -/
def execHeaderReread (r : Nat) (reads : FetchReads) (s : State) : Out :=
  let x := s.ring r
  .next (if !s.mayFetch r || x.hdrFail.isNone || x.hdrTick == s.sch.tick then s else s.fetchAt r reads)

/-- CHAIN_INCOMPLETE: 1,024 ticks after the last fetched link no further header is published (R85). -/
def execChainIncomplete (r : Nat) (s : State) : Out :=
  let x := s.ring r
  .next (match s.rng.reqs.find? fun q => q.ring == r && q.openSince.isSome with
    | none => s
    | some q =>
      if !s.serving || (x.hasHeader && x.st == .active) || modSub s.sch.tick (q.openSince.getD 0) (2 ^ 32) < 1024 then s
      else
        let k := q.links.length - 1
        let s := s.onReq r q.idx fun q => { q with openSince := none }
        if q.abort != .none then s.abortTidy r
        else
          let s := s.forceFrom q 0 fun i => if i = k then stMalformed dChainIncomplete else stAbandoned k
          s.packetViolation 0x0509 r q.idx k)

/-- A memory ring has a published header and no free completion slot (R48). -/
def State.cqFull (s : State) (r : Nat) : Bool :=
  let x := s.ring r
  x.st != .closed && x.st != .opening && !x.attr.stream && x.hasHeader && decide (x.depth ≤ s.slotsTaken r)

/-- CQ_STALL: the condition has lasted 256 consecutive ticks, or a further 256 (R48). -/
def execCqStall (r : Nat) (s : State) : Out :=
  let x := s.ring r
  .next (
    if !s.serving || x.stallTicks < 256 then s
    else
      let s := s.onRing r fun x => { x with cqStall := true, stallTicks := x.stallTicks - 256 }
      s.violation 0x0504 uidSched x.owner (some r) true 0 (s.fidOf x.owner))

/-! ### Gather lists -/

/-- The checks of the list stage (R75, R90, R91). -/
def listCheck (h : Hdr) (src dst : List (Elem × Bool × Bool)) : Option Stat :=
  let total (l : List (Elem × Bool × Bool)) := sumBy l fun e => e.1.len
  match (elemsBad src).or (elemsBad dst) with
  | some d => some (stMalformed d)
  | none =>
  if isList h.srcGather ∧ total src ≠ h.sLen then some (stMismatch 2)
  else if isList h.dstGather ∧ total dst < h.dstMax then some (stMismatch 5)
  else none

/-- GATHER_LIST_READ: a link's lists arrive and are checked (R74, R75, R90). -/
def execGatherListRead (id : LinkId) (src dst : ReadAnswer) (s : State) : Out :=
  .next (match s.link id with
    | none => s
    | some (q, l) =>
      let h := l.hdr
      let rd := s.ringReader q.part (some id)
      let se := if isList h.srcGather then [(h.src, 16 * h.srcGather)] else []
      let de := if isList h.dstGather then [(h.dst, 16 * h.dstGather)] else []
      if !s.serving || l.stat.isSome || l.timedOut || l.listsDone || q.openSince.isSome || q.abort != .none
          || !s.canRead rd (se ++ de) then s
      else
        let a : ReadAnswer := if isList h.srcGather then src else .ok []
        let b : ReadAnswer := if isList h.dstGather then dst else .ok []
        let s := (s.newReads.readString rd se a).readString rd de b
        match firstFail [(atList, se, a), (atList, de, b)] with
        | some st => s.failStage id st
        | none =>
          let se := if isList h.srcGather then readElems h.srcGather (ansBytes a (16 * h.srcGather)) else []
          let de := if isList h.dstGather then readElems h.dstGather (ansBytes b (16 * h.dstGather)) else []
          match listCheck h se de with
          | some st => s.endAs id st
          | none =>
            let s := s.onLink id fun l => { l with srcElems := se.map (·.1), dstElems := de.map (·.1), listsDone := true }
            if tagRead h.opcode then s.readNext id 0 else s)

/-! ### Completion records -/

/-- W4 and W5 (R88). -/
def Link.w45 (l : Link) : Nat :=
  match l.stamp with
  | some t => t.toNat
  | none =>
    if (l.hdr.opcode = opSeal ∨ l.hdr.opcode = opGmacGen) ∧ l.hwNonce then l.count.getD 0
    else if isCreate l.hdr.opcode l.hdr.subop then l.newInst
    else 0

/-- Every link before k of the request has its record made. -/
def Req.before (q : Req) (k : Nat) : Bool := (q.links.take k).all (·.recorded)

/-- The record of link k is ready: its result is known and all its writes are done, no Ephemeris record
about the request waits, and for a sealed partition the tick of R117 has come (R279, R300, R302). -/
def State.recordReady (s : State) (q : Req) (k : Nat) : Bool :=
  match q.links[k]? with
  | none => false
  | some l =>
    !l.recorded && q.before k && s.linkDone (q.linkId k) l && !s.ephWaits q.ring q.idx
      && (l.hdr.opcode != opNop || !l.hdr.fence || s.ringClear q)
      && (!(s.sealedP q.part || l.job.isSome || l.hdr.opcode == opRandom || l.hdr.opcode == opReseed
          || (l.stat.map (·.code)) == some 0x70) || match l.lastTick with
        | none => true
        | some g => s.sch.tick != g)

/-- The next record of a ring: on a STRICT ring the first request's whose record is not made, on a TAGGED
ring the first ready (R295, R302, R303). -/
def State.nextRecord (s : State) (r : Nat) : Option (Req × Nat) :=
  let qs := s.rng.reqs.filter fun q => q.ring == r
  let pick := if (s.ring r).attr.tagged then qs.find? fun q => s.recordReady q q.front
    else (qs.find? fun q => q.front < q.links.length || q.openSince.isSome).bind fun q =>
      if s.recordReady q q.front then some q else none
  pick.map fun q => (q, q.front)

/-- The port of an access takes one more write at once (R376). -/
def State.writeFree (s : State) (a fid : Nat) : Bool :=
  !s.silentFid fid && match s.mov.ports[portOf a]? with
    | none => false
    | some p => countP p.writes (fun w => w.issued) < 1024 && p.writes.all fun w => w.issued || w.held || s.silentFid w.fid

/-- An error record on a ring with fence_on_error puts it in HELD and flushes its requests that were never
granted (R41, R305; log 21). -/
def State.enterHold (s : State) (r : Nat) : State :=
  let x := s.ring r
  if !(x.attr.foe && x.st == .active) then s
  else
    let s := s.onRing r fun x => { x with st := .held }
    let out := s.rng.reqs.filter fun q => q.ring == r && !q.granted && !q.allRecorded
    out.foldl (fun s q => (s.onReq r q.idx fun q => { q with openSince := none }).forceFrom q 0 fun _ => stFlushed) s

/-- Remove the requests whose records are all done (R81). -/
def State.retire (s : State) (r : Nat) : State :=
  (s.onRng fun t => { t with reqs := t.reqs.filter fun q => !(q.ring == r && q.over) }).abortTidy r

/-- The violation of a link, whose result waited for the records of the links before it, counts (R84, R92, log 105). -/
def State.violNext (s : State) (q : Req) (k : Nat) : State :=
  match q.links[k]? with
  | none => s
  | some l => match l.stat.bind Stat.violation with
    | some c => if l.violDue then (s.onLink (q.linkId k) fun l => { l with violDue := false }).packetViolation c q.ring q.idx k else s
    | none => s

/-- COMPLETION_RECORD_WRITE: the next ready record of a ring is written at its slot, or goes with its output
into an output frame (R41, R47, R50, R51, R86, R96, R279, R295, R302, R303; log 25). -/
def execCompletionRecordWrite (r : Nat) (s : State) : Out :=
  let x := s.ring r
  .next (match s.nextRecord r with
    | none => s
    | some (q, k) => match q.links[k]? with
      | none => s
      | some l =>
        let fid := s.fidOf q.part
        let addr := x.attr.cqBase + 32 * (x.wIdx % x.depth)
        if !s.serving || s.silentFid fid || x.recFail.isSome || (!x.attr.stream && !s.writeFree addr fid) then s
        else
          let st := l.stat.getD stOk
          let id := q.linkId k
          let last := k + 1 == q.links.length && q.openSince.isNone
          let rec' : Record :=
            { fmt := x.attr.fmt, stat := st, retried := l.retried, link := k,
              more := !last, phase := phaseOf x.attr.log2 x.wIdx, tag := l.hdr.tag, entry := l.subIdx % x.depth,
              bytes := if st.good then l.bytesOut else 0, w45 := l.w45, tick := s.sch.tick }
          let s := (s.onLink id fun l => { l with recorded := true }).violNext q (k + 1)
          let s := s.onRing r fun x => { x with wIdx := (x.wIdx + 1) % x.span }
          let s := s.countRecord q l st last
          let s := if x.attr.stream then
              s.onMov fun m => { m with streams := updAt m.streams x.attr.pair fun p =>
                { p with out := p.out ++ [⟨id, rec'.encode ++ (if st.good && inlineOut x.attr l.hdr then l.output else []), l.hdr.irq⟩] } }
            else s.write addr rec'.encode fid clsOrdered (.record id l.hdr.irq)
          (if st.error then s.enterHold r else s))

/-- Record writes of a ring. -/
def isRecord (r : Nat) : WPurpose → Bool
  | .record id _ => id.ring == r
  | _ => false

/-- A failed record write that is issued again: W6 carries the tick of the write (R86, R96, R281; log 34). -/
def FWrite.recordAgain (t : Nat) (w : FWrite) : FWrite :=
  if w.held then { w with held := false, again := true, data := w.data.take 24 ++ natLE t 4 ++ w.data.drop 28 } else w

/-- How far a record write's slot lies beyond the consumer index. -/
def Ring.slotAge (x : Ring) (w : FWrite) : Nat := modSub ((w.addr - x.attr.cqBase) / 32) x.cons x.depth

/-- An Ephemeris record about the request of a record write is not committed (R300). -/
def State.recordWaits (s : State) (w : FWrite) : Bool :=
  match w.purpose with
  | .record id _ => s.ephWaits id.ring id.idx
  | _ => false

/-- The first failed record write of a ring that is not done, in the order of its slots. -/
def State.firstHeld (s : State) (r : Nat) : Option FWrite :=
  minBy (s.ring r).slotAge (s.writes.filter fun w => isRecord r w.purpose && (w.held || w.again) && !w.given)

/-- The first failed record write of a ring that is not done, in the order of its slots, is issued again if it is not
outstanding and no Ephemeris record about its request is on its way; those that follow it wait behind it (R281, R300,
log 25). -/
def State.nextHeld (s : State) (r : Nat) : State :=
  match s.firstHeld r with
  | none => s
  | some v => if !v.held || s.recordWaits v then s else (s.onWrites fun w => some (if w == v then w.recordAgain s.sch.tick else w)).pump

/-- RECORD_WRITE_RETRY: the first failed record write of a ring is issued again, once at each boundary after the
failure (R281). -/
def execRecordWriteRetry (r : Nat) (s : State) : Out :=
  let x := s.ring r
  .next (
    if !s.serving || x.recFail.isNone || x.recTick == s.sch.tick || s.silentFid (s.fidOf x.owner) || (s.firstHeld r).any s.recordWaits then s
    else (s.onRing r fun x => { x with recTick := s.sch.tick }).nextHeld r)

/-! ### Interrupts -/

/-- A record's write is done: it is visible, and triggers of R51 follow. -/
def State.recordVisible (s : State) (r : Nat) (irq : Bool) : State :=
  let s := if (s.ring r).st == .closed then s else
    s.onRing r fun x => { x with sinceIrq := x.sinceIrq + 1, irqAge := some (x.irqAge.getD 0) }
  let x := s.ring r
  if x.st == .closed then s
  else if irq || (x.attr.irqCount != 0 && x.sinceIrq ≥ x.attr.irqCount) then s.ringIrq r else s

/-- IRQ_TICKS_TRIGGER: irq_ticks boundaries have passed since the oldest record not signalled (R51). -/
def execIrqTicksTrigger (r : Nat) (s : State) : Out :=
  let x := s.ring r
  .next (match x.irqAge with
    | none => s
    | some n => if s.live && x.attr.irqTicks != 0 && n ≥ x.attr.irqTicks && x.st != .closed then s.ringIrq r else s)

/-- INTERRUPT_MESSAGE: the oldest pending message of a function issues; it is held while bus master enable
is clear (R392). -/
def execInterruptMessage (fid : Nat) (s : State) : Out :=
  .next (match s.io.msgs.find? fun m => m.fid == fid with
    | none => s
    | some m =>
      if !s.live || !s.bmeOf fid || s.flrOn fid then s
      else s.onIo fun i => { i with msgs := i.msgs.filter fun n => n != m, lastIrq := some m })

/-! ### Opening and closing (R40, R42, R61, R444) -/

/-- The reply of a message is known: result 0 and the words after word 1 (R329). -/
def State.replyOk (s : State) (ch : Nat) (words : List W32) : State :=
  if (s.chan ch).st == .busy then s.onChan ch fun m => { m with reply := some (0 :: words) } else s

/-- Requests of the ring whose records are not all done. -/
def State.ringBusy (s : State) (r : Nat) : Bool := s.rng.reqs.any fun q => q.ring == r

/-- A CLOSED ring keeps nothing (R40, R52, R438). -/
def State.closeRing (s : State) (r : Nat) : State := s.onRng fun t => { t with rings := mdel t.rings r }

/-- RING_DRAIN_COMPLETE: the last record is written and acknowledged; the ring becomes CLOSED and the reply
gives the final sub_head (R40, R42). -/
def execRingDrainComplete (r : Nat) (s : State) : Out :=
  let x := s.ring r
  .next (
    if !s.live || s.paused || !(x.closeCh.all fun c => s.carried (.message c)) || x.st != .draining || s.ringBusy r then s
    else
      let h := BitVec.ofNat 32 (if x.attr.stream then x.frameIdx else x.subHead)
      let s := match x.closeCh with
        | some c => s.replyOk c [h]
        | none => s
      s.closeRing r)

/-- RING_OPEN_COMPLETE: the context is built with the attributes given, indices are 0, history and counters
are clear and the ring is ACTIVE, its pending bit as OPENING leaves it; the reply gives the ring number and, for a reopen,
the old sub_head (R40, R61, R422, R438). -/
def execRingOpenComplete (r : Nat) (s : State) : Out :=
  let x := s.ring r
  .next (
    if !s.live || s.paused || !(x.openCh.all fun c => s.carried (.message c)) || x.st != .opening || s.ringBusy r then s
    else
      let s := s.setRing r { st := .active, owner := x.owner, attr := x.next.getD x.attr, pend := x.pend }
      let s := match x.openCh with
        | some c => s.replyOk c [BitVec.ofNat 32 r, BitVec.ofNat 32 x.lastHead]
        | none => s
      s.cacheRing r)

end Sys2Proof.Machine
end

