-- ==== Sys2Proof/Machine/Jobs.lean ====
section
/-! DEFINITION. Public-key jobs and asymmetric key generation: preparation, the sequence of elements, what
validation and the main phase compute, and the wipe (R205, R206, R211 to R224, R231). -/

namespace Sys2Proof.Machine

/-! ### Threads and buffers (R230, R231) -/

/-- The thread may be taken: ended, on a core in service that takes new threads (R231, R311). -/
def State.threadFree (s : State) (t : Nat) : Bool :=
  let u := s.unitSt (.oryCore (t / 16))
  s.poolThread t && (s.thread t).st == .ended && !(s.thread t).stopped && !u.ecl && u.eclPend.isNone && !u.inTest

/-- The thread a request takes (R231). -/
def State.freeThread (s : State) : Option Nat :=
  let l := (List.range 64).filter s.threadFree
  match l.find? fun t => ((s.ory.cores[t / 16]?).map (·.awake)).getD false with
  | some t => some t
  | none => l.head?

/-- Free buffers of the dynamic pool, lowest first (R231). -/
def State.freeBuffers (s : State) : List Nat := ((List.range 112).map (· + 16)).filter fun b => (mget s.ory.buffers b).isNone

/-- Buffers a request takes (R231). -/
def bufferCount (h : Hdr) : Nat :=
  let ops := (h.operand 0).2 + (h.operand 1).2 + (h.operand 2).2
  min 5 (max 1 (cdiv (h.sLen + ops + h.oLen) 16384))

/-! ### Preparation (R206) -/

/-- The operand descriptors of a link that name data. -/
def usedOperands (h : Hdr) : List Nat := (operandUse h.opcode h.subop).filter fun n => (h.operand n).2 != 0

def jobOp (r : JobReads) (n : Nat) : ReadAnswer := if n = 0 then r.op0 else if n = 1 then r.op1 else r.op2

/-- The operating key's material is in an extended record (R174). -/
def Link.extKey (l : Link) : Bool := usesKey l.hdr.opcode l.hdr.subop && l.hdr.opcode == opPk && needsExt l.keyType

/-- The source that preparation reads: none where the bytes are there already. -/
def Link.prepSource (l : Link) : List (Nat × Nat) :=
  let h := l.hdr
  if h.opcode == opImport || h.sLen == 0 || h.inl || h.bufSrc then [] else l.srcExtents

/-- What preparation reads, in the order source, extended record, operands; the first failure in time, and after the reads
that of the record's check (R90, R174, R206, R275, R276). -/
def State.prepRead (s : State) (id : LinkId) (q : Req) (l : Link) (r : JobReads) : State × Option Stat × Bytes :=
  let h := l.hdr
  let p := q.part
  let src := l.prepSource
  let a : ReadAnswer := if src.isEmpty then .ok [] else r.source
  let s := s.readString (s.dmaReader p (some id)) src a
  let ctx := (l.keySlot.bind s.slot).map (·.ctx)
  let x : ReadAnswer := if l.extKey then r.extended else .ok []
  let s := if l.extKey then s.readString (s.vaultReader p (some id)) [(s.extAddr p h.keyIndex, roundUp l.extLen 8 + 8)] x else s
  let e : Option Stat × Bytes :=
    if !l.extKey then (none, [])
    else match x, ctx with
      | _, none => (some (stKeyInvalid 2), [])
      | _, some c => match openExt (s.keysOf p).ctx c (ansData r.extended) with
        | none => (some (stKeyInvalid 2), [])
        | some m => (none, m)
  let s := (usedOperands h).foldl (fun s n => s.readString (s.dmaReader p (some id)) [h.operand n] (jobOp r n)) s
  let fail := firstFail ([(atSource, src, a), (atVault, [(s.extAddr p h.keyIndex, roundUp l.extLen 8 + 8)], x)]
    ++ (usedOperands h).map fun n => (atOperand, [h.operand n], jobOp r n))
  let s := if l.err.isNone && fail == some (stBusError atSource) then s.markSource id a else s
  (s, (l.err <|> fail) <|> e.1, e.2)

/-- Every access of a preparation may issue (R272, R282). -/
def State.prepReads (s : State) (q : Req) (l : Link) : Bool :=
  let h := l.hdr
  s.canRead (s.dmaReader q.part none) (l.prepSource ++ (usedOperands h).map h.operand)
    && (!l.extKey || s.canRead (s.vaultReader q.part none) [(s.extAddr q.part h.keyIndex, roundUp l.extLen 8 + 8)])

/-- The limit of R238 that is known at preparation. -/
def prepLimit (h : Hdr) : Nat := if isJob h.opcode h.subop then 0 else 1024

/-- The link's preparation tick has come (R206). -/
def State.prepTime (s : State) (l : Link) : Bool :=
  match l.prepAt with
  | some a => decide (modSub s.sch.tick a (2 ^ 32) < 2 ^ 31)
  | none => false

/-- The link's job is not prepared, or was wiped for its retry (R206, R224). -/
def Link.unprepared (l : Link) : Bool := (l.job.map (·.stale)).getD true

/-- The thread and the buffers that a preparation takes, all together or none; one for a retry has them (R206, R231). -/
def State.prepTakes (s : State) (l : Link) : Option (Nat × List Nat) :=
  let n := bufferCount l.hdr
  match l.job with
  | some j => if s.stoppedT j.thread then none else some (j.thread, j.buffers)
  | none => if s.freeBuffers.length < n then none else s.freeThread.map fun t => (t, s.freeBuffers.take n)

/-- JOB_PREPARATION: the thread and all its buffers are taken together, the inputs are read (R206, R231,
R237). -/
def execJobPreparation (id : LinkId) (r : JobReads) (s : State) : Out :=
  .next (match s.link id with
    | none => s
    | some (q, l) =>
      let h := l.hdr
      if !s.serving || s.paused || !isOrrery h.opcode h.subop || l.stat.isSome || !l.staged || !l.unprepared
          || !s.prepTime l || q.abort != .none || !s.prepReads q l then s
      else match s.prepTakes l with
        | none => s
        | some (t, bufs) =>
          if !s.coreRuns t then s.wakeReq (t / 16)
          else
          let x := (s.newReads.loadKey id).prepRead id q l r
          let src := if h.inl || h.bufSrc || h.opcode == opImport || h.sLen == 0 then l
            else { l with source := ansBytes r.source h.sLen }
          let j : Job :=
            { thread := t, buffers := bufs, dual := isJob h.opcode h.subop && !(s.entryOf q.part).pkSingle, regions := jobRegions h.opcode h.subop h.pset
              source := if h.opcode = opImport then [] else src.srcSlice 0 h.sLen
              ops := [0, 1, 2].map fun n => if (usedOperands h).contains n then ansBytes (jobOp r n) (h.operand n).2 else []
              extRec := x.2.2, limit := prepLimit h, charged := (l.job.map (·.charged)).getD 0 }
          let s := x.1.onOry fun o => { o with
            threads := updAt o.threads t fun th => { th with st := .running, root := t, work := .request id, seen := 0 }
            buffers := bufs.foldl (fun b k => mset b k t) o.buffers }
          let s := s.onLink id fun l => { l with job := some j }
          match x.2.1 with
          | some st => if st.code = 0x42 then s.readTimedOut id st else s.endLink id st
          | none => s)

/-! ### The key and operands of a job -/

/-- The operating key's material (R174). -/
def State.jobKey (s : State) (l : Link) (j : Job) : Bytes := if l.extKey then j.extRec else s.linkKey l

def Job.op (j : Job) (n : Nat) : Bytes := j.ops.getD n []

/-- The hash of an ECDSA nonce derivation (R212). -/
def ecdsaHash (h : Hdr) : Nat := if h.pkHash ≠ 0 then h.pkHash else [2, 3, 4].getD (curveIx h.pset) 2

/-- The context string of an ML-DSA job (R211); of two, the inline one (DESIGN CHOICE, log 124). -/
def dsaCtx (h : Hdr) (j : Job) : Bytes := h.inlineParams.getD (j.op (if h.subop = 0x29 then 0 else 2))

/-- rnd: drawn, or zero under deterministic fallback (R214). -/
def dsaRnd (l : Link) : Bytes := if l.fallback then zeros 32 else l.drawn

/-! ### The sequence (R205, R209, R215, R216, R220, R221) -/

/-- The message hashes of a job, by the DIGEST code and the bytes hashed: SHA-512 for Ed25519, SHAKE256 for ML-DSA (R209). -/
def msgHash (h : Hdr) (j : Job) : Nat × Nat × Nat :=
  let n := j.source.length
  match h.subop with
  | 0x19 => (4, 32 + n, 64 + n)
  | 0x1A => (4, 64 + n, 0)
  | _ => (0x22, 66 + (dsaCtx h j).length + n, 0)

/-- Expansion slots added for polynomials that fall short (R216). -/
def State.extraSlots (s : State) (l : Link) (j : Job) : Nat :=
  let h := l.hdr
  let p := h.pset
  let key := s.jobKey l j
  let k := (kemP p).k
  match h.subop with
  | 0x20 => kemShort p (slice (kemKeygen p (l.drawn.take 32) (slice l.drawn 32 32)).1 (384 * k) 32)
  | 0x21 => kemShort p (slice j.source (384 * k) 32)
  | 0x22 => kemShort p (slice key (768 * k) 32)
  | 0x28 => dsaShort p ((dsaKeygen p (l.drawn.take 32)).1.take 32)
  | 0x29 => dsaShort p (key.take 32)
  | 0x2A => dsaShort p ((j.op 0).take 32)
  | _ => 0

/-- Λ: B, or half of it under DUAL (R205). -/
def State.lam (s : State) (dual : Bool) : Nat := if dual then s.budget / 2 else s.budget

/-- The batch limits of a partition's jobs: the one where it holds a whole MACU or is an ordinary partition, or has only a
partial window; and the partial window's beside whole MACUs (R205, R210; log 41). -/
def State.batchLimits (s : State) (p : Nat) (dual : Bool) : Nat × Option Nat :=
  let lam := s.lam dual
  match (s.part p).bind (·.pattern) with
  | none => (lam, none)
  | some x => match x.macuWin with
    | none => (lam, none)
    | some w => if x.macus.isEmpty then (min lam w.2.2, none)
      else (lam, if minJobWindow ≤ w.2.2 ∧ w.2.2 < lam then some w.2.2 else none)

/-- M >> seg_shift (R108). -/
def State.segLimit (s : State) (p : Nat) : Nat := s.maxSeg / 2 ^ ((s.part p).map (·.segShift)).getD 0

/-- The salt or context of a derivation, with neither block present the empty string (R179). -/
def deriveSalt (h : Hdr) (j : Job) : Bytes := h.inlineParams.getD (j.op 0)

/-- The slots of a derivation: the HMACs of HKDF or of the counter KDF one after the other, and the hash of a key longer than a
block before them (R106, R107, R179; log 89). -/
def deriveElems (h : Hdr) (parent salt info limit budget : Nat) : List JElem :=
  let c := h.prf
  let n := if h.outType = 0x10 ∨ h.outType = 0x18 then h.keyLen else keyBytes h.outType
  let rounds := cdiv n (hashOut c)
  let mac (m : Nat) := hmacElems c m limit budget
  if h.subop = 1 then
    (if hashBlk c < salt then hashElems c salt limit budget else []) ++ mac parent
      ++ (List.range rounds).flatMap fun i => mac ((if i = 0 then 0 else hashOut c) + info + 1)
  else (List.replicate rounds (mac (info + 1 + salt + 8))).flatten

/-- Build a prepared job's sequence once its draws are made, with its limit of charged ticks (R205, R238). -/
def State.jobBuild (s : State) (id : LinkId) : State :=
  match s.link id with
  | none => s
  | some (q, l) => match l.job with
    | none => s
    | some j =>
      let h := l.hdr
      let set (f : Job → Job) : State := s.onLink id fun l => { l with job := l.job.map f }
      if j.built || j.stale || j.wiped || !hasElems h.opcode h.subop || (drawNext q.part false h l.drawn l.fallback).isSome then s
      else if h.opcode = opDerive then
        let e := deriveElems h (s.linkKey l).length (deriveSalt h j).length j.source.length (s.segLimit q.part) s.budget
        set fun j => { j with built := true, elems := e }
      else
        let lam := s.batchLimits q.part j.dual
        let m := msgHash h j
        let pk := h.opcode == opPk
        let hashed := pk && (h.subop == 0x19 || h.subop == 0x1A || h.subop == 0x29 || h.subop == 0x2A)
        let elems (n : Nat) := if hashed then hashElems m.1 n (s.segLimit q.part) s.budget else []
        let e1 := elems m.2.1
        let e2 := if m.2.2 = 0 then [] else elems m.2.2
        let x := if pk then s.extraSlots l j else 0
        let kap := if pk && h.subop == 0x29 then (dsaSign h.pset (s.jobKey l j) (dsaCtx h j) j.source (dsaRnd l)).1 else 0
        let seq (lam k : Nat) := jobSeq lam h.opcode h.subop h.pset e1 e2 k x
        let top := (seq (lam.2.getD lam.1) (if kap = 0 then 0 else 256)).1.length
        set fun j => { j with built := true, elems := (seq lam.1 kap).1, valid := (seq lam.1 kap).2, limit := top + 65
                              alt := lam.2.map fun w => (w, seq w kap) }

/-! ### Validation (R217) -/

/-- A point operand's failure: encoding, infinity, range, off the curve. -/
def pointInvalid (c : Curve) (b : Bytes) : Option Stat :=
  if b.length = 1 ∧ byteAt b 0 = 0 then some (stInvalid 4)
  else if b.length ≠ 1 + 2 * c.f ∨ byteAt b 0 ≠ 4 then some (stInvalid 6)
  else
    let q := c.coords b
    if q.1 ≥ c.p ∨ q.2 ≥ c.p then some (stInvalid 2)
    else if c.onCurve q.1 q.2 then none else some (stInvalid 3)

/-- An RSA public key operand's failure. -/
def rsaPubInvalid (k : Nat) (b : Bytes) : Option Stat :=
  let e := beNat (b.drop k)
  if b.length ≠ k + 4 ∨ !oddFull (b.take k) ∨ e % 2 = 0 ∨ e < 3 then some (stInvalid 6) else none

/-- The input value of a private operation or MODEXP. -/
def valueInvalid (n c : Nat) : Option Stat :=
  if c = 0 then some (stInvalid 1) else if c ≥ n then some (stInvalid 2) else none

/-- The validation phase's result (R217). -/
def jobInvalid (h : Hdr) (key : Bytes) (j : Job) : Option Stat :=
  let p := h.pset
  let k := psetLen p
  let n := j.source.length
  let enc := some (stInvalid 6)
  let c := curveOf (curveIx p)
  let x := beNat j.source
  match h.subop with
  | 0x01 => if n ≠ hashOut h.pkHash then enc else none
  | 0x02 => if n ≠ hashOut h.pkHash then enc else none
  | 0x03 => if n ≠ k then enc else valueInvalid (rsaN k key) x
  | 0x04 => if n ≠ k then enc else valueInvalid (rsaN k key) x
  | 0x05 => if n ≠ hashOut h.pkHash ∨ (j.op 1).length ≠ k then enc else rsaPubInvalid k (j.op 0)
  | 0x06 => if n ≠ hashOut h.pkHash ∨ (j.op 1).length ≠ k then enc else rsaPubInvalid k (j.op 0)
  | 0x07 => rsaPubInvalid k (j.op 0)
  | 0x08 => rsaPubInvalid k (j.op 0)
  | 0x10 => if n = 0 ∨ n > 64 then enc else none
  | 0x11 => if n = 0 ∨ n > 64 ∨ (j.op 1).length ≠ 2 * c.f then enc else pointInvalid c (j.op 0)
  | 0x12 => pointInvalid c j.source
  | 0x18 => if n ≠ 32 then enc else none
  | 0x1A => if (j.op 0).length ≠ 32 ∨ (j.op 1).length ≠ 64 then enc else if (edDecode (j.op 0)).isNone then some (stInvalid 3) else none
  | 0x21 => if n ≠ mlkemEk p then enc else if kemEkOk p j.source then none else some (stInvalid 5)
  | 0x22 => if n ≠ mlkemCt p then enc else none
  | 0x2A => if (j.op 0).length ≠ mldsaPk p then enc else none
  | 0x30 => if n ≠ k then enc else valueInvalid (rsaN k key) x
  | _ => none

/-! ### Results (R211 to R215, R218) -/

/-- Padding bytes of PKCS #1 v1.5, none of them zero: how a drawn zero is replaced the spec does not say, a
free value (log 6). -/
def nonZeroPad (free : Nat) : Bytes → Bytes
  | [] => []
  | b :: l => (if b = 0 then BitVec.ofNat 8 (1 + free % 255) else b) :: nonZeroPad (free / 255) l

/-- The result of a verification. -/
def verdict (b : Bool) : Bytes × Stat := ([], if b then stOk else stVerifyFail)

/-- The output and the status of a job's main phase; the private key of a key-generation job stands third. -/
def jobResult (l : Link) (key : Bytes) (j : Job) (free : Nat) : Bytes × Stat × Bytes :=
  let h := l.hdr
  let p := h.pset
  let k := psetLen p
  let alg := h.pkHash
  let c := curveOf (curveIx p)
  let src := j.source
  let n := rsaN k key
  let pubN := rsaN k (j.op 0)
  let pubE := beNat ((j.op 0).drop k)
  let label := h.inlineParams.getD []
  let bad : Bytes × Stat × Bytes := ([], stInvalid 6, [])
  let okay (b : Bytes) : Bytes × Stat × Bytes := (b, stOk, [])
  let ver (b : Bool) : Bytes × Stat × Bytes := ([], if b then stOk else stVerifyFail, [])
  if h.opcode = opGenerate then
    let d := l.drawn.take (drawMaterial h)
    if h.subop = 0x2C then okay (x25519 d (natLE 9 32))
    else if h.subop = 0x2D then okay (edPublic d)
    else okay (eccPublic (curveOf (h.subop - 0x28)) (beNat d))
  else match h.subop with
    | 0x01 => okay (natBE (rsaPrivate k key (beNat (emsaPkcs1 alg k src))) k)
    | 0x02 => okay (natBE (rsaPrivate k key (beNat (pssEncode alg (bitLen n) src l.drawn))) k)
    | 0x03 => match pkcs1Unpad (natBE (rsaPrivate k key (beNat src)) k) with
      | some m => okay m
      | none => bad
    | 0x04 => match oaepDecode alg k (natBE (rsaPrivate k key (beNat src)) k) label with
      | some m => okay m
      | none => bad
    | 0x05 =>
      let sg := beNat (j.op 1)
      ver (decide (sg < pubN) && natBE (powMod sg pubE pubN) k == emsaPkcs1 alg k src)
    | 0x06 =>
      let sg := beNat (j.op 1)
      let m := powMod sg pubE pubN
      let len := cdiv (bitLen pubN - 1) 8
      ver (decide (sg < pubN) && decide (m < 256 ^ len) && pssVerify alg (bitLen pubN) h.salt src (natBE m len))
    | 0x07 => okay (natBE (powMod (beNat (pkcs1Pad src (nonZeroPad free l.drawn))) pubE pubN) k)
    | 0x08 => okay (natBE (powMod (beNat (oaepEncode alg k src label l.drawn)) pubE pubN) k)
    | 0x10 => okay (ecdsaSign c (ecdsaHash h) (beNat key) src (if l.fallback then [] else l.drawn))
    | 0x11 => ver (ecdsaVerify c (j.op 0) src (j.op 1))
    | 0x12 => okay (ecdh c (beNat key) src)
    | 0x18 =>
      let o := x25519 key src
      if o.all (· == 0) then ([], stInvalid 1, []) else okay o
    | 0x19 => okay (edSign key src)
    | 0x1A => ver (edVerify (j.op 0) src (j.op 1))
    | 0x20 =>
      let g := kemKeygen p (l.drawn.take 32) (slice l.drawn 32 32)
      (g.1, stOk, g.2)
    | 0x21 => okay (kemEncaps p src l.drawn)
    | 0x22 => okay (kemDecaps p key src)
    | 0x28 =>
      let g := dsaKeygen p (l.drawn.take 32)
      (g.1, stOk, g.2)
    | 0x29 => match (dsaSign p key (dsaCtx h j) src (dsaRnd l)).2 with
      | some sg => okay sg
      | none => ([], stHwFault 4, [])
    | 0x2A => ver (dsaVerify p (j.op 0) (dsaCtx h j) src (j.op 1))
    | _ => okay (natBE (powMod (beNat src) (beNat (key.drop k)) n) k)

/-- The last element has run: the output is written, and a job that creates no key ends (R176, R206, R218). -/
def State.finishJob (s : State) (id : LinkId) (l : Link) (j : Job) : State :=
  if l.hdr.opcode = opDerive then s
  else
  let d := s.draw 5
  let o := jobResult l (s.jobKey l j) j d.1
  let s := d.2
  if isCreate l.hdr.opcode l.hdr.subop then
    let s := s.onLink id fun l => { l with job := l.job.map fun j => { j with extRec := o.2.2 } }
    s.emit id o.1 fun _ => false
  else if o.2.1.good then
    (s.emit id o.1 fun _ => false).endLink id stOk
  else s.endLink id o.2.1

/-- Run one element of a job (R205, R206, R217). -/
def State.runJob (s : State) (id : LinkId) (l : Link) : State :=
  match l.job with
  | none => s
  | some j =>
    let n := j.elemNo + 1
    let s := s.onLink id fun l => { l with job := l.job.map fun j => { j with elemNo := n }, seg := l.seg + 1 }
    let s := match j.elems[j.elemNo]? with
      | some (.hash _ true) => s.unbind id
      | _ => s
    let fail := if n = j.valid then jobInvalid l.hdr (s.jobKey l j) j else none
    match fail with
    | some st => s.endLink id st
    | none => if n = j.elems.length then s.finishJob id l j else s

/-! ### The wipe (R224) -/

/-- JOB_WIPE: a job that has ended is wiped, from the boundary after its last element on (R224). -/
def execJobWipe (id : LinkId) (s : State) : Out :=
  .next (match s.link id with
    | none => s
    | some (_, l) => match l.job with
      | none => s
      | some j =>
        let ran := match l.lastTick with
          | some t => t == s.sch.tick
          | none => false
        if !s.live || j.wiped || l.stat.isNone || ran || (s.key.jobs.any fun v => v.id == id)
            || s.sch.running.any (fun g => g.id == id) then s
        else s.wipeJob id)

end Sys2Proof.Machine
end

