-- ==== Sys2Proof/Machine/Mail.lean ====
section
/-! DEFINITION. Mailbox channels as seen from the register port: writes, acceptance, outcomes and their
notification (R326 to R335, R340, R343). -/

namespace Sys2Proof.Machine

/-! ### The catalogue (R327, R336) -/

/-- A message type: code, down length, up length, authority bit, whether W1 names a partition in bits 9:0 (1) or
31:22 (2), and the bits of W1 on that are not reserved. -/
structure MsgType where
  code  : Nat
  down  : Nat
  up    : Nat
  auth  : Option Nat := none
  named : Nat := 0
  masks : List Nat := []
  deriving DecidableEq, Repr

def mHello : Nat := 0x001
def mStatus : Nat := 0x002
def mCreate : Nat := 0x010
def mDestroy : Nat := 0x011
def mReset : Nat := 0x012
def mQuota : Nat := 0x013
def mOpen : Nat := 0x020
def mClose : Nat := 0x021
def mRearm : Nat := 0x022
def mRotate : Nat := 0x030
def mSnapshot : Nat := 0x040
def mEphRead : Nat := 0x041
def mStage : Nat := 0x050
def mSwap : Nat := 0x051
def mExercise : Nat := 0x060
def mEclipse : Nat := 0x061
def mRestore : Nat := 0x062

/-- The types of R336, with the fields of R337. -/
def catalogue : List MsgType :=
  [ { code := mHello, down := 2, up := 3, masks := [0xFFFF, 0xFFFF] },
    { code := mStatus, down := 0, up := 4 },
    { code := mCreate, down := 1, up := 2, auth := some 0, named := 1, masks := [0x3FF] },
    { code := mDestroy, down := 1, up := 2, auth := some 0, named := 1, masks := [0x3FF] },
    { code := mReset, down := 1, up := 1, auth := some 0, named := 1, masks := [0x3FF] },
    { code := mQuota, down := 6, up := 1, auth := some 1, named := 1,
      masks := [0x1F03FF, 0x1FFFF, 0x1FFFF, 0x3FFFF, 0xFFFFFFFF, 1] },
    { code := mOpen, down := 7, up := 3, auth := some 2, named := 2,
      masks := [0xFFC3FFFF, 0x31F03F1, 0x1FFFFFFF, 0xFFFFFFFF, 0xFFFFF, 0xFFFFFFFF, 0xFFFFF] },
    { code := mClose, down := 1, up := 2, auth := some 2, named := 2, masks := [0xFFC1FFFF] },
    { code := mRearm, down := 1, up := 1, auth := some 2, named := 2, masks := [0xFFC1FFFF] },
    { code := mRotate, down := 1, up := 2, auth := some 3, named := 1, masks := [0x3FF] },
    { code := mSnapshot, down := 5, up := 3, auth := some 4, masks := [3, 0xFFFFFFFF, 0xFFFFFFFF, 0xFFFFF, 0xFFFFFFFF] },
    { code := mEphRead, down := 4, up := 4, auth := some 4, masks := [0xFFFFFFFF, 0x3FFF, 0xFFFFFFFF, 0xFFFFF] },
    { code := mStage, down := 3, up := 2, auth := some 5, masks := [0xFFFFFFFF, 0xFFFFF, 0xFFFFFFFF] },
    { code := mSwap, down := 0, up := 3, auth := some 5 },
    { code := mExercise, down := 1, up := 2, auth := some 6, masks := [0xFFFF] },
    { code := mEclipse, down := 1, up := 1, auth := some 6, masks := [0xFFFF] },
    { code := mRestore, down := 1, up := 1, auth := some 6, masks := [0xFFFF] } ]

def msgTypeOf (code : Nat) : Option MsgType := catalogue.find? fun t => t.code == code

/-! ### Fields of a message (R329) -/

def Mbx.word (m : Mbx) (n : Nat) : Nat := (m.msg.getD n 0).toNat
def Mbx.type (m : Mbx) : Nat := fld (m.word 0) 0 12
def Mbx.seq (m : Mbx) : Nat := fld (m.word 0) 16 8

/-- The partition a message names. -/
def Mbx.named (m : Mbx) : Option Nat :=
  match msgTypeOf m.type with
  | none => none
  | some t => if t.named = 1 then some (fld (m.word 1) 0 10) else if t.named = 2 then some (fld (m.word 1) 22 10) else none

/-- The version in force (R328): management channels read 2. -/
def State.chanVersion (s : State) (c : Nat) : Nat := if c < 16 then 2 else ((s.part (c - 16)).map (·.mbxVer)).getD 0

/-- The partition that a message names: by its partition field, or as the object of a snapshot. -/
def Mbx.namesPart (m : Mbx) : Option Nat :=
  if m.type = mSnapshot then (if fld (m.word 1) 0 2 = 1 then some (m.word 2) else none) else m.named

/-- The partition concerned, for records: the channel's, or the one a management message names (R343). -/
def State.msgPart (s : State) (c : Nat) : Nat :=
  if c < 16 then ((s.chan c).namesPart.filter fun p => decide (p < 1024)).getD noPart else c - 16

/-! ### Outcomes (R332, R333) -/

/-- An interrupt message on the partition's mailbox vector. -/
def State.mbxIrq (s : State) (c : Nat) : State :=
  if c < 16 then s
  else match s.part (c - 16) with
    | none => s
    | some p => if p.st == .resetting then s else s.irqMsg p.entry.fid p.entry.vecBase

/-- Set a bit of MB_DB_UP: an interrupt issues each time an unmasked bit becomes 1. -/
def State.dbSet (s : State) (c bit' : Nat) : State :=
  let m := s.chan c
  let new := !m.dbUp.getLsbD bit'
  let s := s.onChan c fun m => { m with dbUp := m.dbUp ||| (1 <<< bit') }
  if new && !m.dbMask.getLsbD bit' then s.mbxIrq c else s

/-- The level of mbx_wake. -/
def State.wakeLevel (s : State) : State :=
  let on := s.mbx.chans.any fun x => decide (x.1 < 16) && x.2.notify && (x.2.st == .done || x.2.st == .aborted || x.2.st == .rejected)
  s.onBlk fun b => { b with mbxWake := on }

/-- The sender is told of the outcome. -/
def State.notifyOut (s : State) (c bit' : Nat) : State :=
  let m := s.chan c
  (if m.compat then s.dbSet c bit' else if m.notify then s.mbxIrq c else s).wakeLevel

/-- The detail of the management records: channel, msg_type, seq, and two bytes more (R343, R445). -/
def State.mbxLog (s : State) (code c a b : Nat) : State :=
  let m := s.chan c
  s.log code (uidMbx c) (s.msgPart c) (natLE c 2 ++ natLE m.type 2 ++ natLE m.seq 1 ++ natLE a 1 ++ natLE b 1)

/-- The message's change is committed (R340, R343). -/
def State.commit (s : State) (c : Nat) : State :=
  let m := s.chan c
  let s := s.onChan c fun m => { m with applied := true }
  if c < 16 ∧ m.type ≠ mHello then s.mbxLog 0x0920 c 0 0 else s

/-- A channel waits no more for a unit's exercise. -/
def State.dropExercise (s : State) (c : Nat) : State :=
  let f (x : UnitSt) : UnitSt := if x.exer.contains c then { x with exer := x.exer.filter fun k => k != c } else x
  (allUnits.foldl (fun s u => s.onUnit u f) s).onEnt fun e => { e with exercise := e.exercise.filter fun x => x.1 != c }

/-- No channel: there are 1,040. -/
def noChan : Nat := 1040

/-- A message that ends before its commit point changes nothing: its rotation is taken back, and its swap, and a staging of
its image ends. What has been committed goes on, and answers the channel no more (R162, R244, R334, R340). -/
def State.detach (s : State) (c : Nat) : State :=
  let un (o : Option Nat) : Option Nat := o.filter fun k => k != c
  let s := s.onRng fun t => { t with rings := t.rings.map fun x => (x.1, { x.2 with openCh := un x.2.openCh, closeCh := un x.2.closeCh }) }
  let s := s.onPrt fun t => { t with parts := t.parts.map fun x => (x.1, { x.2 with
    rot := x.2.rot.bind fun r => if r.ch != c then some r else if r.committed then some { r with ch := noChan } else none
    flr := x.2.flr.map fun f => { f with chans := f.chans.filter fun k => k != c } }) }
  let s := s.onOry fun o => { o with staging := o.staging.filter fun x => x.1 != c }
  if s.ory.swapCh != some c then s
  else s.onOry fun o => { o with swapCh := none, swapOk := o.swapOk && decide (2 < o.swapStage)
                                 swapStage := if o.swapStage < 2 then 0 else if o.swapStage = 2 then swapResumed else o.swapStage }

/-- The message ends ABORTED (R334, R343); its thread goes back to rest and what waits for its commit is
dropped. -/
def State.abortMsg (s : State) (c cause : Nat) : State :=
  let m := s.chan c
  let s := (s.detach c).onChan c fun m => { m with st := .aborted, up := List.replicate 16 0, reply := none, aborts := sat 0xFF m.aborts 1 }
  let s := s.onMbx fun b => { b with work := b.work.filter fun w => match w with
    | .quota k _ _ _ _ _ _ _ => k != c
    | .destroy k _ => k != c
    | .reset k _ => k != c
    | .snapshot k _ _ _ => k != c
    | .copying k _ _ _ _ => k != c
    | .reading k _ _ _ _ _ => k != c
    | .rotate k _ => k != c
    | .restore _ => true }
  let s := (s.dropExercise c).mbxLog 0x0922 c (b2n m.applied) cause
  let s := s.notifyOut c 1
  let roots := (List.range 64).filter fun t => ((s.ory.threads[t]?).map (·.work)) == some (.message c)
  roots.foldl (fun s t => s.freeGroup t) s

/-- The reply of a message is known: result, detail and the words after word 1 (R329, R336). -/
def State.replyRes (s : State) (c res det : Nat) (words : List W32) : State :=
  if (s.chan c).st == .busy then s.onChan c fun m => { m with reply := some (BitVec.ofNat 32 (res + 256 * det) :: words) } else s

/-- The words of a reply from word 0 on, a result other than OK with length 1 (R329, R336); FAILED replies of
FW_STAGE and FW_SWAP keep their words (R337). -/
def State.replyWords (s : State) (c : Nat) (ws : List W32) : List W32 :=
  let m := s.chan c
  let res := (ws.headD 0).toNat % 256
  let up := ((msgTypeOf m.type).map (·.up)).getD 1
  let full := res = 0 || (res = 0x0D && (m.type = mStage || m.type = mSwap))
  let n := if full then up else 1
  let body := (ws ++ List.replicate 16 0).take n
  BitVec.ofNat 32 ((m.type ||| 0x800) + 4096 * s.chanVersion c + 65536 * m.seq + 2 ^ 24 * n) :: body ++ List.replicate (15 - n) 0

/-- MAILBOX_REPLY: the reply is written to MB_UP and the state becomes DONE with its last word (R331, R343). -/
def State.reply (s : State) (c : Nat) : State :=
  let m := s.chan c
  match m.reply with
  | none => s
  | some ws =>
    let res := (ws.headD 0).toNat % 256
    let s := s.onChan c fun x => { x with
      up := s.replyWords c ws, st := .done, reply := none, completed := sat 0xFFFF x.completed 1
      refused := sat 0xFF x.refused (b2n (res != 0)) }
    let s := if c < 16 ∧ res ≠ 0 then s.mbxLog 0x0921 c res ((ws.headD 0).toNat / 256 % 256) else s
    let s := s.notifyOut c 0
    let roots := (List.range 64).filter fun t => ((s.ory.threads[t]?).map (·.work)) == some (.message c)
    roots.foldl (fun s t => s.freeGroup t) s

/-- MAILBOX_REPLY: a message in BUSY whose reply is known ends; in the SWAP pause it waits, but for the FW_SWAP
itself (R244, R331, R334, R336). -/
def execMailboxReply (c : Nat) (s : State) : Out :=
  .next (if s.live && (!s.paused || s.ory.swapCh == some c) && s.carried (.message c) && (s.chan c).st == .busy then s.reply c else s)

/-! ### Acceptance (R330, R334) -/

/-- An outcome is consumed: the up words are zeroed. -/
def State.ackChan (s : State) (c : Nat) : State :=
  match (s.chan c).st with
  | .pending => s
  | .busy => s
  | _ => (s.onChan c fun m => { m with st := .idle, up := List.replicate 16 0 }).wakeLevel

/-- W2 of a STATUS reply (R337). -/
def State.modeWord (s : State) : Nat := s.blk.mode.code + 16 * s.blk.lifecycle.toNat + 256 * s.blk.reason.code

/-- SCH_CAPACITY (R124). -/
def State.capacityWord (s : State) : Nat :=
  let n (l : List UnitId) : Nat := countP l fun u => !s.eclipsed u
  sumBy (List.range 4) (fun q => if s.quadGated q then 2 ^ (28 + q) else 0)
    + 2 ^ 23 * n allMacus + 2 ^ 17 * n allEngines + 4096 * s.sch.laneCap + 128 * n allLanes

/-- The words of a STATUS reply. -/
def State.statusWords (s : State) (c : Nat) : List W32 :=
  let w4 := if c < 16 then s.capacityWord else ((s.part (c - 16)).map s.partWord).getD 0
  [s.modeWord, s.sch.tick, w4].map (BitVec.ofNat 32)

/-- A failing check: result and detail (R335). -/
abbrev Refuse := Option (Nat × Nat)

def refuseIf (b : Bool) (res : Nat) (det : Nat := 0) : Refuse := if b then some (res, det) else none

def rBadField : Nat := 0x0A

/-- Step 1 of R339: the version field (R335). -/
def State.chkVersion (s : State) (c : Nat) (m : Mbx) : Refuse :=
  let v := s.chanVersion c
  let f := fld (m.word 0) 12 4
  refuseIf (if v = 0 then !(f == 1 || f == 2) else f != v) rBadField

/-- Mode control answers a STATUS, its version and its reserved bits checked (R334, R339). -/
def State.statusReply (s : State) (c : Nat) : State :=
  let m := s.chan c
  let s := s.onChan c fun m => { m with st := .busy }
  (match s.chkVersion c m <|> refuseIf (fld (m.word 0) 28 4 != 0) rBadField with
    | some r => s.replyRes c r.1 r.2 []
    | none => s.replyRes c 0 0 (s.statusWords c)).reply c

/-- A message starts: the down words are latched and the message is checked at once; violation 0x0506's record has value 0
(R330, R334, R414, log 82). -/
def State.goChan (s : State) (c : Nat) (db : Bool) : State :=
  match (s.chan c).st with
  | .pending => s
  | .busy => s
  | _ =>
    let v := s.chanVersion c
    let s := s.ackChan c
    let s := s.onChan c fun m => { m with msg := m.down, applied := false, reply := none, order := s.mbx.order
                                          compat := decide (16 ≤ c) && (v == 1 || (v == 0 && db)) }
    let s := s.onMbx fun b => { b with order := b.order + 1 }
    let m := s.chan c
    let mode := s.blk.mode
    let status := c == 0 && m.type == mStatus
    let early := mode == .seeding || mode == .containment
    if mode == .dormant || mode == .charterLoad || (early && !status) then s.abortMsg c 1
    else if c ≥ 16 && s.partState (c - 16) == .resetting then s.abortMsg c 3
    else if c ≥ 16 && s.partState (c - 16) == .absent then s.abortMsg c 4
    else match msgTypeOf m.type with
      | some t =>
        if t.down ≠ fld (m.word 0) 24 4 then
          let s := s.onChan c fun m => { m with st := .rejected, aborts := sat 0xFF m.aborts 1 }
          (s.violation 0x0506 (uidMbx c) (if c < 16 then noPart else c - 16) none false 0
            (if c < 16 then 0 else s.fidOf (c - 16))).notifyOut c 2
        else if early then s.statusReply c
        else s.onChan c fun m => { m with st := .pending }
      | none => s.onChan c fun m => { m with st := .pending }

/-! ### Register writes of a channel (R326, R328, R433, R434) -/

def mbxAddr (c off : Nat) : Nat := 0x100000 + 0x100 * c + off

/-- The access may write the channel: privileged accesses a management channel, the bound function its
partition's. -/
def State.mayMail (s : State) (who : Accessor) (c : Nat) : Bool :=
  if c < 16 then who.priv else !who.priv && s.partOfFid who.fid == some (c - 16)

/-- In CONTAINMENT only channel 0's MB_DOWN and MB_CTRL are written, with a STATUS message (R367). -/
def State.mailOpen (s : State) (c off : Nat) : Bool :=
  s.portOpen && decide (c < 1040) && (s.blk.mode != .containment || (c == 0 && decide (off ≤ 0x80)))

/-- A write to a channel's register: dropped, refused, or acted on. A privileged write to a partition's channel is refused at
the down registers alone, and has no effect at any other (R326, R434; log 61). -/
def State.mailWrite (s : State) (who : Accessor) (c off : Nat) (go : State → State) : State :=
  let down := off < 0x40 || (0x80 ≤ off && off < 0x88)
  if !s.mailOpen c off || (who.priv && decide (16 ≤ c) && !down) then s
  else if !s.mayMail who c then (if s.blk.mode == .containment then s else s.refuse who (mbxAddr c off) none)
  else go s

/-- A write of MB_CTRL. In CONTAINMENT a go acts only on a STATUS message (R367). -/
def State.ctrlWrite (s : State) (c : Nat) (v : W32) : State :=
  let stop := s.blk.mode == .containment && v.getLsbD 31 && fld ((s.chan c).down.getD 0 0).toNat 0 12 != mStatus
  if stop then s
  else
    let s := s.onChan c fun m => { m with notify := v.getLsbD 29 }
    (if v.getLsbD 31 then s.goChan c false else if v.getLsbD 30 then s.ackChan c else s).wakeLevel

/-- GO: a write of MB_CTRL with go set (R330). -/
def execGo (who : Accessor) (c : Nat) (v : W32) (s : State) : Out :=
  .next (State.wrote (s.mailWrite who c 0x80 fun s => if v.getLsbD 31 then s.ctrlWrite c v else s))

/-- ACK: a write of MB_CTRL with ack set and go clear (R328, R330). -/
def execAck (who : Accessor) (c : Nat) (v : W32) (s : State) : Out :=
  .next (State.wrote (s.mailWrite who c 0x80 fun s => if v.getLsbD 30 && !v.getLsbD 31 then s.ctrlWrite c v else s))

/-- MB_DB_DOWN acts on a partition channel whose version is 0 or 1 (R55, R333). -/
def State.dbDown (s : State) (who : Accessor) (c : Nat) (act : State → State) : State :=
  s.mailWrite who c 0x84 fun s => if 16 ≤ c ∧ s.chanVersion c < 2 then act s else s

/-- COMPAT_DOORBELL_MSG (R55, R333). -/
def execCompatDoorbellMsg (who : Accessor) (c : Nat) (s : State) : Out := .next (State.wrote (s.dbDown who c fun s => s.goChan c true))

/-- COMPAT_DOORBELL_ACK (R333). -/
def execCompatDoorbellAck (who : Accessor) (c : Nat) (s : State) : Out := .next (State.wrote (s.dbDown who c fun s => s.ackChan c))

/-- MB_DB_MASK_CLEAR: a write of MB_DB_MASK; an interrupt issues when a mask bit is cleared whose MB_DB_UP bit is
1 (R333). -/
def execMbDbMaskClear (who : Accessor) (c : Nat) (v : W32) (s : State) : Out :=
  .next (State.wrote (s.mailWrite who c 0x8C fun s =>
    let m := s.chan c
    let hit := m.dbMask &&& ~~~v &&& m.dbUp.setWidth 32
    let s := s.onChan c fun m => { m with dbMask := v }
    if hit = 0 then s else s.mbxIrq c))

/-- BLOCK_MODE has changed: the mode bit is set on every channel under compatibility notification (R333). -/
def State.modeChanged (s : State) : State :=
  (s.prt.parts.filter fun x => x.2.mbxVer == 1).foldl (fun s x => s.dbSet (16 + x.1) 3) s

/-- A partition's channel is cleared: a message in progress ends ABORTED, a reply not acknowledged is discarded
(R318, R334). -/
def State.clearChan (s : State) (p : Nat) : State :=
  let c := 16 + p
  match (s.chan c).st with
  | .pending => s.abortMsg c 3
  | .busy => s.abortMsg c 3
  | .done => s.onChan c fun m => { m with st := .idle, up := List.replicate 16 0 }
  | _ => s

end Sys2Proof.Machine
end

