-- ==== Sys2Proof/Machine/Recovery.lean ====
section
/-! DEFINITION. Faults of units: the retry rule, transients, self-test, eclipse and quadrant loss (R14,
R154, R156, R195 to R197, R204, R222, R223, R306 to R312). -/

namespace Sys2Proof.Machine

/-! ### Faults -/

/-- The code of a fault (R306). -/
def faultCode : FaultKind → Nat
  | .lockstep => 1 | .laneEcc => 2 | .engineEcc => 3 | .dualMismatch => 4 | .macuParity => 5

/-- The unit that a fault kind names. -/
def faultUnit (k : FaultKind) (n : Nat) : UnitId :=
  match k with
  | .lockstep => .lane n
  | .laneEcc => .lane n
  | .engineEcc => .engine n
  | _ => .macu n

/-- The units charged with a fault (R306). -/
def chargedUnits (k : FaultKind) (n : Nat) (g : Grant) : List UnitId :=
  match k with
  | .lockstep => g.units
  | .dualMismatch => g.units
  | k => [faultUnit k n]

/-- A fault can strike the grant: its unit is one of the grant's, and a comparison needs a pair. -/
def strikes (f : UnitFault) (g : Grant) : Bool :=
  g.id == f.link && g.units.contains (faultUnit f.kind f.unit)
    && (match f.kind with
      | .lockstep => g.pair
      | .dualMismatch => g.pair
      | _ => true)

/-! ### Self-tests due, eclipses (R309 to R311) -/

/-- A unit is due for a self-test tick, as after a failed retry with the fault detail given (R309). -/
def State.markDue (s : State) (det : Nat) (u : UnitId) : State :=
  if s.eclipsed u then s else s.onUnit u fun x => { x with due := true, dueRetry := true, dueDet := det }

/-- Eclipse a unit, with the record of its cause; without a quadrant or an Orrery core left the block goes to
CONTAINMENT at the next boundary (R309 to R314). -/
def State.eclipse (s : State) (u : UnitId) (code : Nat) : State :=
  let s := s.onUnit u fun x => { x with ecl := true, eclPend := none, eclDue := false, due := false, dueRetry := false, inTest := false,
                                        atCut := false, tested := none, exPass := false }
  let s := match u with
    | .drbgCore c => s.onEnt fun e =>
        let items := ((e.cores[c]?).map DCore.items).getD []
        { e with cores := updAt (updAt e.cores c fun (d : DCore) => { d with items := [] }) (1 - c) fun (d : DCore) => { d with items := d.items ++ items } }
    | _ => s
  let s := (s.onSch fun c => { c with recompute := true }).log code (uid u) noPart
  if allQuads.all (fun v => (s.unitSt v).ecl) || allCores.all fun v => (s.unitSt v).ecl then s.cause .noCapacity code else s

/-! ### The retry rule (R306 to R308) -/

/-- The class of a unit's grants: 0 LANE, 1 MACU, 2 DIGEST (R110). -/
def classOf : UnitId → Nat
  | .lane _ => 0
  | .macu _ => 1
  | _ => 2

/-- What a grant charges its partition: twice the cost on a pair, one engine-tick for a new binding or a
digest slot (R111, R209). -/
def Grant.charge (g : Grant) : Nat :=
  match g.unit with
  | .engine _ => if g.cont then 0 else 1
  | _ => if g.pair then 2 * g.cost else g.cost

/-- A grant of the coming set that does not issue is not charged: what the floor pass took from dc returns
(R307). -/
def State.refund (s : State) (g : Grant) : State :=
  if g.lending || g.win then s
  else s.onPart g.part fun p => { p with dc := updAt p.dc (classOf g.unit) fun n => n + g.charge }

/-- Withdraw a link's grants from the running and the coming set (R307). -/
def State.withdraw (s : State) (id : LinkId) : State :=
  let s := (s.sch.plan.filter fun g => g.id == id).foldl (fun s g => s.refund g) s
  s.onSch fun c => { c with plan := c.plan.filter (fun g => g.id != id), running := c.running.filter fun g => g.id != id }

/-- The work of a link goes back to where its retry begins: a lane segment to its saved context, a digest
message to its first byte, a job, wiped, to its preparation with new draws (R154, R197, R206, R223, R224, R307; log 39). -/
def State.rewind (s : State) (id : LinkId) : State :=
  match s.link id with
  | none => s
  | some (_, l) =>
    let h := l.hdr
    if isLane h.opcode then s
    else if isDigest h.opcode then
      let held := h.inl || h.bufSrc
      let s := (s.unbind id).discardReads (isLinkRead id)
      let s := s.onLink id fun l =>
        { l with pos := 0, seg := 0, eligAt := l.eligAt.map fun e => (0, e.2), absDone := false, squeezed := 0, outPos := 0, output := [],
                 source := if held then l.source else [], chunks := [], rdPos := if held then l.rdPos else 0,
                 poisoned := if held then l.poisoned else [] }
      s.readNext id 0
    else match l.job with
      | none => s
      | some j =>
        let s := (s.unbind id).onDat fun d => { d with macus := d.macus.map fun m => m.wipe id }
        let s := s.onOry fun o => { o with shmem := wipeBuffers j.buffers o.shmem }
        s.onLink id fun l =>
          { l with drawn := [], fallback := false, seg := 0, eligAt := l.eligAt.map fun e => (0, e.2), prepAt := none
                   source := if h.inl || h.bufSrc then l.source else []
                   job := some { j with elems := [], valid := 0, elemNo := 0, alt := none, built := false, macu := none, held := []
                                        source := [], ops := [], extRec := [], stale := true } }

/-- A retry that succeeded: the link is marked, and the units charged wait for the link's end (R308). -/
def State.retryOk (s : State) (id : LinkId) : State :=
  s.onLink id fun l => if !l.retryUsed then l else
    { l with retried := true, retryDue := false, retryUsed := false, excluded := [], charged := [], healed := l.healed ++ [l.charged] }

/-- A retry that faulted too, or could not be placed: HW_FAULT with detail RETRY_FAILED, record 0x0302, and
the units go to self-test (R308, R309). -/
def State.retryFailed (s : State) (id : LinkId) (units : List UnitId) (src : Nat) : State :=
  match s.link id with
  | none => s
  | some (q, l) =>
    let all := (l.excluded ++ units).eraseDups
    let s := s.onSch fun c => { c with retryFail := sat 0xFFFF c.retryFail 1 }
    let s := s.onLink id fun l => { l with retried := l.retried || l.retryUsed }
    let s := s.logReq 0x0302 src q.part id.ring id.idx id.link
    let s := (s.withdraw id).endLink id (stHwFault 1)
    all.foldl (fun s u => s.markDue l.retryDet u) s

/-- Work lost with detail `det` on the units given enters the retry rule, or fails where it has had its retry
(R307, R309). -/
def State.enterRetry (s : State) (id : LinkId) (det : Nat) (units charged : List UnitId) : State :=
  match s.link id with
  | none => s
  | some (_, l) =>
    if l.stat.isSome then s
    else if l.retryUsed then s.retryFailed id units (uid (charged.headD (.lane 0)))
    else
      let s := s.withdraw id
      let s := s.onLink id fun l => { l with retryDue := true, retryDet := det, excluded := units, charged := charged }
      s.rewind id

/-- The engines that a link binds. -/
def State.boundEngines (s : State) (id : LinkId) : List Nat :=
  (s.dat.engines.zipIdx.filter fun e => e.1.bound == some id).map (·.2)

/-- Every unit of the first run of a grant's work, which the retry excludes: for a job its MACU or pair too, and every
engine of a digest slot (R223, R307). -/
def State.firstRun (s : State) (g : Grant) : List UnitId :=
  let more := match (s.link g.id).bind fun x => x.2.job with
    | none => []
    | some j => (match j.macu with
        | some n => if j.dual then [.macu n, .macu (mate n)] else [.macu n]
        | none => []) ++ (s.sch.running.filter fun h => h.id == g.id).map (·.unit) ++ (s.boundEngines g.id).map .engine
  (g.units ++ more).eraseDups

/-- The output beats of a struck segment that left its unit before the clock of detection stand: `n` bytes of what it
writes to memory (R154, R156, R196). The retry writes them again. -/
def State.beatsBefore (s : State) (g : Grant) (n : Nat) : State :=
  match s.link g.id with
  | none => s
  | some (_, l) =>
    if n = 0 || l.stat.isSome || l.job.isSome || l.hdr.bufDst || s.inlineDst l g.id then s
    else
      let b := (l.masked (s.segOut g l) l.badByte).take n
      let p := if g.zero then l.zeroPos.getD 0 else l.outPos
      (s.emitAt g.id p b l.badByte false).onLink g.id fun y => { y with unitHold := l.unitHold }

/-- A fault of R306 strikes a running grant: counted, recorded, and the work enters the retry rule. A command that runs a
grant ends it, so its faults come before that command (log 5). -/
def State.strike (s : State) (f : UnitFault) (g : Grant) : State :=
  let u := faultUnit f.kind f.unit
  let s := match f.kind with
    | .laneEcc => s.onUnit u fun x => { x with ecc2 := sat 0xFFFF x.ecc2 1 }
    | .engineEcc => s.onUnit u fun x => { x with ecc2 := sat 0xFFFF x.ecc2 1 }
    | .macuParity => s.onUnit u fun x => { x with ecc1 := sat 0xFFFF x.ecc1 1 }
    | .dualMismatch => s.onUnit g.leads fun x => { x with ecc2 := sat 0xFFFF x.ecc2 1 }
    | .lockstep => s
  let c := faultCode f.kind
  let s := s.logReq (0x0200 + c) (uid u) g.part g.id.ring g.id.idx g.id.link
  ((s.stopBatch g.id).beatsBefore g f.before).enterRetry g.id c (s.firstRun g) (chargedUnits f.kind f.unit g)

/-- The faults that the outside brings to the tick strike the grants they name (R306). -/
def State.strikeAll (s : State) (fs : List UnitFault) : State :=
  fs.foldl (fun s f => match s.sch.running.find? (strikes f) with
    | none => s
    | some g => s.strike f g) s

/-- COMMAND_FAULT: a command fault stops the batch at once; the job enters the retry rule as MACU_PARITY
(R204, R306). -/
def execCommandFault (u : Nat) (s : State) : Out :=
  .next (match (s.dat.macus[u]?).bind (·.batch) with
    | none => s
    | some id => match s.sch.running.find? fun g => g.id == id && g.units.contains (.macu u) with
      | none => s
      | some g => if s.serving then s.strike ⟨.macuParity, u, id, 0⟩ g else s)

/-! ### Self-test (R309, R311) -/

/-- The unit holds a binding, pinned jobs, threads, items or requests with affinity (R310, R311). A DRBG core that is to be
eclipsed waits for the items alone that it had begun then. -/
def State.holdsState (s : State) (u : UnitId) : Bool :=
  match u with
    | .lane _ => false
    | .engine n => ((s.dat.engines[n]?).bind (·.bound)).isSome
    | .macu n => (((s.dat.macus[n]?).map (·.regions)).getD []).any (·.isSome)
    | .quad q => (s.rng.reqs.any fun r => r.quad == some q)
        || s.dat.engines.zipIdx.any fun e => e.2 / 8 == q && e.1.bound.isSome
    | .oryCore c => s.ory.threads.zipIdx.any fun t => t.2 / 16 == c && (match t.1.work with
        | .message _ => t.1.st != .ended
        | _ => if s.poolThread t.2 then t.1.st != .ended else t.1.st == .running)
    | .drbgCore c =>
      let d := (s.ent.cores[c]?).getD {}
      if d.u.eclPend.isSome then d.items.any fun x => modSub d.eclTick x.first (2 ^ 32) < 2 ^ 31 else !d.items.isEmpty
    | .scintilla => false

/-- Work held in a unit that failed its self-test enters the retry rule (R309). -/
def State.loseHeld (s : State) (u : UnitId) (det : Nat) : State :=
  match u with
  | .engine n => match (s.dat.engines[n]?).bind (·.bound) with
    | some id => s.enterRetry id det [u] [u]
    | none => s
  | .macu n =>
    ((((s.dat.macus[n]?).map (·.regions)).getD []).filterMap id).eraseDups.foldl (fun s id =>
      let dual := (((s.link id).bind fun x => x.2.job).map (·.dual)).getD false
      let us := if dual then [.macu n, .macu (mate n)] else [u]
      s.enterRetry id det us [u]) s
  | _ => s

/-- A quadrant or core whose power is not acknowledged (R405). -/
def State.unpowered (s : State) (u : UnitId) : Bool :=
  match u with
  | .quad q => !s.io.quadAck.getD q false
  | .oryCore c => !s.io.oryAck.getD c false
  | _ => false

/-- The unit's domain is without power: its quadrant is gated, or its core sleeps (R405). -/
def State.unlit (s : State) (u : UnitId) : Bool :=
  match u with
  | .oryCore c => !s.io.oryAck.getD c false || !((s.ory.cores[c]?).map (·.awake)).getD false
  | .drbgCore _ => false
  | .scintilla => false
  | u => s.quadGated (quadOf u) || !s.io.quadAck.getD (quadOf u) false

/-- SELF_TEST: the unit's known-answer test gives its result, in its self-test tick or, for an eclipsed unit
that is exercised, at once (R309, R311). A self-test of start-up is not counted and a pass writes no record (R325, R360,
log 31). -/
def execSelfTest (u : UnitId) (pass : Bool) (s : State) : Out :=
  let x := s.unitSt u
  let start := s.blk.mode == .seeding
  let pass := pass && !(start && s.unpowered u)
  .next (
    if !s.live || x.tested.isSome || !(x.inTest || (x.ecl && !x.exer.isEmpty)) || (!start && s.unlit u) then s
    else if start then
      let s := s.onUnit u fun x => { x with tested := some pass }
      if pass then s else s.log 0x0304 (uid u) noPart
    else
      let s := s.onUnit u fun x =>
        { x with tested := some pass, stPass := sat 0xFF x.stPass (b2n pass), stFail := sat 0xFF x.stFail (b2n !pass) }
      let s := s.onSch fun c => { c with stPassed := sat 0xFF c.stPassed (b2n pass), stFailed := sat 0xFF c.stFailed (b2n !pass) }
      s.log (if pass then 0x0303 else 0x0304) (uid u) noPart)

/-- The detail that the held work of a unit takes where its self-test was an exercise alone (R309). -/
def exerciseDetail : UnitId → Nat
  | .lane _ => 2
  | .engine _ => 3
  | _ => 5

/-- At the boundary after a self-test: the unit returns and counts its transient, but for a test of start-up (log 31) and an
eclipsed unit's (log 79), or is eclipsed, and exercises are answered (R309, R311). -/
def State.testEnd (s : State) (u : UnitId) : State :=
  let x := s.unitSt u
  match x.tested with
  | none => s
  | some ok =>
    let s := x.exer.foldl (fun s c => if ok then s.replyRes c 0 0 [1] else s.replyRes c 0x0D 0 []) s
    let s := s.onUnit u fun y => { y with inTest := false, tested := none, exer := [], dueRetry := y.dueRetry && y.due,
                                          exPass := if x.ecl then ok else y.exPass }
    if ok then if x.inTest && s.blk.mode != .seeding then s.transient u else s
    else if x.ecl then s
    else
      let det := if x.dueDet = 0 then exerciseDetail u else x.dueDet
      (s.eclipse u 0x0402).loseHeld u det

/-- Every unit's self-test ends that has its result. -/
def State.testsEnd (s : State) : State := allUnits.foldl (fun s u => s.testEnd u) s

/-- At a cut: units due, and units to be exercised that hold no state, take the coming tick for their
self-test, once their domain has power; a core that sleeps is woken for it (R309, R311, R405; log 110). -/
def State.testsCut (s : State) : State :=
  allUnits.foldl (fun s u =>
    let x := s.unitSt u
    let s := match u with
      | .oryCore c => if !x.exer.isEmpty && s.unlit u then s.wakeReq c else s
      | _ => s
    if x.ecl || x.inTest || s.unlit u then s
    else if x.due || (!x.exer.isEmpty && !s.holdsState u) then
      s.onUnit u fun y => { y with atCut := true, due := false }
    else s) s

/-- At the boundary: the self-test ticks fixed at the cut begin. -/
def State.testsBegin (s : State) : State :=
  allUnits.foldl (fun s u => if (s.unitSt u).atCut then s.onUnit u fun x => { x with atCut := false, inTest := true } else s) s

/-! ### Eclipses without loss (R310, R311) -/

/-- A static thread's new seat: the lowest-numbered free pool thread of the lowest-numbered core in service (R311, R313). -/
def State.freeSeat (s : State) : Option Nat :=
  let up (c : Nat) : Bool := !(s.unitSt (.oryCore c)).ecl
  ((List.range 4).find? up).bind fun c =>
    (List.range 64).find? fun t => t / 16 == c && s.poolThread t && (s.thread t).st == .ended && !(s.thread t).stopped

/-- Static thread h goes from thread a to thread b: with its state, or where it has ended to its entry point (R311,
R313). -/
def State.seat (s : State) (h a b : Nat) : State :=
  let s' := s.onOry fun o => { o with statics := if b = h then mdel o.statics h else mset o.statics h b }
  if (s.thread a).st == .ended then s'.onThread b fun _ => s'.restThread b else s'.moveThread a b

/-- The static threads that sit on cores out of service take new seats, as far as there are any (R311, R313). -/
def State.seatStatics (s : State) : State :=
  (List.range 64).foldl (fun s h =>
    let a := (mget s.ory.statics h).getD h
    if !s.staticHome h || !(s.unitSt (.oryCore (a / 16))).ecl then s
    else match s.freeSeat with
      | none => s
      | some b => s.seat h a b) s

/-- The static threads of a core that is restored return to it with their state, and the pool has their seats back
(log 111). -/
def State.restoreCore (s : State) (c : Nat) : State :=
  (List.range 16).foldl (fun s i =>
    let h := 16 * c + i
    match mget s.ory.statics h with
    | some b => s.seat h b h
    | none => if s.staticHome h && (s.thread h).st == .ended then s.onThread h fun _ => s.restThread h else s) s

/-! ### Quadrant loss (R312) -/

/-- A link that has not completed loses its quadrant: HW_FAULT with detail QUADRANT_LOST, whatever was known of its result,
and the later links are abandoned, those already granted too. Writes of theirs that have not issued never issue, those that
have are awaited, and their buffers are wiped (R14, R84, R88, R279, R312). -/
def State.loseLink (s : State) (id : LinkId) : State :=
  match s.req id.ring id.idx with
  | none => s
  | some q =>
    let ids := ((List.range q.links.length).filter (id.link ≤ ·)).map q.linkId
    let s := s.onWrites fun w => if !w.issued && (ids.any fun i => isLinkWrite i w.purpose) then none else some w
    let s := ids.foldl (fun s i => s.withdraw i) s
    let s := s.forceFrom q id.link fun i => if i = id.link then stHwFault 2 else stAbandoned id.link
    if s.dataWaits id then s.onLink id fun l => { l with stamp := none } else s

/-- The work of a lost quadrant's key-staging unit goes on at that of the lowest-numbered quadrant in service (R312). -/
def State.restage (s : State) (q : Nat) : State :=
  let other := ((List.range 4).find? fun n => !(s.unitSt (.quad n)).ecl).getD 0
  s.onKey fun k => { k with jobs := k.jobs.map fun v => if v.quad == q then { v with quad := other } else v }

/-- QUADRANT_LOSS: the quadrant is eclipsed at once; every request with affinity has its first link that has not completed
complete HW_FAULT with detail QUADRANT_LOST (R14, R312). -/
def execQuadrantLoss (q : Nat) (s : State) : Out :=
  .next (
    if !s.live || q ≥ 4 || (s.unitSt (.quad q)).ecl then s
    else
      let s := (s.log 0x0206 (uidQuad q) noPart).eclipse (.quad q) 0x0403
      let hit := s.rng.reqs.filter fun r => r.quad == some q
      let s := hit.foldl (fun s r =>
        match r.links.zipIdx.find? fun l => !l.1.recorded && !s.linkDone (r.linkId l.2) l.1 with
        | none => s
        | some l => s.loseLink (r.linkId l.2)) s
      let s := s.onDat fun d => { d with
        macus := d.macus.zipIdx.map fun m =>
          if m.2 / 4 == q then { m.1 with mem := [], loadQ := [], storeQ := [], acc := 0, vec := List.replicate 16 0
                                          batch := none, regions := [none, none, none, none] } else m.1
        compare := d.compare.filter fun w => w.lead / 4 != q }
      s.restage q)

end Sys2Proof.Machine
end

