-- ==== Sys2Proof/Machine/MacuOps.lean ====
section
/-! DEFINITION. The MACU commands (R201 to R204). They act on the batch in progress on a MACU; a command
that breaks R204 is a command fault. -/

namespace Sys2Proof.Machine

def Macu.word (m : Macu) (a : Nat) : BitVec 256 := (mget m.mem a).getD 0

/-- Write an operand word; a word that is 0 is not listed. -/
def Macu.put (m : Macu) (a : Nat) (w : BitVec 256) : Macu :=
  { m with mem := if w = 0 then mdel m.mem a else mset m.mem a w }

/-- The address lies in a region that the batch's job holds (R204). -/
def Macu.holdsAddr (m : Macu) (a : Nat) : Bool :=
  match m.batch with
  | none => false
  | some id => (m.regions.getD (a / 256) none) == some id

/-- A vector address is even and the pair of words lies in the job's regions. -/
def Macu.vecAddr (m : Macu) (a : Nat) : Bool := a % 2 == 0 && m.holdsAddr a && m.holdsAddr (a + 1)

/-- Lane i of a pair of words: 32 bits (R201). -/
def Macu.vlane (m : Macu) (a i : Nat) : Nat := ((m.word (a + i / 8)).toNat >>> (32 * (i % 8))) % 2 ^ 32

/-- Eight lanes as a word. -/
def laneWord (f : Nat → Nat) (k : Nat) : BitVec 256 :=
  BitVec.ofNat 256 ((List.range 8).foldl (fun n i => n + (f (8 * k + i) % 2 ^ 32) * 2 ^ (32 * i)) 0)

/-- Write the sixteen lanes of a pair of words. -/
def Macu.putLanes (m : Macu) (a : Nat) (f : Nat → Nat) : Macu := (m.put a (laneWord f 0)).put (a + 1) (laneWord f 1)

/-- A command on MACU u: without a batch in progress it does not arise; where it breaks R204 it is a command
fault. -/
def State.macuCmd (s : State) (u : Nat) (ok : Macu → Bool) (f : Macu → Macu) : Out :=
  match s.dat.macus[u]? with
  | none => .next s
  | some m =>
    if m.batch.isNone || !s.serving then .next s
    else if ok m then .next (s.onDat fun d => { d with macus := updAt d.macus u f })
    else execCommandFault u s

/-- A batch is in progress on MACU u. -/
def State.batchOn (s : State) (u : Nat) : Bool :=
  s.serving && match s.dat.macus[u]? with
    | none => false
    | some m => m.batch.isSome

/-! ### DUAL copies (R208, R222) -/

/-- The job in progress on MACU u where it runs there under DUAL, and whether the copy is the leader's. -/
def State.dualOn (s : State) (u : Nat) : Option (LinkId × Bool) :=
  ((s.dat.macus[u]?).bind (·.batch)).bind fun id =>
    (s.sch.running.find? fun g => g.id == id && g.pair && g.units.contains (.macu u)).map fun g => (id, g.leads == .macu u)

/-- What the comparator holds of the leader for the follower's next word. -/
def State.leaderWord (s : State) (u : Nat) (id : LinkId) : Option Compare :=
  s.dat.compare.find? fun w => w.id == id && w.lead == mate u

/-- A command that puts out the words `out`: alone it acts by `f`. Under DUAL the leader's words are kept for comparison;
the follower's are compared with them, and where they differ both copies stop; a follower's command comes after its
leader's, and without that does not arise. `n` is the free value of the command, `g` what follows an equal comparison. -/
def State.macuOut (s : State) (u n : Nat) (ok : Macu → Bool) (out : Macu → Nat → List (BitVec 256)) (f : Macu → Nat → Macu)
    (g : Dat → Dat := id) : Out :=
  match s.dualOn u, s.dat.macus[u]? with
  | some (id, lead), some m =>
    if !ok m || !s.serving then s.macuCmd u ok fun m => f m n
    else if lead then (s.onDat fun d => { d with compare := d.compare ++ [⟨id, u, out m n, n⟩] }).macuCmd u ok fun m => f m n
    else match s.leaderWord u id with
      | none => .next s
      | some w =>
        if out m w.free = w.words then
          (s.onDat fun d => g { d with compare := d.compare.erase w }).macuCmd u ok fun m => f m w.free
        else match s.sch.running.find? fun x => x.id == id && x.pair with
          | none => .next s
          | some x => .next (s.strike ⟨.dualMismatch, u, id, 0⟩ x)
  | _, _ => s.macuCmd u ok fun m => f m n

/-- MAC: A ← A ± M[a] × M[b] (R203). -/
def execMac (u : Nat) (mod : BitVec 4) (a b : BitVec 10) (s : State) : Out :=
  s.macuCmd u (fun m => m.holdsAddr a.toNat && m.holdsAddr b.toNat) fun m =>
    let p := BitVec.ofNat 576 ((m.word a.toNat).toNat * (m.word b.toNat).toNat)
    let x := if mod.getLsbD 0 then 0 else m.acc
    { m with acc := if mod.getLsbD 1 then x - p else x + p }

/-- SHIFT: M[b] ← A[255:0], A ← A >> 256; the word that leaves A is compared under DUAL, a discarded one too (R203, R222). -/
def execShift (u : Nat) (mod : BitVec 4) (b : BitVec 10) (s : State) : Out :=
  s.macuOut u 0 (fun m => mod.getLsbD 0 || m.holdsAddr b.toNat) (fun m _ => [m.acc.setWidth 256]) fun m _ =>
    let m := if mod.getLsbD 0 then m else m.put b.toNat (m.acc.setWidth 256)
    { m with acc := m.acc >>> 256 }

/-- The oldest word of the load queue, for the job in progress. -/
def Macu.loadWord (m : Macu) : Option (LinkId × BitVec 256) := m.loadQ.find? fun w => some w.1 == m.batch

/-- LOAD: M[b] ← the next word of the load queue (R203). What the job's thread puts into the queue the spec
does not publish; where the model's queue is empty the word is a free value (log 6), under DUAL the same for both
copies (R222). -/
def execLoad (u : Nat) (b : BitVec 10) (s : State) : Out :=
  let none' := ((s.dat.macus[u]?).map fun m => m.loadWord.isNone) == some true
  let d := if s.batchOn u && none' then s.draw 6 else (0, s)
  let w := BitVec.ofNat 256 d.1
  let s := match s.dualOn u, none' with
    | some (id, true), true => d.2.onDat fun x => { x with macus := updAt x.macus (mate u) fun m => { m with loadQ := m.loadQ ++ [(id, w)] } }
    | _, _ => d.2
  s.macuCmd u (fun m => m.holdsAddr b.toNat) fun m =>
    match m.loadWord with
    | some x => { m.put b.toNat x.2 with loadQ := m.loadQ.erase x }
    | none => m.put b.toNat w

/-- STORE: store queue ← M[a]; under DUAL the word enters the leader's queue once the follower's equals it (R203, R222). -/
def execStore (u : Nat) (a : BitVec 10) (s : State) : Out :=
  let push (id : LinkId) (w : BitVec 256) (m : Macu) : Macu := { m with storeQ := m.storeQ ++ [(id, w)] }
  let dual := (s.dualOn u).isSome
  s.macuOut u 0 (fun m => m.holdsAddr a.toNat) (fun m _ => [m.word a.toNat])
    (fun m _ => if dual then m else match m.batch with
      | some id => push id (m.word a.toNat) m
      | none => m)
    fun d => match s.dualOn u, s.dat.macus[u]? with
      | some (id, _), some m => { d with macus := updAt d.macus (mate u) (push id (m.word a.toNat)) }
      | _, _ => d

/-- VMAC: V_i ← V_i ± X_i × Y_i in each of the sixteen lanes (R203). -/
def execVmac (u : Nat) (mod : BitVec 4) (a b : BitVec 10) (s : State) : Out :=
  s.macuCmd u (fun m => m.vecAddr a.toNat && m.vecAddr b.toNat) fun m =>
    { m with vec := (List.range 16).map fun i =>
        let v := if mod.getLsbD 0 then 0 else m.vec.getD i 0
        let y := m.vlane b.toNat (if mod.getLsbD 2 then 0 else i)
        let p := BitVec.ofNat 64 (m.vlane a.toNat i * y)
        if mod.getLsbD 1 then v - p else v + p }

/-- The 32 bits that VSHIFT takes of a vector accumulator; bits above its highest are the free value's (log 6). -/
def vshiftLane (m : Macu) (n free i : Nat) : Nat :=
  let extra := n - 32
  ((m.vec.getD i 0).toNat >>> n) % 2 ^ 32 + (if extra = 0 then 0 else (free >>> (32 * i)) % 2 ^ extra * 2 ^ (32 - extra))

/-- VSHIFT: lane i of M[b..b+1] ← V_i[s + 31:s], V_i then cleared unless mod[0] is 1 (R203, R222). -/
def execVshift (u : Nat) (mod : BitVec 4) (sh : BitVec 6) (b : BitVec 10) (s : State) : Out :=
  let n := sh.toNat
  let d := if s.batchOn u && 32 < n then s.draw 7 else (0, s)
  d.2.macuOut u d.1 (fun m => m.vecAddr b.toNat) (fun m v => [laneWord (vshiftLane m n v) 0, laneWord (vshiftLane m n v) 1]) fun m v =>
    let x := m.putLanes b.toNat (vshiftLane m n v)
    { x with vec := if mod.getLsbD 0 then x.vec else List.replicate 16 0 }

/-- NOP: no operation (R203). -/
def execMacuNop (u : Nat) (s : State) : Out := s.macuCmd u (fun _ => true) fun m => m

/-- END: the batch ends and leaves nothing in the accumulators; the next batch of the tick begins (R203,
R204). -/
def execMacuEnd (u : Nat) (s : State) : Out :=
  let next := s.nextBatch u ((s.dat.macus[u]?).bind (·.batchAt))
  s.macuCmd u (fun _ => true) fun m => m.begin next

end Sys2Proof.Machine
end

