-- ==== Sys2Proof/Machine/Orrery.lean ====
section
/-! DEFINITION. The Orrery: groups and their ends, closed wait and charged ticks, forks, joins, channels and
ports, the debugger's stops and hold, core power and core loss (R229 to R241, R313, R403). -/

namespace Sys2Proof.Machine

/-! ### Ending a group (R237, R238) -/

/-- A group ends with an error: its request completes HW_FAULT with the detail given, or its sender reads ABORTED
for the cause given; the control thread ends, and restarts at the next boundary. -/
def State.endGroup (s : State) (root det cause : Nat) : State :=
  match (s.thread root).work with
  | .request id => (((s.withdraw id).dropVJob id).endLink id (stHwFault det)).freeGroup root
  | .message c => s.abortMsg c cause
  | .control =>
    let ids := s.groupOf root
    let s := s.freeGroup root
    ids.foldl (fun s t => s.onThread t fun x => { stopped := x.stopped }) s
  | .idle => s.freeGroup root

/-- At a boundary: a static thread that ended restarts at its entry point (R237). -/
def State.restartControl (s : State) : State :=
  (List.range 64).foldl (fun s t =>
    if (s.homeOf t).isSome && (s.thread t).st == .ended && s.live then s.onThread t fun _ => s.restThread t
    else s) s

/-- The partition that a group works for, where it works for a request. -/
def State.groupPart (s : State) (root : Nat) : Nat :=
  match (s.thread root).work with
  | .request id => ((s.req id.ring id.idx).map (·.part)).getD noPart
  | _ => noPart

/-- A message's group that is ended by time limit or closed wait: causes of R445. -/
def causeClosed : Nat := 5
def causeLimit : Nat := 6
def causeQuiesce : Nat := 7

/-- The root threads of live groups that have work. -/
def State.roots (s : State) : List Nat :=
  (List.range 64).filter fun t => (s.thread t).st != .ended && (s.thread t).root == t && (s.thread t).work != .idle

/-! ### Closed wait (R237) -/

/-- A thread of group `g` waits on a channel whose other side lies in the group. -/
def State.closedThread (s : State) (g : List Nat) (t : Nat) : Bool :=
  let x := s.thread t
  !x.stopped && match x.st with
    | .blocked (.chanRead c) => match mget s.ory.chans c with
      | some k => k.writers.all g.contains
      | none => false
    | .blocked (.chanWrite c) => match mget s.ory.chans c with
      | some k => g.contains k.reader
      | none => false
    | _ => false

/-- Every thread of the group is blocked inside it. -/
def State.closedGroup (s : State) (root : Nat) : Bool :=
  let g := s.groupOf root
  !g.isEmpty && g.all (s.closedThread g)

/-- The channels that threads of a group wait on. -/
def State.waitChans (s : State) (root : Nat) : List Nat :=
  (s.groupOf root).filterMap fun t => match (s.thread t).st with
    | .blocked (.chanRead c) => some c
    | .blocked (.chanWrite c) => some c
    | _ => none

/-- A record about a group, with the code-specific bytes: of the request form where it works for a request, which keeps four of
them (R414, R443; log 117). -/
def State.logGroup (s : State) (code root : Nat) (detail : Bytes := []) : State :=
  match (s.thread root).work with
  | .request id => s.logReq code (uidThread root) (s.groupPart root) id.ring id.idx id.link (leAt detail 0 4)
  | _ => s.log code (uidThread root) noPart detail

/-- The condition is evaluated for every group at a cut; a group found closed at two cuts in a row is ended, and its record
carries the root thread and the channels involved. -/
def State.closedCut (s : State) : State :=
  s.roots.foldl (fun s r =>
    if !s.closedGroup r then s.onThread r fun t => { t with closedCuts := 0 }
    else if (s.thread r).closedCuts = 0 then s.onThread r fun t => { t with closedCuts := 1 }
    else
      let d := natLE (uidThread r) 2 ++ (s.waitChans r).eraseDups.flatMap fun c => natLE c 2
      let s := s.onOry fun o => { o with closedWait := sat 0xFF o.closedWait 1 }
      (s.logGroup 0x0210 r d).endGroup r 3 causeClosed) s

/-! ### Charged ticks (R238, R241) -/

/-- A debug hold keeps the group's ticks from counting. -/
def State.holdCovers (s : State) (root : Nat) : Bool :=
  s.ory.hold && (s.groupOf root).any fun t =>
    let x := s.thread t
    x.stopped || match x.st with
      | .blocked (.chanRead c) => ((mget s.ory.chans c).map fun k => k.writers.any fun w => (s.thread w).stopped).getD false
      | _ => false

/-- The tick is one of those that R238 does not charge to a request's group. -/
def State.freeTick (s : State) (id : LinkId) (q : Req) (l : Link) (j : Job) : Bool :=
  j.noCharge || s.paused
    || (drawNext q.part (leAt l.source 12 4 == 0) l.hdr l.drawn l.fallback).isSome
    || (l.hdr.opcode == opRetire && s.allLinks.any fun x => x.1 != id && x.2.2.stat.isNone && x.2.2.keySlot == l.keySlot)

/-- A message waits in a way that R238 and R334 do not charge: in the SWAP pause, for the requests of a ring that it drains or
reopens, for requests holding a key, for a unit to give up its state, or for a partition-record write to be repeated. -/
def State.msgWaits (s : State) (c : Nat) : Bool :=
  let again (p : Part) : Bool := p.recWrite.any fun w => w.failed.isSome || w.again
  s.paused
    || s.rng.rings.any (fun r => (r.2.openCh == some c || r.2.closeCh == some c) && s.ringBusy r.1)
    || s.prt.parts.any (fun p => (p.2.rot.any fun r => r.ch == c && r.committed && (r.stage != 1 || again p.2))
        || (p.2.flr.any fun f => f.chans.contains c) && again p.2)
    || allUnits.any (fun u => (s.unitSt u).exer.contains c && !(s.unitSt u).inTest)

/-- Charge the tick that ends to every group. -/
def State.chargeTicks (s : State) : State :=
  let charge (a : LinkId × Req × Link) : Option (LinkId × Bool) := match a.2.2.job with
    | some j => if j.wiped || a.2.2.stat.isSome then none else some (a.1, s.freeTick a.1 a.2.1 a.2.2 j || s.holdCovers j.thread)
    | none => none
  let s' := (s.allLinks.filterMap charge).foldl (fun s x => s.onLink x.1 fun l =>
    { l with job := l.job.map fun j => { j with charged := if x.2 then j.charged else j.charged + 1, noCharge := false } }) s
  s'.roots.foldl (fun s t => match (s.thread t).work with
    | .message c => if s.msgWaits c || s.holdCovers t then s else s.onThread t fun x => { x with charged := x.charged + 1 }
    | _ => s) s'

/-- TIME_LIMIT: a group that has reached its limit of charged ticks is ended (R238). -/
def execTimeLimit (root : Nat) (s : State) : Out :=
  let x := s.thread root
  let isOver := match x.work with
    | .request id => match (s.link id).bind fun y => y.2.job with
      | some j => 0 < j.limit && j.limit ≤ j.charged
      | none => false
    | .message _ => decide (4096 ≤ x.charged)
    | _ => false
  .next (
    if !s.live || x.st == .ended || x.root != root || !isOver then s
    else
      let s := s.onOry fun o => { o with timeLimit := sat 0xFF o.timeLimit 1 }
      (s.logGroup 0x0211 root).endGroup root 4 causeLimit)

/-! ### Threads (R234) -/

/-- The modes in which a thread goes on: those that serve, for the entropy threads SEEDING too (R230, R263, R362). -/
def State.threadModes (s : State) (t : Nat) : Bool := s.serving || (s.entThread t && s.blk.mode == .seeding)

/-- The thread issues an instruction: running, not stopped, on a core that runs. -/
def State.issues (s : State) (t : Nat) : Bool :=
  s.threadModes t && (s.thread t).st == .running && !(s.thread t).stopped && s.coreRuns t

/-- A static thread at rest. -/
def State.atRest (s : State) (u : Nat) : Bool :=
  (s.homeOf u).isSome && s.thread u == s.restThread u && (s.thread u).st != .ended && !(s.thread u).stopped

/-- A free thread of the class of thread t: the pool for pool threads, else one at rest of its own reservation, management
or entropy (R230, R234). -/
def State.forkThread (s : State) (t : Nat) : Option Nat :=
  if s.poolThread t then s.freeThread
  else (List.range 64).find? fun u => s.homeOf u != some 0 && u != t && s.mgmtThread u == s.mgmtThread t && s.atRest u

/-- FORK: a new thread of the class starts, or the fork fails at once and is counted; the forking thread has the result
(R234). -/
def execFork (t entry : Nat) (s : State) : Out :=
  .next (
    if !s.issues t then s
    else
      let x := s.thread t
      match if (s.groupOf x.root).length < 8 then s.forkThread t else none with
      | none => (s.onOry fun o => { o with forkFail := sat 0xFF o.forkFail 1 }).onThread t fun y => { y with forked := some none }
      | some u => (s.onThread u fun _ => { st := .running, root := x.root, entry := entry, work := x.work }).onThread t fun y =>
          { y with forked := some (some u) })

/-- JOIN: a thread blocks until a thread of its group ends (R234). Given again to a thread so blocked it is the end of the other,
which is running, and the join completes (log 113). -/
def execJoin (t u : Nat) (s : State) : Out :=
  let x := s.thread t
  let there := u != t && (s.thread u).st != .ended && (s.thread u).root == x.root
  .next (
    if x.st == .blocked (.join u) then
      if x.stopped || !s.live || (there && (!s.issues u || u == x.root)) then s
      else (if there then s.endThreads [u] else s).onThread t fun y => { y with st := .running }
    else if s.issues t && there then s.onThread t fun y => { y with st := .blocked (.join u), since := s.sch.tick }
    else s)

/-! ### Channels (R231, R236) -/

/-- Channel c may be used by the class of thread t. -/
def State.chanClass (s : State) (t c : Nat) : Bool := if s.poolThread t then decide (64 ≤ c) && decide (c < 256) else decide (c < 64)

/-- A channel at its first use is allocated to the group of its user: the thread that reads it first is its reader
and the group's others its writers; a first write makes the root the reader, or where the root writes the first of
the others (log 19). -/
def State.chanFor (s : State) (t c : Nat) (read : Bool) : State :=
  if (mget s.ory.chans c).isSome then s
  else
    let root := (s.thread t).root
    let others := (s.groupOf root).filter fun u => u != t
    let k : Chan := if read then { reader := t, writers := others }
      else
        let r := if t = root then others.headD t else root
        { reader := r, writers := (s.groupOf root).filter fun u => u != r }
    s.onOry fun o => { o with chans := mset o.chans c k }

def State.onChanO (s : State) (c : Nat) (f : Chan → Chan) : State := s.onOry fun o => { o with chans := mupd o.chans c f }

/-- The reader takes the channel's oldest message and goes on. -/
def State.takeMsg (s : State) (t c : Nat) : State :=
  match mget s.ory.chans c with
  | none => s
  | some k => (s.onChanO c fun k => { k with msgs := k.msgs.drop 1 }).onThread t fun x =>
      { x with st := .running, got := k.msgs.headD [] }

/-- A message of a writer is committed whole; a reader that waits, and is not stopped, takes it at once (R236, R240). -/
def State.commitMsg (s : State) (t c : Nat) : State :=
  match mget s.ory.chans c with
  | none => s
  | some k =>
    let m := (mget k.staged t).getD []
    let s := s.onChanO c fun k => { k with msgs := k.msgs ++ [m], staged := mdel k.staged t }
    if (s.thread k.reader).st == .blocked (.chanRead c) && !(s.thread k.reader).stopped then s.takeMsg k.reader c else s

/-- The reader takes a message, and a writer that waits for room, and is not stopped, commits its own (R236, R240). -/
def State.readChan (s : State) (t c : Nat) : State :=
  let s := s.takeMsg t c
  match (mget s.ory.chans c).bind fun k => k.writers.find? fun w => (s.thread w).st == .blocked (.chanWrite c) && !(s.thread w).stopped with
  | none => s
  | some w => (s.onThread w fun x => { x with st := .running }).commitMsg w c

/-- CHANNEL_WRITE: a word goes into the writer's staging; the final word commits the message, or blocks the writer
while the channel holds four (R236). -/
def execChannelWrite (t c : Nat) (word : W64) (final : Bool) (s : State) : Out :=
  .next (
    if !s.issues t || !s.chanClass t c then s
    else
      let s := s.chanFor t c false
      match mget s.ory.chans c with
      | none => s
      | some k =>
        let m := (mget k.staged t).getD []
        if !k.writers.contains t || m.length ≥ 16 then s
        else
          let s := s.onChanO c fun k => { k with staged := mset k.staged t (m ++ [word]) }
          if !final then s
          else if k.msgs.length < 4 then s.commitMsg t c
          else s.onThread t fun x => { x with st := .blocked (.chanWrite c), since := s.sch.tick })

/-- CHANNEL_READ: the reader takes one whole message or blocks; a writer that waits for room commits its own
(R236). -/
def execChannelRead (t c : Nat) (s : State) : Out :=
  .next (
    if !s.issues t || !s.chanClass t c then s
    else
      let s := s.chanFor t c true
      match mget s.ory.chans c with
      | none => s
      | some k =>
        if k.reader ≠ t then s
        else if k.msgs.isEmpty then s.onThread t fun x => { x with st := .blocked (.chanRead c), since := s.sch.tick }
        else s.readChan t c)

/-! ### Ports (R235) -/

/-- An element of the kind asked for has ended that the thread's reads have not returned. -/
def State.elemEnded (s : State) (t : Nat) (id : LinkId) (slot : Bool) : Bool :=
  match (s.link id).bind fun y => y.2.job with
  | none => false
  | some j => ((j.elems.take j.elemNo).drop (s.thread t).seen).any fun e => e.isSlot == slot

/-- Vault work that a link's thread asked for is not yet acknowledged. -/
def State.vaultAsked (s : State) (id : LinkId) : Bool :=
  (s.key.jobs.any fun v => v.id == id) || (s.key.pageOps.any fun o => o.why == .vault id) || s.writeWaits fun w => w == .vault id

/-- The draws of a link are delivered, or have failed. -/
def State.drawsDone (s : State) (id : LinkId) : Bool :=
  match s.link id with
  | none => true
  | some (q, l) => l.stat.isSome || (!s.hasItem id && (drawNext q.part (leAt l.source 12 4 == 0) l.hdr l.drawn l.fallback).isNone)

/-- A request named by a thread has completed, been aborted or been flushed. -/
def State.requestOver (s : State) (id : LinkId) : Bool :=
  match s.link id with
  | none => true
  | some (q, l) => l.written || q.abort != .none

/-- No write of a partition record that a message's thread asked for is outstanding. -/
def State.recordAcked (s : State) (c : Nat) : Bool :=
  match (s.chan c).namesPart.bind s.part with
  | none => true
  | some p => p.recWrite.isNone

/-- The event that a thread's blocking read on a port waits for has occurred; that of the tick port comes after the thread
has blocked. For a thread without a request or a message it is that management waits for its work: a GO is pending, or an
exercise of the source or SEEDING for an entropy thread (R230, R235; log 18). -/
def State.portEvent (s : State) (t : Nat) (p : OryPort) : Bool :=
  let x := s.thread t
  let id := match x.work with
    | .request i => some i
    | _ => none
  match p with
  | .macuQueue => match id with
    | none => false
    | some i => (s.dat.macus.any fun m => m.storeQ.any fun w => w.1 == i) || s.elemEnded t i false
  | .digestSlot => match id with
    | none => false
    | some i => s.elemEnded t i true
  | .sdma => match mget s.mov.sdma t with
    | none => false
    | some d => d.done
  | .keyStaging => match x.work with
    | .request i => !s.vaultAsked i
    | .message c => s.recordAcked c
    | _ => true
  | .drbg => match id with
    | none => true
    | some i => s.drawsDone i
  | .mailbox => s.mgmtThread t && s.mbx.chans.any fun c => c.2.st == .pending
  | .tick => x.st == .blocked (.port .tick) && x.since != s.sch.tick
  | .request (some i) => s.requestOver i
  | .request none => match x.work with
    | .message c => (s.chan c).reply.isSome
    | _ => s.entThread t && (!s.ent.exercise.isEmpty || s.blk.mode == .seeding)

/-- A read of a port completes: one of the MACU queue takes the oldest word of the job's store queue, and a read of the
end of an element counts those ended. -/
def State.portTaken (s : State) (t : Nat) (p : OryPort) : State :=
  let id := match (s.thread t).work with
    | .request i => some i
    | _ => none
  let ended := match (id.bind s.link).bind fun y => y.2.job with
    | some j => j.elemNo
    | none => 0
  match p, id with
  | .macuQueue, some i =>
    match s.dat.macus.zipIdx.find? fun m => m.1.storeQ.any fun w => w.1 == i with
    | none => s.onThread t fun y => { y with seen := ended }
    | some m =>
      let w := ((m.1.storeQ.find? fun w => w.1 == i).map (·.2)).getD 0
      let s := s.onDat fun d => { d with macus := updAt d.macus m.2 fun m => { m with storeQ := m.storeQ.eraseP fun w => w.1 == i } }
      s.onThread t fun y => { y with got := (List.range 4).map fun k => BitVec.ofNat 64 (w.toNat / 2 ^ (64 * k)) }
  | .digestSlot, some _ => s.onThread t fun y => { y with seen := ended }
  | _, _ => s

/-- PORT_READ: a thread's blocking read on a port; it completes when its event occurs (R235). -/
def execPortRead (t : Nat) (p : OryPort) (s : State) : Out :=
  let x := s.thread t
  .next (
    if s.issues t then
      if s.portEvent t p then s.portTaken t p else s.onThread t fun y => { y with st := .blocked (.port p), since := s.sch.tick }
    else if s.threadModes t && (!s.paused || s.entThread t) && x.st == .blocked (.port p) && !x.stopped && s.portEvent t p && s.coreRuns t then
      (s.portTaken t p).onThread t fun y => { y with st := .running }
    else s)

/-! ### The debugger (R240, R241, R403) -/

/-- Stops and the hold are accepted: lifecycle FACTORY or DEVELOP. -/
def State.debugOn (s : State) : Bool := s.blk.mode != .dormant && decide (s.blk.lifecycle.toNat ≤ 1)

/-- ORY_DEBUG (R246). -/
def State.oryDebug (s : State) : Nat :=
  2 ^ 31 * b2n s.debugOn + 2 ^ 30 * b2n s.ory.hold + countP s.ory.threads fun t => t.stopped

/-- The IDCODE: version 2, part 0xB0D2, the manufacturer tied off outside (R403). -/
def idcodeWord : W32 := BitVec.ofNat 32 (2 * 2 ^ 28 + 0xB0D2 * 2 ^ 12 + 2 * Config.dbgMfr.toNat + 1)

/-- The TAP instructions of R403. -/
def tapIdcode : BitVec 8 := 0x01
def tapCtrl : BitVec 8 := 0x20
def tapState : BitVec 8 := 0x21

/-- A TAP instruction is shifted in, behind the 0x01 that its register captured, and its data register captures: IDCODE, or in
FACTORY and DEVELOP ORY_DEBUG; any other code acts as BYPASS, whose one bit captures 0 (R403). -/
def State.tapLoad (s : State) (code : BitVec 8) : State :=
  let w := if code = tapIdcode then idcodeWord else if code = tapState && s.debugOn then BitVec.ofNat 32 s.oryDebug else 0
  s.onIo fun i => { i with tapIr := code, tapCap := 0x01, tapDr := w }

/-- The debugger stops a thread (R240). -/
def State.stopThread (s : State) (t : Nat) : State :=
  if (s.thread t).stopped then s else (s.onThread t fun x => { x with stopped := true }).log 0x0910 (uidThread t) noPart

/-- A thread that is resumed goes on where it waited on a channel that let it go meanwhile (R236, R240). -/
def State.resumeChan (s : State) (t : Nat) : State :=
  let n (c : Nat) : Nat := ((mget s.ory.chans c).map fun k => k.msgs.length).getD 0
  match (s.thread t).st with
  | .blocked (.chanRead c) => if 0 < n c then s.readChan t c else s
  | .blocked (.chanWrite c) => if n c < 4 then (s.onThread t fun x => { x with st := .running }).commitMsg t c else s
  | _ => s

/-- The debugger resumes a thread (R240). -/
def State.resumeThread (s : State) (t : Nat) : State :=
  if !(s.thread t).stopped then s
  else ((s.onThread t fun x => { x with stopped := false }).log 0x0910 (uidThread t) noPart).resumeChan t

/-- An update of ORY_CTRL: bit 31 stops and bit 30 resumes the thread of bits 5:0, bit 29 sets and bit 28 clears the hold; in
PRODUCTION and DECOMMISSIONED a BYPASS, without effect (R240, R241, R403). -/
def State.oryCtrl (s : State) (w : W32) : State :=
  let t := fld w.toNat 0 6
  let s := s.tapLoad tapCtrl
  if !s.debugOn then s
  else
    let s := s.onIo fun i => { i with tapDr := w }
    if !s.live then s
    else
      let s := if w.getLsbD 31 then s.stopThread t else s
      let s := if w.getLsbD 30 then s.resumeThread t else s
      s.onOry fun o => { o with hold := (o.hold || w.getLsbD 29) && !w.getLsbD 28 }

/-- THREAD_STOP: ORY_CTRL with stop (R240). -/
def execThreadStop (t : Nat) (s : State) : Out := .next (if t < 64 then s.oryCtrl (BitVec.ofNat 32 (2 ^ 31 + t)) else s)

/-- THREAD_RESUME: ORY_CTRL with resume (R240). -/
def execThreadResume (t : Nat) (s : State) : Out := .next (if t < 64 then s.oryCtrl (BitVec.ofNat 32 (2 ^ 30 + t)) else s)

/-- HOLD_SET: ORY_CTRL with hold set (R241). -/
def execHoldSet (s : State) : Out := .next (s.oryCtrl (BitVec.ofNat 32 (2 ^ 29)))

/-- HOLD_CLEAR: ORY_CTRL with hold clear (R241). -/
def execHoldClear (s : State) : Out := .next (s.oryCtrl (BitVec.ofNat 32 (2 ^ 28)))

/-! ### Shared registers (R232)

The four operations on a shared register of a core, each one step. The instruction set is not published (R204) and the
opcode table has no command for them. -/

/-- A read. -/
def Core.regRead (k : Core) (r : Nat) : W64 := k.regs.getD r 0

/-- A write. -/
def Core.regWrite (k : Core) (r : Nat) (w : W64) : Core := { k with regs := updAt k.regs r fun _ => w }

/-- A compare-and-swap: what the register held, and the core after it. -/
def Core.regSwap (k : Core) (r : Nat) (old new : W64) : W64 × Core :=
  (k.regRead r, if k.regRead r = old then k.regWrite r new else k)

/-- A fetch-and-add: what the register held, and the core after it. -/
def Core.regAdd (k : Core) (r : Nat) (w : W64) : W64 × Core := (k.regRead r, k.regWrite r (k.regRead r + w))

/-! ### Core power (R233, R405) -/

def State.onCore (s : State) (c : Nat) (f : Core → Core) : State := s.onOry fun o => { o with cores := updAt o.cores c f }

/-- Every thread of the core is idle: ended, or blocked on a port with no pending event. A control thread at rest has had
the event of the last boundary. -/
def State.coreIdle (s : State) (c : Nat) : Bool :=
  (List.range 16).all fun i =>
    let t := 16 * c + i
    match (s.thread t).st with
    | .ended => true
    | .blocked (.port p) => (s.thread t).work == .control && p == .tick || !s.portEvent t p
    | _ => false

/-- CORE_POWER_DOWN: a core idle for 64 ticks requests power-down; core 0 never in SERVICE, REDUCED or SWAP
(R233). -/
def execCorePowerDown (c : Nat) (s : State) : Out :=
  let x := (s.ory.cores[c]?).getD {}
  let never := c == 0 && (s.blk.mode == .service || s.blk.mode == .reduced || s.blk.mode == .swap)
  .next (
    if !s.live || c ≥ 4 || !x.awake || x.idle < 64 || never || !s.coreIdle c then s
    else
      let s := s.onCore c fun k => { k with awake := false }
      s.onIo fun i => { i with oryReq := updAt i.oryReq c fun _ => false })

/-- CORE_WAKE: an event for a thread of a powered-down core raises the core's request again, once its
acknowledgement is low; the core resumes with the acknowledgement (R233, R405). -/
def execCoreWake (c : Nat) (s : State) : Out :=
  let x := (s.ory.cores[c]?).getD {}
  let req := s.io.oryReq.getD c false
  let ack := s.io.oryAck.getD c false
  .next (
    if !s.live || c ≥ 4 || x.awake || x.u.ecl then s
    else if req && ack then s.onCore c fun k => { k with awake := true, idle := 0 }
    else if s.coreIdle c then s
    else s.wakeReq c)

/-- At a boundary: idle ticks of the cores are counted. -/
def State.coreTicks (s : State) : State :=
  (List.range 4).foldl (fun s c => s.onCore c fun k => { k with idle := if s.coreIdle c then k.idle + 1 else 0 }) s

/-! ### Core loss (R313) -/

/-- ORRERY_CORE_LOSS: the core is eclipsed at once; its threads end, requests with HW_FAULT and detail
UNCORRECTABLE; its static threads restart at the next boundary (R313). -/
def execOrreryCoreLoss (c : Nat) (s : State) : Out :=
  .next (
    if !s.live || c ≥ 4 || (s.unitSt (.oryCore c)).ecl then s
    else
      let roots := ((List.range 64).filter fun t => t / 16 == c && (s.thread t).st != .ended).map fun t => (s.thread t).root
      let s := s.eclipse (.oryCore c) 0x0207
      let s := roots.eraseDups.foldl (fun s r => s.endGroup r 5 causeClosed) s
      s.onOry fun o => { o with threads := o.threads.zipIdx.map fun t => if t.2 / 16 == c then { stopped := t.1.stopped } else t.1 })

end Sys2Proof.Machine
end

