-- ==== Sys2Proof/Machine/Shares.lean ====
section
/-! DEFINITION. Shares and sealed patterns: effective floors, the placing of sealed windows, their
substitutes, and the lanes that the cap withdraws (R110, R115, R116, R119 to R121, R124, R260). -/

namespace Sys2Proof.Machine

/-! ### Classes (R110) -/

/-- The units of a class: 0 LANE, 1 MACU, 2 DIGEST. -/
def classUnits (c : Nat) : List UnitId := if c = 0 then allLanes else if c = 1 then allMacus else allEngines

def mkUnit (c n : Nat) : UnitId := if c = 0 then .lane n else if c = 1 then .macu n else .engine n

/-- Units of a class in a quadrant (R12). -/
def perQuad (c : Nat) : Nat := if c = 2 then 8 else 4

/-- C_c, the nominal capacity of a class per tick (R110). -/
def State.capacity (s : State) (c : Nat) : Nat := if c = 2 then 32 else 16 * s.budget

/-- q and g of R111. -/
def State.quantum (s : State) (c f : Nat) : Nat := f * s.capacity c / 65536

/-- Units of a class in service (R120). -/
def State.inService (s : State) (c : Nat) : Nat := countP (classUnits c) fun u => !s.eclipsed u

/-! ### Effective floors (R120, R121) -/

/-- F_set of a class: a sealed partition's DIGEST floor is its reserved engines × 2,048 (R110). -/
def Part.floorOf (p : Part) (c : Nat) : Nat :=
  if p.entry.isSealed && c == 2 then p.entry.rsvEngines * 2048 else p.floor

/-- A partition with a share changed as PARTITION_SET_QUOTA asks: at once, or with the epoch if it is sealed (R125). -/
def Part.quota (p : Part) (mask f g : Nat) : Part :=
  let old := if p.entry.isSealed then p.shareNext.getD (p.floor, p.ceiling) else (p.floor, p.ceiling)
  let new := (if bit mask 0 then f else old.1, if bit mask 1 then g else old.2)
  if !bit mask 0 && !bit mask 1 then p
  else if p.entry.isSealed then { p with shareNext := some new }
  else { p with floor := new.1, ceiling := new.2 }

/-- A partition with the share that the coming boundary brings by the messages taken before (R125, R336). -/
def State.coming (s : State) (n : Nat) (p : Part) : Part :=
  s.mbx.work.foldl (fun p w => match w with
    | .quota _ k mask f g _ _ _ => if k = n then p.quota mask f g else p
    | _ => p) p

/-- A message taken changes the floor of some ordinary partition. -/
def State.sharesChange (s : State) : Bool := s.prt.parts.any fun x => (s.coming x.1 x.2).floor != x.2.floor

/-- One group and priority class of the procedure: X, and the floors so far. -/
def reduceStep (ps : List (Nat × Part)) (c : Nat) (a : Nat × Map Nat) (g : Bool × Nat) : Nat × Map Nat :=
  let mine := ps.filter fun x => x.2.entry.isSealed == g.1 && x.2.entry.prio == g.2
  let n := sumBy mine fun x => x.2.floorOf c
  if n = 0 then a
  else if n > a.1 then (0, mine.foldl (fun m x => mset m x.1 (x.2.floorOf c * (n - a.1) / n)) a.2)
  else (a.1 - n, mine.foldl (fun m x => mset m x.1 0) a.2)

/-- F_eff of a class for the partitions given (R120). -/
def State.effFloor (s : State) (ps : List (Nat × Part)) (c : Nat) : Map Nat :=
  let u := 65536 * s.inService c / (classUnits c).length
  let x := sumBy ps (fun p => p.2.floorOf c) - u
  let groups := [false, true].flatMap fun b => (List.range 8).map fun k => (b, 7 - k)
  (groups.foldl (reduceStep ps c) (x, ps.map fun p => (p.1, p.2.floorOf c))).2

/-- The partitions that take part: not ABSENT. -/
def State.present (s : State) : List (Nat × Part) := s.prt.parts.filter fun x => x.2.st != .absent

/-- F_eff of every partition present, in the three classes, with the shares given. -/
def State.effFloors (s : State) (ps : List (Nat × Part)) : Map (List Nat) :=
  let a := s.effFloor ps 0
  let b := s.effFloor ps 1
  let d := s.effFloor ps 2
  ps.map fun p => (p.1, [(mget a p.1).getD 0, (mget b p.1).getD 0, (mget d p.1).getD 0])

/-- The reduced-service recomputation: the floors of ordinary partitions take effect, those of sealed ones
wait for the epoch (R120, R121). -/
def State.reduceFloors (s : State) : State :=
  let f := s.effFloors s.present
  s.onPrt fun t => { t with parts := t.parts.map fun x => match mget f x.1 with
    | none => x
    | some v => (x.1, if x.2.entry.isSealed then { x.2 with feffNext := v } else { x.2 with feff := v }) }

/-- The floor in force in the coming tick, as the cut knows it. -/
def State.comingFloors (s : State) : Map (List Nat) :=
  if (s.sch.recompute && !s.paused) || s.sharesChange then
    let f := s.effFloors (s.present.map fun x => (x.1, s.coming x.1 x.2))
    s.present.map fun x => (x.1, if x.2.entry.isSealed then x.2.feff else (mget f x.1).getD x.2.feff)
  else s.present.map fun x => (x.1, x.2.feff)

/-- The DIGEST quantum of a partition falls from what its floor in force gives to that of the floor given (R111, R125). -/
def State.digestFalls (s : State) (x : Part) (f : List Nat) : Bool :=
  decide (s.quantum 2 (f.getD 2 0) < s.quantum 2 (x.feff.getD 2 0))

/-! ### Placing sealed windows (R115, R116) -/

/-- Reservable units in the order they are allocated, those in service before the others (R115; the eclipsed ones, log 102). -/
def State.reservable (s : State) (c : Nat) : List Nat :=
  let l := if c = 2 then (List.range 32).reverse.filter (fun n => n % 8 ≥ 2) else (List.range 16).reverse.filter fun n => n % 4 ≥ 2
  l.filter (fun n => !s.eclipsed (mkUnit c n)) ++ l.filter fun n => s.eclipsed (mkUnit c n)

/-- What placing has left: free units, and the last partial window (even unit, pairing, end). -/
structure Placing where
  free : List Nat
  prev : Option (Nat × Bool × Nat) := none
  deriving DecidableEq, Repr

/-- The next free unit, or the next pair of which both are free. -/
def Placing.next (x : Placing) (pair : Bool) : Option Nat :=
  if pair then x.free.find? fun n => n % 2 == 0 && x.free.contains (n + 1) else x.free.head?

def Placing.take (x : Placing) (n : Nat) (pair : Bool) : Placing :=
  { x with free := x.free.filter fun m => !(m == n || (pair && m == n + 1)) }

/-- Whole units while the demand is at least B; at most `fuel`. -/
def Placing.whole (b : Nat) (pair : Bool) : Nat → Nat → Placing → List Nat → Nat × Placing × List Nat
  | 0, d, x, l => (d, x, l)
  | n + 1, d, x, l =>
    if d < b then (d, x, l)
    else match x.next pair with
      | none => (d, x, l)
      | some u => Placing.whole b pair n (d - b) (x.take u pair) (l ++ if pair then [u, u + 1] else [u])

/-- Place the demand d of one partition: whole units, and a partial window (R116). -/
def Placing.demand (x : Placing) (b d : Nat) (pair : Bool) : Placing × List Nat × Option (Nat × Nat × Nat) :=
  let r := Placing.whole b pair 16 d x []
  let d := r.1
  let x := r.2.1
  if d = 0 then ({ x with prev := none }, r.2.2, none)
  else
    let fit := match x.prev with
      | some p => if p.2.1 == pair && p.2.2 + d ≤ b then some (p.1, p.2.2) else none
      | none => none
    match fit with
    | some p => ({ x with prev := some (p.1, pair, p.2 + d) }, r.2.2, some (p.1, p.2, d))
    | none => match x.next pair with
      | none => ({ x with prev := none }, r.2.2, none)
      | some u => ({ x.take u pair with prev := some (u, pair, d) }, r.2.2, some (u, 0, d))

/-- ⌈F_eff × 16 × B / 65,536⌉. -/
def State.sealDemand (s : State) (p : Part) (c : Nat) : Nat := cdiv (p.feff.getD c 0 * 16 * s.budget) 65536

/-- A partition runs pairs in a class: BINARY lanes, DUAL MACUs. -/
def PartEntry.pairs (e : PartEntry) (c : Nat) : Bool := if c = 0 then e.binary else if c = 1 then !e.pkSingle else false

/-- The sealed partitions present, the paired first, each group ascending. -/
def State.sealOrder (s : State) (c : Nat) : List (Nat × Part) :=
  let l := s.present.filter fun x => x.2.entry.isSealed
  l.filter (fun x => x.2.entry.pairs c) ++ l.filter fun x => !x.2.entry.pairs c

/-- The windows of a class by partition. -/
def State.placeClass (s : State) (c : Nat) : Map (List Nat × Option (Nat × Nat × Nat)) :=
  let b := s.budget
  ((s.sealOrder c).foldl (fun (a : Placing × Map (List Nat × Option (Nat × Nat × Nat))) x =>
    let r := a.1.demand b (s.sealDemand x.2 c) (x.2.entry.pairs c)
    (r.1, mset a.2 x.1 (r.2.1, r.2.2))) ({ free := s.reservable c }, [])).2

/-- The reserved engines by partition, in the order of R116. -/
def State.placeEngines (s : State) : Map (List Nat) :=
  ((s.sealOrder 0).foldl (fun (a : List Nat × Map (List Nat)) x =>
    let n := x.2.entry.rsvEngines
    (a.1.drop n, mset a.2 x.1 (a.1.take n))) (s.reservable 2, [])).2

/-- The pattern of an epoch (R116) and the DRBG windows (R260). -/
def State.newPatterns (s : State) (epoch : Nat) : State :=
  let s := s.onPrt fun t => { t with parts := t.parts.map fun x =>
    (x.1, if x.2.entry.isSealed then { x.2 with feff := x.2.feffNext } else x.2) }
  let l := s.placeClass 0
  let m := s.placeClass 1
  let e := s.placeEngines
  let mine := s.present.filter fun x => x.2.entry.isSealed
  let w := 16 * (s.budget / (16 * max mine.length 4))
  let wins : Map (Nat × Nat) := mine.zipIdx.map fun x => (x.1.1, (x.2 * w, w))
  let s := s.onEnt fun n => { n with sealedCnt := mine.length }
  s.onPrt fun t => { t with parts := t.parts.map fun x =>
    if x.2.entry.isSealed && x.2.st != .absent then
      let a := (mget l x.1).getD ([], none)
      let b := (mget m x.1).getD ([], none)
      (x.1, { x.2 with pattern := some { epoch := epoch, lanes := a.1, laneWin := a.2, engines := (mget e x.1).getD []
                                         macus := b.1, macuWin := b.2 }
                       drbgWin := mget wins x.1 })
    else (x.1, { x.2 with pattern := none, drbgWin := none }) }

/-- Shares of sealed partitions that waited for the epoch (R125). -/
def State.takeShares (s : State) : State :=
  s.onPrt fun t => { t with parts := t.parts.map fun x => match x.2.shareNext with
    | some v => (x.1, { x.2 with floor := v.1, ceiling := v.2, shareNext := none })
    | none => x }

/-- A sealed partition's floor changes at the epoch. -/
def State.sealedMove (s : State) : Bool := s.prt.parts.any fun x => match x.2.shareNext with
  | some v => v.1 != x.2.floor
  | none => false

/-- The coming tick is the first of an epoch. -/
def State.lastOfEpoch (s : State) : Bool := (s.sch.tick + 1) % 1024 == 0

/-- The state as the epoch boundary that comes will leave its shares, floors, patterns and DRBG windows: the grants of the
epoch's first tick are planned with them (R100, R116, R121, R125, R260; log 3). -/
def State.forEpoch (s : State) : State :=
  if !s.lastOfEpoch then s
  else
    let s := s.onPrt fun p => { p with parts := p.parts.map fun x => if x.2.entry.isSealed then (x.1, s.coming x.1 x.2) else x }
    let again := (s.sch.recompute && !s.paused) || s.sealedMove || s.sharesChange
    let t := s.takeShares
    let f := t.effFloors (t.present.map fun x => if x.2.entry.isSealed then x else (x.1, t.coming x.1 x.2))
    let t := if !again then t else t.onPrt fun p => { p with parts := p.parts.map fun x => match mget f x.1 with
      | none => x
      | some v => (x.1, { x.2 with feff := v, feffNext := v }) }
    t.newPatterns ((s.sch.tick + 1) / 1024)

/-- What the plan made with the coming epoch's shares leaves, with the shares, floors, patterns and windows in force put
back. -/
def State.backFrom (new old : State) : State :=
  if !old.lastOfEpoch then new
  else
    let back (x : Nat × Part) : Nat × Part := match mget old.prt.parts x.1 with
      | none => x
      | some p => (x.1, { x.2 with
          floor := p.floor, ceiling := p.ceiling, shareNext := p.shareNext, feff := p.feff, feffNext := p.feffNext
          pattern := p.pattern, drbgWin := p.drbgWin })
    (new.onEnt fun e => { e with sealedCnt := old.ent.sealedCnt }).onPrt fun t => { t with parts := t.parts.map back }

/-! ### Substitutes (R119) -/

/-- The units of a class on which a pattern has windows. -/
def Pattern.units (p : Pattern) (c : Nat) (pair : Bool) : List Nat :=
  let win (l : List Nat) (w : Option (Nat × Nat × Nat)) := l ++ match w with
    | some x => if pair then [x.1, x.1 + 1] else [x.1]
    | none => []
  if c = 0 then win p.lanes p.laneWin else if c = 1 then win p.macus p.macuWin else p.engines

/-- Units of a class that hold a sealed window of some partition. -/
def State.sealedUnits (s : State) (c : Nat) : List Nat :=
  s.prt.parts.flatMap fun x => match x.2.pattern with
    | some p => p.units c (x.2.entry.pairs c)
    | none => []

def State.holdsWindow (s : State) (c n : Nat) : Bool := (s.sealedUnits c).contains n

/-- The substitute for a unit or the pair that begins at it: the highest-numbered non-reservable unit or pair of
the quadrant that holds no sealed window and passes the test; with the quadrant eclipsed whole, of the
highest-numbered quadrant in service (R119). -/
def State.substitute (s : State) (c n : Nat) (pair : Bool) (ok : Nat → Bool) : Option Nat :=
  let q := n / perQuad c
  let whole := s.quadEcl q
  let qs := if whole then (List.range 4).reverse.find? (fun k => !s.quadEcl k) else some q
  match qs with
  | none => none
  | some k =>
    let base := k * perQuad c
    let good (m : Nat) : Bool := !s.holdsWindow c m && ok m
    if pair then if good base && good (base + 1) then some base else none
    else [base + 1, base].find? good

/-- Move every window from unit or pair `a` to `b`. -/
def Pattern.move (p : Pattern) (c a b : Nat) (pair : Bool) : Pattern :=
  let one (n : Nat) : Nat := if n = a then b else if pair && n = a + 1 then b + 1 else n
  let win (w : Option (Nat × Nat × Nat)) := w.map fun x => (one x.1, x.2)
  if c = 0 then { p with lanes := p.lanes.map one, laneWin := win p.laneWin }
  else if c = 1 then { p with macus := p.macus.map one, macuWin := win p.macuWin }
  else { p with engines := p.engines.map one }

/-- Windows on units of a class out of service move to their substitutes, unit by unit in ascending number; record 0x0411
for each (R119; log 88). -/
def State.moveWindows (s : State) (c : Nat) : State :=
  (List.range (classUnits c).length).foldl (fun s n =>
    if !s.eclipsed (mkUnit c n) then s
    else match s.prt.parts.find? fun x => match x.2.pattern with
        | some p => (p.units c (x.2.entry.pairs c)).contains n
        | none => false with
      | none => s
      | some x =>
        let pair := x.2.entry.pairs c
        let a := if pair then n / 2 * 2 else n
        match s.substitute c a pair fun m => !s.eclipsed (mkUnit c m) with
        | none => s
        | some b =>
          let s := s.onPrt fun t => { t with parts := t.parts.map fun y =>
            (y.1, { y.2 with pattern := y.2.pattern.map fun p =>
              if (p.units c (y.2.entry.pairs c)).contains n then p.move c a b pair else p }) }
          s.log 0x0411 (uid (mkUnit c n)) noPart) s

/-! ### The lane cap (R124) -/

/-- Any ordinary BINARY partition exists. -/
def State.binaryOrd (s : State) : Bool := s.present.any fun x => x.2.entry.binary && !x.2.entry.isSealed

/-- The lanes that the cap withdraws: 16 less the cap in number, gated lanes counted among them, the highest
that hold no sealed window first; where an ordinary BINARY partition exists a pair goes whole, one lane more where the
number left is odd, as far as its mate holds no sealed window (R124, R155). -/
def State.cappedLanes (s : State) : List Nat :=
  let gated := countP (List.range 16) fun l => s.quadGated (l / 4)
  let n := 16 - s.sch.laneCap - gated
  let can := (List.range 16).reverse.filter fun l => !s.quadGated (l / 4) && !s.holdsWindow 0 l
  can.foldl (fun a l =>
    if a.contains l || n ≤ a.length then a
    else if s.binaryOrd && can.contains (mate l) then a ++ [l, mate l]
    else a ++ [l]) []

/-- The quadrant holds a sealed reservation (R122). -/
def State.quadSealed (s : State) (q : Nat) : Bool :=
  (List.range 3).any fun c => (s.sealedUnits c).any fun n => n / perQuad c == q

/-- Power is requested for every gated quadrant to which the pattern gave windows, as in ungating (R122, R124, R405;
log 87). -/
def State.lightWindows (s : State) : State :=
  ((List.range 4).filter fun q => s.quadGated q && s.quadSealed q).foldl (fun s q =>
    if s.paused || s.io.quadReq.getD q false || s.io.quadAck.getD q false then s
    else ((s.onIo fun i => { i with quadReq := updAt i.quadReq q fun _ => true }).onSch fun c =>
      { c with decisions := c.decisions + 1 }).log 0x0A02 uidPolicy noPart) s

end Sys2Proof.Machine
end

