-- ==== Sys2Proof/Machine/Cands.lean ====
section
/-! DEFINITION. What is eligible at a cut: the segment, message segment or job element that each request has
next, and the tick in which it became eligible (R101, R102, R108, R117, R118, R206, R307, R312). -/

namespace Sys2Proof.Machine

/-- An eligible segment: its link, the link as it stands once its running grant has run, class and cost. -/
structure Cand where
  id      : LinkId
  /-- The submission index, 0 to depth - 1 (R86, R112). -/
  sub     : Nat := 0
  q       : Req
  l       : Link
  cls     : Nat
  cost    : Nat
  len     : Nat := 0
  squeeze : Nat := 0
  last    : Bool := false
  zero    : Bool := false
  slot    : Bool := false
  elig    : Nat := 0
  deriving DecidableEq, Repr

def Cand.retry (c : Cand) : Bool := c.l.retryDue

/-- Tick a is b or later, within half the range of the tick count. -/
def tickGe (a b : Nat) : Bool := decide (modSub a b (2 ^ 32) < 2 ^ 31)

/-! ### The conditions of R101 that all work shares -/

/-- The ring lets requests run that were fetched on it (R40 to R42, R101). -/
def State.ringRuns (s : State) (q : Req) : Bool :=
  match (s.ring q.ring).st with
  | .active => true
  | .draining => true
  | .quarantined => true
  | .opening => true
  | .held => q.granted
  | _ => false

/-- The current link of a request meets the conditions of R101 but for its source and its preparation. -/
def State.openTo (s : State) (q : Req) (l : Link) : Bool :=
  s.partState q.part == .active && s.ringRuns q && q.openSince.isNone && l.listsDone && l.staged
    && q.abort == .none && l.stat.isNone && !s.fenced q

/-! ### Sealed timing (R117, R118) -/

/-- The keys that a partition's slots hold: index and generation; a slot whose staging write is outstanding holds none yet
(R171, R183; log 92). -/
def State.keysHeld (s : State) (p : Nat) : List (Nat × Nat) :=
  s.key.slots.filterMap fun x =>
    let staging := match x.write with
      | some w => w.why == .staging
      | none => false
    if x.part == p && !staging then some (x.index, x.gen) else none

/-- The arrival ticks of a partition's requests, fetched and still to be fetched. -/
def State.arrivals (s : State) (p : Nat) : List Nat :=
  (s.rng.rings.filter fun x => x.2.owner == p).flatMap (fun x => x.2.pubs.map (·.2))
    ++ (s.rng.reqs.filter fun q => q.part == p).map (·.arrival)

/-- The cut notes which keys each sealed partition's slots hold (R117). -/
def State.residCut (s : State) : State :=
  let t := s.sch.tick
  let note (x : Nat × Part) : Nat × Part :=
    if !x.2.entry.isSealed then x
    else
      let keep := s.arrivals x.1
      (x.1, { x.2 with resid := (t, s.keysHeld x.1) :: x.2.resid.filter fun r => r.1 != t && keep.contains r.1 })
  s.onPrt fun p => { p with parts := p.parts.map note }

/-- Every operating key of the request was in the partition's reserved slots at the cut of its arrival tick. -/
def State.resident (s : State) (q : Req) : Bool :=
  let held := (((s.part q.part).map (·.resid)).getD []).find? fun r => r.1 == q.arrival
  q.links.all fun l => !usesKey l.hdr.opcode l.hdr.subop || match held with
    | some r => r.2.contains (l.hdr.keyIndex, l.hdr.keyGen)
    | none => false

/-- The tick in which a sealed partition's request becomes eligible: a + 2, or a + 4. -/
def State.sealedAt (s : State) (q : Req) : Nat := (q.arrival + if s.resident q then 2 else 4) % 2 ^ 32

/-- At the cut of tick t a request may be granted for t + 1, as far as the fixed delays go. -/
def State.arrived (s : State) (q : Req) : Bool := !s.sealedP q.part || tickGe (s.sch.tick + 1) (s.sealedAt q)

/-- Orrery work meets every condition of R101 but its preparation, for a sealed partition not before the tick ahead of its
eligibility in tick t (R117, R206). -/
def State.prepOpen (s : State) (q : Req) (l : Link) (t : Nat) : Bool :=
  isOrrery l.hdr.opcode l.hdr.subop && l.unprepared && l.prepAt.isNone && s.openTo q l && !s.paused
    && (!s.sealedP q.part || tickGe t (s.sealedAt q))

/-- A tick begins: work that reads a link buffer is prepared in the tick after the link before it completes (R206). -/
def State.prepBuffered (s : State) : State :=
  let t := s.sch.tick
  s.rng.reqs.foldl (fun s q => match q.links[q.current]? with
    | none => s
    | some l =>
      if l.hdr.bufSrc && s.prepOpen q l (t + 1) then s.onLink (q.linkId q.current) fun l => { l with prepAt := some t } else s) s

/-! ### The link after its running grant -/

/-- The link as it will stand once the running grant has run; none where nothing more is known to follow. -/
def Link.ahead (l : Link) (g : Grant) : Option Link :=
  match l.job with
  | some j => some { l with seg := l.seg + 1, job := some { j with elemNo := j.elemNo + 1 } }
  | none =>
    if isDigest l.hdr.opcode then
      some { l with pos := if l.absDone then l.pos else l.pos + g.len, seg := l.seg + 1
                    absDone := l.absDone || g.last, squeezed := l.squeezed + g.squeeze }
    else if g.zero then some { l with zeroPos := some (l.zeroPos.getD 0 + g.len), seg := l.seg + 1 }
    else if g.last then none
    else some { l with pos := l.pos + g.len, seg := l.seg + 1, retryDue := false, excluded := [] }

/-- The grant of a link that is issued and has not run. -/
def State.runningOf (s : State) (id : LinkId) : Option Grant := s.sch.running.find? fun g => g.id == id && !g.follow

/-! ### The next segment -/

/-- The longest sealed window that a partition has in a class; B for an ordinary partition (R108). -/
def State.cutBudget (s : State) (p c : Nat) : Nat :=
  match (s.part p).bind (·.pattern) with
  | none => if s.sealedP p then 0 else s.budget
  | some x =>
    let w := if c = 0 then (x.lanes, x.laneWin) else (x.macus, x.macuWin)
    if !w.1.isEmpty then s.budget else (w.2.map fun v => v.2.2).getD 0

/-- The next segment of a lane link, its source held (R101, R108, R148). -/
def State.laneCand (s : State) (id : LinkId) (q : Req) (l : Link) : Option Cand :=
  let pair := s.binaryP q.part
  let b := s.cutBudget q.part 0
  if (match l.ctx with
    | some c => c.spilled.isSome
    | none => false) then none
  else match l.zeroPos with
    | some z => (zeroCut (l.hdr.srcLen - z) s.maxSeg b pair).map fun x =>
        { id := id, q := q, l := l, cls := 0, cost := x.2, len := x.1, zero := true }
    | none => (laneCut l.hdr l.keyType l.pos (s.segLimit q.part) b pair).bind fun x =>
        let e := l.pos + x.1
        if l.holds (if x.2 then l.hdr.sLen else e) then
          some { id := id, q := q, l := l, cls := 0, len := x.1, last := x.2, cost := laneCost l.hdr l.keyType l.pos e x.2 pair }
        else none

/-- The next segment of a digest message, its source held (R101, R191, R192). -/
def State.digestCand (s : State) (id : LinkId) (q : Req) (l : Link) : Option Cand :=
  let h := l.hdr
  let xof := if h.opcode = opDigest then h.w 12 else 0
  (digestCut h.subop h.srcLen xof (h.opcode != opDigest) l.pos l.absDone l.squeezed (s.segLimit q.part) s.budget).bind fun x =>
    if l.absDone || l.holds (if x.last then h.sLen else l.pos + x.len) then
      some { id := id, q := q, l := l, cls := 2, cost := x.cost, len := x.len, last := x.last, squeeze := x.sq }
    else none

/-- The next element of a prepared job (R205, R206, R209, R240); what the hashes of a slot's fixed list cost in sum the spec
does not state, a free value (log 6). -/
def State.jobCand (s : State) (id : LinkId) (q : Req) (l : Link) (free : Nat) : Option Cand :=
  l.job.bind fun j =>
    let stopped := ((s.ory.threads[j.thread]?).map (·.stopped)).getD false
    if !j.built || j.wiped || stopped || (s.swapOn && decide (s.ory.swapStage < swapResumed)) then none
    else (j.elems[j.elemNo]?).map fun e => match e with
      | .batch c => { id := id, q := q, l := l, cls := 1, cost := c }
      | .slot => { id := id, q := q, l := l, cls := 2, cost := free % (s.budget + 1), slot := true }
      | .hash c last => { id := id, q := q, l := l, cls := 2, cost := c, last := last }

/-- The class of the units that a link needs next. -/
def Link.classNext (l : Link) : Nat :=
  if isLane l.hdr.opcode then 0
  else if isDigest l.hdr.opcode then 2
  else if ((l.job.bind fun j => j.elems[j.elemNo]?).map JElem.isSlot).getD false then 2 else 1

/-- The submission index of a request: its index modulo the ring's depth (R18, R86). -/
def State.subOf (s : State) (q : Req) : Nat := q.idx % max 1 (s.ring q.ring).depth

/-- The segment of a request for the coming tick, if one is eligible. -/
def State.candOf (s : State) (q : Req) (free : Nat) : Option Cand :=
  let k := q.current
  let id := q.linkId k
  (q.links[k]?).bind fun l =>
    if !s.openTo q l || !s.arrived q || l.tagDue.isSome then none
    else
      let l' := match s.runningOf id with
        | some g => l.ahead g
        | none => some l
      (l'.bind fun l =>
        if isLane l.hdr.opcode then s.laneCand id q l
        else if isDigest l.hdr.opcode then s.digestCand id q l
        else if hasElems l.hdr.opcode l.hdr.subop then s.jobCand id q l free
        else none).map fun x => { x with sub := s.subOf q }

/-- No unit of the kind a link needs is left in its quadrant: all are eclipsed on their own, or no pair is
complete for a BINARY link (R312). -/
def State.noUnits (s : State) (q : Req) (c : Nat) : Bool :=
  match q.quad with
  | none => false
  | some k =>
    let up (n : Nat) : Bool := !s.eclipsed (mkUnit c n)
    let us := (List.range (perQuad c)).map fun i => k * perQuad c + i
    if c = 0 ∧ s.binaryP q.part then !us.any fun n => n % 2 == 0 && up n && up (n + 1) else !us.any up

/-- A unit, or the pair that begins at it, may take a retry at all: in service and not excluded (R307). -/
def State.retryUnit (s : State) (l : Link) (c n : Nat) (pair : Bool) : Bool :=
  let ok (m : Nat) : Bool := !s.eclipsed (mkUnit c m) && !l.excluded.contains (mkUnit c m)
  ok n && (!pair || (n % 2 == 0 && ok (n + 1)))

/-- The units run as pairs for a link in a class (R113). -/
def State.pairsFor (s : State) (q : Req) (c : Nat) : Bool := (s.entryOf q.part).pairs c

/-- Note the tick in which the segment became eligible, and the request's first (R112, R424). -/
def State.noteElig (s : State) (x : Cand) : State × Cand :=
  let t := s.sch.tick
  let e := match x.l.eligAt with
    | some v => if v.1 = x.l.seg then v.2 else t
    | none => t
  ((s.onLink x.id fun l => { l with eligAt := some (x.l.seg, e) }).onReq x.id.ring x.id.idx fun q =>
    { q with eligTick := some (q.eligTick.getD t) }, { x with elig := e })

/-- The number of the segment, batch or slot that a request has next, ready or not, once its running grant has run; none
where its current link has no more, or nothing known to follow (R117, R118). -/
def State.nextSeg (s : State) (q : Req) : Option Nat :=
  let id := q.linkId q.current
  (q.links[q.current]?).bind fun l =>
    let l' := match s.runningOf id with
      | some g => l.ahead g
      | none => some l
    let spilled := match l.ctx with
      | some c => c.spilled.isSome
      | none => false
    l'.bind fun l =>
      let h := l.hdr
      let more :=
        if !l.listsDone || !l.staged then true
        else if isLane h.opcode then !spilled && l.tagDue.isNone && l.zeroPos.isNone
          && (laneCut h l.keyType l.pos (s.segLimit q.part) (s.cutBudget q.part 0) (s.binaryP q.part)).isSome
        else if isDigest h.opcode then
          (digestCut h.subop h.srcLen (if h.opcode = opDigest then h.w 12 else 0) (h.opcode != opDigest) l.pos l.absDone l.squeezed
            (s.segLimit q.part) s.budget).isSome
        else if !hasElems h.opcode h.subop then false
        else match l.job with
          | none => match l.prepAt with
            | some t => tickGe s.sch.tick t
            | none => q.current == 0
          | some j => !j.built || decide (j.elemNo < j.elems.length)
      if more then some l.seg else none

/-- A sealed partition's work that is not ready at the cut of its time is late: each segment, batch or slot is counted once,
with record 0x0810 (R118; log 11). -/
def State.noteLate (s : State) (q : Req) (seg : Nat) : State :=
  let id := q.linkId q.current
  match q.links[q.current]? with
  | none => s
  | some l =>
    if !s.sealedP q.part || l.lateSeg == some seg || q.openSince.isSome || !s.arrived q || q.abort != .none
        || s.partState q.part != .active || !s.ringRuns q || s.fenced q || l.stat.isSome then s
    else
      ((s.onLink id fun l => { l with lateSeg := some seg }).onPart q.part fun p => { p with late := sat 0xFF p.late 1 }).logReq
        0x0810 uidSched q.part q.ring q.idx id.link

/-- This cut is the first after the request was fetched whole, and the cut of its time has passed (R118). -/
def State.fetchedLate (s : State) (q : Req) : Bool :=
  q.current == 0 && (q.links.getLast?.map (·.cutTick)) == some s.sch.tick && modSub s.sch.tick (s.sealedAt q) (2 ^ 32) < 2 ^ 31

/-- The work of one request at a cut: what is eligible, or an end that the cut finds. -/
def State.scan (s : State) (q : Req) : State × Option Cand :=
  let d := match (q.links[q.current]?).map Link.classNext with
    | some 2 => if q.links.any (fun l => l.job.isSome) then s.draw 8 else (0, s)
    | _ => (0, s)
  let s := d.2
  let c := s.candOf q d.1
  let s := match s.nextSeg q with
    | some n => if c.isNone || s.fetchedLate q then s.noteLate q n else s
    | none => s
  match c with
  | none => (s, none)
  | some x =>
    if s.noUnits q x.cls then ((s.withdraw x.id).endLink x.id (stHwFault 2), none)
    else
      let r := s.noteElig x
      (r.1, some r.2)

/-- Every eligible segment of the block. -/
def State.scanAll (s : State) : State × List Cand :=
  s.rng.reqs.foldl (fun (a : State × List Cand) q =>
    let r := a.1.scan q
    (r.1, match r.2 with
      | some x => a.2 ++ [x]
      | none => a.2)) (s, [])

/-! ### Service order (R112, R307) -/

/-- Lexicographic order of two lists of numbers. -/
def lexLt : List Nat → List Nat → Bool
  | [], [] => false
  | [], _ => true
  | _, [] => false
  | a :: l, b :: m => a < b || (a == b && lexLt l m)

/-- Retries first; then by the tick of eligibility, ring, submission index, link and segment. -/
def Cand.key (t : Nat) (x : Cand) : List Nat :=
  [b2n !x.retry, 2 ^ 32 - modSub t x.elig (2 ^ 32), x.id.ring, x.sub, x.id.link, x.l.seg]

def insertC (t : Nat) (x : Cand) : List Cand → List Cand
  | [] => [x]
  | y :: l => if lexLt (x.key t) (y.key t) then x :: y :: l else y :: insertC t x l

def serviceOrder (t : Nat) (l : List Cand) : List Cand := l.foldl (fun m x => insertC t x m) []

end Sys2Proof.Machine
end

