-- ==== Sys2Proof/Machine/Plan.lean ====
section
/-! DEFINITION. The grant set of the coming tick (R103, R109 to R114, R117, R125, R140, R144, R183, R193,
R207 to R210, R307). -/

namespace Sys2Proof.Machine

/-! ### The workspace -/

/-- A sealed window for the coming tick, the class at hand: its unit, or the even unit of its pair, and the
clocks given out. -/
structure Win where
  part  : Nat
  unit  : Nat
  pair  : Bool
  start : Nat
  len   : Nat
  used  : Nat := 0
  deriving DecidableEq, Repr

/-- The workspace of a cut: `pos` the clocks taken on each unit of the class; for a MACU pair in DUAL use the
two slots' (R208); `use` 1 SINGLE and 2 DUAL. -/
structure GPlan where
  s     : State
  t     : Nat
  pos   : Map Nat := []
  two   : Map Nat := []
  use   : Map Nat := []
  wins  : List Win := []
  taken : List Nat := []
  used  : Map Nat := []
  bor   : Map Nat := []
  done  : List LinkId := []
  short : List LinkId := []
  out   : List Grant := []

def Map.nat (m : Map Nat) (k : Nat) : Nat := (mget m k).getD 0

/-! ### Windows -/

/-- The windows of a class in the coming tick; those on a unit in its self-test tick, or on a lane that leaves service at the
coming boundary, stand on the substitute of R119 (R309, R310). -/
def State.windows (s : State) (c : Nat) : List Win :=
  s.prt.parts.flatMap fun x => match x.2.pattern with
    | none => []
    | some p =>
      let pair := x.2.entry.pairs c
      let us := if c = 0 then p.lanes else if c = 1 then p.macus else []
      let w := if c = 0 then p.laneWin else if c = 1 then p.macuWin else none
      let whole := (us.filter fun n => !pair || n % 2 == 0).map fun n => (n, 0, s.budget)
      (whole ++ w.toList).map fun v =>
        let up (n : Nat) : Bool := if c = 0 then s.usable (mkUnit c n) else s.runs (mkUnit c n)
        let n := if up v.1 && (!pair || up (v.1 + 1)) then v.1 else (s.substitute c v.1 pair up).getD v.1
        { part := x.1, unit := n, pair := pair, start := v.2.1, len := v.2.2 }

/-- The clocks that a window takes from the grants outside it. -/
def GPlan.block (w : GPlan) (c : Nat) (x : Win) : GPlan :=
  let e := x.start + x.len
  let h := w.s.budget / 2
  let raise (m : Map Nat) (k v : Nat) : Map Nat := mset m k (max (m.nat k) v)
  if c = 1 ∧ x.pair then
    { w with use := mset w.use (x.unit / 2) 2, pos := raise w.pos x.unit (min e h), two := raise w.two (x.unit / 2) (max e h) }
  else if x.pair then { w with pos := raise (raise w.pos x.unit e) (x.unit + 1) e }
  else { w with pos := raise w.pos x.unit e }

/-- Start a class. -/
def GPlan.begin (w : GPlan) (c : Nat) : GPlan :=
  let wins := w.s.windows c
  wins.foldl (fun w x => w.block c x)
    { w with pos := [], two := [], use := [], wins := wins, taken := [], used := [], bor := [], short := [] }

/-! ### Room on units (R113, R208) -/

/-- The first free positions of the two slots of a pair. -/
def GPlan.duo (w : GPlan) (n : Nat) : Nat × Nat :=
  let h := w.s.budget / 2
  let e := w.pos.nat n
  let o := w.pos.nat (n + 1)
  if w.use.nat (n / 2) = 2 then (e, max h (w.two.nat (n / 2)))
  else (max e (o - h), max (max h e) (h + o))

/-- The remaining budget of a unit, or of the pair that begins at it. -/
def GPlan.room (w : GPlan) (c n : Nat) (pair : Bool) : Nat :=
  let b := w.s.budget
  if c = 1 then
    let u := w.use.nat (n / 2)
    if pair then
      if u = 1 then 0
      else
        let d := w.duo n
        max (b / 2 - d.1) (b - d.2)
    else if u = 2 then 0 else b - w.pos.nat n
  else if pair then b - max (w.pos.nat n) (w.pos.nat (n + 1))
  else b - w.pos.nat n

/-- The candidate without its need of link buffers: what it finds then lacks no unit (R103, R122). -/
def Cand.unbuffered (x : Cand) : Cand := { x with q := { x.q with links := [] } }

/-- The unit with the largest remaining budget of at least the cost, the lowest of equals (R113). -/
def mostRoom (cost : Nat) (l : List (Nat × Nat)) : Option Nat :=
  (l.foldl (fun (a : Option (Nat × Nat)) x =>
    if x.2 < cost then a
    else match a with
      | none => some x
      | some y => if y.2 < x.2 then some x else some y) none).map (·.1)

/-- Place c clocks on a unit or pair outside the windows: the start clock, whether in slot 1 of a pair in DUAL use, and the
workspace after (R208). -/
def GPlan.fill (w : GPlan) (c n : Nat) (pair : Bool) (k : Nat) : Nat × Bool × GPlan :=
  let h := w.s.budget / 2
  if c = 1 ∧ pair then
    let d := w.duo n
    if d.1 + k ≤ h then
      (d.1, false, { w with use := mset w.use (n / 2) 2, pos := mset w.pos n (d.1 + k), two := mset w.two (n / 2) d.2 })
    else
      (d.2 - h, true, { w with use := mset w.use (n / 2) 2, pos := mset w.pos n d.1, two := mset w.two (n / 2) (d.2 + k) })
  else if pair then
    let p := max (w.pos.nat n) (w.pos.nat (n + 1))
    (p, false, { w with pos := mset (mset w.pos n (p + k)) (n + 1) (p + k) })
  else
    let p := w.pos.nat n
    (p, false, { w with pos := mset w.pos n (p + k), use := if c = 1 then mset w.use (n / 2) 1 else w.use })

/-! ### Quadrants and link buffers (R14, R103, R311) -/

/-- Link buffers that a chain reserves. -/
def Req.need (q : Req) : Nat := min 2 (countP q.links fun l => l.hdr.bufDst)

def State.bufsHeld (s : State) (k : Nat) : Nat := sumBy s.rng.reqs fun q => if q.quad = some k then q.bufs else 0

/-- The quadrant may take the segment. -/
def GPlan.quadOk (w : GPlan) (x : Cand) (k : Nat) : Bool :=
  match x.q.quad with
  | some j => j == k
  | none =>
    let u := w.s.unitSt (.quad k)
    u.eclPend.isNone && w.s.bufsHeld k + x.q.need ≤ 16

/-! ### Counts (R140, R144, R183) -/

/-- What the key's count says of a first segment. -/
inductive Count where
  | go | wait | exhausted
  deriving DecidableEq, Repr

/-- The seal takes a count with its first grant. -/
def Cand.counts (x : Cand) : Bool :=
  (x.l.hdr.opcode == opSeal || x.l.hdr.opcode == opGmacGen) && x.l.count.isNone && counting x.l.keyType

def State.countOf (s : State) (x : Cand) : Count :=
  if !x.counts then .go
  else match x.l.keySlot.bind s.slot with
    | none => .wait
    | some k =>
      if ctxLimit k.ctx ≤ k.next then .exhausted
      else if k.next < k.acked + 4096 then .go else .wait

/-- Take the count, and write the next reservation where L reaches D + 3,072 (R183). -/
def State.takeCount (s : State) (x : Cand) : State :=
  if !x.counts then s
  else match x.l.keySlot with
    | none => s
    | some k => match s.slot k with
      | none => s
      | some v =>
        let s := (s.onLink x.id fun l => { l with count := some v.next }).onSlot k fun y =>
          { y with next := v.next + 1, useTick := s.sch.tick }
        let live := !v.unusable && (s.part k.1).map (·.gen) == some k.2.2
        if v.next + 1 ≥ v.acked + 3072 && v.write.isNone && live then s.ledgerWrite k .use (v.acked + 4096) false else s

/-! ### Making a grant -/

/-- A job's slot that takes two engines (R209). -/
def Cand.duo (x : Cand) : Bool := (x.l.job.map (·.dual)).getD false

/-- Twice the cost on a pair, engines by their number (R111, R209). -/
def GPlan.charge (w : GPlan) (x : Cand) : Nat :=
  if x.cls = 2 then if x.duo then 2 else 1
  else if w.s.pairsFor x.q x.cls then 2 * x.cost else x.cost

/-- The number that a grant gives its segment: the segment number within the link, of a job's batch the number among its
batches and of its digest slots the number among those (R20, R429). -/
def Link.segNo (l : Link) : Nat :=
  match l.job with
  | none => l.seg
  | some j => match j.elems[j.elemNo]? with
    | none => l.seg
    | some e => countP (j.elems.take j.elemNo) fun x => x.isSlot == e.isSlot

/-- The grant of a candidate on a unit. -/
def Cand.grant (x : Cand) (u : UnitId) (pair : Bool) (start : Nat) (win lend : Bool) : Grant :=
  { unit := u, pair := pair, part := x.q.part, id := x.id, seg := x.l.segNo, cost := x.cost, start := start, len := x.len
    squeeze := x.squeeze, last := x.last, win := win, retry := x.retry, lending := lend, zero := x.zero, slot := x.slot }

/-- Add a grant: the request's first fixes its quadrant and reserves its link buffers (R14, R103). -/
def GPlan.add (w : GPlan) (x : Cand) (g : Grant) : GPlan :=
  let s := w.s.onReq x.id.ring x.id.idx fun q =>
    if q.quad.isSome then q else { q with quad := some (quadOf g.unit), bufs := q.need }
  { w with s := s, out := w.out ++ [g], done := x.id :: w.done, short := w.short.filter fun i => i != x.id }

/-- Units that a segment may run on outside the windows: of its quadrant or any, not excluded; `relaxed` takes
the gated and the capped too (R113, R307). -/
def GPlan.unitOk (w : GPlan) (x : Cand) (c : Nat) (pair relaxed : Bool) (n : Nat) : Bool :=
  let s := w.s
  let capped := if c = 0 then s.cappedLanes else []
  let ok (m : Nat) : Bool :=
    let u := mkUnit c m
    !x.l.excluded.contains u &&
      (if relaxed then !s.eclipsed u && (s.unitSt u).clear && (s.unitSt u).eclPend.isNone else s.usable u && !capped.contains m)
  w.quadOk x (n / perQuad c) && ok n && (!pair || (n % 2 == 0 && ok (n + 1)))

/-- The units for a retry: where the quadrant has no qualifying unit, its gated and capped ones (R307). -/
def GPlan.unitsFor (w : GPlan) (x : Cand) (c : Nat) (pair : Bool) (more : Nat → Bool) : List Nat :=
  let all := List.range (classUnits c).length
  let l := all.filter fun n => w.unitOk x c pair false n
  (if l.isEmpty && x.retry then all.filter fun n => w.unitOk x c pair true n else l).filter more

/-- A segment is left ungranted: for lack of a unit unless link buffers are what it lacks (R103, R122). -/
def GPlan.lacks (w : GPlan) (x : Cand) (unit : Bool) : GPlan × Bool := ({ w with short := if unit then x.id :: w.short else w.short }, false)

/-- A first segment waits for its key's count: counted once (R183, R184). -/
def GPlan.keyHold (w : GPlan) (x : Cand) : GPlan × Bool :=
  let first := match w.s.link x.id with
    | some (_, l) => !l.keyWait
    | none => false
  let s := (w.s.onLink x.id fun l => { l with keyWait := true }).onKey fun k =>
    { k with ledgerWaits := if first then sat 0xFFFF k.ledgerWaits 1 else k.ledgerWaits }
  ({ w with s := s }, false)

/-- A seal whose key is used up gets no grant, and ends (R144). -/
def GPlan.keyOut (w : GPlan) (x : Cand) : GPlan × Bool := ({ w with s := w.s.noteErr x.id stKeyExhausted, done := x.id :: w.done }, false)

/-! ### Lanes -/

/-- The lane or pair that R113 chooses outside the windows. -/
def GPlan.laneFor (w : GPlan) (x : Cand) (pair : Bool) : Option Nat :=
  mostRoom x.cost ((w.unitsFor x 0 pair fun _ => true).map fun n => (n, w.room 0 n pair))

/-- Grant a lane segment outside the windows. -/
def GPlan.tryLane (w : GPlan) (x : Cand) (lend : Bool) : GPlan × Bool :=
  let pair := w.s.binaryP x.q.part
  match w.laneFor x pair with
  | none => w.lacks x (w.laneFor x.unbuffered pair).isNone
  | some n => match w.s.countOf x with
    | .wait => w.keyHold x
    | .exhausted => w.keyOut x
    | .go =>
      let w := { w with s := w.s.takeCount x }
      let f := w.fill 0 n pair x.cost
      (f.2.2.add x (x.grant (.lane n) pair f.1 false lend), true)

/-! ### MACUs (R207, R208, R210) -/

/-- Regions free on a MACU, or on both of a pair. -/
def State.freeRegions (s : State) (n : Nat) (pair : Bool) : List Nat :=
  let free (m r : Nat) : Bool := (((s.dat.macus[m]?).map (·.regions)).getD []).getD r none == none
  (List.range 4).filter fun r => free n r && (!pair || free (n + 1) r)

/-- The words of an unwrapped extended record, as they stand in a region from its first word on (R174; log 90). -/
def recordWords (r : Nat) (b : Bytes) : List (Nat × BitVec 256) :=
  (List.range (cdiv b.length 32)).map fun k => (256 * r + k, BitVec.ofNat 256 (beNat (slice (b ++ zeros 32) (32 * k) 32)))

/-- Pin a job to a MACU or pair: its lowest-numbered free regions, which take its extended record (R174, R207). -/
def State.pin (s : State) (id : LinkId) (n : Nat) (pair : Bool) (k : Nat) : State :=
  let held := (s.freeRegions n pair).take k
  let ext := match s.link id with
    | some (_, l) => match l.job with
      | some j => if l.extKey then recordWords (held.headD 0) j.extRec else []
      | none => []
    | none => []
  let set (m : Macu) : Macu :=
    { m with regions := m.regions.zipIdx.map (fun r => if held.contains r.2 then some id else r.1)
             mem := ext.foldl (fun (t : Map (BitVec 256)) w => if w.2 = 0 then mdel t w.1 else mset t w.1 w.2) m.mem }
  let s := s.onDat fun d => { d with macus := updAt (if pair then updAt d.macus (n + 1) set else d.macus) n set }
  s.onLink id fun l => { l with job := l.job.map fun j => { j with macu := some n, held := held } }

/-- The MACU or pair that R113 and R207 choose outside the windows. -/
def GPlan.macuFor (w : GPlan) (x : Cand) (j : Job) : Option Nat :=
  let pair := j.dual
  let us := match j.macu with
    | some n => if w.s.runs (.macu n) && (!pair || w.s.runs (.macu (n + 1))) then [n] else []
    | none => w.unitsFor x 1 pair fun n => (w.s.freeRegions n pair).length ≥ j.regions
        && !w.s.holdsWindow 1 n && !(pair && w.s.holdsWindow 1 (n + 1))
  mostRoom x.cost (us.map fun n => (n, w.room 1 n pair))

/-- Grant a batch outside the windows. -/
def GPlan.tryMacu (w : GPlan) (x : Cand) (lend : Bool) : GPlan × Bool :=
  match x.l.job with
  | none => (w, false)
  | some j => match w.macuFor x j with
    | none => w.lacks x (w.macuFor x.unbuffered j).isNone
    | some n =>
      let w := if j.macu.isSome then w else { w with s := w.s.pin x.id n j.dual j.regions }
      let f := w.fill 1 n j.dual x.cost
      (f.2.2.add x { x.grant (.macu n) j.dual f.1 false lend with odd := f.2.1 }, true)

/-! ### Digest engines (R109, R193, R209) -/

/-- A pattern's engines in the coming tick: the substitute of R119 stands for one in its self-test tick (R309). -/
def State.engineSet (s : State) (p : Pattern) : List Nat :=
  p.engines.map fun n => if s.runs (.engine n) then n else (s.substitute 2 n false fun m => s.runs (.engine m)).getD n

/-- The engine may serve the retry: in service in its quadrant and not excluded (R307). -/
def State.retryEngine (s : State) (x : Cand) (n : Nat) : Bool :=
  !s.eclipsed (.engine n) && !x.l.excluded.contains (.engine n) && (match x.q.quad with
    | none => true
    | some k => n / 8 == k)

/-- The engines on which a sealed partition's message may bind: its reserved ones; for a retry that excludes all those of its
quadrant, or leaves one where a slot takes two, what R119 would choose in their place, a gated one where no other is in
service (R109, R197, R209, R307). -/
def State.sealedEngines (s : State) (x : Cand) : List Nat :=
  match (s.part x.q.part).bind (·.pattern) with
  | none => []
  | some p =>
    let own := s.engineSet p
    if !x.retry then own
    else
      let good := own.filter (s.retryEngine x)
      let base := 8 * x.q.quad.getD 0
      let subs := [base + 1, base].filter fun n => s.retryEngine x n && !s.holdsWindow 2 n && !good.contains n
      let up := subs.filter fun n => s.runs (.engine n)
      good ++ (if up.isEmpty then subs else up).take ((if x.duo then 2 else 1) - good.length)

/-- Engines that stand for reserved ones in the coming tick, which no ordinary partition takes (R119, R309). -/
def State.lentEngines (s : State) : List Nat := s.prt.parts.flatMap fun x => (x.2.pattern.map s.engineSet).getD []

/-- The engines that take a new binding or a digest slot of the segment: usable, unbound, not given out, and reserved to none
unless its partition is sealed; a retry may take a gated one (R109, R193, R197, R307). -/
def GPlan.enginesFor (w : GPlan) (x : Cand) : List Nat :=
  let s := w.s
  let up (n : Nat) : Bool := s.usable (.engine n)
    || (x.retry && s.quadGated (n / 8) && !s.eclipsed (.engine n) && (s.unitSt (.engine n)).clear && (s.unitSt (.engine n)).eclPend.isNone)
  let free (n : Nat) : Bool := up n && w.quadOk x (n / 8) && !w.taken.contains n
    && !x.l.excluded.contains (.engine n) && ((s.dat.engines[n]?).bind (·.bound)).isNone
  let sealedP := s.sealedP x.q.part
  let mine := if sealedP then s.sealedEngines x else s.lentEngines
  (List.range 32).filter fun n => free n && if sealedP then mine.contains n else !s.holdsWindow 2 n && !mine.contains n

/-- New bindings wait after a cut of the DIGEST quantum (R125). -/
def GPlan.bindWaits (w : GPlan) (p : Nat) : Bool := ((w.s.part p).map (·.digestCut)).getD false

/-- The lowest-numbered engine, or two of one quadrant for a slot under DUAL (R109, R209). -/
def GPlan.engineFor (w : GPlan) (x : Cand) : Option (Nat × Option Nat) :=
  let all := w.enginesFor x
  let mateOf (n : Nat) : Option Nat := all.find? fun m => m / 8 == n / 8 && n < m
  if x.duo then (all.find? fun n => (mateOf n).isSome).map fun n => (n, mateOf n) else all.head?.map fun n => (n, none)

/-- Grant a segment on an engine, or on two under DUAL. -/
def GPlan.onEngines (w : GPlan) (x : Cand) (g : Grant) (m : Option Nat) : GPlan :=
  let w := w.add x g
  match m with
  | none => w
  | some k => { w with out := w.out ++ [{ g with unit := .engine k, follow := true }] }

/-- Bind a message to an engine, or give a job's slot its engine or two (R109, R125, R209). -/
def GPlan.tryEngine (w : GPlan) (x : Cand) (win lend : Bool) : GPlan × Bool :=
  if w.bindWaits x.q.part then (w, false)
  else match w.engineFor x with
    | none => w.lacks x (w.engineFor x.unbuffered).isNone
    | some (n, m) => ({ w.onEngines x (x.grant (.engine n) false 0 win lend) m with taken := n :: m.toList ++ w.taken }, true)

/-- Grant a segment outside the windows, by its class. -/
def GPlan.attempt (w : GPlan) (x : Cand) (lend : Bool) : GPlan × Bool :=
  if x.cls = 0 then w.tryLane x lend else if x.cls = 1 then w.tryMacu x lend else w.tryEngine x false lend

/-! ### Sealed windows (R117, R210, R307) -/

/-- Where a cost fits in a window: its start, a DUAL batch never across H. -/
def GPlan.winStart (w : GPlan) (c : Nat) (v : Win) (k : Nat) : Option Nat :=
  let h := w.s.budget / 2
  let p := v.start + v.used
  let p := if c = 1 ∧ v.pair ∧ p < h ∧ p + k > h then h else p
  if p + k ≤ v.start + v.len then some p else none

/-- The elements of a job that is not pinned yet, if it is pinned to the partial window beside its partition's whole MACUs
(R210). -/
def Cand.altOn (x : Cand) (v : Win) : Option (List JElem × Nat) :=
  (x.l.job.bind (·.alt)).bind fun a => if v.len = a.1 then some a.2 else none

/-- What the segment costs in the window. -/
def Cand.costIn (x : Cand) (v : Win) : Nat :=
  match (x.altOn v).bind fun a => (x.l.job.bind fun j => a.1[j.elemNo]?) with
  | some (.batch c) => c
  | _ => x.cost

/-- The window with the largest remainder that takes the segment, the lowest unit of equals. -/
def GPlan.pickWin (w : GPlan) (x : Cand) (ok : Win → Bool) : Option Win :=
  let l := w.wins.filter fun v => v.part == x.q.part && w.quadOk x (v.unit / perQuad x.cls) && ok v && (w.winStart x.cls v (x.costIn v)).isSome
  (l.foldl (fun (a : Option Win) v => match a with
    | none => some v
    | some y =>
      let r := v.len - v.used
      let z := y.len - y.used
      if z < r || (z == r && v.unit < y.unit) then some v else some y) none)

/-- The window's units run and none is excluded. -/
def GPlan.winRuns (w : GPlan) (x : Cand) (v : Win) : Bool :=
  let ok (n : Nat) : Bool := w.s.runs (mkUnit x.cls n) && !x.l.excluded.contains (mkUnit x.cls n)
  ok v.unit && (!v.pair || ok (v.unit + 1))

/-- The window lies where the request may run (R14). -/
def GPlan.inQuad (w : GPlan) (x : Cand) (v : Win) : Bool := v.part == x.q.part && w.quadOk x (v.unit / perQuad x.cls)

/-- For a retry whose only windows in its quadrant lie on excluded units: the same windows on the substitute of R119, a gated
or capped unit where no other qualifies (R307). -/
def GPlan.retryWins (w : GPlan) (x : Cand) : GPlan :=
  let mine := w.wins.filter (w.inQuad x)
  if !x.retry || mine.any (fun v => w.winRuns x v) then w
  else match mine.head? <|> w.wins.find? fun v => v.part == x.q.part with
    | none => w
    | some v =>
      let c := x.cls
      let home := if w.inQuad x v then v.unit else perQuad c * x.q.quad.getD 0
      let free (n : Nat) : Bool := !x.l.excluded.contains (mkUnit c n) && w.quadOk x (n / perQuad c)
      match w.s.substitute c home v.pair (fun n => w.s.usable (mkUnit c n) && free n)
          <|> w.s.substitute c home v.pair (fun n => !w.s.eclipsed (mkUnit c n) && free n) with
      | none => w
      | some n =>
        let y := { v with unit := n, used := 0 }
        let w := w.block c y
        { w with wins := w.wins ++ [y] }

/-- The engines that a message is bound to, two for one of a job under DUAL (R109, R209). -/
def State.boundTo (s : State) (id : LinkId) : List Nat :=
  (s.dat.engines.zipIdx.filter fun e => e.1.bound == some id).map (·.2)

/-- Grant a bound message's next segment on its engines. -/
def GPlan.onBound (w : GPlan) (x : Cand) (win : Bool) : GPlan × Bool :=
  match w.s.boundTo x.id with
  | [] => (w, false)
  | n :: l =>
    if (n :: l).all fun k => w.s.runs (.engine k) then
      (w.onEngines x { x.grant (.engine n) false 0 win false with cont := true } l.head?, true)
    else (w, false)

/-- A job is pinned: its elements are those of its window's batch limit (R210). -/
def State.repack (s : State) (id : LinkId) (a : Option (List JElem × Nat)) : State :=
  s.onLink id fun l => { l with job := l.job.map fun j => match a with
    | some e => { j with elems := e.1, valid := e.2, alt := none }
    | none => { j with alt := none } }

/-- The window takes the segment as far as its units go: for a retry gated and capped ones too (R307). -/
def GPlan.winTakes (w : GPlan) (x : Cand) (v : Win) : Bool :=
  let ok (n : Nat) : Bool := !x.l.excluded.contains (mkUnit x.cls n) && !w.s.eclipsed (mkUnit x.cls n)
  w.winRuns x v || (x.retry && ok v.unit && (!v.pair || ok (v.unit + 1)))

/-- No unit that R307 allows can take the retry: none of the quadrant, or for a sealed partition none of its windows or
engines there nor a substitute. -/
def State.noRetry (s : State) (x : Cand) : Bool :=
  x.retry && (
    if s.sealedP x.q.part then
      if x.cls = 2 then decide ((s.sealedEngines x |>.filter (s.retryEngine x)).length < if x.duo then 2 else 1)
      else
        let w := ({ s := s, t := 0 } : GPlan).begin x.cls |>.retryWins x
        !w.wins.any fun v => w.inQuad x v && w.winTakes x v
    else match x.q.quad with
      | none => false
      | some k => !(List.range (perQuad x.cls)).any fun i => s.retryUnit x.l x.cls (k * perQuad x.cls + i) (s.pairsFor x.q x.cls))

/-- A retry that R307 cannot place fails, before the self-tests of the coming tick are fixed (R309). -/
def State.retriesCut (s : State) : State :=
  s.rng.reqs.foldl (fun s q => match (q.links[q.current]?).map (·.retryDue), s.candOf q 0 with
    | some true, some x =>
      if s.noUnits q x.cls || !s.noRetry x then s else s.retryFailed x.id [] (uid (x.l.charged.headD (.lane 0)))
    | _, _ => s) s

/-- Grant a sealed segment into its partition's windows and engines. -/
def GPlan.trySealed (w : GPlan) (x : Cand) : GPlan × Bool :=
  let c := x.cls
  if c = 2 then if (w.s.boundTo x.id).isEmpty then w.tryEngine x true false else w.onBound x true
  else
    let w := w.retryWins x
    let job := x.l.job
    let pinned := job.bind (·.macu)
    let regs := (job.map (·.regions)).getD 0
    let new (v : Win) : Bool := ((w.s.unitSt (.macu v.unit)).eclPend.isNone && (!v.pair || (w.s.unitSt (.macu (v.unit + 1))).eclPend.isNone))
      && decide (minJobWindow ≤ v.len) && decide (regs ≤ (w.s.freeRegions v.unit v.pair).length)
    let ok (v : Win) : Bool :=
      w.winTakes x v && (c != 1 || (match pinned with
        | some n => v.unit == n
        | none => new v))
    match w.pickWin x ok with
    | none => w.lacks x true
    | some v => match w.s.countOf x with
      | .wait => w.keyHold x
      | .exhausted => w.keyOut x
      | .go =>
        let x := { x with cost := x.costIn v }
        let p := (w.winStart c v x.cost).getD 0
        let w := { w with s := w.s.takeCount x, wins := w.wins.map fun y => if y == v then { y with used := p + x.cost - v.start } else y
                          use := if c = 1 then mset w.use (v.unit / 2) (if v.pair then 2 else 1) else w.use }
        let w := if c = 1 && pinned.isNone then { w with s := (w.s.pin x.id v.unit v.pair regs).repack x.id (x.altOn v) } else w
        let h := w.s.budget / 2
        let start := if c = 1 ∧ v.pair ∧ p ≥ h then p - h else p
        (w.add x { x.grant (mkUnit c v.unit) v.pair start true false with odd := decide (c = 1 ∧ v.pair ∧ p ≥ h) }, true)

/-! ### The passes (R112) -/

/-- A partition's dc in a class. -/
def State.dcOf (s : State) (p c : Nat) : Nat := ((s.part p).map (·.dc)).getD [] |>.getD c 0

def State.setDc (s : State) (p c v : Nat) : State := s.onPart p fun x => { x with dc := updAt x.dc c fun _ => v }

/-- q, the quantum of the coming tick. -/
def GPlan.quant (w : GPlan) (floors : Map (List Nat)) (c p : Nat) : Nat := w.s.quantum c (((mget floors p).getD []).getD c 0)

/-- g, the ceiling of the coming tick. -/
def GPlan.ceil (w : GPlan) (c p : Nat) : Nat := w.s.quantum c (((w.s.part p).map fun x => (w.s.coming p x).ceiling).getD 0)

/-- Credit dc: q more up to q + B, or q + 1 engine-ticks, where the partition has an eligible segment; else 0. -/
def GPlan.credit (w : GPlan) (floors : Map (List Nat)) (c : Nat) (has : List Nat) : GPlan :=
  let top := if c = 2 then 1 else w.s.budget
  w.s.prt.parts.foldl (fun w x =>
    let q := w.quant floors c x.1
    { w with s := w.s.setDc x.1 c (if has.contains x.1 then min (w.s.dcOf x.1 c + q) (q + top) else 0) }) w

/-- The floor pass over one partition's segments in service order. -/
def GPlan.floorPart (w : GPlan) (c p g : Nat) : List Cand → GPlan
  | [] => w
  | x :: l =>
    let k := w.charge x
    if !x.retry && (k > w.s.dcOf p c || w.used.nat p + k > g) then w
    else
      let r := w.attempt x false
      if r.2 then
        ({ r.1 with s := r.1.s.setDc p c (r.1.s.dcOf p c - k), used := mset r.1.used p (r.1.used.nat p + k) }).floorPart c p g l
      else r.1.floorPart c p g l

/-- The first segment of a partition that the lending pass can grant. -/
def GPlan.lendPart (w : GPlan) (c p g : Nat) : List Cand → GPlan × Bool
  | [] => (w, false)
  | x :: l =>
    let k := w.charge x
    if w.done.contains x.id || w.used.nat p + k > g then w.lendPart c p g l
    else
      let r := w.attempt x true
      if r.2 then
        ({ r.1 with used := mset r.1.used p (r.1.used.nat p + k), bor := mset r.1.bor p (r.1.bor.nat p + k) }, true)
      else r.1.lendPart c p g l

/-- Rounds of the lending pass until one grants nothing. -/
def GPlan.lend (c : Nat) (work : List (Nat × List Cand)) : Nat → GPlan → GPlan
  | 0, w => w
  | n + 1, w =>
    let r := work.foldl (fun (a : GPlan × Bool) x =>
      let y := a.1.lendPart c x.1 (a.1.ceil c x.1) x.2
      (y.1, a.2 || y.2)) (w, false)
    if r.2 then GPlan.lend c work n r.1 else r.1

/-- The bound engines: each charges its owner one engine-tick, and its message's next segment is granted where
it is eligible (R109, R112). A message whose last segment runs in this tick is not charged for the next. -/
def GPlan.boundPass (w : GPlan) (cands : List Cand) : GPlan :=
  w.s.dat.engines.zipIdx.foldl (fun w e => match e.1.bound with
    | none => w
    | some id =>
      let ends := match w.s.runningOf id, w.s.link id with
        | some g, some (_, l) => if l.job.isSome then g.last else (l.absDone || g.last) &&
            l.squeezed + g.squeeze ≥ (if l.hdr.opcode = opDigest then squeezes l.hdr.subop (l.hdr.w 12) else 0)
        | _, _ => false
      let w := if ends then w else { w with used := mset w.used e.1.part (w.used.nat e.1.part + 1) }
      match cands.find? fun x => x.id == id && x.cls == 2 && !w.done.contains id with
      | none => w
      | some x => (w.onBound x false).1) w

/-- The lending pass of a class, counted as a decision where it grants (R112, R122). -/
def GPlan.lendPass (w : GPlan) (c : Nat) (work : List (Nat × List Cand)) (n : Nat) : GPlan :=
  let before := w.out.length
  let w := GPlan.lend c work n w
  if w.out.length > before then { w with s := w.s.onSch fun k => { k with decisions := k.decisions + 1 } } else w

/-- Of the links left without a unit an ordinary one lacks it (R122). -/
def State.noteShort (s : State) (left : List LinkId) : State :=
  let open' := left.any fun i => match s.link i with
    | some (q, _) => !s.sealedP q.part
    | none => false
  s.onSch fun k => { k with lack := k.lack || open' }

/-- Messages left without an engine; each is counted once (R200, R209). -/
def State.noteMsgs (s : State) (msgs : List LinkId) : State :=
  let new := msgs.filter fun i => ((s.link i).map fun x => !x.2.engWait).getD false
  let s := new.foldl (fun s i => s.onLink i fun l => { l with engWait := true }) s
  s.onSch fun k => { k with digestWait := msgs.length, waitEvents := sat 0xFFFF k.waitEvents new.length }

/-- What waits for a unit of the class: messages are counted, and jobs that lack a MACU, a pair or regions; a job that lacks its
unit is not charged for the tick (R122, R200, R206, R228, R238). -/
def GPlan.noteWaits (w : GPlan) (c : Nat) (mine : List Cand) : GPlan :=
  let left := mine.filter fun x => w.short.contains x.id && !w.done.contains x.id
  let s := w.s.noteShort (left.map (·.id))
  let s := left.foldl (fun s x => s.onLink x.id fun l => { l with job := l.job.map fun j => { j with noCharge := true } }) s
  { w with s := if c = 1 then s.onSch fun k => { k with unplaced := k.unplaced + left.length }
                else if c = 2 then s.noteMsgs ((left.filter fun x => !x.slot).map (·.id))
                else s }

/-- Requests that no thread could begin to prepare in their preparation tick, for lack of a thread or of buffers (R206, R228,
R231). -/
def State.unbegun (s : State) : Nat :=
  countP s.allLinks fun x =>
    let l := x.2.2
    let due := match l.prepAt with
      | some t => tickGe s.sch.tick t
      | none => false
    due && l.job.isNone && l.stat.isNone && x.2.1.abort == .none && isOrrery l.hdr.opcode l.hdr.subop
      && (s.freeThread.isNone || decide (s.freeBuffers.length < bufferCount l.hdr))

/-- Sealed segments into their windows, partition by partition (R112, R117). -/
def GPlan.sealedPass (w : GPlan) (mine : List Cand) : GPlan :=
  (w.s.prt.parts.filter fun p => p.2.entry.isSealed).foldl (fun w p =>
    (mine.filter fun x => x.q.part == p.1).foldl (fun w x => if w.done.contains x.id then w else (w.trySealed x).1) w) w

/-- The floor pass (R112). -/
def GPlan.floorPass (w : GPlan) (c : Nat) (work : List (Nat × List Cand)) : GPlan :=
  work.foldl (fun w x => w.floorPart c x.1 (w.ceil c x.1) (x.2.filter fun y => !w.done.contains y.id)) w

/-- One class of R112. -/
def GPlan.runClass (w : GPlan) (cands : List Cand) (floors : Map (List Nat)) (c : Nat) : GPlan :=
  let w := w.begin c
  let mine := serviceOrder w.s.sch.tick (cands.filter fun x => x.cls == c)
  let isSeal (x : Cand) : Bool := w.s.sealedP x.q.part
  let has := ((mine.filter fun x => !isSeal x).map (·.q.part)).eraseDups
  let w := w.sealedPass mine
  let w := (if c = 2 then w.boundPass mine else w).credit floors c has
  let order := sortBy (fun p => modSub p (w.t % 1024) 1024) has
  let work := order.map fun p => (p, mine.filter fun x => x.q.part == p && !w.done.contains x.id && (c != 2 || (w.s.boundTo x.id).isEmpty))
  ((w.floorPass c work).lendPass c work (mine.length + 1)).noteWaits c mine

/-- The grant set of the coming tick, in the order the Scheduler makes its grants: class by class, and in a class
sealed windows and bindings, floor pass, lending pass (R112, R430). -/
def State.makePlan (s : State) : State :=
  let floors := s.comingFloors
  let r := s.scanAll
  let s := r.1.onSch fun k => { k with lack := false, unplaced := s.unbegun }
  let cut (x : Nat × Part) : Nat × Part :=
    let f := (mget floors x.1).getD []
    let bound := countP s.dat.engines fun e => e.bound.isSome && e.part == x.1
    let falls := decide ((s.coming x.1 x.2).floor < x.2.floor) && s.digestFalls x.2 f
    (x.1, { x.2 with digestCut := (x.2.digestCut || falls) && decide (s.quantum 2 (f.getD 2 0) < bound) })
  let s := s.onPrt fun t => { t with parts := t.parts.map cut }
  let w : GPlan := { s := s, t := (s.sch.tick + 1) % 2 ^ 32 }
  let w := [0, 1, 2].foldl (fun w c => w.runClass r.2 floors c) w
  w.s.onSch fun k => { k with plan := w.out }

end Sys2Proof.Machine
end

