-- ==== Sys2Proof/Machine/Cut.lean ====
section
/-! DEFINITION. Grants that run, the eligibility cut, and the commands of requests (R81, R100, R117, R154,
R197, R206, R223, R257, R258, R261, R262, R306 to R308, R315 to R317). -/

namespace Sys2Proof.Machine

/-! ### A grant runs (R100, R126, R187, R205) -/

/-- The work of a grant on its unit. -/
def State.runUnit (s : State) (g : Grant) : State :=
  match s.link g.id with
  | none => s
  | some (_, l) =>
    if l.stat.isSome then s
    else match g.unit with
      | .lane _ => s.runLane g l
      | .engine _ => if l.job.isSome then s.runJob g.id l else s.runDigest g l
      | _ => s.runJob g.id l

/-- The whole work of a link has run: it has its result, or a creation only its Vault steps (R307, R308). -/
def State.workOver (s : State) (id : LinkId) : Bool :=
  match s.link id with
  | none => true
  | some (_, l) => l.stat.isSome || (match l.job with
      | some j => j.built && j.elemNo ≥ j.elems.length
      | none => false)

/-- Run a grant that was issued at the last boundary. A retry has succeeded when its lane segment has run, or all
the work of its message or job (R308). A leader's word that the follower has not put out by then is a difference: no output
leaves before the comparison (R222; log 119). -/
def State.runGrant (s : State) (g : Grant) : State :=
  match s.dat.compare.find? fun w => w.id == g.id with
  | some w => s.strike ⟨.dualMismatch, w.lead, g.id, 0⟩ g
  | none =>
  let s := s.stopBatch g.id
  let s := s.onSch fun c => { c with running := c.running.filter fun h => h.id != g.id }
  if g.follow then s
  else
    let lane := match g.unit with
      | .lane _ => true
      | _ => false
    if lane then (s.retryOk g.id).runUnit g
    else
      let t := s.runUnit g
      if t.workOver g.id then (s.retryOk g.id).runUnit g else t

/-- The running grant of a link. -/
def State.runLink (s : State) (id : LinkId) : State :=
  match s.runningOf id with
  | none => s
  | some g => s.runGrant g

/-- Run every running grant that satisfies the test, in the order issued. -/
def State.runAll (s : State) (p : Grant → Bool) : State :=
  (s.sch.running.filter fun g => !g.follow && p g).foldl (fun s g => if s.sch.running.contains g then s.runGrant g else s) s

/-- The clock after a grant's last, where it is known: a pair in DUAL use counts its second slot from H. -/
def State.grantEnd (s : State) (g : Grant) : Nat :=
  g.start + g.cost + (match g.unit with
    | .macu _ => if g.pair then s.budget / 2 else 0
    | _ => 0)

/-! ### Aborts observed (R315 to R317) -/

/-- The tag of an AEAD_SEAL is on its way to memory, which an abort cannot stop; the link keeps its status (R87, R316,
log 109). -/
def State.tagSent (s : State) (id : LinkId) (l : Link) : Bool :=
  l.hdr.opcode == opSeal && l.stat.any Stat.good && s.writes.any fun w => w.issued && !w.given && isLinkData id w.purpose

/-- Every record of the request made or ready. -/
def State.committed (s : State) (q : Req) : Bool :=
  q.openSince.isNone && (List.range q.links.length).all fun k => match q.links[k]? with
    | some l => l.recorded || s.linkDone (q.linkId k) l || s.tagSent (q.linkId k) l
    | none => true

/-- An abort reaches a request (R316). -/
def State.abortReq (s : State) (q : Req) : State :=
  if s.committed q then s
  else
    let k := min q.current (q.links.length - 1)
    let id := q.linkId k
    if s.vaultUnder id then s
    else match q.links[k]? with
      | none => s.onReq q.ring q.idx fun q => { q with abort := .stopping }
      | some l =>
        let began := q.granted || l.job.isSome || 0 < k
        let s := if l.retryDue then l.excluded.foldl (fun s u => s.markDue l.retryDet u) s else s
        let s := s.onReq q.ring q.idx fun q => { q with abort := .stopping }
        let s := s.onLink id fun l => { l with retried := l.retried && !l.retryDue, retryUsed := false }
        let s := if l.hdr.opcode = opSeal ∧ l.stat.isSome then s.dropWrites id else s
        let s := match l.job with
          | some j => if s.jobThread id j.thread then s.freeGroup j.thread else s
          | none => s
        s.abortFrom q k fun i => if i = k ∧ began then stAborted 2 else stAborted 1

/-- One abort of a ring is observed: its range, from the index to the producer index accepted before the write, without
what lies a whole round of indices behind; the mark of R52 and the requests in the range; its record 0x0830 is
written at the coming boundary (log 33). -/
def State.abortRange (s : State) (r : Nat) (a : Nat × Nat) : State :=
  let x := s.ring r
  let n := x.span
  let head := if x.attr.stream then x.frameIdx else x.subHead
  let back := modSub head a.1 n
  let p := if x.attr.stream then head else a.2
  let ahead := if modSub p head n ≤ x.depth then modSub p head n else 0
  let hi := if x.st == .active && !x.attr.stream then p
    else if x.depth < back then a.1
    else if modSub p a.1 n ≤ back then p else head
  let mine := s.rng.reqs.filter fun q => q.ring == r && inRange n a.1 hi q.idx && decide (q.behind + ahead ≤ 2 * x.depth)
  let late := a.1 != hi && (match mine.find? fun q => q.idx % n == a.1 with
    | some q => s.committed q
    | none => decide (0 < back) && decide (back ≤ x.depth))
  let s := s.onRng fun t => { t with reqs := t.reqs.map fun q => { q with inAbort := q.inAbort || mine.any fun o => o.ring == q.ring && o.idx == q.idx } }
  let s := s.onRing r fun x => { x with abortLate := x.abortLate || late, aborting := x.aborting ++ [(a.1, hi)] }
  let s := s.onRing r fun x => { x with abortRecs := x.abortRecs ++ [(a.1, late)] }
  (mine.foldl (fun s q => s.abortReq q) s).abortTidy r

/-- Every abort accepted since the last cut is observed. -/
def State.abortsCut (s : State) : State :=
  (s.rng.rings.filter fun x => !x.2.aborts.isEmpty).foldl (fun s x =>
    let s := s.onRing x.1 fun y => { y with aborts := [] }
    x.2.aborts.foldl (fun s a => s.abortRange x.1 a) s) s

/-! ### Failures found before the work (R90, R183, R278) -/

/-- The failure lets the link run on: a poisoned source range, or a destination error (R277, R280). -/
def Link.runsOn (l : Link) : Bool :=
  match l.err with
  | none => true
  | some e => (e.code == 0x41 && !l.poisoned.isEmpty) || e == stBusError atDestination

/-- Links in progress whose failure stops them end with it. -/
def State.endErrs (s : State) : State :=
  s.rng.reqs.foldl (fun s q => match q.links[q.current]? with
    | none => s
    | some l => if l.runsOn || l.timedOut || !s.openTo q l then s else (s.withdraw (q.linkId q.current)).endLink (q.linkId q.current) stOk) s

/-- Links with a read that timed out end at the cut after it (R274). -/
def State.timeoutsCut (s : State) : State :=
  (s.linksWith fun _ l => l.timedOut && l.stat.isNone).foldl (fun s id => (s.withdraw id).endLink id stOk) s

/-! ### Jobs (R206) -/

/-- Orrery work that meets every condition but its preparation: the coming tick is its preparation tick, for a
sealed partition not before the tick ahead of its eligibility. Prepared work that takes no grant is eligible now (R424). -/
def State.jobsCut (s : State) : State :=
  let t := s.sch.tick
  s.rng.reqs.foldl (fun s q =>
    let id := q.linkId q.current
    match q.links[q.current]? with
    | none => s
    | some l =>
      let s := s.jobBuild id
      if s.prepOpen q l (t + 2) then s.onLink id fun l => { l with prepAt := some ((t + 1) % 2 ^ 32) }
      else if l.job.isSome && l.stat.isNone && !hasElems l.hdr.opcode l.hdr.subop && q.eligTick.isNone then
        s.onReq q.ring q.idx fun q => { q with eligTick := some t }
      else s) s

/-! ### The DRBG plan (R257, R258, R261, R262) -/

/-- A KEY_IMPORT whose blob names no instance identifier draws one (R178). -/
def Link.importDraws (l : Link) : Bool := leAt l.source 12 4 == 0

/-- DRBG work that a request has ready: its current link and the item. -/
def State.drbgWork (s : State) (q : Req) : Option (LinkId × Item) :=
  let id := q.linkId q.current
  (q.links[q.current]?).bind fun l =>
    let ok := if direct l.hdr then s.openTo q l && s.arrived q && l.holds l.hdr.sLen
      else l.prepAt.isSome && q.abort == .none && l.stat.isNone
    if !ok || s.hasItem id then none else (linkItem q.part l.importDraws l).map fun x => (id, x)

/-- Work in service order: by the tick of eligibility, for a draw of the Orrery that in which all but its preparation held,
ring, submission index (R112, R257). -/
def State.drbgKey (s : State) (q : Req) : List Nat :=
  let prep := ((q.links[q.current]?).bind (·.prepAt)).map fun t => modSub t 1 (2 ^ 32)
  [2 ^ 32 - modSub s.sch.tick ((prep <|> q.eligTick).getD s.sch.tick) (2 ^ 32), q.ring, s.subOf q]

def insertReq (f : Req → List Nat) (x : Req) : List Req → List Req
  | [] => [x]
  | y :: l => if lexLt (f x) (f y) then x :: y :: l else y :: insertReq f x l

/-- Place what some requests have ready on some instances; a sealed partition's that lacks a block is late (R262). -/
def DPlan.requests (p : DPlan) (t : Nat) (qs : List Req) (ok : Nat → Bool) : DPlan :=
  qs.foldl (fun p q => match p.s.drbgWork q with
    | none => p
    | some x =>
      if !ok x.2.inst then p
      else
        let e := some (q.eligTick.getD p.s.sch.tick)
        let p := if ((q.links[q.current]?).map fun l => isOrrery l.hdr.opcode l.hdr.subop).getD false then p else { p with s := p.s.onReq q.ring q.idx fun q => { q with eligTick := e } }
        let r := p.work t x.1 x.2 (p.s.sealedP x.2.inst)
        if r.2 then { r.1 with s := r.1.s.noteLate q (((q.links[q.current]?).map (·.seg)).getD 0) } else r.1) p

/-- The DRBG cores' work of the coming tick, in the order of R257: the internal instances in ascending number, the
partitions' instantiations, their work, and reseeds ahead of need. Draws on the hedging instance go by eligibility, ring and
index over all partitions (DESIGN CHOICE, log 126). -/
def State.drbgCut (s : State) : State :=
  let t := (s.sch.tick + 1) % 2 ^ 32
  let rr := t % 1024
  let qs := s.rng.reqs.foldl (fun l q => insertReq s.drbgKey q l) []
  let turn := sortBy (fun q => modSub q.part rr 1024) qs
  let p := (s.drbgStart t).instantiate t hedgeInst (hedgeInst + 1)
  let p := p.requests t qs fun i => 1024 ≤ i
  let p := ((p.instantiate t (hedgeInst + 1) (keyInst + 1)).drawSpill t).instantiate t (keyInst + 1) 1040
  let p := (p.instantiate t 0 1024).uninstantiate t
  ((p.requests t turn fun i => i < 1024).ahead t).s

/-! ### Ungating (R122, R124, R405) -/

/-- A segment was left ungranted for lack of a unit: power is requested for the lowest-numbered gated quadrant, as far as
the lane cap leaves lanes for it. -/
def State.ungate (s : State) : State :=
  let gated := countP (List.range 4) s.quadGated
  if !s.sch.lack || s.paused || s.sch.laneCap ≤ 16 - 4 * gated then s
  else match (List.range 4).find? fun q => s.quadGated q && !s.quadEcl q with
    | none => s
    | some q =>
      if s.io.quadReq.getD q false || s.io.quadAck.getD q false then s
      else
        let s := s.onIo fun i => { i with quadReq := updAt i.quadReq q fun _ => true }
        (s.onSch fun c => { c with decisions := c.decisions + 1 }).log 0x0A02 uidPolicy noPart

/-! ### The cut -/

/-- A command that belongs to the boundary of this tick has not come yet: the epoch's pattern, the entry to SWAP or the
exit from it, the end of SEEDING, an eclipse, a window of the policy loop (log 3). -/
def State.boundaryDue (s : State) : Bool :=
  s.ldr.seedEnd || (allUnits.any fun u => (s.unitSt u).eclDue) || (s.sch.tick % 1024 == 0 && !s.sch.epochDone) || s.ory.swapStage == 1 || s.ory.swapStage == swapExitDue
    || (!s.paused && (decide (16 ≤ s.sch.winTicks) || decide (64 ≤ s.sch.shapeTicks)))

/-- ELIGIBILITY_CUT: the set of eligible segments is frozen and the grant set of the coming tick computed. The faults
given are those found before the cut; a grant whose clocks end before it has run (R100, R307). -/
def execEligibilityCut (faults : List UnitFault) (s : State) : Out :=
  .next (
    if !s.ticking || s.sch.cutDone || s.boundaryDue then s
    else
      let s := s.strikeAll faults
      let s := s.runAll fun g => !g.slot && decide (s.grantEnd g ≤ s.tickLen - 512)
      let s := s.residCut.abortsCut.timeoutsCut.endErrs.retriesCut.testsCut.jobsCut
      let s := (s.forEpoch.makePlan.ungate.closedCut.drbgCut.backFrom s).lightWindows
      s.onSch fun c => { c with cutDone := true })

/-! ### Commands of requests -/

/-- The grant of a link of one opcode, issued at the last boundary, runs. -/
def State.runOp (s : State) (op : Nat) (id : LinkId) : State :=
  match s.link id with
  | none => s
  | some (_, l) => if l.hdr.opcode = op ∧ s.serving then s.runLink id else s

/-- AEAD_SEAL (R126, R131 to R135, R146). -/
def execAeadSeal (id : LinkId) (s : State) : Out := .next (s.runOp opSeal id)

/-- AEAD_OPEN (R126, R147, R148). -/
def execAeadOpen (id : LinkId) (s : State) : Out := .next (s.runOp opOpen id)

/-- CIPHER_ENC (R136 to R138). -/
def execCipherEnc (id : LinkId) (s : State) : Out := .next (s.runOp opEnc id)

/-- CIPHER_DEC (R136 to R138). -/
def execCipherDec (id : LinkId) (s : State) : Out := .next (s.runOp opDec id)

/-- GMAC_GEN (R132). -/
def execGmacGen (id : LinkId) (s : State) : Out := .next (s.runOp opGmacGen id)

/-- GMAC_VERIFY (R132, R149). -/
def execGmacVerify (id : LinkId) (s : State) : Out := .next (s.runOp opGmacVer id)

/-- DIGEST (R187, R192). -/
def execDigest (id : LinkId) (s : State) : Out := .next (s.runOp opDigest id)

/-- HMAC_GEN (R189). -/
def execHmacGen (id : LinkId) (s : State) : Out := .next (s.runOp opHmacGen id)

/-- HMAC_VERIFY (R190). -/
def execHmacVerify (id : LinkId) (s : State) : Out := .next (s.runOp opHmacVer id)

/-- COPY (R68). -/
def execCopy (id : LinkId) (s : State) : Out := .next (s.runOp opCopy id)

/-- PK_JOB: the job's running element; after the last of a key generation the Vault writes begin (R176, R205, R211
to R221). -/
def execPkJob (id : LinkId) (s : State) : Out := .next ((s.runOp opPk id).createOf opPk id)

/-- A NOP or FENCE may complete as far as its ring and its partition go. -/
def State.bareOk (s : State) (q : Req) (l : Link) : Bool :=
  s.serving && s.partState q.part == .active && s.ringRuns q && q.openSince.isNone && q.abort == .none && l.stat.isNone

/-- NOP: completes OK with no data, with FENCE_BEFORE once every earlier request of the ring has its record (R21, R64,
R81). -/
def execNop (id : LinkId) (s : State) : Out :=
  .next (match s.link id with
    | none => s
    | some (q, l) =>
      if l.hdr.opcode = opNop ∧ s.bareOk q l ∧ (!l.hdr.fence || s.ringClear q) then s.endLink id stOk else s)

/-- FENCE RING: completes once every earlier request of its ring has its record (R81, R304). -/
def execFenceRing (id : LinkId) (s : State) : Out :=
  .next (match s.link id with
    | none => s
    | some (q, l) =>
      if l.hdr.opcode = opFence ∧ l.hdr.subop = 0 ∧ s.bareOk q l ∧ s.ringClear q then s.endLink id stOk else s)

/-- FENCE PARTITION: completes once every request of the partition fetched before it has its record
(R81, R304). -/
def execFencePartition (id : LinkId) (s : State) : Out :=
  .next (match s.link id with
    | none => s
    | some (q, l) =>
      if l.hdr.opcode = opFence ∧ l.hdr.subop = 1 ∧ s.bareOk q l ∧ s.partClear q then s.endLink id stOk else s)

end Sys2Proof.Machine
end

