-- ==== Sys2Proof/Machine/Contain.lean ====
section
/-! DEFINITION. Mode changes, the commit of Ephemeris records, and entry to CONTAINMENT (R314, R361, R363, R365,
R366, R369, R415, R420, R431). -/

namespace Sys2Proof.Machine

/-! ### The commit queue (R415) -/

/-- Records that may commit next: of the oldest tick, none behind an earlier one of its request or its unit. -/
def ephReady : List EphQ → List EphQ → List EphQ
  | _, [] => []
  | before, r :: l =>
    let free := before.all fun b => b.source != r.source && (r.req.isNone || b.req != r.req)
    (if free then [r] else []) ++ ephReady (before ++ [r]) l

/-- The next record to commit: the lowest source of those; before tick 0 the oldest (R415). -/
def ephNext (q : List EphQ) : Option EphQ :=
  match q with
  | [] => none
  | h :: _ => if h.early then some h else minBy (·.source) (ephReady [] (q.filter fun r => r.tick == h.tick))

/-- A FAULT or FATAL record arms the freeze of the grant log (R431). -/
def Glog.onRecord (g : Glog) (sev : Nat) (seq : W32) : Glog :=
  if sev < 3 || !g.onFault || g.frozen || g.counting.isSome then g
  else
    let n := min 4096 g.post
    if n = 0 then { g with trigger := seq, frozen := true } else { g with trigger := seq, counting := some n }

/-- Records retained (R417). -/
def ephDepth : Nat := 8192

/-- Commit one record: seq and time are taken, counters move, a held record takes the free entry (R415, R420). -/
def State.commitOne (s : State) : State :=
  match ephNext s.eph.queue with
  | none => s
  | some r =>
    let seq := s.eph.nextSeq
    let s := s.onEph fun e =>
      let isOver := decide (ephDepth ≤ e.recs.length) && (e.recs.getLast?.map fun x => !x.copied).getD false
      { e with recs := ({ time := s.blk.time, seq := seq, body := r } :: e.recs).take ephDepth
               nextSeq := e.nextSeq + 1
               queue := e.queue.erase r ++ e.heldRecs.take 1, heldRecs := e.heldRecs.drop 1
               overrun := e.overrun || isOver, committed := e.committed + 1
               warn := sat 0xFFFF e.warn (b2n (r.sev == 2)), fault := sat 0xFFFF e.fault (b2n (r.sev == 3)) }
    s.onGlog fun g => g.onRecord r.sev seq

/-- RECORD_COMMIT: the controller commits a queued record with seq and time (R415). -/
def execRecordCommit (s : State) : Out := .next s.commitOne

/-- Commit all that waits. -/
def State.commitAll (s : State) : State :=
  (List.range (s.eph.queue.length + s.eph.heldRecs.length)).foldl (fun s _ => s.commitOne) s

/-! ### Mode changes (R361) -/

/-- The mode changes: record 0x0101, the mode bit of channels under compatibility notification. -/
def State.setMode (s : State) (m : Mode) : State :=
  let old := s.blk.mode
  if old = m then s
  else
    let s := s.onBlk fun b => { b with mode := m }
    (s.logSev (if m = .reduced then 2 else 0) 0x0101 uidMode noPart
      (natLE old.code 1 ++ natLE m.code 1 ++ natLE s.sch.tick 4)).modeChanged

/-- The condition of R314: a unit is eclipsed, or leaves service at this boundary. -/
def State.anyEclipsed (s : State) : Bool := allUnits.any fun u => (s.unitSt u).ecl || (s.unitSt u).eclDue

/-- The reduced bit and alarm follow the condition at every boundary (R314, R363). -/
def State.reducedAlarm (s : State) : State :=
  let r := s.anyEclipsed
  s.onBlk fun b => { b with reduced := r, alReduced := r }

/-- The mode of normal operation by the condition of R314; FACTORY stays (R314, R361). -/
def State.normalMode (s : State) : Mode :=
  if s.blk.lifecycle == 0 then .factory else if s.anyEclipsed then .reduced else .service

def FcOp.code : FcOp → Nat
  | .bmeSet => 0 | .bmeClear => 1 | .flr => 2

/-! ### CONTAINMENT (R366) -/

/-- Zeroize what R366 names. -/
def State.zeroize (s : State) : State :=
  let s := s.onLdr fun l => { l with root := List.replicate 32 0, rkWords := l.rkWords.map fun _ => 0 }
  let s := s.onKey fun k => { k with slots := [], hslots := [], derived := [], jobs := [], pageOps := [] }
  let s := s.onEnt fun e => { e with insts := [], buffer := [], flushed := 0, drops := [], spillKey := [], cores := e.cores.map fun (c : DCore) => { c with items := [], busy := 0, next := 0 } }
  let s := s.onDat fun d => { d with
    macus := d.macus.map fun m => { m with acc := 0, vec := List.replicate 16 0, mem := [], loadQ := [], storeQ := []
                                           regions := [none, none, none, none], dualNow := false, batch := none }
    engines := d.engines.map fun e => { e with bound := none }
    compare := [] }
  let s := s.onRng fun r => { r with reqs := [] }
  s.onOry fun o => { o with
    threads := List.replicate 64 {}, chans := [], shmem := [], buffers := [], staging := none, swapCh := none, swapStage := 0, initSave := none
    cores := o.cores.map fun c => { c with awake := false, regs := List.replicate 64 0 } }

/-- Stop all traffic: what has not issued never issues, what is outstanding is discarded (R366 step 1). -/
def State.silence (s : State) : State :=
  let s := s.onSch fun c => { c with plan := [], running := [] }
  let s := s.onReads fun r => if r.issued then some { r with discard := true } else none
  let s := s.onWrites fun w => if w.issued then some { w with given := true } else none
  let s := s.onMov fun m => { m with sdma := [], streams := m.streams.map fun p => { p with inp := none, out := [], inHeld := false } }
  s.onIo fun i => { i with msgs := [], quadReq := List.replicate 4 false, oryReq := List.replicate 4 false }

/-- Enter CONTAINMENT with a reason and the code of the record behind it (R320, R364, R366, R369): traffic stops, messages end,
pending function control requests are acknowledged, secrets are zeroized, and 0x0106 is the last record. -/
def State.contain (s : State) (r : Reason) (code : Nat) : State :=
  let s := s.reducedAlarm
  let s := s.mbx.chans.foldl (fun s c => if c.2.st == .pending || c.2.st == .busy then s.abortMsg c.1 2 else s) s
  let s := s.onMbx fun m => { m with work := [] }
  let s := s.onIo fun i => { i with acks := i.fc.map (fun x => (x.1, x.2.code)), fc := [] }
  let s := (s.setMode .containment).commitAll
  let s := (s.log 0x0106 uidMode noPart (natLE r.code 1 ++ natLE code 2)).commitAll
  let s := s.onEph fun e => { e with frozen := true }
  let s := s.onGlog fun g => { g with frozen := true, counting := none }
  let s := s.onBlk fun b => { b with reason := r, cause := none, alFatal := true, wiped := true }
  s.silence.zeroize

/-- A cause that stands is entered (R363). -/
def State.containIfCaused (s : State) : State :=
  match s.blk.cause with
  | some c => if s.live then s.contain c.1 c.2 else s
  | none => s

/-- BLOCK_FAULT: an uncorrectable error in logic without a substitute: CONTAINMENT at the next boundary, in CHARTER_LOAD
at once (R314, R365). -/
def execBlockFault (s : State) : Out :=
  .next (
    if !s.live then s
    else if s.blk.mode == .charterLoad then (s.cause .blockFault 0).containIfCaused
    else s.cause .blockFault 0)

end Sys2Proof.Machine
end

