-- ==== Sys2Proof/Machine/Reset.lean ====
section
/-! DEFINITION. Function control: bus master enable, the flush of a partition, function-level reset, and the reset
sequence that PARTITION_RESET and PARTITION_DESTROY share (R31, R33, R282 to R284, R318 to R320, R364, R394 to
R396). -/

namespace Sys2Proof.Machine

/-! ### Partitions that wake (R31, R33, R284) -/

/-- A partition becomes ACTIVE once every cause that keeps it READY or SUSPENDED is cleared; from READY its DRBG
instance is to be seeded. -/
def State.wakePart (s : State) (p : Nat) : State :=
  match s.part p with
  | none => s
  | some x =>
    if x.suspMgmt then s
    else if x.st == .ready && x.hello && s.bmeOf x.entry.fid then (s.onPart p fun y => { y with st := .active }).instWait p
    else if x.st == .suspended && !x.suspBme then s.onPart p fun y => { y with st := .active }
    else s

/-! ### The flush (R282, R283) -/

/-- A record write that has issued, failed, and waits to be issued again (R281). -/
def FWrite.waits (w : FWrite) : Bool := w.held || w.again

/-- Writes that carry the function ID and have not issued never issue, but for records that wait, after a failure, to be issued
again, where `keep` says so; its outstanding reads are marked for discard (R281, R282 steps 1 and 2, R318 steps 2 and 3). -/
def State.silence1 (s : State) (fid : Nat) (keep : Bool) : State :=
  let s := s.onReads fun r => if r.fid != fid then some r else if r.issued then some { r with discard := true } else none
  s.onWrites fun w => if w.fid == fid && !w.issued && !(keep && w.waits) then none else some w

/-- The Vault's function falls silent: its outstanding reads are discarded, and are made again when it may issue (R282;
log 115). -/
def State.silenceVault (s : State) : State :=
  let fid := s.vaultFid
  s.onMov fun m => { m with ports := m.ports.map fun p => { p with reads := p.reads.flatMap fun r =>
    if r.fid == fid && r.issued && !r.discard then [{ r with discard := true }, { r with issued := false }] else [r] } }

/-- The output frames of a ring that have not begun; a frame held in a pause has. -/
def Stream.unsent (p : Stream) (r : Nat) : List LinkId :=
  ((if p.paused then p.out.drop 1 else p.out).filter fun f => f.id.ring == r).map (·.id)

/-- Records of a ring whose write, or whose output frame, has not issued count as not made. -/
def State.unrecord (s : State) (r : Nat) : State :=
  let x := s.ring r
  let wait := if x.attr.stream then ((s.mov.streams[x.attr.pair]?).map fun p => p.unsent r).getD []
    else s.writes.filterMap fun w => match w.purpose with
      | .record id _ => if id.ring == r && !w.issued && !w.waits then some id else none
      | _ => none
  let s := wait.foldl (fun s id => s.onLink id fun l => { l with recorded := false }) s
  if x.attr.stream then s.onMov fun m => { m with streams := updAt m.streams x.attr.pair fun p =>
    { p with out := p.out.filter fun f => !wait.contains f.id } }
  else s

/-- The rings of a partition. -/
def State.ringsOf (s : State) (p : Nat) : List Nat := (s.rng.rings.filter fun x => x.2.owner == p && x.2.st != .closed).map (·.1)

/-- At the boundary after BME_CLEAR: all fetched work whose record has not issued is flushed, keys are wiped, and the
partition is SUSPENDED (R31, R282, R283). -/
def State.flushPart (s : State) (p : Nat) : State :=
  let fid := s.fidOf p
  let s := (s.ringsOf p).foldl (fun s r => (s.unrecord r).flushRing r) s
  let s := (s.silence1 fid true).wipePart p
  s.onPart p fun x => { x with flush := false, suspBme := true, st := if x.st == .active then .suspended else x.st }

/-! ### Function control requests (R394 to R396) -/

/-- An acknowledgement issues. -/
def State.fcAck (s : State) (fid op : Nat) : State := s.onIo fun i => { i with acks := i.acks ++ [(fid, op)] }

/-- Drop the first pending operation of a kind for a function. -/
def fcDrop (fid : Nat) (op : FcOp) : List (Nat × FcOp) → List (Nat × FcOp)
  | [] => []
  | x :: l => if x.1 == fid && x.2 == op then l else x :: fcDrop fid op l

/-- Every write that carries the function ID has its response or is given up (R282 step 3, R318 step 4). -/
def State.answered (s : State) (fid : Nat) : Bool := s.writes.all fun w => w.fid != fid || !w.issued || w.given

/-- BME_SET is processed: acknowledged, with its effect at the next boundary (R396). -/
def State.bmeSetNow (s : State) (fid : Nat) : State :=
  (s.onPrt fun t => { t with bmeNext := if t.bmeNext.contains fid || t.bme.contains fid then t.bmeNext else t.bmeNext ++ [fid] }).fcAck fid 0

/-- BME_CLEAR is processed: from here the function is silent, the jobs of its partition are killed, and the partition is
to be flushed; the acknowledgement follows the outstanding responses, at once where there are none to a function whose
partition has no work (R239, R282, R364, R395). -/
def State.bmeClearNow (s : State) (fid : Nat) : State :=
  let s := s.onPrt fun t => { t with bme := t.bme.filter fun f => f != fid, bmeNext := t.bmeNext.filter fun f => f != fid }
  let s := s.onPrt fun t => { t with bmeOff := fid :: t.bmeOff.filter fun f => f != fid }
  let s := if fid == s.vaultFid then s.silenceVault else s.silence1 fid true
  let wait (s : State) : State := s.onIo fun i => { i with fc := (fid, .bmeClear) :: i.fc }
  match s.partOfFid fid with
  | none => s.fcAck fid 1
  | some p =>
    if s.partState p == .active || s.partState p == .suspended then wait ((s.killJobs p).onPart p fun x => { x with flush := true })
    else if s.answered fid then s.fcAck fid 1
    else wait s

/-- Process the pending operations of a function in order until one waits for its acknowledgement; at most `fuel`
(R395). -/
def State.fcNext (s : State) (fid : Nat) : Nat → State
  | 0 => s
  | n + 1 => match s.io.fc.find? fun x => x.1 == fid with
    | none => s
    | some (_, .flr) => s
    | some (_, .bmeSet) => ((s.onIo fun i => { i with fc := fcDrop fid .bmeSet i.fc }).bmeSetNow fid).fcNext fid n
    | some (_, .bmeClear) =>
      let old := s.io.fc.length
      let s := (s.onIo fun i => { i with fc := fcDrop fid .bmeClear i.fc }).bmeClearNow fid
      if s.io.fc.length < old then s.fcNext fid n else s

/-- A function control request is taken: the port answers out of DORMANT, while fewer than 64 are pending; the
acknowledgements of earlier events are past. -/
def State.fcTake (s : State) (fid : Nat) (go : State → State) : State :=
  if s.blk.mode == .dormant || fid ≥ 1024 || s.io.fc.length ≥ 64 then s else go (s.onIo fun i => { i with acks := [] })

/-- BME_SET (R31, R284, R364, R394 to R396). -/
def execBmeSet (fid : Nat) (s : State) : Out :=
  .next (s.fcTake fid fun s =>
    if s.blk.mode == .containment then s.fcAck fid 0
    else if s.io.fc.any fun x => x.1 == fid then s.onIo fun i => { i with fc := i.fc ++ [(fid, .bmeSet)] }
    else s.bmeSetNow fid)

/-- BME_CLEAR (R282, R283, R364, R394 to R396). -/
def execBmeClear (fid : Nat) (s : State) : Out :=
  .next (s.fcTake fid fun s =>
    if s.blk.mode == .containment then s.fcAck fid 1
    else if s.io.fc.any fun x => x.1 == fid then s.onIo fun i => { i with fc := i.fc ++ [(fid, .bmeClear)] }
    else s.bmeClearNow fid)

/-- The operation in process for a function is a BME_CLEAR. -/
def State.clearing (s : State) (fid : Nat) : Bool :=
  match s.io.fc.find? fun x => x.1 == fid with
  | some (_, .bmeClear) => true
  | _ => false

/-- BME_CLEAR_ACK: the function is silent and its outstanding write responses have come (R282, R395). -/
def execBmeClearAck (fid : Nat) (s : State) : Out :=
  .next (
    if s.blk.mode == .dormant || !s.clearing fid || !s.answered fid then s
    else
      let s := s.onIo fun i => { i with acks := [(fid, 1)], fc := fcDrop fid .bmeClear i.fc }
      s.fcNext fid s.io.fc.length)

/-- FC_RESERVED_OP: acknowledged with no effect (R394). -/
def execFcReservedOp (fid : Nat) (s : State) : Out := .next (s.fcTake fid fun s => s.fcAck fid 3)

/-! ### The reset sequence (R318) -/

/-- The partition record of a generation is written (R160, R161). -/
def State.writeRecord (s : State) (p g : Nat) (spent again : Bool) (first : Option Nat) : State :=
  let r : PRec := { gen := g, spent := spent, seq := ((mget s.key.records p).map (·.seq)).getD 0 + 1 }
  let s := s.onKey fun k => { k with records := mset k.records p r }
  let s := s.onPart p fun x => { x with recWrite := some { gen := g, spent := spent, failed := first, again := again } }
  s.vaultWrite (s.recordAddr p) (recordBytes (s.keysOf p).recd p r) (.partRec p)

/-- A rotation under way ends when its partition enters RESETTING; one that has reached its commit point makes its
increment, the record write issued now where it was still to come (R162). -/
def State.cutRotation (s : State) (p : Nat) : State :=
  match (s.part p).bind (·.rot) with
  | none => s
  | some r =>
    let g := ((s.part p).map (·.gen)).getD 0
    let s := (s.abortMsg r.ch 3).onPart p fun x => { x with rot := none }
    if r.committed ∧ r.stage = 0 then s.writeRecord p (g + 1) false false none else s

/-- Steps 1 to 6 and 8: the partition is RESETTING, its function silent, its work dropped, its keys and its channel
cleared. -/
def State.startReset (s : State) (p : Nat) (f : Flr) : State :=
  let fid := s.fidOf p
  let s := s.onPart p fun x => { x with st := .resetting, flr := some f, flush := false }
  let s := s.cutRotation p
  let s := (s.dropReqs fun q => q.part == p).silence1 fid false
  let s := s.onMov fun m => { m with
    streams := m.streams.map fun x => { x with out := (if x.paused then x.out.take 1 else []) ++
      (if x.paused then x.out.drop 1 else x.out).filter fun o => (s.ring o.id.ring).owner != p }
    sdma := m.sdma.map fun c => (c.1, { c.2 with abort := c.2.abort || (c.2.busy && c.2.setup.fid == fid && !c.2.setup.vault) }) }
  let s := s.onIo fun i => { i with msgs := i.msgs.filter fun m => m.fid != fid }
  (s.wipePart p).clearChan p

/-- A mailbox channel waits for this partition's sequence too; a destruction prevails (R31, R320). -/
def State.resetPart (s : State) (p : Nat) (ch : Option Nat) (destroy : Bool) : State :=
  match (s.part p).bind (·.flr) with
  | some _ => s.onPart p fun x => { x with flr := x.flr.map fun f => { f with destroy := f.destroy || destroy, chans := f.chans ++ ch.toList } }
  | none => s.startReset p { destroy := destroy, chans := ch.toList }

/-- FLR_START: the function's pending interrupt messages are discarded, and the sequence begins (R31, R318, R320, R364, R392,
R395). -/
def execFlrStart (fid : Nat) (s : State) : Out :=
  .next (s.fcTake fid fun s =>
    let s := s.onIo fun i => { i with msgs := i.msgs.filter fun m => m.fid != fid }
    match s.partOfFid fid with
    | none => s.fcAck fid 2
    | some p =>
      if s.blk.mode == .containment || s.partState p == .absent then s.fcAck fid 2
      else
        let s := s.onIo fun i => { i with fc := i.fc ++ [(fid, .flr)] }
        if s.partState p == .resetting then s
        else (s.log 0x0820 uidFc p (natLE p 2 ++ natLE fid 2)).resetPart p none false)

/-- FLR_WRITE_LATE: a response is still missing 150 µs into the sequence or a BME_CLEAR: counted and recorded, the
write given up and its response discarded if it comes (R319, R396). -/
def execFlrWriteLate (fid : Nat) (s : State) : Out :=
  let reset := s.flrOn fid
  .next (
    if s.blk.mode == .dormant || !(reset || s.clearing fid) || s.answered fid then s
    else
      let late (w : FWrite) : Bool := w.fid == fid && w.issued && !w.given
      let s := s.onMov fun m => { m with ports := m.ports.map fun x =>
        { x with late := sat 0xFF x.late (countP x.writes late)
                 writes := x.writes.map fun w => if late w then { w with given := true } else w } }
      s.log 0x0822 uidFc ((s.partOfFid fid).getD noPart) (natLE (if s.clearing fid then 1 else 2) 1))

/-- Steps 7 and 9, at the boundary: the DRBG instance is zeroized and the rings are CLOSED. A RING_CLOSE that waits for
one of them has its reply, a RING_OPEN of another channel ends (log 20). -/
def State.resetBoundary (s : State) (p : Nat) : State :=
  match (s.part p).bind (·.flr) with
  | none => s
  | some f =>
    if f.boundary then s
    else
      let s := (s.instDrop p).onPart p fun x => { x with flr := some { f with boundary := true } }
      (s.ringsOf p).foldl (fun s r =>
        let x := s.ring r
        let s := match x.closeCh with
          | some c => s.replyOk c [BitVec.ofNat 32 (if x.attr.stream then x.frameIdx else x.subHead)]
          | none => s
        let s := match x.openCh with
          | some c => if (s.chan c).st == CState.busy then s.abortMsg c 3 else s
          | none => s
        s.closeRing r) s

/-- The sequence ends: READY, or ABSENT after a destruction; the agreement is cleared, and what waits is answered (R31,
R33, R319, R395). -/
def State.endReset (s : State) (p : Nat) (f : Flr) : State :=
  let s := s.onPart p fun x => { x with
    st := if f.destroy then .absent else .ready, flr := none, hello := false, mbxVer := 0, fmtMask := 0, suspBme := false
    suspMgmt := x.suspMgmt && !f.destroy }
  let gen := ((s.part p).map (·.gen)).getD 0
  f.chans.foldl (fun s c => s.replyOk c (if (s.chan c).type == mDestroy then [BitVec.ofNat 32 gen] else [])) s

/-- The FLR acknowledgements of a function, and after them its pending operations. -/
def State.flrAcks (s : State) (fid : Nat) : State :=
  let n := countP s.io.fc fun x => x.1 == fid && x.2 == .flr
  let s := s.onIo fun i => { i with fc := i.fc.filter fun x => !(x.1 == fid && x.2 == .flr), acks := i.acks ++ List.replicate n (fid, 2) }
  s.fcNext fid s.io.fc.length

/-- A destruction whose sequence is done writes its partition record, after any rotation's (R161, R162). -/
def State.destroyWrite (s : State) (p : Nat) : State :=
  match s.part p with
  | none => s
  | some x => match x.flr with
    | none => s
    | some f =>
      if !f.destroy || !f.seqDone || f.wrote || x.recWrite.isSome then s
      else
        let s := s.onPart p fun x => { x with flr := some { f with wrote := true } }
        s.writeRecord p (if x.gen ≥ 0xFFFF then x.gen else x.gen + 1) (x.gen ≥ 0xFFFF) false none

/-- FLR_ACK: the last step of a sequence completes. FLR_START and PARTITION_RESET leave the partition READY; a
PARTITION_DESTROY goes on to write its partition record, which the acknowledgement of an FLR does not wait for (R161, R162,
R318 to R320). `duration` is the time to the acknowledgement in nanoseconds. -/
def execFlrAck (fid duration : Nat) (s : State) : Out :=
  .next (match s.partOfFid fid with
    | none => s
    | some p => match (s.part p).bind (·.flr) with
      | none => s
      | some f =>
        let flr := s.io.fc.any fun x => x.1 == fid && x.2 == .flr
        if !s.live || !f.boundary || !s.answered fid || (f.seqDone && !flr) then s
        else
          let s := s.onIo fun i => { i with acks := if s.clearing fid then [(fid, 1)] else []
                                            fc := if s.clearing fid then fcDrop fid .bmeClear i.fc else i.fc }
          let s := if flr then s.log 0x0821 uidFc p (natLE (duration % 2 ^ 32) 4) else s
          let s :=
            if f.destroy then (s.onPart p fun x => { x with flr := some { f with seqDone := true } }).destroyWrite p
            else s.endReset p f
          s.flrAcks fid)

/-! ### What function control does at a boundary -/

/-- BME_SET takes effect: the suspension it causes ends, and the function's partition may become ACTIVE (R31, R284,
R396). -/
def State.bmeBoundary (s : State) : State :=
  let l := s.prt.bmeNext
  let s := s.onPrt fun t => { t with bmeNext := [], bme := t.bme ++ l, bmeOff := t.bmeOff.filter fun f => !l.contains f }
  let s := l.foldl (fun s fid => match s.partOfFid fid with
    | none => s
    | some p => (s.onPart p fun x => { x with suspBme := false }).wakePart p) s
  s.pump

/-- Flushes that BME_CLEAR asked for, and steps 7 and 9 of resets. -/
def State.fcBoundary (s : State) : State :=
  let s := (s.prt.parts.filter fun x => x.2.flush).foldl (fun s x => s.flushPart x.1) s
  let s := s.bmeBoundary
  (s.prt.parts.filter fun x => x.2.st == .resetting).foldl (fun s x => s.resetBoundary x.1) s

end Sys2Proof.Machine
end

