-- ==== Sys2Proof/Machine/Dma.lean ====
section
/-! DEFINITION. Service DMA: starting a channel on one transfer or a list, its reads, writes and write-backs, abort and
the end of a run (R289 to R294). -/

namespace Sys2Proof.Machine

def State.dma (s : State) (n : Nat) : Sdma := (mget s.mov.sdma n).getD {}

def State.onDma (s : State) (n : Nat) (f : Sdma → Sdma) : State :=
  s.onMov fun m => { m with sdma := mset m.sdma n (f ((mget m.sdma n).getD {})) }

/-! ### Orrery shared memory (R231) -/

/-- Bytes of shared memory. -/
def shmemSize : Nat := 0x200000

def State.shRead (s : State) (a n : Nat) : Bytes := (List.range n).map fun i => (mget s.ory.shmem (a + i)).getD 0

/-- Store bytes; a byte of zero is not listed. -/
def shPut : Map Byte → Nat → Bytes → Map Byte
  | m, _, [] => m
  | m, a, b :: l => shPut (if b = 0 then mdel m a else mset m a b) (a + 1) l

def State.shWrite (s : State) (a : Nat) (b : Bytes) : State := s.onOry fun o => { o with shmem := shPut o.shmem a b }

/-! ### Descriptors (R291) -/

/-- A descriptor of 32 bytes at a place. -/
def readDesc (b : Bytes) (addr : Nat) : Desc :=
  let w := leAt b 20 4
  { src := leAt b 0 8, dst := leAt b 8 8, len := leAt b 16 3, last := bit w 0, barrier := bit w 1, swap := fld w 5 2,
    srcSpace := fld w 7 2, dstSpace := fld w 9 2, addr := addr, raw := w,
    resv := byteAt b 19 != 0 || fld w 11 21 != 0 || leAt b 28 4 != 0 }

/-- The descriptor breaks the table, or leaves shared memory (log 26). -/
def Desc.invalid (d : Desc) : Bool :=
  d.resv || d.len == 0 || d.srcSpace == 3 || decide (2 ≤ d.dstSpace) || decide (2 ^ 52 ≤ d.src) || decide (2 ^ 52 ≤ d.dst)
    || (d.srcSpace == 1 && decide (shmemSize < d.src + d.len)) || (d.dstSpace == 1 && decide (shmemSize < d.dst + d.len))

/-- Words 20 to 27 of a failed descriptor as the block writes them back: BAD, cause and done are the block's, the other bits stay
as read. -/
def Desc.back (d : Desc) : Bytes :=
  natLE (d.raw % 4 + 4 + 8 * d.cause + 32 * (d.raw / 32 % 2 ^ 27)) 4 ++ natLE d.done 4

/-- The function ID and class of a channel's accesses (R271, R380). -/
def State.dmaFid (s : State) (x : Sdma) : Nat := if x.setup.vault then s.vaultFid else x.setup.fid

def State.dmaCls (s : State) (x : Sdma) (c : Nat) : Nat := if s.dmaFid x = s.vaultFid then clsVault else c

/-- The number that marks write-backs among a channel's writes. -/
def backNo : Nat := 65536

/-- The block writes bytes back into a descriptor of the list, from its byte `o` on. -/
def State.dmaBack (s : State) (n : Nat) (d : Desc) (o : Nat) (b : Bytes) : State :=
  let x := s.dma n
  if !x.setup.list || x.abort then s
  else if x.setup.listSm then s.shWrite (d.addr + o) b
  else s.write (d.addr + o) b (s.dmaFid x) (s.dmaCls x clsOrdered) (.sdma n backNo)

/-- A failed descriptor is written back; a failed single transfer ends the run. Of an aborted run nothing fails (R290, R291,
R293). -/
def State.dmaFail (s : State) (n : Nat) (d : Desc) (cause done : Nat) : State :=
  let d := { d with bad := true, cause := cause, done := done }
  let x := s.dma n
  if x.abort then s
  else
  let s := s.onDma n fun x => { x with
    error := true, cause := if x.error then x.cause else cause, bad := sat 0xFF x.bad (b2n x.setup.list)
    old := x.old.map fun o => if o.addr == d.addr then d else o }
  s.dmaBack n d 20 d.back

/-- Descriptor k has ended well and its writes are done: its length is written back as done (R291; log 98). -/
def State.dmaGood (s : State) (n k : Nat) : State :=
  match (s.dma n).old[k]? with
  | none => s
  | some d =>
    let out := s.writeWaits fun u => u == .sdma n k
    if d.bad || out then s else s.dmaBack n d 24 (natLE d.done 4)

/-- A descriptor is over. -/
def State.dmaOver (s : State) (n : Nat) (d : Desc) : State :=
  s.onDma n fun x =>
    let k := x.progress + 1
    { x with cur := none, got := [], progress := k, old := x.old ++ [d], barrier := d.barrier
             ended := x.ended || !x.setup.list || d.last || decide (x.setup.count ≤ k) }

/-- Write a descriptor's bytes to its destination; what a failure cut off is not written, whole swap units only. -/
def State.dmaPut (s : State) (n : Nat) (d : Desc) (b : Bytes) : State :=
  let x := s.dma n
  let b := if d.bad && d.swap != 0 then b.take (d.done / 4 * 4) else if d.bad then b.take d.done else b
  let out := applySwap d.swap b
  if d.dstSpace = 1 then s.shWrite d.dst out
  else s.write d.dst out (s.dmaFid x) (s.dmaCls x clsRelaxed) (.sdma n x.progress)

/-- The bytes from 0 on that the reads brought without a gap. -/
def Sdma.held (x : Sdma) : Bytes := (absorbChunks (x.got.length + 1) [] x.got).1

/-- The descriptor in progress ends once its reads have brought all the bytes that it can have. -/
def State.dmaArrived (s : State) (n : Nat) : State :=
  let x := s.dma n
  match x.cur with
  | none => s
  | some d =>
    let want := if d.bad then d.done else d.len
    let b := x.held
    if b.length < want then s
    else
      let d := if d.bad then d else { d with done := d.len }
      let s := s.dmaPut n d (b.take want)
      let s := s.dmaOver n d
      if d.bad then s.dmaFail n d d.cause d.done else s.dmaGood n x.progress

/-- A write of the channel is not done (R290, R291). -/
def State.dmaWrites (s : State) (n : Nat) : Bool :=
  s.writeWaits fun u => match u with
    | .sdma m _ => m == n
    | _ => false

/-- The next descriptor: single mode's transfer, or the entry of the list. -/
def State.dmaNext (s : State) (n : Nat) : Desc :=
  let x := s.dma n
  let c := x.setup
  if !c.list then { src := c.src, dst := c.dst, len := c.count, swap := c.swap, srcSpace := c.srcSpace, dstSpace := c.dstSpace }
  else
    let a := c.src + 32 * x.progress
    readDesc (if c.listSm then s.shRead a 32 else slice x.list (32 * x.progress) 32) a

/-- Start a descriptor: its reads issue, or its bytes are there. -/
def State.dmaStart (s : State) (n : Nat) (d : Desc) : State :=
  let x := s.dma n
  if d.invalid then ((s.dmaOver n { d with bad := true, cause := 1 }).dmaFail n d 1 0)
  else
    let s := s.onDma n fun x => { x with cur := some d, got := [] }
    let fid := s.dmaFid x
    match d.srcSpace with
    | 0 => (s.onMov fun m => (cut d.src d.len).foldl (fun m c => m.addRead
        { addr := c.1, len := c.2, fid := fid, cls := s.dmaCls x clsRelaxed, vault := true, purpose := .sdma n (c.1 - d.src) }) m).pump
    | 1 => (s.onDma n fun x => { x with got := [(0, s.shRead d.src d.len)] }).dmaArrived n
    | _ => (s.onDma n fun x => { x with got := [(0, zeros d.len)] }).dmaArrived n

/-- Run on: descriptors start in order, at most `fuel` (R291, R292). -/
def State.dmaRun (s : State) (n : Nat) : Nat → State
  | 0 => s
  | fuel + 1 =>
    let x := s.dma n
    if !x.busy || x.abort || x.ended || x.cur.isSome || (x.barrier && s.dmaWrites n) then s
    else (s.dmaStart n (s.dmaNext n)).dmaRun n fuel

/-- A read of the channel brought bytes, or failed with a cause: what lies before the failure still counts (R290,
R291). -/
def State.dmaRead (s : State) (n off : Nat) (data : Option Bytes) (cause : Nat) : State :=
  let x := s.dma n
  match x.cur with
  | none => s
  | some d =>
    let s := match data with
      | some b => s.onDma n fun x => { x with got := x.got ++ [(off, b)] }
      | none =>
        let first := !d.bad || off < d.done
        let d' := if first then { d with bad := true, cause := cause, done := off } else d
        (s.onDma n fun x => { x with cur := some d' }).onReads fun r => match r.purpose with
          | .sdma m o => if m == n && o ≥ d'.done then (if r.issued then some { r with discard := true } else none) else some r
          | _ => some r
    (s.dmaArrived n).dmaRun n (x.setup.count + 1)

/-- A write of the channel is answered; a single transfer stops at the access that failed (R290, R291, R293). -/
def State.dmaWritten (s : State) (n k addr : Nat) (okay : Bool) : State :=
  let x := s.dma n
  let s := match x.old[k]? with
    | some d => if okay then s.dmaGood n k else if d.bad || x.abort then s
      else
        let s := s.dmaFail n d 1 (addr - d.dst)
        if x.setup.list then s else (s.onDma n fun x => { x with ended := true }).dmaStop n
    | none => s
  s.dmaRun n (x.setup.count + 1)

/-! ### Commands -/

/-- A count outside its range (R290, R291). -/
def setupBad (c : SdmaSetup) : Bool := c.count == 0 || (if c.list then decide (65535 < c.count) else decide (2 ^ 24 ≤ c.count))

/-- SDMA_START: a thread starts its channel. A list in fabric memory is read whole first (R289 to R292); a list that
cannot be read, or a count outside its range, ends the run with an error (log 26). -/
def execSdmaStart (n : Nat) (c : SdmaSetup) (list : ReadAnswer) (s : State) : Out :=
  .next (
    let x : Sdma := { setup := c }
    let rd : Reader := { fid := s.dmaFid x, resv := true, cls := s.dmaCls x clsRelaxed, part := (s.partOfFid c.fid).getD noPart }
    let exts := if c.list && !c.listSm && !setupBad c then [(c.src, 32 * c.count)] else []
    if !s.issues n || (s.dma n).busy || !s.canRead rd exts then s
    else
      let s := s.onDma n fun _ => { setup := c, busy := true }
      let fail (s : State) (cause : Nat) : State := s.onDma n fun x => { x with error := true, cause := cause, ended := true }
      if setupBad c then fail s 1
      else if c.list && !c.listSm then
        let s := s.newReads.readString rd exts list
        match list with
        | .ok b => (s.onDma n fun x => { x with list := (b ++ zeros (32 * c.count - b.length)).take (32 * c.count) }).dmaRun n (c.count + 1)
        | .busError _ _ => fail s 1
        | .timeout _ _ => fail s 2
        | .poisoned _ _ _ => fail s 3
      else s.dmaRun n (c.count + 1))

/-- SDMA_ABORT (R293). -/
def execSdmaAbort (n : Nat) (s : State) : Out :=
  .next (if s.issues n && (s.dma n).busy then (s.onDma n fun x => { x with abort := true }).dmaStop n else s)

/-- SDMA_DONE: every write of the run is done; an aborted run ends without error (R290, R291, R293). -/
def execSdmaDone (n : Nat) (s : State) : Out :=
  let x := s.dma n
  .next (
    if !s.live || !x.busy then s
    else
      let s := if x.abort then s.dmaStop n else s
      if s.dmaWrites n || !(x.abort || (x.ended && x.cur.isNone)) then s
      else s.onDma n fun x => { x with
        busy := false, done := true, abort := false, cur := none, got := [], list := [], old := []
        error := x.error && !x.abort, cause := if x.abort then 0 else x.cause })

end Sys2Proof.Machine
end

