-- ==== Sys2Proof/Machine/Fabric.lean ====
section
/-! DEFINITION. Answers on the memory fabric: read completions, timeouts and quarantine, write responses, and contexts
that come back from the backing store (R76, R151, R183, R272 to R281, R288, R376 to R379). -/

namespace Sys2Proof.Machine

/-! ### Reads -/

/-- The partition and the link that a read is about. -/
def State.readPart (s : State) (r : FRead) : Nat := (s.partOfFid r.fid).getD noPart

def RPurpose.about : RPurpose → Option LinkId
  | .source id _ => some id
  | .restore id => some id
  | .sdma _ _ => none
  | .page _ _ => none
  | .whole _ => none

/-- A stretch of the source as it lies in memory, as stretches of the source string (R270). -/
def strParts (es : List Elem) (off n : Nat) : List (Nat × Nat) :=
  if es.all (fun e => e.swap == 0) then [(off, n)] else (List.range n).map fun i => (rawPos es 0 (off + i), 1)

/-- Source bytes of a lane or digest link arrive poisoned: it runs on, to POISONED_INPUT (R277). -/
def State.sourcePoisoned (s : State) (id : LinkId) (off : Nat) (b : Bytes) (bad : List (Nat × Nat)) : State :=
  match s.link id with
  | none => s
  | some (_, l) =>
    if !(isLane l.hdr.opcode || isDigest l.hdr.opcode) then s.failData id (stPoisoned atSource)
    else
      let parts := bad.flatMap fun p => strParts l.srcList (off + p.1) p.2
      (s.onLink id fun l => { l.arrive off b with poisoned := l.poisoned ++ parts, openPoison := some (l.openPoison.getD l.outPos) }).noteErr id
        (stPoisoned atSource)

/-- A context comes back from the backing store (R151). -/
def State.restored (s : State) (id : LinkId) : State :=
  s.onLink id fun l => { l with ctx := l.ctx.map fun c => { c with spilled := none } }

/-- The cause code of a service DMA failure (R291). -/
def dmaCause : ReadAnswer → Nat
  | .timeout _ _ => 2
  | .poisoned _ _ _ => 3
  | _ => 1

/-- A read that is no longer outstanding has its answer (R273 to R278, R290). -/
def State.readAnswered (s : State) (r : FRead) (a : ReadAnswer) (bs : List ReadBeat) : State :=
  let s := s.readFailed a r.addr (s.readPart r) r.purpose.about
  match r.purpose with
  | .source id off => match a with
    | .ok b => s.onLink id fun l => l.arrive off b
    | .busError _ _ => s.sourceBusError id off
    | .timeout _ _ => s.readTimedOut id (stTimeout atSource)
    | .poisoned _ _ _ => s.sourcePoisoned id off (r.bytes bs) (r.poisonedParts bs)
  | .restore id => match ansFail atVault a with
    | none => s.restored id
    | some st => if st.code = 0x42 then s.readTimedOut id st else s.failData id st
  | .whole _ => s
  | .sdma n off => match a with
    | .ok b => s.dmaRead n off (some b) 0
    | a => s.dmaRead n off none (dmaCause a)
  | .page p k => s.pageArrived p k r.addr a

/-- A completion or a response without an access outstanding: counted and recorded, with the port and the whole id
(R273, R379). In CONTAINMENT it is ignored, and counted in no frozen counter (R366, R367). -/
def State.late (s : State) (n index gen : Nat) : State :=
  if !s.live then s else (s.onPort n fun p => { p with late := sat 0xFF p.late 1 }).log 0x0802 (uidFabric n) noPart
    (natLE (uidFabric n) 2 ++ natLE (index % 1024 + 1024 * (gen % 64)) 2)

/-- Take an issued read off its port. -/
def State.takeRead (s : State) (n index : Nat) : State :=
  s.onPort n fun p => { p with reads := p.reads.filter fun r => !(r.issued && r.idx == index) }

/-- READ_COMPLETION (R123, R273, R275 to R278, R290, R378). -/
def execReadCompletion (n index gen : Nat) (bs : List ReadBeat) (s : State) : Out :=
  let beats := bs.length
  .next (
    if s.blk.mode == .dormant || n ≥ 8 then s
    else
    let s := s.onPort n fun p => { p with beats := p.beats + beats }
    match ((s.mov.ports[n]?).map (·.reads)).bind fun l => l.find? fun r => r.issued && r.idx == index && r.gen == gen with
      | none => s.late n index gen
      | some r =>
        let s := s.takeRead n index
        (if r.discard || !s.live then s else s.readAnswered r (r.answer bs) bs).pump)

/-- READ_TIMEOUT: the tag goes into quarantine, and the work that issued the read fails (R274). A read marked for discard
does not time out: its tag frees when its data arrive (R274, R282). -/
def execReadTimeout (n index : Nat) (s : State) : Out :=
  .next (match ((s.mov.ports[n]?).map (·.reads)).bind fun l => l.find? fun r => r.issued && r.idx == index with
    | none => s
    | some r =>
      if !s.live || r.discard then s
      else (((s.takeRead n index).onPort n fun p => { p with quar := p.quar ++ [index] }).readAnswered r (.timeout 0 []) []).pump)

/-- TAG_QUARANTINE_END: the tag may be issued again (R274). -/
def execTagQuarantineEnd (n index : Nat) (s : State) : Out :=
  .next (if s.blk.mode == .dormant then s else (s.onPort n fun p => { p with quar := p.quar.filter fun i => i != index }).pump)

/-! ### Contexts in the backing store (R151) -/

/-- The reads that bring spilled contexts of a quadrant back; where no entry is free another link's goes out (R151,
log 27). -/
def State.restoreQuad (s : State) (q : Nat) : State :=
  let cand := s.allLinks.filterMap fun x => match x.2.2.ctx.bind (·.spilled) with
    | some i => if x.2.1.quad == some q && !(s.reads.any fun r => r.purpose == .restore x.1 && !r.discard) then some (x.1, i) else none
    | none => none
  let add (s : State) (x : LinkId × Nat) : State :=
    let s := s.spill q
    if s.ctxCount q + s.ctxComing q < 2048 then
      s.onMov fun m => (cut (s.key.base + spillBase + 128 * x.2) 128).foldl (fun m c => m.addRead
        { addr := c.1, len := c.2, fid := s.vaultFid, cls := clsVault, vault := true, purpose := .restore x.1 }) m
    else s
  (cand.foldl add s).pump

/-- Contexts of every quadrant. -/
def State.restoreAll (s : State) : State :=
  if s.allLinks.any fun x => (x.2.2.ctx.bind (·.spilled)).isSome then (List.range 4).foldl (fun s q => s.restoreQuad q) s else s

/-! ### Writes -/

/-- The time of TIMESTAMP is sampled when the link's last write is done (R88). -/
def State.stampLink (s : State) (id : LinkId) : State :=
  let waits := s.dataWaits id
  let now := some s.blk.time
  s.onLink id fun l => if l.stat.isSome && l.hdr.ts && l.stamp.isNone && !waits then { l with stamp := now } else l

/-- A record's write is done: the record is visible, and its request may be over (R50, R81, R279). -/
def State.recordDone (s : State) (id : LinkId) (irq : Bool) : State :=
  let s := s.onLink id fun l => { l with written := true }
  let s := (s.recordVisible id.ring irq).retire id.ring
  let left := s.writes.filter fun w => isRecord id.ring w.purpose && !w.given
  if left.isEmpty then s.onRing id.ring fun x => { x with recFail := none } else s

/-- A record's write failed: it stands until the next boundary (R281). -/
def State.recordFailed (s : State) (n : Nat) (w : FWrite) (id : LinkId) : State :=
  let t := s.sch.tick
  let x := s.ring id.ring
  let s := s.onPort n fun p => { p with writes := p.writes ++ [{ w with issued := false, held := true }] }
  let s := s.onRing id.ring fun x => { x with recFail := some (x.recFail.getD t), recTick := t }
  if x.recFail.isSome then s else s.logReq 0x0809 (uidFabric n) x.owner id.ring id.idx id.link

/-- A partition record's write failed: it is to be issued again (R161). -/
def State.partRecFailed (s : State) (p : Nat) : State :=
  match (s.part p).bind (·.recWrite) with
  | none => s
  | some r =>
    let t := s.sch.tick
    let s := s.onPart p fun x => { x with recWrite := some { r with failed := some (r.failed.getD t), tick := t, again := false } }
    if r.failed.isSome then s else s.logKey 0x0706 p

/-- A write of a message's readout is answered: a failure makes the result FAILED; after the last
one the reply is known
(R338, R419, R428). -/
def State.messageWritten (s : State) (c : Nat) (okay : Bool) : State :=
  let s := if okay then s else s.onMbx fun m => { m with work := m.work.map fun w => match w with
    | .copying k a b d e => .copying k a b d (e || k == c)
    | .reading k a b d x e => .reading k a b d x (e || k == c)
    | w => w }
  let mine (m : Mgmt) : Option (List W32 × Bool) := match m with
    | .copying k a b d e => if k = c then some ([a, b, d], e) else none
    | _ => none
  let wait := s.writeWaits fun u => match u with
    | .message k => k == c
    | _ => false
  match s.mbx.work.findSome? mine with
  | none => s
  | some (ws, bad) =>
    if wait then s
    else
      let s := s.onMbx fun m => { m with work := m.work.filter fun w => (mine w).isNone }
      if bad then s.replyRes c 0x0D 0 [] else s.replyRes c 0 0 ws

/-- A write that failed is counted; a data write's failure is recorded (R280, R288). -/
def State.writeError (s : State) (n : Nat) (w : FWrite) : State :=
  let s := s.onPort n fun p => { p with bus := sat 0xFF p.bus 1 }
  match w.purpose with
  | .data id _ => s.logReq 0x0805 (uidFabric n) ((s.partOfFid w.fid).getD noPart) id.ring id.idx id.link
      (w.addr % 2 ^ 32)
  | _ => s

/-- What a write's answer does (R76, R161, R176, R183, R279 to R281, R290). -/
def State.writeAnswered (s : State) (n : Nat) (w : FWrite) (okay : Bool) : State :=
  match w.purpose with
  | .data id e => ((if okay then s else s.destBusError id e).tagNow id).stampLink id
  | .bad id => (s.tagNow id).stampLink id
  | .record id irq => if okay then s.recordDone id irq else s.recordFailed n w id
  | .vault id => ((if okay then s else s.vaultFailed n w id).vaultAnswered id).stampLink id
  | .ledger p i => if okay then s else s.ledgerFailed p i
  | .partRec p => if okay then s else s.partRecFailed p
  | .sdma m k => s.dmaWritten m k w.addr okay
  | .message c => s.messageWritten c okay
  | .spill => if okay then s else s.onPort n fun p => { p with writes := p.writes ++ [{ w with issued := false }] }

/-- WRITE_RESPONSE (R279 to R281, R379). The answer of a write given up under R319 is discarded. -/
def execWriteResponse (n index gen : Nat) (okay : Bool) (s : State) : Out :=
  .next (
    if s.blk.mode == .dormant || n ≥ 8 then s
    else match ((s.mov.ports[n]?).map (·.writes)).bind fun l => l.find? fun w => w.issued && w.idx == index && w.gen == gen with
      | none => s.late n index gen
      | some w =>
        let s := s.onPort n fun p => { p with writes := p.writes.filter fun v => !(v.issued && v.idx == index) }
        (if w.given || !s.live then s
          else ((if okay then s else s.writeError n w).writeAnswered n w okay).opsNext).pump)

end Sys2Proof.Machine
end

