-- ==== Sys2Proof/Machine/Streams.lean ====
section
/-! DEFINITION. Stream ports: input beats and frames, output frames and the pauses of their consumer (R37, R43, R58, R77,
R285 to R287, R382 to R386). -/

namespace Sys2Proof.Machine

def State.stream (s : State) (n : Nat) : Stream := (s.mov.streams[n]?).getD {}

def State.onStream (s : State) (n : Nat) (f : Stream → Stream) : State :=
  s.onMov fun m => { m with streams := updAt m.streams n f }

/-! ### Output space (R77, R285) -/

/-- Bytes of a port's output buffer, and the most that one frame takes after its record. -/
def outBuffer : Nat := 262144
def inlineMax : Nat := 16384

/-- What a link's output frame may need. -/
def frameNeed (attr : Attr) (h : Hdr) : Nat := 32 + if inlineOut attr h then min inlineMax h.oLen else 0

/-- Space held by the frames that wait and by the requests that have none yet. -/
def State.outUsed (s : State) (n : Nat) : Nat :=
  sumBy (s.stream n).out (fun f => f.data.length)
    + sumBy s.rng.reqs fun q =>
        let attr := (s.ring q.ring).attr
        if q.stream && attr.pair == n then sumBy q.links fun l => if l.recorded then 0 else frameNeed attr l.hdr else 0

/-- A frame whose first beat this is finds its space. -/
def State.outRoom (s : State) (n r : Nat) (beat : Bytes) : Bool :=
  decide (s.outUsed n + frameNeed (s.ring r).attr (readF2 (beat.take 64) []) ≤ outBuffer)

/-! ### Input frames (R43, R384) -/

/-- How a frame ended: with its eop, by an early sop, or past 16,384 bytes. -/
inductive FrameEnd where
  | whole | cut | long
  deriving DecidableEq, Repr

/-- A frame for a ring that takes none: violation 0x050D (R43, R58). -/
def State.frameForeign (s : State) (n r : Nat) : State := s.violation 0x050D (uidStream n) noPart (some r) false 0 0

/-- Add a frame that is not executed: its request has its result at once (R37, R43). -/
def State.addUnrun (s : State) (r idx : Nat) (l : Link) (st : Stat) : State :=
  let q : Req := { ring := r, idx := idx, part := (s.ring r).owner, order := s.rng.order, links := [l], arrival := s.sch.tick, stream := true }
  let s := s.onRing r fun x => { x with submitted := x.submitted + 1 }
  let s := s.onRng fun g => { g with order := g.order + 1, reqs := g.reqs ++ [q] }
  s.forceFrom q 0 fun _ => st

/-- A frame ends: it is numbered and taken, answered without running, or dropped, by the ring's state (R37, R43, R384). In a
partition that is not ACTIVE a frame that is taken waits, and while it is RESETTING no frame is taken (log 28). What was answered QUOTA_EXCEEDED
counts toward the limit until its output frame has left (log 101). -/
def State.takeFrame (s : State) (n : Nat) (f : InFrame) (how : FrameEnd) : State :=
  let r := f.ring
  let x := s.ring r
  if x.st == .closed || !x.attr.stream || x.attr.pair != n then s.frameForeign n r
  else if x.st == .opening || x.st == .draining then s.frameForeign n r
  else if x.st == .quarantined then s.onRing r fun x => { x with errors := x.errors + 1 }
  else if s.partState x.owner == .resetting then s
  else
    let idx := x.frameIdx
    let inflight := countP s.rng.reqs fun q => q.ring == r
    let s := s.onRing r fun x => { x with frameIdx := (x.frameIdx + 1) % x.span }
    let hb := (f.data.take 64 ++ zeros 64).take 64
    let short := f.data.length < 64 || how == .cut
    let l := s.makeLink x.owner 2 idx hb (f.data.drop 64) (.ok []) []
    let n := if short then 0 else if how == .long then 2 ^ 32 else f.data.length
    let l := { l with frame := some n, err := frameMismatch n l.hdr }
    if x.st == .held then s.addUnrun r idx l stFlushed
    else if x.depth ≤ inflight then s.addUnrun r idx l (stQuota 3)
    else (s.addLink r idx s.sch.tick l (l.hdr.chain && 64 ≤ f.data.length)).abortTidy r

/-- The most bytes of an input frame. -/
def frameMax : Nat := 16384

/-- Bytes join the frame; past the limit they are dropped. -/
def InFrame.add (f : InFrame) (b : Bytes) : InFrame :=
  { f with data := (f.data ++ b).take frameMax, tooLong := f.tooLong || decide (frameMax < f.data.length + b.length) }

/-- A beat on an input port (R58, R285, R383 to R385). -/
def State.beat (s : State) (n : Nat) (sop : Bool) (r : Nat) (data : Bytes) (eop : Bool) : State :=
  let p := s.stream n
  if !s.serving || n ≥ 4 then s
  else if sop && p.inp.isNone && !s.outRoom n r data then s.onStream n fun p => { p with inHeld := true }
  else
    let s := s.onStream n fun p => { p with beats := p.beats + 1 }
    let s := if sop then
        let s := match p.inp with
          | some f => s.takeFrame n f .cut
          | none => s
        s.onStream n fun p => { p with inp := some { ring := r, data := data.take 64 }, inHeld := false, lost := false }
      else match p.inp with
        | some f => s.onStream n fun p => { p with inp := some (f.add (data.take 64)) }
        | none =>
          let s := if p.lost then s else s.violation 0x0508 (uidStream n) noPart none false 0 0
          s.onStream n fun p => { p with lost := true }
    match (s.stream n).inp with
    | none => s
    | some f =>
      if eop then (s.onStream n fun p => { p with inp := none }).takeFrame n f (if f.tooLong then .long else .whole)
      else if f.data.length ≥ frameMax then s.onStream n fun p => { p with inp := some { f with tooLong := true } }
      else s

/-- STREAM_INPUT_FRAME: the eop beat of a frame (R43, R383, R384). -/
def execStreamInputFrame (n : Nat) (sop : Bool) (r : Nat) (data : Bytes) (s : State) : Out := .next (s.beat n sop r data true)

/-- STREAM_INPUT_BEAT: any other beat, which carries 64 bytes (R58, R285, R383 to R385). -/
def execStreamInputBeat (n : Nat) (sop : Bool) (r : Nat) (data : Bytes) (s : State) : Out :=
  .next (s.beat n sop r ((data ++ zeros 64).take 64) false)

/-! ### Output frames (R285, R286, R386) -/

/-- The beats in which a frame crosses the port: its ring on the first, the number of valid bytes less 1 on the last and 63
on every other (R382, R383, R386). -/
def OutFrame.toBeats (f : OutFrame) : List OutBeat :=
  let n := cdiv f.data.length 64
  (List.range n).map fun i =>
    let d := slice f.data (64 * i) (min 64 (f.data.length - 64 * i))
    { data := d, sop := i == 0, eop := i + 1 == n, bv := d.length - 1, ring := if i = 0 then f.id.ring else 0 }

/-- STREAM_OUTPUT_FRAME: the oldest frame that waits leaves whole; its record is done and its request may be over (R43,
R51, R81, R386). -/
def execStreamOutputFrame (n : Nat) (s : State) : Out :=
  let p := s.stream n
  .next (match p.out with
    | [] => s
    | f :: rest =>
      if !s.live || p.paused || n ≥ 4 then s
      else
        let s := s.onStream n fun p => { p with out := rest, last := some f, sent := f.toBeats, beats := p.beats + cdiv f.data.length 64 }
        let s := s.onLink f.id fun l => { l with written := true }
        (s.recordVisible f.id.ring f.irq).retire f.id.ring)

/-- STREAM_OUTPUT_PAUSE: the consumer lowers ready in mid-frame, and the beat is held (R286). -/
def execStreamOutputPause (n : Nat) (s : State) : Out :=
  let p := s.stream n
  .next (if !s.live || p.out.isEmpty || p.paused then s
    else s.onStream n fun p => { p with paused := true, pauseTick := s.sch.tick, pauseTime := s.blk.time, longDone := false, pauses := p.pauses + 1 })

/-- The partition of the frame at the output port. -/
def State.outPart (s : State) (n : Nat) : Nat :=
  match (s.stream n).out with
  | [] => noPart
  | f :: _ => (s.ring f.id.ring).owner

/-- STREAM_LONG_PAUSE: the pause has reached 32 ticks (R286). -/
def execStreamLongPause (n : Nat) (s : State) : Out :=
  let p := s.stream n
  .next (if !s.live || !p.paused || p.longDone || modSub s.sch.tick p.pauseTick (2 ^ 32) < 32 then s
    else (s.onStream n fun p => { p with longDone := true, long := sat 0xFFFF p.long 1 }).log 0x0807 (uidStream n) (s.outPart n))

/-- STREAM_PAUSE_END: ready returns; a pause that had reached 32 ticks is recorded with its length (R286, R445). -/
def execStreamPauseEnd (n : Nat) (s : State) : Out :=
  let p := s.stream n
  .next (if !s.live || !p.paused then s
    else
      let s' := s.onStream n fun p => { p with paused := false, longDone := false }
      if p.longDone then s'.log 0x0807 (uidStream n) (s.outPart n) (natLE ((s.blk.time - p.pauseTime).toNat % 2 ^ 32) 4) else s')

end Sys2Proof.Machine
end

