-- ==== Sys2Proof/Machine/Entropy.lean ====
section
/-! DEFINITION. Scintilla: entropy windows, health tests, retests, the test pattern, and the known-answer tests of
SEEDING (R247 to R252, R263 to R266, R311). -/

namespace Sys2Proof.Machine

/-- Ticks of a window of 65,536 clocks (R248). -/
def State.winTicks (s : State) : Nat := 65536 / s.tickLen

/-- The window or retest in progress has had its 1,024 samples. -/
def State.winOver (s : State) : Bool := decide (s.winTicks ≤ modSub s.sch.tick s.ent.winTick (2 ^ 32))

/-! ### Samples and health tests (R247, R249) -/

/-- The raw strings of a window: eight samples each, sample j in bytes 8j to 8j + 7, oscillator k in bit k of those 64 bits
(R247). -/
def rawStrings : List W64 → List Bytes
  | a :: b :: c :: d :: e :: f :: g :: h :: l => [a, b, c, d, e, f, g, h].flatMap (fun w => natLE w.toNat 8) :: rawStrings l
  | _ => []

/-- The bit stream of oscillator k. -/
def bitsOf (k : Nat) (l : List W64) : List Bool := l.map fun w => w.getLsbD k

/-- What a test counts is a failure: edges in 4 consecutive sample periods, samples of a window on which a pair agrees, the
length of a run, recurrences of the window's first bit (R249). -/
def testFails (t : HealthTest) (counts : List Nat) : Bool :=
  match t with
  | .alive => counts.length == 4 && counts.all fun n => n < 16 || 240 < n
  | .lock => counts.headD 512 < 336 || 688 < counts.headD 512
  | .rct => 41 ≤ counts.headD 0
  | .apt => 795 ≤ counts.headD 0

/-- The run of equal bits at the end of a stream whose first bit is sample i and which follows the run `r`, and the sample at
which a run first fails (R249). -/
def runOf : List Bool → Nat → Bool × Nat → Option Nat → (Bool × Nat) × Option Nat
  | [], _, r, found => (r, found)
  | b :: l, i, r, found =>
    let n := if b == r.1 then r.2 + 1 else 1
    runOf l (i + 1) (b, n) (found <|> if testFails .rct [n] then some i else none)

/-- The run of oscillator k over the samples of a window, after the runs of the window before. -/
def oscRun (runs : List (Bool × Nat)) (l : List W64) (k : Nat) : (Bool × Nat) × Option Nat :=
  runOf (bitsOf k l) 0 (runs.getD k (false, 0)) none

/-- The oscillators that are the lower of a pair of their group in which the bits of a window agree too often or too seldom. -/
def lockFails (l : List W64) (a : Nat) : Bool :=
  ((List.range 64).filter fun b => a / 8 == b / 8 && a < b).any fun b =>
    testFails .lock [countP l fun w => w.getLsbD a == w.getLsbD b]

/-- The sample of a window at which an oscillator fails a test: a run's own, the last for the tests of a window's end (R249). -/
def sampleFails (runs : List (Bool × Nat)) (l : List W64) (t : HealthTest) (k : Nat) : Option Nat :=
  let atEnd (b : Bool) : Option Nat := if b then some 1023 else none
  match t with
  | .alive => none
  | .lock => atEnd (lockFails l k)
  | .rct => (oscRun runs l k).2
  | .apt => atEnd (testFails .apt [countP (bitsOf k l) fun b => b == (bitsOf k l).headD false])

/-- The first failure in time that a window's samples show, and its sample; of several at one sample the first by test, then by
oscillator (log 93). -/
def windowFails (runs : List (Bool × Nat)) (l : List W64) : Option (HealthTest × Nat × Nat) :=
  minBy (fun x => x.2.2) ([.lock, .rct, .apt].flatMap fun t => (List.range 64).filterMap fun k => (sampleFails runs l t k).map fun j => (t, k, j))

/-- The tick of sample j of the window in progress (R247 to R249). -/
def State.sampleTick (s : State) (j : Nat) : Nat := (s.ent.winTick + (64 * j + 63) / s.tickLen) % 2 ^ 32

/-! ### Windows (R248, R250, R251) -/

/-- Blocks that a tick's samples give: one for 8 × 64 clocks (R247, R248). -/
def State.tickBlocks (s : State) : Nat := s.tickLen / 512

/-- Blocks of a window that passed enter the buffer, without those that a flush took from staging; those that find the buffer
full are discarded, and while the test pattern is in force none enters; the runs go on in the next window (R248, R249, R265). -/
def Ent.take (e : Ent) (samples : List W64) : Ent :=
  let e := { e with runs := (List.range 64).map fun k => (oscRun e.runs samples k).1 }
  if e.testEn then e else { e with buffer := (e.buffer ++ ((rawStrings samples).drop e.flushed).map sha256).take bufferMax }

/-- Exercises whose window has its verdict are answered (R311). -/
def State.exerAnswer (s : State) (pass : Bool) (begun : Bool) : State :=
  let mine := s.ent.exercise.filter fun x => x.2 || !begun
  let s := s.onEnt fun e => { e with exercise := if begun then (e.exercise.filter fun x => !x.2) else [] }
  mine.foldl (fun s x => if pass then s.replyRes x.1 0 0 [1] else s.replyRes x.1 0x0D 0 []) s

/-- A window begins now, with the exercises that were waiting for one. -/
def State.winBegin (s : State) : State :=
  s.onEnt fun e => { e with winTick := s.sch.tick, flushed := 0, exercise := e.exercise.map fun x => (x.1, true) }

/-- The code of a test (R267). -/
def testCode : HealthTest → Nat
  | .alive => 1 | .lock => 2 | .rct => 3 | .apt => 4

/-- A test fails in tick t: in a window this is discarded with its staged blocks and a pause begins, with that
tick itself (DESIGN CHOICE, log 127), in a retest the retest is to fail (R250). -/
def State.testFailed (s : State) (t : HealthTest) (osc tick : Nat) : State :=
  let note (e : Ent) : Ent := { e with lastTest := testCode t, lastOsc := osc }
  match s.ent.scn with
  | .retest => s.onEnt fun e => { note e with retestBad := true }
  | .startup | .running =>
    (s.onEnt fun e => { note e with scn := .pause, failTick := tick, failTest := testCode t, failOsc := osc, flushed := 0 }).exerAnswer false true
  | _ => s

/-- WINDOW_END: a window ends; with every test passed its blocks enter the buffer, and one whose samples fail a test failed in
the tick of the sample that made it fail, its last for the tests of a window's end (R248 to R250, R264). -/
def execWindowEnd (samples : List W64) (s : State) : Out :=
  .next (
    if !s.ticking || !(s.ent.scn == .startup || s.ent.scn == .running) || !s.winOver then s
    else match windowFails s.ent.runs samples with
      | some f => s.testFailed f.1 f.2.1 (s.sampleTick f.2.2)
      | none =>
        let s := s.onEnt fun e => { e.take samples with windows := sat 0xFFFF e.windows 1, scn := .running }
        (s.exerAnswer true true).winBegin)

/-- The test can fail in this tick: two of the four only at a window's end (R249). -/
def State.testTime (s : State) (t : HealthTest) : Bool :=
  match t with
  | .alive | .rct => true
  | .lock | .apt => decide (s.winTicks ≤ modSub s.sch.tick s.ent.winTick (2 ^ 32) + 1)

/-- HEALTH_TEST_FAILURE: a test's counts are a failure: the window is discarded and a pause begins; in a retest the retest is
to fail (R249, R250). -/
def execHealthTestFailure (t : HealthTest) (osc : OscCounts) (s : State) : Out :=
  .next (if !s.ticking || osc.no ≥ 64 || !testFails t osc.counts || !s.testTime t then s else s.testFailed t osc.no s.sch.tick)

/-- RETEST_START: two ticks after the failure, or in FAILED at an epoch boundary or at the first boundary after an exercise is
accepted (R250, R251). -/
def execRetestStart (s : State) : Out :=
  let t := s.sch.tick
  let go := (s.ent.scn == .pause && decide (2 ≤ modSub t s.ent.failTick (2 ^ 32)))
    || (s.ent.scn == .failed && (t % 1024 == 0 || (!s.ent.exercise.isEmpty && s.ent.exerTick != t)))
  .next (if s.ticking && !s.sch.cutDone && go then (s.onEnt fun e => { e with scn := .retest, retestBad := false, runs := [] }).winBegin else s)

/-- The oscillator group of the failure that led to the pause. -/
def State.oscGroup (s : State) : Nat := uidOsc (s.ent.failOsc / 8)

/-- The test, the oscillator and the failure tick (R266). -/
def State.oscDetail (s : State) : Bytes := natLE s.ent.failTest 1 ++ natLE s.ent.failOsc 1 ++ natLE s.ent.failTick 4

/-- RETEST_VERDICT: the retest window ends. A pass makes the failure transient or ends FAILED; a failure is lasting,
with the alarm, and in SEEDING leads to CONTAINMENT (R250, R251, R264). -/
def execRetestVerdict (pass : Bool) (samples : List W64) (s : State) : Out :=
  .next (
    if !s.ticking || s.ent.scn != .retest || !s.winOver then s
    else
      let bad := windowFails s.ent.runs samples
      let s := match bad with
        | some f => if s.ent.retestBad then s else s.testFailed f.1 f.2.1 s.sch.tick
        | none => s
      let ok := pass && !s.ent.retestBad
      let again := s.blk.alEntropy
      let s' := if ok then
          let s1 := s.onEnt fun e => { e.take samples with scn := .running, windows := sat 0xFFFF e.windows 1, winTick := s.sch.tick, flushed := 0 }
          if again then (s1.onBlk fun b => { b with alEntropy := false }).log 0x0603 s.oscGroup noPart
          else (s1.onEnt fun e => { e with transient := sat 0xFF e.transient 1 }).log 0x0601 s.oscGroup noPart s.oscDetail
        else
          let s1 := s.onEnt fun e => { e with scn := .failed }
          if again then s1
          else
            let s2 := s1.onEnt fun e => { e with buffer := [], lasting := sat 0xFF e.lasting 1 }
            let s3 := (s2.onBlk fun b => { b with alEntropy := true }).log 0x0602 s.oscGroup noPart (s.oscDetail ++ natLE s.sch.tick 4)
            if s.blk.mode == .seeding then s3.cause .entropyFailed 0x0602 else s3
      s'.exerAnswer ok false)

/-! ### The test pattern (R265) -/

/-- The buffer, the staging, the items and every instance are cleared; the instances wait to be instantiated again. Of the
window in progress, the blocks of the ticks before this one are gone (R265; log 94). -/
def State.flushEntropy (s : State) : State :=
  s.onEnt fun e => { e with
    flushed := modSub s.sch.tick e.winTick (2 ^ 32) * s.tickBlocks
    buffer := [], insts := e.insts.map fun x => (x.1, { st := .waiting })
    cores := e.cores.map fun (c : DCore) => { c with items := [] } }

/-- A write of SCN_TEST_CTL (R265, R267): privileged, with effect in lifecycle FACTORY alone. -/
def State.testCtl (s : State) (who : Accessor) (go : State → State) : State :=
  if !s.portActs then s
  else if !who.priv then s.refuse who 0x660008 none
  else if s.blk.lifecycle != 0 || !s.live then s
  else go s

/-- TEST_PATTERN_ENABLE: a write of 1 starts the pattern at block 0 (R265). -/
def execTestPatternEnable (who : Accessor) (s : State) : Out :=
  .next (State.wrote (s.testCtl who fun s =>
    let old := s.ent.testEn
    let s := s.flushEntropy.onEnt fun e => { e with testEn := true, patSeed := e.testSeed, patCount := 0 }
    if old then s else s.log 0x0607 uidScn noPart))

/-- TEST_PATTERN_DISABLE: a write of 0 flushes and zeroizes again, and returns to the source (R265). -/
def execTestPatternDisable (who : Accessor) (s : State) : Out :=
  .next (State.wrote (s.testCtl who fun s =>
    let old := s.ent.testEn
    let s := s.flushEntropy.onEnt fun e => { e with testEn := false }
    if old then s.log 0x0607 uidScn noPart else s))

/-! ### Known-answer tests (R263, R264) -/

/-- KNOWN_ANSWER_TEST_DONE: a DRBG core that fails is eclipsed with 0x0606; without a core or without the conditioning
core the block goes to CONTAINMENT; otherwise the internal instances are to be seeded (R263, R264). Record 0x0106 names 0x0606 in
either case (DESIGN CHOICE, log 128). -/
def execKnownAnswerTestDone (core0 core1 cond : Bool) (s : State) : Out :=
  .next (
    if s.blk.mode != .seeding || s.ldr.katDone then s
    else
      let s := s.onLdr fun l => { l with katDone := true }
      let s := if core0 then s else s.eclipse (.drbgCore 0) 0x0606
      let s := if core1 then s else s.eclipse (.drbgCore 1) 0x0606
      if !cond || !(core0 || core1) then s.cause .entropyFailed 0x0606
      else (List.range 16).foldl (fun s k => s.instWait (1024 + k)) s)

end Sys2Proof.Machine
end

