-- ==== Sys2Proof/Machine/RegMap.lean ====
section
/-! DEFINITION. The register window as it reads: what every register reads as, its reader class, and the telemetry blocks,
grant log entries and Ephemeris slots that lie in it (R5 to R7, R34, R44, R52, R100, R110, R114, R124, R157, R184, R199,
R227, R246, R267, R268, R288, R294, R325, R328, R362, R367, R368, R412 to R431, R432 to R441). -/

namespace Sys2Proof.Machine

/-! ### Unit states (R157, R199, R227, R267) -/

/-- The state code of a unit: 4 ECLIPSED, 3 SELF_TEST, 1 GATED, 2 CAPPED, 0 IN_SERVICE; an engine that an accepted
UNIT_ECLIPSE waits for reads SELF_TEST (R195). -/
def State.unitCode (s : State) (u : UnitId) : Nat :=
  if s.eclipsed u then 4
  else if (s.unitSt u).inTest then 3
  else match u with
    | .lane n => if s.quadGated (n / 4) then 1 else if s.cappedLanes.contains n then 2 else 0
    | .engine n => if (s.unitSt u).eclPend == some .management then 3 else b2n (s.quadGated (n / 8))
    | .macu n => b2n (s.quadGated (n / 4))
    | _ => 0

/-- A mask of the numbers below n that satisfy a test. -/
def maskOf (n : Nat) (p : Nat → Bool) : Nat := sumBy (List.range n) fun i => if p i then 2 ^ i else 0

/-! ### Telemetry blocks (R421 to R427) -/

/-- A partition's 512 bytes (R423). -/
def PTel.bytesOf (t : PTel) (tick : Nat) : Bytes :=
  let w (n : W64) : Bytes := natLE n.toNat 8
  let pair (i : Nat) : Bytes := w (t.borrowed.getD i 0) ++ w (t.lent.getD i 0)
  natLE tick 4 ++ zeros 4 ++ w t.requests ++ w t.errors ++ w t.retried ++ w t.grants ++ w (t.clocks.getD 0 0)
    ++ w (t.clocks.getD 1 0) ++ w (t.clocks.getD 2 0) ++ w t.violations ++ pair 0 ++ pair 1 ++ pair 2 ++ w t.unrun
    ++ t.bytes.flatMap w ++ t.latency.flatMap w ++ zeros 128

/-- The unit whose counters stand at place k (R421). -/
def telUnit (k : Nat) : UnitId := if k < 16 then .lane k else if k < 48 then .engine (k - 16) else .macu (k - 48)

/-- A unit's 32 bytes (R426). -/
def State.unitTel (s : State) (k : Nat) : Bytes :=
  let u := telUnit k
  let x := s.unitSt u
  natLE s.sch.telTick 4 ++ natLE (2 ^ 24 * x.pubPass + 65536 * x.pubFail + s.unitCode u) 4 ++ natLE x.pubBusy.toNat 8
    ++ natLE x.pubSegs.toNat 8 ++ natLE x.pubTrans.toNat 4 ++ zeros 4

/-- The block's 256 bytes (R427). -/
def State.blockTel (s : State) : Bytes :=
  let w (n : W64) : Bytes := natLE n.toNat 8
  natLE s.sch.telTick 4 ++ zeros 4 ++ w s.sch.pubEnergy ++ w s.sch.pubGated ++ w s.sch.pubCapped ++ w s.sch.pubRecords
    ++ s.sch.pubResid.flatMap w ++ zeros 152

/-- A ring's 64 bytes; zeros for a CLOSED ring (R422). -/
def State.ringTel (s : State) (r : Nat) : Bytes :=
  let x := s.ring r
  let w (n : W64) : Bytes := natLE n.toNat 8
  if x.st == .closed then zeros 64
  else natLE s.sch.telTick 4 ++ natLE x.statusWord 4 ++ w x.submitted ++ w x.completed ++ w x.errors ++ w x.bytes
    ++ natLE x.violations.toNat 4 ++ natLE (r + 2 ^ 22 * x.owner) 4 ++ zeros 16

/-! ### Records and grants (R412, R429) -/

/-- The 32 bytes of a record (R412). -/
def EphRec.encode (r : EphRec) : Bytes :=
  natLE r.time.toNat 8 ++ natLE r.seq.toNat 4 ++ natLE r.body.source 2 ++ natLE r.body.part 2 ++ natLE r.body.code 2
    ++ natLE (r.body.sev + 16 * r.body.flags) 2 ++ (r.body.detail ++ zeros 12).take 12

/-- The record in slot n (R416, R417). -/
def State.ephSlot (s : State) (n : Nat) : Option EphRec := s.eph.recs.find? fun r => r.seq.toNat % ephDepth == n

/-- The 32 bytes of a grant log entry (R429). -/
def GEntry.encode (e : GEntry) : Bytes :=
  let g := e.grant
  let flags := b2n g.win + 2 * b2n g.retry + 4 * b2n g.pair + 8 * b2n g.lending + 16 * b2n g.zero
  natLE e.tick 4 ++ natLE (uid g.unit) 2 ++ natLE (g.part % 1024 + 1024 * flags) 2 ++ natLE (g.id.ring + 2 ^ 17 * g.id.link) 4
    ++ natLE (e.index % 2 ^ 21) 4 ++ natLE g.seg 4 ++ natLE g.cost 2 ++ natLE g.start 2 ++ natLE e.seq.toNat 4 ++ zeros 4

def State.glogSlot (s : State) (n : Nat) : Bytes :=
  match s.glog.entries.find? fun e => e.seq.toNat % 8192 == n with
  | some e => e.encode
  | none => zeros 32

/-! ### Block registers (R100, R288, R368, R436, R437) -/

/-- BLK_MODE (R368). -/
def State.blkMode (s : State) : Nat :=
  let b := s.blk
  2 ^ 24 * b.reason.code + 2 ^ 22 * b.lifecycle.toNat + 2 ^ 21 * b2n b.wiped + 2 ^ 20 * b2n b.charterCopy
    + 2 ^ 19 * b2n b.reduced + b.mode.code

def Port.errWord (p : Port) : Nat := 2 ^ 24 * p.late + 65536 * p.tmo + 256 * p.pois + p.bus
def Port.tagWord (p : Port) : Nat := 2048 * p.quar.length + countP p.reads fun r => r.issued
def Stream.word (p : Stream) : Nat := 2 ^ 31 * b2n p.paused + 2 ^ 30 * b2n p.inHeld + p.long

def State.blkReg (s : State) (o : Nat) : Nat :=
  let b := s.blk
  match o with
  | 0x00 => 0xB0D20000
  | 0x04 => 0x02010000
  | 0x08 => 2 ^ 26 * 32 + 2 ^ 21 * 16 + 2 ^ 16 * 16 + 2 ^ 13 * 4 + 0x3FF
  | 0x0C => 0x00060006
  | 0x10 => s.blkMode
  | 0x14 => s.charter.serial
  | 0x18 => (s.ldr.results.getD 0 0) + 256 * (s.ldr.results.getD 1 0) + 65536 * (s.ldr.results.getD 2 0) + 2 ^ 24 * (s.ldr.results.getD 3 0)
  | 0x1C => 65536 * b.startLoad + b.startSeed
  | 0x20 => b.time.toNat % 2 ^ 32
  | 0x24 => b.time.toNat / 2 ^ 32
  | 0x28 => 8 * b2n b.mbxWake + 4 * b2n b.alEntropy + 2 * b2n b.alReduced + b2n b.alFatal
  | 0x200 => 65536 * s.budget + s.tickLen
  | 0x204 => s.sch.tick
  | 0x208 => s.sch.tick / 1024
  | 0x20C => s.capacityWord
  | 0x210 => 65536 * s.sch.estimate + s.charter.powerCeil
  | 0x214 => 65536 * min 0xFFFF s.sch.digestWait + s.sch.waitEvents
  | 0x218 => 65536 * min 0xFFFF s.sch.decisions + min 0xFFFF s.sch.discarded
  | 0x340 => s.mov.timeout
  | _ =>
    if 0x30 ≤ o ∧ o < 0x40 then (b.scratch.getD ((o - 0x30) / 4) 0).toNat
    else if 0x300 ≤ o ∧ o < 0x340 then
      let p := (s.mov.ports[(o - 0x300) / 8]?).getD {}
      if o % 8 = 0 then p.tagWord else p.errWord
    else if 0x380 ≤ o ∧ o < 0x390 then ((s.mov.streams[(o - 0x380) / 4]?).getD {}).word
    else 0

/-! ### Interrupt aggregation (R437 to R439) -/

/-- The pending bits of a word that belong to rings of the partition given, or all. -/
def State.pendWord (s : State) (w : Nat) (p : Option Nat) : Nat :=
  maskOf 32 fun b =>
    let x := s.ring (32 * w + b)
    x.pend && x.st != .closed && (p.isNone || p == some x.owner)

def State.pendRings (s : State) (p : Nat) : List Nat :=
  (s.rng.rings.filter fun x => x.2.pend && x.2.st != .closed && x.2.owner == p).map (·.1)

def State.irqSum (s : State) (p : Nat) : Nat :=
  let st := (s.chan (16 + p)).st
  2 ^ 31 * b2n (st == .done || st == .aborted || st == .rejected) + (s.pendRings p).length

def State.irqNext (s : State) (p : Nat) : Nat :=
  match s.pendRings p with
  | [] => 0
  | r :: _ => 2 ^ 31 + r

/-! ### Partition status (R34, R114) -/

def winWord (w : Option (Nat × Nat × Nat)) : Nat :=
  match w with
  | some x => 65536 * x.2.2 + x.2.1
  | none => 0

def maskList (l : List Nat) : Nat := maskOf 32 l.contains

/-- Bits 20 to 16 of a window register: the partial window's unit. -/
def winBits (w : Option (Nat × Nat × Nat)) : Nat :=
  match w with
  | some x => 2 ^ 20 + 65536 * x.1
  | none => 0

def State.partReg (s : State) (n o : Nat) : Nat :=
  match s.part n with
  | none => 0
  | some p =>
    let e := p.entry
    let f (c : Nat) : Nat := p.feff.getD c 0
    let k := p.pattern.getD {}
    match o with
    | 0x00 => s.partWord p
    | 0x04 => 2 ^ 31 + 2 ^ 30 * b2n e.client + e.fid
    | 0x08 => s.ringsOpen n
    | 0x0C => p.ringLimit
    | 0x10 => 65536 * p.mbxVer + p.fmtMask
    | 0x14 => 65536 * (p.ceiling % 65536) + p.floor % 65536
    | 0x18 => 65536 * (f 2 % 65536) + f 0 % 65536
    | 0x1C => 2 ^ 26 * (p.ceiling / 65536) + 2 ^ 25 * (p.floor / 65536) + 2 ^ 24 * (f 1 / 65536) + 2 ^ 23 * (f 2 / 65536)
        + 2 ^ 22 * (f 0 / 65536) + 2 ^ 20 * p.segShift + 65536 * e.prio + f 1 % 65536
    | 0x20 => 65536 * (p.lentLast % 65536) + p.borrLast % 65536
    | 0x24 => 2 ^ 31 * b2n p.pattern.isSome + k.epoch
    | 0x28 => 2 ^ 21 * b2n (p.pattern.isSome && e.binary) + winBits k.laneWin + maskList k.lanes
    | 0x2C => winWord k.laneWin
    | 0x30 => maskList k.engines
    | 0x34 => winBits k.macuWin + maskList k.macus
    | 0x38 => winWord k.macuWin
    | 0x3C => if e.isSealed then 2 ^ 24 * min 255 p.late + 0x00010402 else 0
    | _ => 0

/-! ### Units, keys, Orrery, Scintilla, service DMA (R157, R184, R199, R227, R246, R267, R268, R294, R325) -/

def State.laneReg (s : State) (n o : Nat) : Nat :=
  let x := (s.dat.lanes[n]?).getD {}
  match o with
  | 0 => 128 * b2n (s.holdsWindow 0 n) + 64 * b2n x.paired + s.unitCode (.lane n)
  | 4 => 65536 * x.u.ecc2 + x.u.ecc1
  | _ => 0

def State.engineReg (s : State) (n o : Nat) : Nat :=
  let x := (s.dat.engines[n]?).getD {}
  match o with
  | 0 => 2 ^ 31 * b2n x.bound.isSome + 2 ^ 30 * b2n (s.holdsWindow 2 n) + 2 ^ 29 * b2n (x.u.eclPend == some .management)
      + 65536 * (if x.bound.isSome then x.part else 0) + s.unitCode (.engine n)
  | 4 => x.bindTick
  | 8 => 65536 * x.u.ecc2 + x.u.ecc1
  | _ => 0

def State.macuReg (s : State) (n o : Nat) : Nat :=
  let x := (s.dat.macus[n]?).getD {}
  match o with
  | 0 => 2 ^ 31 * b2n (s.holdsWindow 1 n) + 2 ^ 30 * b2n x.dualUse + 2 ^ 24 * maskOf 4 (fun r => (x.regions.getD r none).isSome)
      + 65536 * (x.regions.filterMap id).eraseDups.length + s.unitCode (.macu n)
  | 4 => 65536 * x.u.ecc2 + x.u.ecc1
  | _ => 0

def State.keyReg (s : State) (o : Nat) : Nat :=
  let k := s.key
  match o with
  | 0x00 => k.base % 2 ^ 32
  | 0x04 => k.base / 2 ^ 32
  | 0x08 => k.usedPages
  | 0x0C => 2 ^ 17 * k.hslots.length + k.slots.length
  | 0x10 => 65536 * k.ledgerWaits + 256 * k.tagFails + k.uncorr
  | _ => 0

/-- The running image and the one in the inactive bank (R242, R244). -/
def State.running (s : State) : Image := (if s.ory.bankAct then s.ory.bankB else s.ory.bankA).getD {}
def State.inactive (s : State) : Option Image := if s.ory.bankAct then s.ory.bankA else s.ory.bankB

def State.swapBusy (s : State) : Bool := s.ory.staging.isSome || s.swapOn || s.blk.mode == .swap

def State.oryReg (s : State) (o : Nat) : Nat :=
  let y := s.ory
  match o with
  | 0x00 => s.running.version.toNat
  | 0x04 => 2 ^ 24 * s.running.security + 65536 * s.running.checkpoint + 256 * y.stageRes + 2 * b2n s.swapBusy + b2n y.bankAct
  | 0x08 => (s.inactive.map fun i => i.version.toNat).getD 0
  | 0x0C =>
    if s.ldr.chosen.isNone then 0
    else 2 ^ 24 * countP (List.range 64) s.threadFree + 65536 * s.freeBuffers.length
      + 256 * (192 - countP y.chans fun c => decide (64 ≤ c.1)) + 16 * s.charter.entThreads + s.charter.mgmtThreads
  | 0x10 => sumBy (List.range 4) fun c =>
      2 ^ (8 * c) * (128 * b2n ((y.cores[c]?).map (·.awake) == some true) + countP (List.range 16) fun i => (s.thread (16 * c + i)).st != .ended)
  | 0x14 => 2 ^ 24 * y.closedWait + 65536 * y.timeLimit + 256 * y.quiesce + y.forkFail
  | 0x18 => s.oryDebug
  | _ => 0

def ScnState.code : ScnState → Nat
  | .off => 0 | .startup => 1 | .running => 2 | .pause => 3 | .retest => 4 | .failed => 5

def State.scnReg (s : State) (o : Nat) : Nat :=
  let e := s.ent
  let core (c : Nat) : Nat := if s.eclipsed (.drbgCore c) then 4
    else if (s.unitSt (.drbgCore c)).inTest || (s.blk.mode == .seeding && !s.ldr.katDone) then 3 else 0
  match o with
  | 0x00 => 2 ^ 29 * (if e.testEn then 6 else e.scn.code) + 2 ^ 28 * b2n s.blk.alEntropy + 2 ^ 25 * e.lastTest + 2 ^ 19 * e.lastOsc
      + 256 * e.buffer.length + min 0xFF e.waiting
  | 0x04 => 2 ^ 24 * e.lasting + 65536 * e.transient + e.windows
  | 0x08 => b2n e.testEn
  | 0x0C => e.testSeed.toNat
  | 0x10 => 256 * e.sealedCnt + 8 * core 1 + core 0
  | _ => 0

def InstState.code : InstState → Nat
  | .uninst => 0 | .waiting => 1 | .seeded => 2 | .reseedWait => 3

def State.instReg (s : State) (i o : Nat) : Nat :=
  let x := s.inst i
  let w := (s.part i).bind (·.drbgWin)
  if o = 0 then
    2 ^ 29 * x.st.code + (match w with
      | some v => 2 ^ 28 + 2 ^ 19 * (v.1 / 16) + 2 ^ 12 * (v.2 / 16)
      | none => 0) + x.reseeds
  else min x.calls 0xFFFFFFFF

/-- Bytes or descriptors still to run (R294). -/
def Sdma.remain (x : Sdma) : Nat :=
  if !x.busy then x.setup.count
  else if x.setup.list then x.setup.count - x.progress
  else match x.old.head? with
    | some d => x.setup.count - d.done
    | none => x.setup.count - x.held.length

def State.sdmaReg (s : State) (n o : Nat) : Nat :=
  let x := s.dma n
  let c := x.setup
  match o with
  | 0x00 => c.src % 2 ^ 32
  | 0x04 => c.src / 2 ^ 32 % 2 ^ 20
  | 0x08 => c.dst % 2 ^ 32
  | 0x0C => c.dst / 2 ^ 32 % 2 ^ 20
  | 0x10 => x.remain % 2 ^ 24
  | 0x14 => 2 ^ 31 * b2n x.busy + 2 ^ 30 * b2n x.abort + 2 ^ 29 * b2n c.list + 2 ^ 28 * b2n c.listSm + 2 ^ 26 * (c.srcSpace % 4)
      + 2 ^ 24 * (c.dstSpace % 4) + 2 ^ 22 * (c.swap % 4) + 2 ^ 21 * b2n c.vault + c.fid % 1024
  | 0x18 => 2 ^ 31 * b2n x.busy + 2 ^ 30 * b2n x.done + 2 ^ 29 * b2n x.error + 2 ^ 27 * x.cause + 65536 * x.bad + min 0xFFFF x.progress
  | _ => 0

/-- The fault registers (R325). -/
def State.faultReg (s : State) (o : Nat) : Nat :=
  match o with
  | 0x00 => 65536 * maskOf 16 (fun n => s.eclipsed (.macu n)) + maskOf 16 fun n => s.eclipsed (.lane n)
  | 0x04 => maskOf 32 fun n => s.eclipsed (.engine n)
  | 0x08 => 256 * maskOf 2 (fun n => s.eclipsed (.drbgCore n)) + 16 * maskOf 4 (fun n => s.eclipsed (.oryCore n)) + maskOf 4 s.quadEcl
  | 0x0C => 65536 * s.sch.retryTrans + s.sch.retryFail
  | 0x10 => 2 ^ 24 * s.sch.stPassed + 65536 * s.sch.stFailed
  | _ => 0

/-- The Ephemeris registers (R420). -/
def State.ephReg (s : State) (o : Nat) : Nat :=
  let e := s.eph
  match o with
  | 0x00 => e.nextSeq.toNat
  | 0x04 => 2 ^ 31 * b2n e.frozen + 2 ^ 30 * b2n e.overrun + e.recs.length
  | 0x08 => 65536 * e.warn + e.fault
  | 0x0C => 65536 * e.stalls + e.peak
  | _ => 0

/-- The grant log registers (R431). -/
def State.glogReg (s : State) (o : Nat) : Nat :=
  let g := s.glog
  match o with
  | 0x00 => 65536 * g.post + 4 * b2n g.frozen + 2 * b2n g.onFault + b2n g.enable
  | 0x04 => g.nextSeq.toNat
  | 0x08 => g.trigger.toNat
  | _ => 0

/-- A mailbox channel's registers (R328). -/
def State.mbxReg (s : State) (c o : Nat) : Nat :=
  let m := s.chan c
  let v := s.chanVersion c
  if o < 0x40 then (m.down.getD (o / 4) 0).toNat
  else if o < 0x80 then (if m.st == .done then (m.up.getD ((o - 0x40) / 4) 0).toNat else 0)
  else match o with
    | 0x80 =>
      let code : Nat := match m.st with
        | .idle => 0 | .pending => 1 | .busy => 2 | .done => 3 | .aborted => 4 | .rejected => 5
      2 ^ 31 * b2n (m.st == .pending || m.st == .busy) + 2 ^ 29 * b2n m.notify + 2 ^ 28 * b2n m.applied + 4096 * v
        + 2048 * b2n (decide (16 ≤ c) && v == 1) + code
    | 0x88 => m.dbUp.toNat
    | 0x8C => m.dbMask.toNat
    | 0x90 => 65536 * m.completed + 256 * m.refused + m.aborts
    | _ => 0

/-! ### The window (R432 to R434, R441) -/

/-- The word of a byte address (R387, R388). -/
def wordAddr (a : Nat) : Nat := a % 2 ^ 24 / 4 * 4

/-- The ring that a doorbell or ring status address names. -/
def ringAt (a : Nat) : Option Nat :=
  if a < 0x100000 then some (a / 8) else if 0x200000 ≤ a ∧ a < 0x300000 then some ((a - 0x200000) / 8) else none

/-- The channel of a mailbox address. -/
def chanAt (a : Nat) : Option Nat := if 0x100000 ≤ a ∧ a < 0x141000 then some ((a - 0x100000) / 256) else none

/-- What a register reads as, to a privileged access. -/
def State.regValue (s : State) (a : Nat) : Nat :=
  if a < 0x100000 then
    let x := s.ring (a / 8)
    if a % 8 = 0 then x.prod else x.cons
  else if a < 0x141000 then s.mbxReg ((a - 0x100000) / 256) (a % 256)
  else if a < 0x200000 then 0
  else if a < 0x300000 then
    let x := s.ring ((a - 0x200000) / 8)
    if a % 8 = 0 then x.statusWord else x.abortWord
  else if a < 0x308000 then s.blkReg (a - 0x300000)
  else if a < 0x30C000 then s.pendWord ((a - 0x308000) / 4) none
  else if a < 0x30E000 then (if a % 8 = 0 then s.irqSum ((a - 0x30C000) / 8) else s.irqNext ((a - 0x30C000) / 8))
  else if a < 0x310000 then 0
  else if a < 0x320000 then s.partReg ((a - 0x310000) / 64) (a % 64)
  else if a < 0x400000 then 0
  else if a < 0x480000 then
    match s.part ((a - 0x400000) / 512) with
    | some p => leAt (p.telPub.bytesOf s.sch.telTick) (a % 512) 4
    | none => 0
  else if a < 0x480800 then leAt (s.unitTel ((a - 0x480000) / 32)) (a % 32) 4
  else if a < 0x490000 then 0
  else if a < 0x490100 then leAt s.blockTel (a % 256) 4
  else if a < 0x4A0000 then 0
  else if a < 0x4A0010 then s.glogReg (a - 0x4A0000)
  else if a < 0x4C0000 then 0
  else if a < 0x500000 then leAt (s.glogSlot ((a - 0x4C0000) / 32)) (a % 32) 4
  else if a < 0x540000 then leAt (((s.ephSlot ((a - 0x500000) / 32)).map (·.encode)).getD []) (a % 32) 4
  else if a < 0x600000 then 0
  else if a < 0x600200 then s.laneReg ((a - 0x600000) / 32) (a % 32)
  else if a < 0x600400 then 0
  else if a < 0x600800 then s.engineReg ((a - 0x600400) / 32) (a % 32)
  else if a < 0x600A00 then s.macuReg ((a - 0x600800) / 32) (a % 32)
  else if a = 0x600A00 then 65536 * min 0xFFFF s.sch.unplaced + s.sch.fallback
  else if a < 0x620000 then 0
  else if a < 0x620014 then s.keyReg (a - 0x620000)
  else if a < 0x640000 then 0
  else if a < 0x64001C then s.oryReg (a - 0x640000)
  else if a < 0x660000 then 0
  else if a < 0x660014 then s.scnReg (a - 0x660000)
  else if a < 0x661000 then 0
  else if a < 0x661000 + 8 * 1040 then s.instReg ((a - 0x661000) / 8) (a % 8)
  else if a < 0x680000 then 0
  else if a < 0x680800 then s.sdmaReg ((a - 0x680000) / 32) (a % 32)
  else if a < 0x6A0000 then 0
  else if a < 0x6A0014 then s.faultReg (a - 0x6A0000)
  else if a < 0x6C0000 then 0
  else if a < 0x6C0010 then s.ephReg (a - 0x6C0000)
  else 0

/-- Reader classes (R433); the owner is a partition, or none. -/
inductive RClass where
  | all
  | owner (p : Option Nat)
  | filter
  | priv
  deriving DecidableEq, Repr

/-- The block registers of class ALL (R441). -/
def allBlk : List Nat := [0x00, 0x04, 0x08, 0x0C, 0x10, 0x20, 0x24, 0x200, 0x204, 0x208]

/-- The class of an address: one that names no register, outside the owned regions, is for privileged accesses alone
(R434). -/
def State.regClass (s : State) (a : Nat) : RClass :=
  match ringAt a, chanAt a with
  | some r, _ => .owner (s.ringOwner r)
  | none, some c => if c < 16 then .priv else .owner (some (c - 16))
  | none, none =>
    if 0x300000 ≤ a ∧ a < 0x308000 then (if allBlk.contains (a - 0x300000) then .all else .priv)
    else if (0x308000 ≤ a ∧ a < 0x30C000) ∨ (0x500000 ≤ a ∧ a < 0x540000) then .filter
    else if 0x30C000 ≤ a ∧ a < 0x30E000 then .owner (some ((a - 0x30C000) / 8))
    else if 0x310000 ≤ a ∧ a < 0x320000 then .owner (some ((a - 0x310000) / 64))
    else if 0x400000 ≤ a ∧ a < 0x480000 then .owner (some ((a - 0x400000) / 512))
    else if a = 0x640000 ∨ a = 0x6C0000 then .all
    else if 0x661000 ≤ a ∧ a < 0x661000 + 8 * 1024 then .owner (some ((a - 0x661000) / 8))
    else .priv

/-- A read that DORMANT answers, and that a partition function makes in CONTAINMENT (R362, R367). -/
def alwaysRead (a : Nat) : Bool := a == 0x300004 || a == 0x300010

/-- A read passes the checks (R362, R367, R434). -/
def State.mayRead (s : State) (who : Accessor) (a : Nat) : Bool :=
  if s.blk.mode == .dormant then alwaysRead a
  else if who.priv then true
  else if s.blk.mode == .containment then alwaysRead a
  else match s.regClass a with
    | .all => true
    | .filter => (s.partOfFid who.fid).isSome
    | .owner p => s.mayAct who p
    | .priv => false

/-- What a read returns: the filtered registers show a partition its own rings and records (R418, R439). -/
def State.readValue (s : State) (who : Accessor) (a : Nat) : W32 :=
  let v := BitVec.ofNat 32 (s.regValue a)
  match s.regClass a with
  | .filter =>
    if who.priv then v
    else if a < 0x500000 then BitVec.ofNat 32 (s.pendWord ((a - 0x308000) / 4) (s.partOfFid who.fid))
    else match s.ephSlot ((a - 0x500000) / 32) with
      | some r => if some r.body.part == s.partOfFid who.fid then v else 0xFFFFFFFF
      | none => 0xFFFFFFFF
  | _ => v

end Sys2Proof.Machine
end

