-- ==== Sys2Proof/Machine/Regs.lean ====
section
/-! DEFINITION. Accesses to the register window: writes, reads that clear, refused reads, interrupt aggregation and the
grant log's control (R6, R7, R52, R326, R367, R431, R433 to R439). -/

namespace Sys2Proof.Machine

/-- The state of an answer, the old one where it is no next state. -/
def nextOf (o : Out) (s : State) : State :=
  match o with
  | .next t => t
  | _ => s

/-! ### Writes of single registers -/

/-- A write passes the checks of R434: a privileged access, or a function in an object of its own partition or a
filtered register. -/
def State.mayWrite (s : State) (who : Accessor) (a : Nat) : Bool :=
  who.priv || match s.regClass a with
    | .owner p => s.mayAct who p
    | .filter => (s.partOfFid who.fid).isSome
    | _ => false

/-- A write under R434: dropped while the port does not act, refused, or acted on. -/
def State.regAct (s : State) (who : Accessor) (a : Nat) (go : State → State) : State :=
  if !s.portActs then s else if !s.mayWrite who a then s.refuse who a (ringAt a) else go s

def glogCtl : Nat := 0x4A0000
def irqPendBase : Nat := 0x308000
def irqTestAddr : Nat := 0x300040

/-- The log freezes at once (R431). -/
def State.glogFreeze (s : State) : State := s.onGlog fun g => { g with frozen := true, counting := none }

/-- Writing 1 to frozen clears it (R431). -/
def State.glogThaw (s : State) : State := s.onGlog fun g => { g with frozen := false }

/-- A write of GLOG_CTL (R431): a freeze and a clearing in one write leave the log frozen (R6). -/
def State.glogWrite (s : State) (v : W32) : State :=
  let s := s.onGlog fun g => { g with post := fld v.toNat 16 16, onFault := v.getLsbD 1, enable := v.getLsbD 0 }
  let s := if v.getLsbD 2 then s.glogThaw else s
  if v.getLsbD 3 then s.glogFreeze else s

/-- The pending bits of a word that are 1 in `v` are cleared, of all rings or of a partition's (R438, R439). -/
def State.pendClear (s : State) (w : Nat) (v : W32) (p : Option Nat) : State :=
  (List.range 32).foldl (fun s b =>
    let r := 32 * w + b
    let x := s.ring r
    if v.getLsbD b && x.pend && (p.isNone || p == some x.owner) then s.onRing r fun x => { x with pend := false } else s) s

/-- An interrupt message of BLK_IRQ_TEST (R437). -/
def State.irqTestMsg (s : State) (v : W32) : State :=
  let fid := fld v.toNat 0 10
  let vec := fld v.toNat 16 11
  match (s.partOfFid fid).bind s.part with
  | none => s
  | some p => if p.entry.vecBase ≤ vec ∧ vec < p.entry.vecBase + p.entry.vecCount then s.irqMsg fid vec else s

/-- A write of RING_STATUS: its three W1C bits (R52). -/
def State.ringStatusWrite (s : State) (r : Nat) (v : W32) : State :=
  if (s.ring r).st == .closed then s
  else s.onRing r fun x => { x with
    flushed := x.flushed && !v.getLsbD 28, abortLate := x.abortLate && !v.getLsbD 27, cqStall := x.cqStall && !v.getLsbD 26 }

/-- A write of a channel's register (R328). -/
def State.chanWrite (s : State) (who : Accessor) (c off : Nat) (v : W32) : State :=
  if off < 0x40 then s.mailWrite who c off fun s => s.onChan c fun m => { m with down := m.down.set (off / 4) v }
  else if off = 0x80 then s.mailWrite who c off fun s => s.ctrlWrite c v
  else if off = 0x84 then
    s.dbDown who c fun s => if v.getLsbD 0 then s.goChan c true else if v.getLsbD 1 then s.ackChan c else s
  else if off = 0x88 then s.mailWrite who c off fun s => s.onChan c fun m => { m with dbUp := m.dbUp &&& ~~~(v.setWidth 4) }
  else if off = 0x8C then nextOf (execMbDbMaskClear who c v s) s
  else if 0x94 ≤ off ∧ who.priv then s
  else s.mailWrite who c off id

/-- A write of a register outside the rings and channels, once it passed the checks. -/
def State.blockWrite (s : State) (who : Accessor) (a : Nat) (v : W32) : State :=
  if 0x300030 ≤ a ∧ a < 0x300040 then s.onBlk fun b => { b with scratch := b.scratch.set ((a - 0x300030) / 4) v }
  else if a = irqTestAddr then s.irqTestMsg v
  else if irqPendBase ≤ a ∧ a < 0x30C000 then
    s.pendClear ((a - irqPendBase) / 4) v (if who.priv then none else s.partOfFid who.fid)
  else if a = glogCtl then s.glogWrite v
  else if a = 0x660008 then
    if v.getLsbD 0 then nextOf (execTestPatternEnable who s) s else nextOf (execTestPatternDisable who s) s
  else if a = 0x66000C then if s.blk.lifecycle != 0 then s else s.onEnt fun e => { e with testSeed := v }
  else if a = 0x6C0004 then s.onEph fun e => { e with overrun := e.overrun && !v.getLsbD 30 }
  else s

/-! ### Commands -/

/-- REGISTER_WRITE (R6, R7, R326, R362, R367, R433 to R435). -/
def execRegisterWrite (who : Accessor) (addr : Nat) (v : W32) (s : State) : Out :=
  let a := wordAddr addr
  .next (State.wrote (match ringAt a, chanAt a with
    | some r, _ =>
      if a < 0x100000 then
        if a % 8 = 0 then nextOf (execProducerWrite who r v s) s else nextOf (execConsumerWrite who r v s) s
      else if a % 8 = 0 then s.regAct who a fun s => s.ringStatusWrite r v
      else nextOf (execAbortWrite who r v s) s
    | none, some c => s.chanWrite who c (a % 256) v
    | none, none => s.regAct who a fun s => s.blockWrite who a v))

/-- The RC fields of a register are cleared (R6). -/
def State.clearRc (s : State) (a : Nat) : State :=
  match chanAt a with
  | some c => if a % 256 = 0x90 then s.onChan c fun m => { m with completed := 0, refused := 0, aborts := 0 } else s
  | none =>
    let ecc (x : UnitSt) : UnitSt := { x with ecc1 := 0, ecc2 := 0 }
    if a = 0x300214 then s.onSch fun c => { c with waitEvents := 0 }
    else if a = 0x300218 then s.onSch fun c => { c with decisions := 0, discarded := 0 }
    else if 0x300300 ≤ a ∧ a < 0x300340 ∧ a % 8 = 4 then
      s.onPort ((a - 0x300300) / 8) fun p => { p with late := 0, tmo := 0, pois := 0, bus := 0 }
    else if 0x300380 ≤ a ∧ a < 0x300390 then s.onStream ((a - 0x300380) / 4) fun p => { p with long := 0 }
    else if 0x600000 ≤ a ∧ a < 0x600200 ∧ a % 32 = 4 then s.onUnit (.lane ((a - 0x600000) / 32)) ecc
    else if 0x600400 ≤ a ∧ a < 0x600800 ∧ a % 32 = 8 then s.onUnit (.engine ((a - 0x600400) / 32)) ecc
    else if 0x600800 ≤ a ∧ a < 0x600A00 ∧ a % 32 = 4 then s.onUnit (.macu ((a - 0x600800) / 32)) ecc
    else if a = 0x600A00 then s.onSch fun c => { c with fallback := 0 }
    else if a = 0x620010 then s.onKey fun k => { k with ledgerWaits := 0, tagFails := 0, uncorr := 0 }
    else if a = 0x640014 then s.onOry fun o => { o with closedWait := 0, timeLimit := 0, quiesce := 0, forkFail := 0 }
    else if a = 0x660004 then s.onEnt fun e => { e with lasting := 0, transient := 0, windows := 0 }
    else if a = 0x6A000C then s.onSch fun c => { c with retryTrans := 0, retryFail := 0 }
    else if a = 0x6A0010 then s.onSch fun c => { c with stPassed := 0, stFailed := 0 }
    else if a = 0x6C0008 then s.onEph fun e => { e with warn := 0, fault := 0 }
    else if a = 0x6C000C then s.onEph fun e => { e with stalls := 0, peak := 0 }
    else s

/-- READ_CLEARS: a read that passes the checks returns the value and clears RC fields; in CONTAINMENT they stay (R6,
R367). -/
def execReadClears (who : Accessor) (addr : Nat) (s : State) : Out :=
  let a := wordAddr addr
  .next (
    if s.blk.rpReset || !s.mayRead who a then s
    else
      let s' := if s.portActs then s.clearRc a else s
      s'.respond (s.readValue who a))

/-- READ_REFUSED: the read returns 0xFFFFFFFF; outside DORMANT and CONTAINMENT it is violation 0x0503 (R7, R362, R367,
R434). -/
def execReadRefused (who : Accessor) (addr : Nat) (s : State) : Out :=
  let a := wordAddr addr
  .next (
    if s.blk.rpReset || s.mayRead who a then s
    else (if s.portActs then s.refuse who a (ringAt a) else s).respond 0xFFFFFFFF)

/-- IRQ_PEND_CLEAR: a W1C write of word w of the pending bits (R438, R439). -/
def execIrqPendClear (who : Accessor) (w : Nat) (v : W32) (s : State) : Out :=
  .next (State.wrote (if w < 4096 then s.regAct who (irqPendBase + 4 * w) fun s => s.blockWrite who (irqPendBase + 4 * w) v else s))

/-- IRQ_TEST: a write of BLK_IRQ_TEST (R437). -/
def execIrqTest (who : Accessor) (v : W32) (s : State) : Out := .next (State.wrote (s.regAct who irqTestAddr fun s => s.irqTestMsg v))

/-- FREEZE_NOW (R431). -/
def execFreezeNow (who : Accessor) (s : State) : Out := .next (State.wrote (s.regAct who glogCtl State.glogFreeze))

/-- FROZEN_CLEAR (R431). -/
def execFrozenClear (who : Accessor) (s : State) : Out := .next (State.wrote (s.regAct who glogCtl State.glogThaw))

end Sys2Proof.Machine
end

