-- ==== Sys2Proof/Machine/Image.lean ====
section
/-! DEFINITION. Containers, the Charter and the firmware header: layout, verification and content checks (R242, R243,
R346 to R353). -/

namespace Sys2Proof.Machine

/-! ### The container (R346 to R348) -/

def resOk : Nat := 0x01
def resHeader : Nat := 0x02
def resOwner : Nat := 0x03
def resEcdsa : Nat := 0x04
def resMldsa : Nat := 0x05
def resContent : Nat := 0x06
def resRollback : Nat := 0x07

def imgCharter : Nat := 1
def imgFirmware : Nat := 2

def isZero (b : Bytes) : Bool := b.all (· == 0)

def payloadLen (b : Bytes) : Nat := leAt b 8 4
def totalLen (b : Bytes) : Nat := leAt b 12 4

/-- A payload length that the image type allows: for a Charter one of 1 to 1,024 partitions, for firmware one of 1 to
524,288 bytes of code (R346). -/
def payloadLenOk (type n : Nat) : Bool :=
  if type = imgCharter then decide (320 ≤ n) && decide (n ≤ 65792) && n % 64 == 0 else decide (65 ≤ n) && decide (n ≤ 524352)

/-- The fixed part of the header: magic, version, image type and reserved bytes. -/
def containerFixed (type : Nat) (b : Bytes) : Bool :=
  b.take 4 == ascii "ORIM" && byteAt b 4 == 1 && byteAt b 5 == type && isZero (slice b 6 2) && isZero (slice b 16 48)

def totalOk (b : Bytes) : Bool := totalLen b == 5632 + 64 * cdiv (payloadLen b) 64

/-- The header checks of R348; `area` is the size of the container's area. -/
def containerHeader (type area : Nat) (b : Bytes) : Bool :=
  decide (64 ≤ b.length) && containerFixed type b && payloadLenOk type (payloadLen b) && totalOk b
    && decide (totalLen b ≤ area) && decide (totalLen b ≤ b.length)

def payload (b : Bytes) : Bytes := slice b 2176 (payloadLen b)

/-- The signed message M (R347). -/
def signedPart (b : Bytes) : Bytes := b.take (totalLen b - 3456)

/-- An ECDSA P-384 point in the encoding of SEC 1. -/
def p384Point (b : Bytes) : Bool :=
  let q := p384.coords b
  b.length == 97 && byteAt b 0 == 4 && p384.onCurve q.1 q.2

/-- The three conditions of R347, as the first result code that fails. -/
def containerSigned (owner b : Bytes) : Nat :=
  let m := signedPart b
  let sig := b.drop (totalLen b - 3456)
  let pub := slice b 64 97
  if hash 0x03 (slice b 64 2049) ≠ owner then resOwner
  else if !(p384Point pub && ecdsaVerify p384 pub (hash 0x03 m) (sig.take 96)) then resEcdsa
  else if !dsaVerify 0x32 (slice b 161 1952) (ascii "BRODKAI-IMAGE") m (slice sig 96 3309) then resMldsa
  else resOk

/-- Pad bytes outside the payload (R346). -/
def padsZero (b : Bytes) : Bool :=
  let n := payloadLen b
  isZero (slice b 2113 63) && isZero (slice b (2176 + n) (64 * cdiv n 64 - n)) && isZero (slice b (totalLen b - 51) 51)

/-! ### The Charter payload (R349 to R351) -/

def readPriv (b : Bytes) (c : Nat) : Priv :=
  let o := 64 + 8 * c
  let a := leAt b o 2 % 128
  if a = 0 then {} else { authority := a, lo := leAt b (o + 2) 2 % 1024, hi := leAt b (o + 4) 2 % 1024, fid := leAt b (o + 6) 2 % 1024 }

/-- The bytes of partition entry k. -/
def entryOf (b : Bytes) (k : Nat) : Bytes := slice b (256 + 64 * k) 64

def readPart (e : Bytes) : PartEntry :=
  let f := leAt e 4 2
  let r := leAt e 36 4
  { num := leAt e 0 2 % 1024, fid := leAt e 2 2 % 1024, client := bit (leAt e 2 2) 15
    isSealed := bit f 0, pkSingle := bit f 1, binary := bit f 2, detFallback := bit f 3, modexp := bit f 4
    nonceHw := bit f 5, nonceLimit := bit f 6, prio := byteAt e 6 % 8, streamMask := byteAt e 7 % 16
    floor := leAt e 8 4, ceiling := leAt e 12 4, maxRings := leAt e 16 4, maxKeys := leAt e 20 4
    ctxSlots := leAt e 24 4, extSlots := leAt e 28 4, algMask := leAt e 32 4 % 2 ^ 15
    reseedIvl := if r = 0 then 2 ^ 32 else r, vecBase := leAt e 40 2 % 2048, vecCount := leAt e 42 2
    latency := leAt e 44 2, rsvKeys := leAt e 46 2, rsvStates := leAt e 48 2, rsvEngines := byteAt e 50 }

def readCharter (b : Bytes) : Charter :=
  let t := leAt b 18 2
  { serial := leAt b 8 4, tickSelect := byteAt b 12, mgmtThreads := byteAt b 13, entThreads := byteAt b 14
    fwMinSec := byteAt b 15, powerCeil := leAt b 16 2, readTimeout := if t = 0 then 64 else t
    vaultFid := leAt b 20 2 % 1024, vaultBase := leAt b 24 8, vaultSize := leAt b 32 8
    fwOffset := leAt b 40 4, fwLength := leAt b 44 4
    privs := (List.range 16).map (readPriv b)
    parts := (List.range (leAt b 6 2)).map fun k => readPart (entryOf b k) }

/-! ### Content checks of the Charter (R353) -/

/-- A failing check: its code and the partition at fault. -/
abbrev Check := Option (Nat × Nat)

def globalPart : Nat := 0xFFFF

/-- The first entry in a running fold that fails. -/
def firstBad {α : Type} (code : Nat) (step : α → PartEntry → α × Bool) : α → List PartEntry → Check
  | _, [] => none
  | a, e :: l =>
    let r := step a e
    if r.2 then firstBad code step r.1 l else some (code, e.num)

/-- The first entry that fails a test. -/
def startFail (code : Nat) (ok : PartEntry → Bool) (l : List PartEntry) : Check :=
  (l.find? fun e => !ok e).map fun e => (code, e.num)

def chkPayload (b : Bytes) : Check :=
  let n := leAt b 6 2
  if b.take 4 == ascii "ORCH" && byteAt b 4 == 2 && decide (1 ≤ n) && decide (n ≤ 1024) && b.length == 256 + 64 * n then none
  else some (0x01, globalPart)

/-- Reserved bits of a partition entry. -/
def entryResv (e : Bytes) : Bool :=
  leAt e 0 2 / 1024 == 0 && fld (leAt e 2 2) 10 5 == 0 && leAt e 4 2 / 128 == 0 && byteAt e 6 / 8 == 0 && byteAt e 7 / 16 == 0
    && leAt e 32 4 / 2 ^ 15 == 0 && leAt e 40 2 / 2048 == 0 && isZero (slice e 51 13)

/-- Reserved bits of a privilege map entry. -/
def privResv (b : Bytes) (c : Nat) : Bool :=
  let o := 64 + 8 * c
  leAt b o 2 / 128 == 0 && leAt b (o + 2) 2 / 1024 == 0 && leAt b (o + 4) 2 / 1024 == 0 && leAt b (o + 6) 2 / 1024 == 0

def chkReserved (pads : Bool) (b : Bytes) : Check :=
  let glob := pads && byteAt b 5 == 0 && leAt b 20 2 / 1024 == 0 && isZero (slice b 22 2) && isZero (slice b 48 16) && isZero (slice b 192 64)
  if !(glob && (List.range 16).all (privResv b)) then some (0x02, globalPart)
  else ((List.range (leAt b 6 2)).find? fun k => !entryResv (entryOf b k)).map fun k => (0x02, leAt (entryOf b k) 0 2 % 1024)

def chkGlobal (b : Bytes) (c : Charter) : Check :=
  let t := leAt b 18 2
  let ok := decide (c.tickSelect ≤ 2) && decide (2 ≤ c.mgmtThreads) && decide (c.mgmtThreads ≤ 8) && decide (1 ≤ c.entThreads)
    && decide (c.entThreads ≤ 2) && decide (1000 ≤ c.powerCeil) && decide (c.powerCeil ≤ 4000)
    && (t == 0 || (decide (16 ≤ t) && decide (t ≤ 1024) && t % 16 == 0)) && decide (c.vaultBase < 2 ^ 52) && c.vaultBase % 4096 == 0
    && c.vaultSize % 4096 == 0 && decide (c.vaultSize ≤ 2 ^ 42) && c.fwOffset % 4096 == 0 && decide (0x80000 ≤ c.fwOffset)
    && decide (c.fwLength ≤ 529984) && decide (c.fwOffset + c.fwLength ≤ 2 ^ 32)
  if ok then none else some (0x03, globalPart)

def chkPrivilege (c : Charter) : Check :=
  if c.privs.all fun p => p.authority == 0 || decide (p.lo ≤ p.hi) then none else some (0x04, globalPart)

def chkOrder (l : List PartEntry) : Check :=
  firstBad 0x05 (fun (a : Option Nat) e => (some e.num, match a with
    | none => true
    | some n => decide (n < e.num))) none l

def chkBinding (vault : Nat) (l : List PartEntry) : Check :=
  firstBad 0x06 (fun (a : List Nat) e => (e.fid :: a, !a.contains e.fid && e.fid != vault)) [] l

def chkShares (l : List PartEntry) : Check :=
  firstBad 0x07 (fun (a : Nat × Nat) e =>
    let n := a.1 + e.floor
    let d := a.2 + if e.isSealed then 2048 * e.rsvEngines else e.floor
    ((n, d), decide (e.floor ≤ 65536) && (e.isSealed || (decide (e.floor ≤ e.ceiling) && decide (e.ceiling ≤ 65536)))
      && decide (n ≤ 65536) && decide (d ≤ 65536))) (0, 0) l

def chkQuotas (l : List PartEntry) : Check :=
  firstBad 0x08 (fun (a : Nat) e =>
    (a + e.ctxSlots, decide (e.maxRings ≤ 131072) && decide (e.maxKeys < e.ctxSlots) && decide (e.extSlots < e.ctxSlots)
      && decide (a + e.ctxSlots ≤ 2 ^ 32))) 0 l

/-- The size of the laid-out window (R163). -/
def vaultEnd (l : List PartEntry) : Nat := regionsBase + sumBy l fun e => ctxRegion e + ledgerRegion e + extRegion e

def chkVault (c : Charter) : Check := if vaultEnd c.parts ≤ c.vaultSize then none else some (0x09, globalPart)

def chkFields (l : List PartEntry) : Check :=
  startFail 0x0A (fun e => if e.isSealed then e.latency == 0 && e.ceiling == 0
    else e.rsvKeys == 0 && e.rsvStates == 0 && e.rsvEngines == 0) l

def chkReseed (l : List PartEntry) : Check := startFail 0x0B (fun e => decide (1024 ≤ e.reseedIvl)) l

def chkVectors (l : List PartEntry) : Check := startFail 0x0C (fun e => e.vecCount != 0 && decide (e.vecBase + e.vecCount ≤ 2048)) l

/-- B of a Charter (R98). -/
def Charter.budget (c : Charter) : Nat := (if c.tickSelect = 1 then 2048 else if c.tickSelect = 2 then 8192 else 4096) - 256

/-- The demand d of R116 at a Charter floor. -/
def Charter.demand (c : Charter) (e : PartEntry) : Nat := cdiv (e.floor * 16 * c.budget) 65536

/-- Place the sealed partitions of a class, the paired first; the first whose demand is not met fails. -/
def chkPlaceClass (c : Charter) (k : Nat) (l : List PartEntry) : Check :=
  let b := c.budget
  let order := l.filter (fun e => e.pairs k) ++ l.filter fun e => !e.pairs k
  let units := (List.range 16).reverse.filter fun n => n % 4 ≥ 2
  firstBad 0x0D (fun (a : Placing) e =>
    let d := c.demand e
    let r := a.demand b d (e.pairs k)
    let got := r.2.1.length / (if e.pairs k then 2 else 1) * b + (match r.2.2 with
      | some w => w.2.2
      | none => 0)
    (r.1, got == d)) { free := units } order

def chkPlace (c : Charter) : Check :=
  let l := c.parts.filter (·.isSealed)
  chkPlaceClass c 0 l <|> chkPlaceClass c 1 l
    <|> firstBad 0x0D (fun (a : Nat) e => (a + e.rsvEngines, decide (a + e.rsvEngines ≤ 24))) 0 l

def chkLimits (c : Charter) : Check :=
  firstBad 0x0E (fun (a : Nat × Nat × Nat) e =>
    let b := (a.1 + e.rsvKeys, a.2.1 + e.rsvStates, a.2.2 + 1)
    (b, decide (b.1 ≤ 32768) && decide (b.2.1 ≤ 8192) && decide (b.2.2 ≤ c.budget / 64))) (0, 0, 0) (c.parts.filter (·.isSealed))

def chkSealedPk (c : Charter) : Check :=
  startFail 0x0F (fun e => !(e.isSealed && (e.modexp || fld e.algMask 8 7 != 0)) || decide (896 ≤ c.demand e)) c.parts

/-- The content checks in order; `pads` says that the container's pad bytes are 0. -/
def charterCheck (pads : Bool) (b : Bytes) : Check :=
  let c := readCharter b
  chkPayload b <|> chkReserved pads b <|> chkGlobal b c <|> chkPrivilege c <|> chkOrder c.parts <|> chkBinding c.vaultFid c.parts
    <|> chkShares c.parts <|> chkQuotas c.parts <|> chkVault c <|> chkFields c.parts <|> chkReseed c.parts <|> chkVectors c.parts
    <|> chkPlace c <|> chkLimits c <|> chkSealedPk c

/-! ### The firmware header (R242) -/

/-- The fields that must hold given values. -/
def fwFixed (b : Bytes) : Bool :=
  b.take 4 == ascii "ORFW" && byteAt b 4 == 2 && byteAt b 7 == 0 && byteAt b 12 == 2 && decide (byteAt b 13 ≤ 1)
    && isZero (slice b 14 2) && isZero (slice b 24 40) && decide (leAt b 20 4 < leAt b 16 4)

/-- The code length is in range and is that of the payload. -/
def fwLengthOk (b : Bytes) : Bool :=
  let n := leAt b 16 4
  decide (1 ≤ n) && decide (n ≤ 524288) && b.length == 64 + n

/-- The image of a payload; its version is the ORY_FW_VERSION word (R246). -/
def readImage (b : Bytes) : Image :=
  { version := BitVec.ofNat 32 (2 ^ 24 * byteAt b 8 + 65536 * byteAt b 9 + leAt b 10 2), security := byteAt b 6
    checkpoint := byteAt b 5, init := leAt b 20 4, code := b.drop 64 }

/-! ### Results of a container (R348) -/

/-- A Charter copy: its result code, the failing check, and the Charter. -/
def judgeCharter (owner b : Bytes) : Nat × Check × Option Charter :=
  if !containerHeader imgCharter 0x40000 b then (resHeader, none, none)
  else
    let r := containerSigned owner b
    if r ≠ resOk then (r, none, none)
    else match charterCheck (padsZero b) (payload b) with
      | some k => (resContent, some k, none)
      | none => (resOk, none, some (readCharter (payload b)))

/-- A firmware container: its result code and the image. -/
def judgeFirmware (owner : Bytes) (area minSec : Nat) (b : Bytes) : Nat × Option Image :=
  if !containerHeader imgFirmware area b then (resHeader, none)
  else
    let r := containerSigned owner b
    let p := payload b
    if r ≠ resOk then (r, none)
    else if !(padsZero b && fwFixed p && fwLengthOk p) then (resContent, none)
    else if (readImage p).security < minSec then (resRollback, none)
    else (resOk, some (readImage p))

/-- The stage result of R243 for an image in adapter memory: what container and header say, in the order of the codes
where the spec gives one (log 30). -/
def judgeStaged (owner : Bytes) (minSec checkpoint : Nat) (b : Bytes) : Nat × Option Image :=
  let p := payload b
  if !(decide (64 ≤ b.length) && containerFixed imgFirmware b) then (5, none)
  else if !payloadLenOk imgFirmware (payloadLen b) then (8, none)
  else if !totalOk b then (5, none)
  else if b.length < totalLen b then (8, none)
  else if containerSigned owner b ≠ resOk then (4, none)
  else if !(padsZero b && fwFixed p) then (5, none)
  else if (readImage p).security < minSec then (6, none)
  else if (readImage p).checkpoint ≠ checkpoint then (7, none)
  else if !fwLengthOk p then (8, none)
  else (1, some (readImage p))

end Sys2Proof.Machine
end

