-- ==== Sys2Proof/Machine/Swap.lean ====
section
/-! DEFINITION. Firmware staging and the swap (R242 to R246, R336, R338, R343, R361, R363). -/

namespace Sys2Proof.Machine

/-! ### Staging (R243) -/

/-- Set the image of the inactive bank. -/
def State.setInactive (s : State) (i : Option Image) : State :=
  s.onOry fun o => if o.bankAct then { o with bankA := i } else { o with bankB := i }

/-- The thread that serves a channel's message. -/
def State.msgThread (s : State) (c : Nat) : Nat := ((List.range 64).find? fun t => (s.thread t).work == .message c).getD 0

/-- A staging ends with its code: the bank is written or wiped, and the reply carries the code (R243). -/
def State.stageEnd (s : State) (c t code : Nat) (i : Option Image) : State :=
  let s := (s.setInactive i).onOry fun o => { o with staging := none, stageRes := code }
  let w := [BitVec.ofNat 32 code]
  if code = 1 then ((s.log 0x0901 (uidThread t) noPart).commit c).replyRes c 0 0 w
  else (s.log 0x0902 (uidThread t) noPart).replyRes c 0x0D 0 w

/-- Reads of a staged image, through service DMA (R271, R272, R338, R380). -/
def imageReader (fid : Nat) : Reader := { fid := fid, resv := true, cls := clsRelaxed, part := noPart }

/-- FW_STAGE is taken: the image is read and handed to the verification engine, and the thread is free again (R243,
R338). -/
def State.stageTaken (s : State) (c t fid addr len : Nat) (read : ReadAnswer) : State :=
  let s := s.newReads.readString (imageReader fid) [(addr, len)] read
  match read with
  | .ok _ => (s.onOry fun o => { o with staging := some (c, ansBytes read len, t) }).freeGroup t
  | _ => s.stageEnd c t 3 none

/-- A management thread can act (R230, R233, R240). -/
def State.mgmtActs (s : State) : Bool := (List.range 64).any fun t => s.homeOf t != some 0 && s.mgmtThread t && !s.stoppedT t && s.coreRuns t

/-- FW_VERIFY_VERDICT: the staged image is judged, and the inactive bank written or wiped (R243). -/
def execFwVerifyVerdict (s : State) : Out :=
  .next (match s.ory.staging with
    | none => s
    | some (c, b, t) =>
      if !s.oryServing || !s.mgmtActs then s
      else
        let r := judgeStaged s.ldr.owner s.charter.fwMinSec s.running.checkpoint b
        s.stageEnd c t r.1 r.2)

/-! ### The swap (R244, R245)

`swapStage` is 0 from acceptance, 1 once a boundary has come, 2 while threads quiesce, 3 while init runs, 4 when the
threads have resumed, 5 once a boundary has come since. -/

/-- The inactive bank holds a verified image that the Charter still permits (R244). -/
def State.swappable (s : State) : Bool :=
  match s.inactive with
  | some i => decide (s.charter.fwMinSec ≤ i.security)
  | none => false

/-- FW_SWAP is refused but in SERVICE and REDUCED (R244, R357). -/
def State.swapMode (s : State) : Bool := s.blk.mode == .service || s.blk.mode == .reduced

/-- What a boundary does to a swap: SWAP is to be entered, or left. -/
def State.swapBoundary (s : State) : State :=
  s.onOry fun o =>
    if o.swapCh.isSome ∧ o.swapStage = 0 then { o with swapStage := 1 }
    else if o.swapStage = swapResumed then { o with swapStage := swapExitDue }
    else o

def swapDue : Nat := 1
def swapQuiesce : Nat := 2
def swapInit : Nat := 3

def State.setSwap (s : State) (n : Nat) : State :=
  let t := s.sch.tick
  s.onOry fun o => { o with swapStage := n, swapTick := t }

/-- Ticks since the last stage began. -/
def State.swapAge (s : State) : Nat := modSub s.sch.tick s.ory.swapTick (2 ^ 32)

/-- SWAP_ENTER: at the first boundary after acceptance the block enters SWAP (R244, R361, R363). -/
def execSwapEnter (s : State) : Out :=
  .next (
    if s.ory.swapStage != swapDue || !s.swapMode then s
    else (s.setMode .swap).setSwap swapQuiesce)

/-- The thread runs: it is at no wait point. -/
def State.atWait (s : State) (t : Nat) : Bool := (s.thread t).st != .running

/-- QUIESCE_TIMEOUT: a thread not at a wait point by the bound is ended with its group, with record 0x0212 (R244). -/
def execQuiesceTimeout (t : Nat) (s : State) : Out :=
  .next (
    if s.blk.mode != .swap || s.ory.swapStage != swapQuiesce || t ≥ 64 || s.atWait t || s.swapAge < 32768 / s.tickLen then s
    else
      let r := (s.thread t).root
      let n := (s.groupOf r).length
      let s := s.onOry fun o => { o with quiesce := sat 0xFF o.quiesce n }
      (s.logGroup 0x0212 r).endGroup r 4 causeQuiesce)

/-- The control thread runs the new image from its init_offset; its checkpoint is kept (R242, R244). -/
def State.initRuns (s : State) : State :=
  let i := s.running.init
  let k := (mget s.ory.statics 0).getD 0
  s.onOry fun o => { o with
    initSave := o.threads[k]?
    threads := updAt o.threads k fun t => { t with st := .running, root := k, entry := i, work := .control } }

/-- Init is over: the control thread is at its wait point again (R244). -/
def State.initOver (s : State) : State :=
  let k := (mget s.ory.statics 0).getD 0
  s.onOry fun o => match o.initSave with
    | some t => { o with initSave := none, threads := updAt o.threads k fun _ => t }
    | none => o

/-- FLIP: every thread is at a wait point, and the inactive bank becomes active (R244). -/
def execFlip (s : State) : Out :=
  .next (
    if s.blk.mode != .swap || s.ory.swapStage != swapQuiesce || !(List.range 64).all s.atWait then s
    else
      let s := (s.onOry fun o => { o with bankAct := !o.bankAct }).setSwap swapInit
      let s := s.initRuns
      match s.ory.swapCh with
      | some c => s.commit c
      | none => s)

/-- INIT_DONE: init has finished, and every checkpointed thread resumes in the new image (R244). -/
def execInitDone (s : State) : Out :=
  .next (
    if s.blk.mode != .swap || s.ory.swapStage != swapInit then s
    else (s.initOver.onOry fun o => { o with swapOk := true }).setSwap swapResumed)

/-- The words of an FW_SWAP reply (R337). -/
def State.swapWords (s : State) (ok : Bool) : List W32 := [BitVec.ofNat 32 (b2n ok), s.running.version]

/-- The source of the records of a swap: the thread that serves the message, or the control thread where it has ended. -/
def State.swapUid (s : State) : Nat := uidThread ((s.ory.swapCh.map s.msgThread).getD ((mget s.ory.statics 0).getD 0))

/-- INIT_TIMEOUT: the flip is reversed and threads resume in the old image (R244). -/
def execInitTimeout (s : State) : Out :=
  .next (
    if s.blk.mode != .swap || s.ory.swapStage != swapInit || s.swapAge < 76800 / s.tickLen then s
    else
      let s := (s.initOver.onOry fun o => { o with bankAct := !o.bankAct, swapOk := false }).setSwap swapResumed
      let s := s.log 0x0904 s.swapUid noPart
      match s.ory.swapCh with
      | some c => s.replyRes c 0x0D 0 (s.swapWords false)
      | none => s)

/-- SWAP_EXIT: at the first boundary after resume the block returns to SERVICE or REDUCED (R244, R361). -/
def execSwapExit (s : State) : Out :=
  .next (
    if s.blk.mode != .swap || s.ory.swapStage != swapExitDue then s
    else
      let ok := s.ory.swapOk
      let who := s.swapUid
      let ch := s.ory.swapCh
      let s := (s.setMode s.normalMode).onOry fun o => { o with swapStage := 0, swapCh := none, stageRes := if ok then 0 else o.stageRes }
      if !ok then s
      else
        let s := s.log 0x0903 who noPart
        match ch with
        | some c => s.replyRes c 0 0 (s.swapWords true)
        | none => s)

end Sys2Proof.Machine
end

