-- ==== Sys2Proof/Machine/Mgmt.lean ====
section
/-! DEFINITION. The management protocol: taking and checking messages, their effects, what a boundary commits, and key
generation rotation (R19, R23, R31 to R42, R54, R55, R61, R125, R160 to R162, R311, R326 to R343, R419, R428). -/

namespace Sys2Proof.Machine

/-! ### Results (R335) -/

def rNoAuthority : Nat := 0x01
def rOutsideCharter : Nat := 0x02
def rWrongState : Nat := 0x03
def rQuota : Nat := 0x04
def rRingInUse : Nat := 0x05
def rBadAttribute : Nat := 0x06
def rFormat : Nat := 0x07
def rNoVersion : Nat := 0x08
def rUnknownType : Nat := 0x09
def rNotListed : Nat := 0x0B
def rBusy : Nat := 0x0C
def rFailed : Nat := 0x0D
def rCapacity : Nat := 0x0E
def rRecord : Nat := 0x0F

/-! ### Partitions and channels -/

/-- A partition as the Charter gives it, ABSENT, with its initial quotas and shares (R34, R355). -/
def Part.fresh (e : PartEntry) : Part :=
  let p : Part := { entry := e, ringLimit := e.maxRings, keyLimit := e.maxKeys, floor := e.floor, ceiling := e.ceiling }
  let f := [p.floorOf 0, p.floorOf 1, p.floorOf 2]
  { p with feff := f, feffNext := f }

/-- The privilege map's entry of a management channel (R327, R350). -/
def State.privOf (s : State) (c : Nat) : Priv := s.charter.privs.getD c {}

/-- The function ID of the accesses that a channel's messages cause (R327, R338). -/
def State.chanFid (s : State) (c : Nat) : Nat := if c < 16 then (s.privOf c).fid else s.fidOf (c - 16)

/-! ### Fields -/

def Mbx.ringNo (m : Mbx) : Nat := fld (m.word 1) 0 17
def Mbx.choose (m : Mbx) : Bool := bit (m.word 1) 17

/-- The address in words k and k + 1. -/
def Mbx.addrAt (m : Mbx) (k : Nat) : Nat := m.word k + 2 ^ 32 * m.word (k + 1)

/-- The ring that a message names. -/
def Mbx.namesRing (m : Mbx) : Option Nat :=
  if m.type = mClose ∨ m.type = mRearm ∨ (m.type = mOpen ∧ !m.choose) then some m.ringNo
  else if m.type = mSnapshot ∧ fld (m.word 1) 0 2 = 0 then some (m.word 2)
  else none

/-- The attributes of a RING_OPEN (R38, R337). -/
def Mbx.attr (m : Mbx) : Attr :=
  let a := m.word 2
  let b := m.word 3
  { stream := bit a 0, fmt := fld a 4 4, tagged := bit a 8, foe := bit a 9, log2 := fld a 16 5, pair := fld a 24 2
    irqCount := fld b 0 8, irqTicks := fld b 8 10, vector := fld b 18 11, sqBase := m.addrAt 4, cqBase := m.addrAt 6 }

/-- An attribute lies outside R38. -/
def attrBad (e : PartEntry) (a : Attr) : Bool :=
  let common := (a.fmt == 1 || a.fmt == 2) && decide (8 ≤ a.log2) && decide (a.log2 ≤ 20)
    && decide (e.vecBase ≤ a.vector) && decide (a.vector < e.vecBase + e.vecCount)
  let kind := if a.stream then a.fmt == 2 && a.sqBase == 0 && a.cqBase == 0 && bit e.streamMask a.pair
    else a.pair == 0 && a.sqBase % 4096 == 0 && a.cqBase % 4096 == 0
  !(common && kind)

/-! ### Checks (R339) -/

/-- Types that a partition channel may send (R327). -/
def partTypes : List Nat := [mHello, mStatus, mOpen, mClose, mRearm, mSnapshot]

/-- A partition channel's snapshot is of its own partition or of a ring it owns (R327, R422, R428). -/
def State.ownObject (s : State) (p : Nat) (m : Mbx) : Bool :=
  if m.type ≠ mSnapshot then true
  else match fld (m.word 1) 0 2 with
    | 0 => s.ringOwner (m.word 2) == some p
    | 1 => m.word 2 == p
    | _ => false

/-- Step 2: authority (R19, R327). -/
def State.chkAuthority (s : State) (c : Nat) (m : Mbx) (t : MsgType) : Refuse :=
  if c < 16 then
    let e := s.privOf c
    let names := m.namesPart.toList ++ (m.namesRing.bind s.ringOwner).toList
    let has := match t.auth with
      | none => true
      | some b => bit e.authority b
    refuseIf (!(has && names.all fun p => decide (e.lo ≤ p) && decide (p ≤ e.hi))) rNoAuthority
  else
    let p := c - 16
    let named := match m.named with
      | none => true
      | some k => k == p
    refuseIf (!(partTypes.contains m.type && named && s.ownObject p m)) rNoAuthority

/-- Step 3: the named partition is listed (R29). -/
def State.chkListed (s : State) (m : Mbx) : Refuse :=
  refuseIf (match m.namesPart with
    | none => false
    | some p => (s.part p).isNone) rNotListed

/-- The first word of a message that breaks its encoding, beyond the reserved bits of R337. -/
def Mbx.badWord (m : Mbx) : Option Nat :=
  let u := unitOf (m.word 1)
  if m.type = mOpen then (if m.choose && m.ringNo != 0 then some 1 else none)
  else if m.type = mSnapshot then
    let obj := m.word 2
    let bad : Bool := match fld (m.word 1) 0 2 with
      | 0 => decide (2 ^ 17 ≤ obj)
      | 1 => decide (1024 ≤ obj)
      | 2 => match unitOf obj with
        | some (.lane _) => false
        | some (.engine _) => false
        | some (.macu _) => false
        | _ => true
      | _ => obj != 0
    let size : Nat := match fld (m.word 1) 0 2 with
      | 0 => 64
      | 1 => 512
      | 2 => 32
      | _ => 256
    if bad then some 2 else if m.word 5 < size then some 5 else none
  else if m.type = mEphRead then (if m.word 2 = 0 ∨ 8192 < m.word 2 then some 2 else none)
  else if m.type = mExercise then (if u.isNone then some 1 else none)
  else if m.type = mEclipse ∨ m.type = mRestore then (if u.isNone || u == some .scintilla then some 1 else none)
  else none

/-- Step 4: encodings and reserved bits; the detail is the first offending word (R335). -/
def Mbx.chkFields (m : Mbx) (t : MsgType) : Refuse :=
  let resv := (t.masks.zipIdx.find? fun x => m.word (x.2 + 1) &&& x.1 != m.word (x.2 + 1)).map (·.2 + 1)
  let first := match resv, m.badWord with
    | some a, some b => some (min a b)
    | some a, none => some a
    | none, b => b
  if fld (m.word 0) 28 4 ≠ 0 then some (rBadField, 0) else first.map fun k => (rBadField, k)

/-- Step 5: bounds of the Charter (R38, R161, R342). -/
def State.chkBounds (s : State) (m : Mbx) : Refuse :=
  match m.namesPart.bind s.part with
  | none => none
  | some p =>
    if m.type = mOpen then refuseIf (attrBad p.entry m.attr) rBadAttribute
    else if m.type = mRotate then refuseIf (decide (0xFFFF ≤ p.gen)) rOutsideCharter 1
    else if m.type = mQuota then
      let k := fld (m.word 1) 16 5
      let old := p.shareNext.getD (p.floor, p.ceiling)
      let f := if bit k 0 then m.word 2 else old.1
      let g := if bit k 1 then m.word 3 else old.2
      if bit k 0 ∧ p.entry.floor < f then some (rOutsideCharter, 2)
      else if (bit k 1 || (bit k 0 && !p.entry.isSealed)) ∧ !(decide (f ≤ g) && decide (g ≤ p.entry.ceiling)) then
        some (rOutsideCharter, if bit k 1 then 3 else 2)
      else if bit k 2 ∧ p.entry.maxRings < m.word 4 then some (rOutsideCharter, 4)
      else if bit k 3 ∧ p.entry.maxKeys < m.word 5 then some (rOutsideCharter, 5)
      else none
    else none

/-- The types that a partition channel's partition takes in a state (R32). -/
def typesIn : PState → List Nat
  | .ready => [mHello, mStatus, mOpen]
  | .active => partTypes
  | .suspended => [mHello, mStatus, mSnapshot, mClose]
  | _ => []

/-- No other unit of the kind would be left in service (R335, R338). -/
def State.lastOf (s : State) (u : UnitId) : Bool :=
  let l : List UnitId := match u with
    | .quad _ => allQuads
    | .oryCore _ => allCores
    | _ => []
  !l.isEmpty && l.all fun v => v == u || (s.unitSt v).ecl || (s.unitSt v).eclPend.isSome

/-- Step 6: the state of the target (R32, R33, R42, R162, R244, R311, R338, R341). -/
def State.chkState (s : State) (c : Nat) (m : Mbx) : Refuse :=
  let part := m.namesPart.getD 0
  let st := s.partState part
  let unit := (unitOf (m.word 1)).getD .scintilla
  let ring := s.ring m.ringNo
  let own := s.ringOwner m.ringNo == some part
  if 16 ≤ c ∧ !(typesIn (s.partState (c - 16))).contains m.type then some (rWrongState, 0)
  else if c < 16 ∧ m.namesPart.isSome ∧ st = .resetting then some (rWrongState, 0)
  else if m.type = mCreate then refuseIf (st != .absent) rWrongState
  else if m.type = mDestroy ∨ m.type = mReset ∨ m.type = mQuota then refuseIf (st == .absent) rWrongState
  else if m.type = mOpen then refuseIf (!(st == .ready || st == .active)) rWrongState
  else if m.type = mClose then
    refuseIf (own && !(ring.st == .active || ring.st == .held || ring.st == .quarantined) || ring.st == .closed) rWrongState
  else if m.type = mRearm then refuseIf (own && ring.st != .held || ring.st == .closed) rWrongState
  else if m.type = mRotate then refuseIf (((s.part part).bind (·.rot)).isSome) rWrongState
  else if m.type = mStage then refuseIf s.swapBusy rBusy
  else if m.type = mSwap then
    if s.swapBusy then some (rBusy, 0) else refuseIf (!(s.swappable && s.swapMode)) rWrongState
  else if m.type = mEclipse then
    if s.eclipsed unit then some (rWrongState, 0) else refuseIf ((s.unitSt unit).eclPend.isNone && s.lastOf unit) rCapacity
  else if m.type = mRestore then refuseIf (!((s.unitSt unit).ecl && (s.unitSt unit).exPass)) rWrongState
  else none

/-- The ring that a RING_OPEN reopens: a quarantined one of the partition (R35, R61). -/
def State.reopens (s : State) (m : Mbx) : Bool :=
  let x := s.ring m.ringNo
  !m.choose && x.st == .quarantined && m.named == some x.owner

/-- The rings that are owned. -/
def State.ownedRings (s : State) : List Nat := (s.rng.rings.filter fun x => x.2.st != .closed).map (·.1)

/-- The number that a RING_OPEN takes, where one is free (R35). -/
def State.openNo (s : State) (m : Mbx) : Option Nat :=
  if m.choose then lowestFree s.ownedRings 0 131072
  else if s.reopens m || (s.ringOwner m.ringNo).isNone then some m.ringNo
  else none

/-- Step 7: quotas and ownership; with choose and no free number, RING_IN_USE (R35, R39, R41, R42; the last, log 100). -/
def State.chkOwner (s : State) (c : Nat) (m : Mbx) : Refuse :=
  match m.named with
  | none => none
  | some n =>
    if m.type = mOpen then
      let p := (s.part n).getD {}
      if 16 ≤ c ∧ !bit p.fmtMask m.attr.fmt then some (rFormat, 0)
      else if !s.reopens m ∧ p.ringLimit ≤ s.ringsOpen n then some (rQuota, 0)
      else refuseIf (s.openNo m).isNone rRingInUse
    else if m.type = mClose ∨ m.type = mRearm then refuseIf (s.ringOwner m.ringNo != some n) rNoAuthority
    else none

/-- The checks of a message in the order of R339, the first failure deciding; an unknown type stands after the version
(DESIGN CHOICE, log 129). -/
def State.msgCheck (s : State) (c : Nat) : Refuse :=
  let m := s.chan c
  s.chkVersion c m <|> (match msgTypeOf m.type with
    | none => some (rUnknownType, 0)
    | some t => s.chkAuthority c m t <|> s.chkListed m <|> m.chkFields t <|> s.chkBounds m <|> s.chkState c m <|> s.chkOwner c m)

/-! ### Effects of messages taken (R336 to R338) -/

/-- The highest version offered that the block supports too (R54). -/
def bestVersion (v : Nat) : Nat := if bit v 2 then 2 else if bit v 1 then 1 else 0

/-- HELLO (R31, R54, R55, R338). -/
def State.hello (s : State) (c : Nat) : State :=
  let m := s.chan c
  if c < 16 then
    if bit (m.word 2) 2 then (s.commit c).replyRes c 0 0 [0x0006, 2] else s.replyRes c rNoVersion 0 []
  else match s.part (c - 16) with
    | none => s
    | some p =>
      let f := m.word 1 &&& 6
      let v := if p.mbxVer = 0 then bestVersion (m.word 2) else if bit (m.word 2) p.mbxVer then p.mbxVer else 0
      if f = 0 ∨ v = 0 then s.replyRes c rNoVersion 0 []
      else
        let fm := p.fmtMask ||| f
        let s := s.onPart (c - 16) fun x => { x with hello := true, mbxVer := v, fmtMask := fm }
        let s := if p.st == .ready then s.wakePart (c - 16) else s
        (s.commit c).replyRes c 0 0 [BitVec.ofNat 32 fm, BitVec.ofNat 32 v]

/-- PARTITION_CREATE: the partition record is read and checked, keys are derived, and the partition is READY (R31, R159,
R160, R161, R423). -/
def State.createPart (s : State) (c p : Nat) (read : ReadAnswer) : State :=
  let s := s.newReads.readString (s.vaultReader p none) [(s.recordAddr p, 64)] read
  let e := s.entryOf p
  let key := (deriveKeys s.ldr.root p 0).recd
  match read with
  | .ok _ => match readRecord key p (ansBytes read 64) with
    | none => ((s.onKey fun k => { k with tagFails := sat 0xFF k.tagFails 1 }).logKey 0x0705 p).replyRes c rRecord 0 []
    | some r =>
      if r.spent then s.replyRes c rRecord 0 []
      else
        let s := s.onKey fun k => { k with
          records := mset k.records p r, derived := mset k.derived p (deriveKeys s.ldr.root p r.gen)
          pages := k.pages.filter fun x => x.part != p }
        let s := s.onPart p fun _ => { Part.fresh e with st := .ready, gen := r.gen }
        (s.commit c).replyRes c 0 0 [BitVec.ofNat 32 r.gen]
  | _ => s.replyRes c rFailed 0 []

/-- RING_OPEN: the ring is owned and OPENING; a quarantined ring keeps its requests until their records are written
(R35, R40, R61, R422, R438). -/
def State.openRing (s : State) (c : Nat) : State :=
  let m := s.chan c
  let p := m.named.getD 0
  match s.openNo m with
  | none => s
  | some r =>
    let old := s.ring r
    let x : Ring := if s.reopens m then
        { old with st := .opening, openCh := some c, next := some m.attr, pend := false
                   lastHead := if old.attr.stream then old.frameIdx else old.subHead
                   submitted := 0, completed := 0, errors := 0, bytes := 0, violations := 0 }
      else { st := .opening, owner := p, attr := m.attr, openCh := some c, next := some m.attr }
    (s.setRing r x).commit c

/-- RING_CLOSE: DRAINING, or in SUSPENDED straight to CLOSED with the fetched requests dropped (R33, R40, R42). -/
def State.closeMsg (s : State) (c : Nat) : State :=
  let m := s.chan c
  let r := m.ringNo
  let x := s.ring r
  let head := BitVec.ofNat 32 (if x.attr.stream then x.frameIdx else x.subHead)
  let s := s.commit c
  if s.partState x.owner == .suspended then
    (((s.unrecord r).dropReqs fun q => q.ring == r).closeRing r).replyRes c 0 0 [head]
  else s.onRing r fun x => { x with st := .draining, closeCh := some c }

/-- A readout is written; its reply follows the last write (R338, R419, R428). -/
def State.readout (s : State) (c dst : Nat) (data : Bytes) (ws : List Nat) : State :=
  let w (k : Nat) : W32 := BitVec.ofNat 32 (ws.getD k 0)
  if data.isEmpty then s.replyRes c 0 0 [w 0, w 1, w 2]
  else (s.onMbx fun b => { b with work := b.work ++ [.copying c (w 0) (w 1) (w 2) false] }).write dst data (s.chanFid c) clsOrdered (.message c)

/-- A copy goes on from seq `next`: it takes records in seq order, all that are left but those which a free value leaves for a
later boundary, and stops at one that has been overwritten. After the last one the reply follows the last write (R419, R420; log
118). -/
def State.ephCopy (s : State) (c first next stop dst : Nat) (failed : Bool) : State :=
  let back := modSub s.eph.nextSeq.toNat next (2 ^ 32)
  let left := modSub stop next (2 ^ 32)
  let (lag, s) := s.draw 9
  let gone := decide (s.eph.recs.length < back)
  let k := if gone then 0 else max 1 (left - lag)
  let at' := modSub next first (2 ^ 32)
  let recs := ((s.eph.recs.take back).reverse).take k
  let took (i : Nat) : Bool := decide (back - k ≤ i) && decide (i < back)
  let s := s.onEph fun e => { e with recs := e.recs.zipIdx.map fun x => if took x.2 then { x.1 with copied := true } else x.1 }
  let w (n : Nat) : W32 := BitVec.ofNat 32 n
  let s := s.onMbx fun b => { b with work := b.work ++ [
    if gone || left ≤ k then .copying c (w (at' + k)) (w first) (w (next + k + (2 ^ 32 - 1))) failed
    else .reading c first ((next + k) % 2 ^ 32) stop dst failed] }
  if recs.isEmpty then s.messageWritten c true
  else s.write (dst + 32 * at') (recs.flatMap EphRec.encode) (s.chanFid c) clsOrdered (.message c)

/-- EPHEMERIS_READ (R419, R420). -/
def State.ephRead (s : State) (c : Nat) : State :=
  let m := s.chan c
  let n := s.eph.nextSeq.toNat
  let held := s.eph.recs.length
  let d := modSub n (m.word 1) (2 ^ 32)
  if d = 0 ∨ 2 ^ 31 < d then s.readout c 0 [] [0, n, n]
  else
    let back := min d held
    let k := min (m.word 2) back
    if k = 0 then s.readout c 0 [] [0, n, n]
    else
      let first := modSub n back (2 ^ 32)
      s.ephCopy c first first ((first + k) % 2 ^ 32) (m.addrAt 3) false

/-- UNIT_EXERCISE (R311, R338). -/
def State.exerciseMsg (s : State) (c : Nat) (u : UnitId) : State :=
  match u with
  | .scintilla => s.onEnt fun e => { e with exerTick := if e.exercise.isEmpty then s.sch.tick else e.exerTick, exercise := e.exercise ++ [(c, !(e.scn == .running || e.scn == .startup))] }
  | u => s.onUnit u fun x => { x with exer := x.exer ++ [c] }

/-- UNIT_ECLIPSE: the unit takes no new work. It takes the place of a threshold eclipse that waits, a decision of the policy
loop that is discarded for it; an eclipse that a self-test gave stands (R24, R310, R311, R338). -/
def State.eclipseMsg (s : State) (c : Nat) (u : UnitId) : State :=
  let t := s.sch.tick
  let old := (s.unitSt u).eclPend
  let s := if old == some .threshold then s.onSch fun c => { c with discarded := c.discarded + 1 } else s
  let s := if old.isSome then s else match u with
    | .drbgCore n => s.onEnt fun e => { e with cores := updAt e.cores n fun d => { d with eclTick := t } }
    | _ => s
  ((s.onUnit u fun x => { x with eclPend := some (if old == some .selfTest then .selfTest else .management) }).commit c).replyRes c 0 0 []

def State.addWork (s : State) (w : Mgmt) : State := s.onMbx fun b => { b with work := b.work ++ [w] }

/-- The effect of a message that passed its checks. -/
def State.msgActs (s : State) (c t : Nat) (read : ReadAnswer) : State :=
  let m := s.chan c
  let p := m.named.getD 0
  let u := (unitOf (m.word 1)).getD .scintilla
  if m.type = mHello then s.hello c
  else if m.type = mStatus then s.replyRes c 0 0 (s.statusWords c)
  else if m.type = mCreate then s.createPart c p read
  else if m.type = mDestroy then s.addWork (.destroy c p)
  else if m.type = mReset then s.addWork (.reset c p)
  else if m.type = mQuota then
    s.addWork (.quota c p (fld (m.word 1) 16 5) (m.word 2) (m.word 3) (m.word 4) (m.word 5) (bit (m.word 6) 0))
  else if m.type = mOpen then s.openRing c
  else if m.type = mClose then s.closeMsg c
  else if m.type = mRearm then ((s.onRing m.ringNo fun x => { x with st := .active }).commit c).replyRes c 0 0 []
  else if m.type = mRotate then (s.onPart p fun x => { x with rot := some { ch := c } }).addWork (.rotate c p)
  else if m.type = mSnapshot then s.addWork (.snapshot c (fld (m.word 1) 0 2) (m.word 2) (m.addrAt 3))
  else if m.type = mEphRead then s.ephRead c
  else if m.type = mStage then s.stageTaken c t (s.chanFid c) (m.addrAt 1) (m.word 3) read
  else if m.type = mSwap then s.onOry fun o => { o with swapCh := some c, swapStage := 0 }
  else if m.type = mExercise then s.exerciseMsg c u
  else if m.type = mEclipse then s.eclipseMsg c u
  else ((s.addWork (.restore u)).commit c).replyRes c 0 0 []

/-! ### Taking a message (R331) -/

/-- The thread is a management thread at rest on a core in service. -/
def State.freeMgmt (s : State) (t : Nat) : Bool :=
  let x := s.thread t
  decide (t < 64) && s.mgmtThread t && s.homeOf t != some 0 && (x.st == .blocked (.port .mailbox) || x.st == .running)
    && x.root == t && x.work == .idle && !x.stopped && !(s.unitSt (.oryCore (t / 16))).ecl

/-- The next message: a management channel before any partition channel, the oldest acceptance first, accepted before
the last boundary (R331). -/
def State.nextMsg (s : State) : Option Nat :=
  (minBy (fun x => x.2.order + if x.1 < 16 then 0 else s.mbx.order)
    (s.mbx.chans.filter fun x => x.2.st == .pending && decide (x.2.order < s.mbx.mark))).map (·.1)

/-- A thread whose message waits for something is at a wait point (R235). -/
def State.waitMsg (s : State) (t c : Nat) : State :=
  if (s.chan c).reply.isNone && (s.thread t).work == .message c then
    s.onThread t fun x => { x with st := .blocked (.port (.request none)), since := s.sch.tick }
  else s

/-- Every access of the read that a message needs may issue (R272, R282). -/
def State.msgCanRead (s : State) (c : Nat) : Bool :=
  let m := s.chan c
  if m.type = mCreate then s.canRead (s.vaultReader noPart none) [(s.recordAddr (m.named.getD 0), 64)]
  else if m.type = mStage then s.canRead (imageReader (s.chanFid c)) [(m.addrAt 1, m.word 3)]
  else true

/-- MESSAGE_TAKEN: thread t takes the next message, which is checked whole and then acts. `read` is what the block reads
for it: the partition record, or the image (R331, R334, R336, R339). -/
def execMessageTaken (t : Nat) (read : ReadAnswer) (s : State) : Out :=
  .next (
    if !s.oryServing || !s.freeMgmt t || s.stoppedT t || !s.coreRuns t then s
    else match s.nextMsg with
      | none => s
      | some c =>
        if (s.msgCheck c).isNone && !s.msgCanRead c then s
        else
        let s := s.onThread t fun x => { x with st := .running, work := .message c, charged := 0, closedCuts := 0 }
        let s := s.onChan c fun m => { m with st := .busy }
        match s.msgCheck c with
        | some r => s.replyRes c r.1 r.2 []
        | none => (s.msgActs c t read).waitMsg t c)

/-! ### What a boundary commits (R125, R162, R336, R340, R341) -/

/-- PARTITION_SET_QUOTA is committed (R31, R33, R121, R125, R342). -/
def State.commitQuota (s : State) (p k f g rings keys : Nat) (susp : Bool) : State :=
  match s.part p with
  | none => s
  | some x =>
    let y := x.quota k f g
    let t := s.onPart p fun x => x.quota k f g
    let s := if y.floor = x.floor then t
      else
        let falls := s.digestFalls x ((mget (t.effFloors t.present) p).getD [])
        let t := t.onPart p fun x => { x with digestCut := x.digestCut || (decide (y.floor < x.floor) && falls) }
        t.onSch fun c => { c with recompute := true }
    let s := s.onPart p fun x => { x with ringLimit := if bit k 2 then rings else x.ringLimit, keyLimit := if bit k 3 then keys else x.keyLimit }
    if !bit k 4 then s
    else if susp then s.onPart p fun x => { x with suspMgmt := true, st := if x.st == .active then .suspended else x.st }
    else (s.onPart p fun x => { x with suspMgmt := false }).wakePart p

/-- The object of a snapshot (R422, R423, R426 to R428). -/
def State.snapshotBytes (s : State) (scope obj : Nat) : Bytes :=
  if scope = 0 then s.ringTel obj
  else if scope = 1 then ((s.part obj).getD {}).telPub.bytesOf s.sch.telTick
  else if scope = 2 then s.unitTel ((List.range 64).find? (fun k => uid (telUnit k) == obj) |>.getD 0)
  else s.blockTel

/-- Requests of the partition that hold no grant and are not key management under way complete KEY_FOREIGN, for their
handles name the old generation (R162 step 1). -/
def State.rotateOut (s : State) (p : Nat) : State :=
  let mine := s.rng.reqs.filter fun q => q.part == p && !q.granted && q.openSince.isNone && q.abort == .none
  mine.foldl (fun s q => match q.links.findIdx? fun l => needsKey l.hdr && l.stat.isNone with
    | none => s
    | some k => s.endAs (q.linkId k) (stKeyForeign 2)) s

/-- Requests under way whose ledger writes are of the old generation: creations and retirements (R162, log 86). -/
def State.keyWorkOn (s : State) (p : Nat) : Bool :=
  s.rng.reqs.any fun q => q.part == p && q.links.any fun l =>
    l.stat.isNone && (l.keyWork || (l.job.isSome && isCreate l.hdr.opcode l.hdr.subop))

/-- A rotation that waits for such requests writes the partition record once they have ended (R162 step 3). -/
def State.rotWrite (s : State) (p : Nat) : State :=
  match (s.part p).bind (·.rot) with
  | none => s
  | some r =>
    if !r.committed || r.stage ≠ 0 || s.paused || s.keyWorkOn p || ((s.part p).bind (·.recWrite)).isSome then s
    else (s.onPart p fun x => { x with rot := some { r with stage := 1 } }).writeRecord p (((s.part p).map (·.gen)).getD 0 + 1) false false none

/-- A rotation reaches its commit point (R161, R162). One that finds an earlier record write outstanding, or the SWAP pause,
waits (R27). -/
def State.commitRotate (s : State) (c p : Nat) : State :=
  match s.part p with
  | none => s
  | some x =>
    if x.st = .resetting ∨ x.st = .absent then
      (s.abortMsg c (if x.st = .absent then 4 else 3)).onPart p fun x => { x with rot := none }
    else if x.recWrite.isSome || s.paused then s.addWork (.rotate c p)
    else if 0xFFFF ≤ x.gen then (s.replyRes c rOutsideCharter 1 []).onPart p fun x => { x with rot := none }
    else
      (((s.commit c).onPart p fun x => { x with rot := some { ch := c, committed := true } }).rotateOut p).rotWrite p

/-- A unit returns to service, its transient history cleared (R311). -/
def State.restoreUnit (s : State) (u : UnitId) : State :=
  if !(s.unitSt u).ecl then s
  else
    let s := s.onUnit u fun x => { x with ecl := false, eclPend := none, hist := [], exPass := false }
    let s := match u with
      | .oryCore c => s.restoreCore c
      | _ => s
    (s.onSch fun c => { c with recompute := true }).log 0x0405 (uid u) noPart

/-- One piece of management work at its boundary. -/
def State.commitWork (s : State) (w : Mgmt) : State :=
  match w with
  | .quota c p k f g rings keys susp => ((s.commit c).commitQuota p k f g rings keys susp).replyRes c 0 0 []
  | .destroy c p => (s.commit c).resetPart p (some c) true
  | .reset c p => (s.commit c).resetPart p (some c) false
  | .snapshot c scope obj dst =>
    let b := s.snapshotBytes scope obj
    s.readout c dst b [b.length, leAt b 0 4]
  | .rotate c p => s.commitRotate c p
  | .restore u => s.restoreUnit u
  | .copying c a b d e => s.addWork (.copying c a b d e)
  | .reading c first next stop dst e => s.ephCopy c first next stop dst e

/-- The work that waits for this boundary is done, in the order in which the messages were taken (R341); work that an
earlier piece dropped is skipped. -/
def State.commitsDue (s : State) : State :=
  let due := s.mbx.work
  due.foldl (fun s w =>
    if s.mbx.work.contains w then (s.onMbx fun b => { b with work := b.work.erase w }).commitWork w else s) s

/-! ### Partition records (R161, R162) -/

/-- Old-generation keys of a partition are still held by requests. -/
def State.oldHeld (s : State) (p g : Nat) : Bool :=
  s.rng.reqs.any fun q => q.links.any fun l => l.stat.isNone && (match l.keySlot with
    | some k => k.1 == p && k.2.2 != g
    | none => false)

/-- Steps 4 and 5 of a rotation: old keys are wiped without write-back, and the reply follows (R162). -/
def State.rotDrain (s : State) (p : Nat) : State :=
  match s.part p with
  | none => s
  | some x => match x.rot with
    | none => s
    | some r =>
      if r.stage ≠ 2 || s.paused || s.oldHeld p x.gen then s
      else
        let old (part gen : Nat) : Bool := part == p && gen != x.gen
        let s := s.onKey fun k => { k with slots := k.slots.filter (fun y => !old y.part y.gen), hslots := k.hslots.filter fun y => !old y.part y.gen }
        (s.replyRes r.ch 0 0 [BitVec.ofNat 32 x.gen]).onPart p fun x => { x with rot := none }

/-- A write of a usage value. -/
def isLedgerOp : WPurpose → Bool
  | .ledger _ _ => true
  | _ => false

def isPartRec (p : Nat) : WPurpose → Bool
  | .partRec k => k == p
  | _ => false

/-- PARTITION_RECORD_ACK: the record's write is acknowledged: the generation is adopted with its keys and recorded, and a
rotation, unless the SWAP pause holds it, or a destruction goes on (R27, R161, R162, R184). -/
def execPartitionRecordAck (p : Nat) (s : State) : Out :=
  .next (match s.part p with
    | none => s
    | some x => match x.recWrite with
      | none => s
      | some w =>
        if !s.live || s.writeWaits (isPartRec p) || !(w.failed.isNone || w.again) || (x.flr.isNone && s.paused) then s
        else
          let s := s.onPart p fun x => { x with gen := w.gen, recWrite := none, rot := x.rot.map fun r => { r with stage := 2 } }
          let s := (s.dropOps fun o => o.part == p && isLedgerOp o.why).onKey fun k => { k with derived := mset k.derived p (deriveKeys s.ldr.root p w.gen), pages := k.pages.filter fun y => y.part != p }
          let s := if w.gen = x.gen then s else s.logKey 0x0703 p (natLE p 2 ++ natLE w.gen 2)
          match x.flr with
          | some f => if f.destroy && f.wrote then (s.endReset p f).onKey fun k => { k with derived := mdel k.derived p } else s.destroyWrite p
          | none => s.rotDrain p)

/-- PARTITION_RECORD_RETRY: at a boundary after the failure the record is written again (R161). -/
def execPartitionRecordRetry (p : Nat) (s : State) : Out :=
  .next (match (s.part p).bind (·.recWrite) with
    | none => s
    | some w => match w.failed with
      | none => s
      | some f => if !s.live || w.again || w.tick == s.sch.tick then s else s.writeRecord p w.gen w.spent true (some f))

end Sys2Proof.Machine
end

