-- ==== Sys2Proof/Machine/Tick.lean ====
section
/-! DEFINITION. The tick boundary: the tick that ends is accounted for, what was to take effect at the boundary does, and
the coming tick's grants are issued; the epoch boundary; eclipses that took effect (R99, R100, R114, R116, R119 to R121,
R123, R260, R281, R307, R310, R311, R314, R341, R361, R363, R401, R421 to R431). -/

namespace Sys2Proof.Machine

/-! ### The tick that ends (R114, R123, R421 to R427) -/

/-- Busy clocks of units in the tick. -/
def State.busySum (s : State) (us : List UnitId) : Nat := sumBy us fun u => (s.unitSt u).busyNow

/-- The power estimate of the tick, in 10 mW, rounded down (R123, R263). -/
def State.power (s : State) (ev : TickEvents) : Nat :=
  let l := s.tickLen
  let b := s.budget
  let q := countP (List.range 4) fun k => !s.quadGated k
  let drbg := sumBy s.ent.cores fun (c : DCore) => c.busy
  let units := 140 * s.busySum allLanes + 15 * s.busySum allEngines + 45 * s.busySum allMacus + 20 * drbg
  let beats := sumBy s.mov.ports (·.beats) + sumBy s.mov.streams (·.beats)
  ((110 + 30 * q) * (12 * l * b) + units * (12 * l) + 210 * min beats (12 * l) * b + 240 * ev.oryClocks * b) / (12 * l * b)

/-- q - used of an ordinary partition in a class (R114). -/
def State.lentIn (s : State) (x : Part) (c : Nat) : Nat :=
  if x.entry.isSealed || x.st == .absent then 0 else s.quantum c (x.feff.getD c 0) - x.used.getD c 0

/-- Share units of what was lent or borrowed, rounded down (R114). -/
def State.shareUnits (s : State) (c n : Nat) : Nat := n * 65536 / s.capacity c

/-- Lent and borrowed shares of the tick. -/
def State.lendTick (s : State) : State :=
  s.onPrt fun t => { t with parts := t.parts.map fun x =>
    let lent := [0, 1, 2].map (s.lentIn x.2)
    (x.1, { x.2 with lentLast := s.shareUnits 0 (lent.getD 0 0), borrLast := s.shareUnits 0 (x.2.borrowed.getD 0 0)
                     tel := { x.2.tel with
                       lent := [0, 1, 2].foldl (fun m c => bump m c (lent.getD c 0)) x.2.tel.lent
                       borrowed := [0, 1, 2].foldl (fun m c => bump m c (x.2.borrowed.getD c 0)) x.2.tel.borrowed } }) }

/-- The estimate joins the energy counter and the governor's window; the window rests in the SWAP pause. -/
def State.powerTick (s : State) (ev : TickEvents) : State :=
  let p := s.power ev
  let gated := countP (List.range 4) s.quadGated
  let run := b2n !s.paused
  s.onSch fun c => { c with
    energy := c.energy + BitVec.ofNat 64 p, winSum := c.winSum + p * run, winTicks := c.winTicks + run
    shapeTicks := c.shapeTicks + run, gatedTicks := c.gatedTicks + BitVec.ofNat 64 gated
    cappedTicks := c.cappedTicks + BitVec.ofNat 64 (16 - c.laneCap), residency := bump c.residency s.blk.mode.code 1 }

/-- The beats of the tick are counted (R123). -/
def State.beatsTick (s : State) : State :=
  s.onMov fun m => { m with ports := m.ports.map (fun p => { p with beats := 0 }), streams := m.streams.map fun p => { p with beats := 0 } }

/-- Single-bit errors corrected in lanes and engines (R157, R199). -/
def State.eccTick (s : State) (l : List (UnitId × Nat)) : State :=
  l.foldl (fun s x => match x.1 with
    | .lane _ => s.onUnit x.1 fun u => { u with ecc1 := sat 0xFFFF u.ecc1 x.2 }
    | .engine _ => s.onUnit x.1 fun u => { u with ecc1 := sat 0xFFFF u.ecc1 x.2 }
    | _ => s) s

/-- A quadrant holds a request's affinity, with its link buffers, or a binding (R122). -/
def State.quadHeld (s : State) (q : Nat) : Bool :=
  (s.rng.reqs.any fun r => r.quad == some q) || s.dat.engines.zipIdx.any fun e => e.2 / 8 == q && e.1.bound.isSome

/-- Every lane, engine and MACU changed. -/
def Dat.onUnits (d : Dat) (f : UnitSt → UnitSt) : Dat :=
  { d with lanes := d.lanes.map fun x => { x with u := f x.u }
           engines := d.engines.map fun x => { x with u := f x.u }
           macus := d.macus.map fun x => { x with u := f x.u, dualUse := x.dualNow } }

/-- The units' and quadrants' tick is over: idle ticks are counted, counters are published. -/
def State.unitTick (s : State) : State :=
  let held := (List.range 4).map s.quadHeld
  let f (u : UnitSt) : UnitSt := { u with busyNow := 0, pubBusy := u.busy, pubSegs := u.segs, pubTrans := u.trans, pubPass := u.stPass, pubFail := u.stFail }
  let g (x : Quad × Nat) : Quad := { x.1 with idle := if x.1.active || held.getD x.2 false then 0 else x.1.idle + 1, active := false }
  s.onDat fun d => { d.onUnits f with quads := d.quads.zipIdx.map g }

/-- Boundaries counted by rings: a full completion ring, records not signalled (R48, R51). -/
def State.ringTick (s : State) : State :=
  s.onRng fun t => { t with rings := t.rings.map fun x =>
    (x.1, { x.2 with irqAge := x.2.irqAge.map (· + 1), stallTicks := if s.cqFull x.1 then x.2.stallTicks + 1 else 0 }) }

/-- Counters are published for the tick (R421). -/
def State.publish (s : State) : State :=
  let n := BitVec.ofNat 64 s.eph.committed
  let s := s.onPrt fun t => { t with parts := t.parts.map fun x => (x.1, { x.2 with telPub := x.2.tel }) }
  s.onSch fun c => { c with telTick := c.tick, pubEnergy := c.energy, pubGated := c.gatedTicks, pubCapped := c.cappedTicks
                            pubRecords := n, pubResid := c.residency }

/-- Records of sealed partitions that this tick, their record tick, could not write for want of a write's answer are late, a
seal's whose tag waits for it among them (R117, R118). -/
def State.recordsLate (s : State) : State :=
  let late := s.allLinks.filter fun x =>
    let l := x.2.2
    s.sealedP x.2.1.part && (l.stat.isSome || l.tagDue.isSome) && !l.recorded && s.linkWaits x.1 && match l.lastTick with
      | some g => modSub s.sch.tick g (2 ^ 32) == 1
      | none => false
  late.foldl (fun s x => (s.onPart x.2.1.part fun p => { p with late := sat 0xFF p.late 1 }).logReq
    0x0810 uidSched x.2.1.part x.1.ring x.1.idx x.1.link) s

/-- The end of a tick: its faults strike, every grant and item left has run, and it is accounted for. Before the entry to
CONTAINMENT what is left of the tick's grants is abandoned (R314, R366). -/
def State.endTick (s : State) (ev : TickEvents) : State :=
  let s := if s.blk.cause.isSome then s else ((s.strikeAll ev.faults).runAll fun _ => true).coresDone.endErrs
  let s := (s.lendTick.powerTick ev).beatsTick.eccTick ev.corrected
  let s := s.onKey fun k => { k with corrected := k.corrected + ev.keyFixed }
  s.recordsLate.unitTick.ringTick.chargeTicks.coreTicks.publish

/-! ### The boundary (R99, R314, R361, R363, R401) -/

/-- The tick count, a register port response taken by now (log 116), and the time: the sampled one, or without a valid time
base 5 ns for every 8 clocks; never back (R99, R401). -/
def State.nextTick (s : State) (ns : W64) : State :=
  let l := s.tickLen
  let s := s.onSch fun c => { c with tick := (c.tick + 1) % 2 ^ 32, cutDone := false, epochDone := false, running := [] }
  let s := s.onMbx fun m => { m with mark := m.order }
  let s := s.onEnt fun e => { e with cores := e.cores.map fun (c : DCore) => { c with busy := c.next, next := 0 } }
  s.onBlk fun b => { b with rpValid := false, time :=
    if b.tbValid then (if b.time.toNat ≤ ns.toNat then ns else b.time) else b.time + BitVec.ofNat 64 (l / 8 * 5) }

/-- Units marked for eclipse that hold no state leave service at this boundary (R310, R311). -/
def State.eclipsesDue (s : State) : State :=
  let due := allUnits.filter fun u => (s.unitSt u).eclPend.isSome && !(s.unitSt u).ecl && !s.holdsState u
  due.foldl (fun s u => s.onUnit u fun x => { x with eclDue := true }) s

/-- The self-tests of ticks 0 and 1 have ended. -/
def State.testsOver (s : State) : Bool :=
  decide (2 ≤ s.sch.tick) && allUnits.all fun u => !(s.unitSt u).inTest && !(s.unitSt u).atCut

/-- SEEDING ends at the first boundary after record 0x0604 and the self-tests (R360). -/
def State.seedDue (s : State) : State :=
  let due := s.blk.mode == .seeding && s.ldr.seeded && s.testsOver
  s.onLdr fun l => { l with seedEnd := due }

/-- SERVICE or REDUCED by the condition of R314, unless a swap is about to begin or under way; the alarm follows the
condition. -/
def State.modeBoundary (s : State) : State :=
  (if (s.blk.mode == .service || s.blk.mode == .reduced) && !s.swapOn then s.setMode s.normalMode else s).reducedAlarm

/-- The reduced-service recomputation (R120, R121). -/
def State.recomputeNow (s : State) : State :=
  if !s.sch.recompute || s.paused then s
  else (s.reduceFloors.onSch fun c => { c with recompute := false, decisions := c.decisions + 1 }).log 0x0410 uidPolicy noPart

/-- Quadrants whose power is acknowledged take grants again (R122, R405). -/
def State.ungateAcked (s : State) : State :=
  let on (q : Nat) : Bool := s.io.quadReq.getD q false && s.io.quadAck.getD q false
  s.onDat fun d => { d with quads := d.quads.zipIdx.map fun x => if on x.2 then { x.1 with gated := false } else x.1 }

/-- Records of failures that last, every 256 ticks (R161, R281). -/
def State.lastingFailures (s : State) : State :=
  let t := s.sch.tick
  let due (f : Option Nat) : Bool := match f with
    | none => false
    | some k => k != t && modSub t k (2 ^ 32) % 256 == 0
  let s := (s.rng.rings.filter fun x => due x.2.recFail).foldl (fun s x =>
    match s.writes.find? fun w => isRecord x.1 w.purpose && !w.given with
    | some w => match w.purpose with
      | .record id _ => s.logReq 0x0809 (uidFabric (portOf w.addr)) x.2.owner id.ring id.idx id.link
      | _ => s
    | none => s) s
  (s.prt.parts.filter fun x => due (x.2.recWrite.bind (·.failed))).foldl (fun s x => s.logKey 0x0706 x.1) s

/-- The Vault writes of asymmetric keys whose last element has run begin (R176, R205). -/
def State.createFinished (s : State) : State :=
  (s.allLinks.filter fun x => isJob x.2.2.hdr.opcode x.2.2.hdr.subop && isCreate x.2.2.hdr.opcode x.2.2.hdr.subop).foldl
    (fun s x => s.createKey x.1) s

/-- Records 0x0830 of the aborts observed at the last cut (R315, R319; log 33). -/
def State.abortRecords (s : State) : State :=
  (s.rng.rings.filter fun x => !x.2.abortRecs.isEmpty).foldl (fun s x =>
    let s := x.2.abortRecs.foldl (fun s a => s.logReq 0x0830 uidSched x.2.owner x.1 a.1 0 (b2n a.2)) s
    s.onRing x.1 fun y => { y with abortRecs := [] }) s

/-- What takes effect at a boundary before the grants are issued. -/
def State.atBoundary (s : State) : State :=
  let s := s.abortRecords.restartControl.fcBoundary.commitsDue
  let s := s.prt.parts.foldl (fun s x => ((s.rotWrite x.1).rotDrain x.1).dropUnusable x.1) s
  let s := s.testsEnd.seatStatics.seedDue.eclipsesDue.swapBoundary.modeBoundary.testsBegin
  let s := s.ungateAcked.vaultRepeat.vaultResume.opsNext.readWaiting.prepBuffered.createFinished.restoreAll.lastingFailures
  let s := s.recomputeNow
  ((s.moveWindows 0).moveWindows 1).moveWindows 2

/-! ### Grants issue (R20, R100, R109, R307, R426, R429, R430) -/

/-- A grant of the set that the cut made still issues: its link goes on, its partition and its function let it, its units
are in service, and the Orrery is not about to pause. -/
def State.mayIssue (s : State) (g : Grant) : Bool :=
  let ok (u : UnitId) : Bool := !s.eclipsed u && !(s.unitSt u).eclDue && match u with
    | .lane _ => (s.unitSt u).eclPend.isNone
    | .engine n => (s.unitSt u).eclPend.isNone || ((s.dat.engines[n]?).bind (·.bound)) == some g.id
    | _ => true
  match s.link g.id with
  | none => false
  | some (q, l) =>
    let swap := l.job.isSome && s.swapOn && decide (s.ory.swapStage < swapResumed)
    l.stat.isNone && q.abort == .none && (l.ctx.bind (·.spilled)).isNone && s.partState q.part == .active && !s.silentFid (s.fidOf q.part) && g.units.all ok && !swap

/-- An entry of the grant log (R429 to R431). -/
def Glog.put (g : Glog) (tick index : Nat) (x : Grant) : Glog :=
  if !g.enable || g.frozen then g
  else
    let g := { g with entries := ((⟨g.nextSeq, tick, index, x⟩ : GEntry) :: g.entries).take 8192, nextSeq := g.nextSeq + 1 }
    match g.counting with
    | none => g
    | some n => if n ≤ 1 then { g with frozen := true, counting := none } else { g with counting := some (n - 1) }

/-- Clocks that a grant charges in its class; engines are charged by their bindings (R109, R111). -/
def Grant.clocks (g : Grant) : Nat :=
  match g.unit with
  | .engine _ => 0
  | _ => g.charge

/-- A new binding, or a digest slot's for the tick (R109, R209). -/
def State.bind (s : State) (g : Grant) : State :=
  let t := s.sch.tick
  match g.unit with
  | .engine n => s.onDat fun d => { d with engines := updAt d.engines n fun e =>
      if g.slot then { e with part := g.part, bindTick := t }
      else if e.bound.isSome then e else { e with bound := some g.id, part := g.part, bindTick := t } }
  | .lane _ => g.units.foldl (fun s u => match u with
      | .lane n => s.onDat fun d => { d with lanes := updAt d.lanes n fun x => { x with paired := g.pair } }
      | _ => s) s
  | _ => s

/-- The source that follows a grant is read ahead (R101). -/
def State.readAfter (s : State) (g : Grant) : State :=
  match s.link g.id with
  | none => s
  | some (_, l) => if l.job.isSome || g.zero then s else s.readNext g.id (l.pos + g.len)

/-- One grant issues; its unit loads the key (R150, R173). -/
def State.issue (s : State) (g : Grant) : State :=
  let t := s.sch.tick
  let c := classOf g.unit
  let s := s.onPart g.part fun p => { p with
    used := updAt p.used c fun n => n + g.clocks
    borrowed := updAt p.borrowed c fun n => n + (if g.lending then g.charge else 0)
    shapeCost := p.shapeCost + (if c = 0 then g.cost else 0), shapeSegs := p.shapeSegs + (if c = 0 then 1 else 0)
    tel := { p.tel with grants := p.tel.grants + 1, clocks := bump p.tel.clocks c g.clocks } }
  let s := g.units.foldl (fun s u => s.onUnit u fun x => { x with
    busyNow := x.busyNow + g.cost, busy := x.busy + BitVec.ofNat 64 g.cost, segs := x.segs + 1 }) s
  let s := s.onDat fun d => { d with quads := updAt d.quads (quadOf g.unit) fun q => { q with active := true } }
  let s := s.onLink g.id fun l => { l with granted := true, lastTick := some t, retryUsed := l.retryUsed || g.retry }
  let s := match s.link g.id with
    | some (_, l) => if l.job.isSome then s else s.loadKey g.id
    | none => s
  ((s.bind g).onGlog fun l => l.put t (s.entryIdx g.id) g).readAfter g

/-- Engine-ticks of the tick: one for each engine bound, and for each digest slot's (R109, R209). -/
def State.engineTicks (s : State) : State :=
  let n (p : Nat) : Nat := countP s.dat.engines (fun e => e.bound.isSome && e.part == p)
    + countP s.sch.running fun g => g.slot && g.part == p
  s.onPrt fun t => { t with parts := t.parts.map fun x =>
    (x.1, { x.2 with used := updAt x.2.used 2 fun _ => n x.1, tel := { x.2.tel with clocks := bump x.2.tel.clocks 2 (n x.1) } }) }

/-- The MACUs of pairs in DUAL use in the tick: with a DUAL window, or a DUAL grant (R208). -/
def State.markDual (s : State) : State :=
  let win (n : Nat) : Bool := s.prt.parts.any fun x => x.2.entry.pairs 1 && (match x.2.pattern with
    | some p => (p.units 1 true).contains n
    | none => false)
  let dual (n : Nat) : Bool := win n || s.sch.running.any fun g => g.pair && g.units.contains (.macu n)
  s.onDat fun d => { d with macus := d.macus.zipIdx.map fun m => { m.1 with dualNow := dual m.2 } }

/-- The MACUs begin the tick: the first batch of each, with empty accumulators, and DUAL use (R204, R208). -/
def State.macusBegin (s : State) : State :=
  (s.onDat fun d => { d with macus := d.macus.zipIdx.map fun m =>
    { m.1.begin (s.nextBatch m.2 none) with batchAt := (s.nextBatch m.2 none).map (·.2) } }).markDual

/-- The grant set is issued; what may not issue is not charged, and its request keeps the quadrant and the link buffers that its
first planned grant fixed (R14, R100, R307; the last, log 71). -/
def State.issueAll (s : State) : State :=
  let plan := s.sch.plan
  let go := plan.filter s.mayIssue
  let s := (plan.filter fun g => !s.mayIssue g).foldl (fun s g => s.refund g) s
  let s := s.onPrt fun t => { t with parts := t.parts.map fun x => (x.1, { x.2 with used := [0, 0, 0], borrowed := [0, 0, 0] }) }
  let s := s.onSch fun c => { c with plan := [], running := go }
  (go.foldl (fun s g => s.issue g) s).engineTicks.macusBegin

/-! ### Commands -/

/-- The boundary with a cause of CONTAINMENT standing, which comes before all else of it; else what it commits and the
grants it issues (R99, R100, R363). -/
def State.boundary (s : State) (ev : TickEvents) : State :=
  let s := (s.endTick ev).nextTick ev.ns
  match s.blk.cause with
  | some c => s.contain c.1 c.2
  | none => s.atBoundary.issueAll

/-- TICK_BOUNDARY: the tick ends, the count goes on, and the grant set of the cut is issued (R99, R100); a cause of
CONTAINMENT that stands comes before all else of the boundary (R363). -/
def execTickBoundary (ev : TickEvents) (s : State) : Out :=
  .next (
    if !s.ticking || !s.sch.cutDone then s else s.boundary ev)

/-- CONTAINMENT: the block enters CONTAINMENT for the cause that stands: where ticks run, at the boundary after the tick's cut,
with no sample of the time base but the tick's length; before tick 0, at once (R314, R361, R365, R366; log 112). -/
def execContainment (s : State) : Out :=
  .next (
    if !s.ticking then s.containIfCaused
    else if s.blk.cause.isNone || !s.sch.cutDone then s
    else s.boundary ⟨s.blk.time + BitVec.ofNat 64 (s.tickLen / 8 * 5), 0, [], [], 0⟩)

/-- The epoch's shares of sealed partitions, and the recomputation that a changed floor asks for (R121, R125). -/
def State.sealedShares (s : State) : State :=
  let t := s.takeShares
  if s.sealedMove then (t.onSch fun c => { c with recompute := true }).recomputeNow else t

/-- EPOCH_BOUNDARY: the sealed pattern and the DRBG windows are computed anew; the grants of the epoch's first tick were planned
with them (R116, R125, R260; the latter, log 3). -/
def execEpochBoundary (s : State) : Out :=
  .next (
    if !s.ticking || s.sch.cutDone || s.sch.epochDone || s.sch.tick % 1024 != 0 then s
    else ((s.sealedShares.newPatterns (s.sch.tick / 1024)).lightWindows.onSch fun c => { c with epochDone := true }).markDual)

/-- The windows of a unit's class move to their substitutes (R119). -/
def State.moveFor (s : State) (u : UnitId) : State :=
  match u with
  | .lane _ => s.moveWindows 0
  | .macu _ => s.moveWindows 1
  | .engine _ => s.moveWindows 2
  | _ => ((s.moveWindows 0).moveWindows 1).moveWindows 2

/-- ECLIPSE_EFFECT: a unit marked for eclipse leaves service at the first boundary at which it holds no state; mode,
floors and windows follow at that boundary (R119, R120, R310, R311, R314). -/
def execEclipseEffect (u : UnitId) (s : State) : Out :=
  .next (match (s.unitSt u).eclPend with
    | none => s
    | some w =>
      if !s.live || s.sch.cutDone || !(s.unitSt u).eclDue then s
      else
        let s := s.eclipse u (match w with
          | .threshold => 0x0401
          | .management => 0x0404
          | .selfTest => 0x0402)
        let s := match u with
          | .oryCore _ => s.seatStatics
          | _ => s
        s.modeBoundary.recomputeNow.moveFor u)

end Sys2Proof.Machine
end

