-- ==== Sys2Proof/Machine/Policy.lean ====
section
/-! DEFINITION. The policy loop's windows: segment shaping, quadrant gating, the power governor; and power
acknowledgements (R24 to R26, R122 to R124, R404, R405). -/

namespace Sys2Proof.Machine

/-- The loop acts at boundaries while ticks run, and rests in the SWAP pause (R27, R122). -/
def State.policyOn (s : State) : Bool := s.ticking && !s.sch.cutDone && !s.paused

/-- A decision of the loop is counted (R26). -/
def State.decide1 (s : State) : State := s.onSch fun c => { c with decisions := c.decisions + 1 }

/-! ### Segment shaping -/

/-- More than 1/16 of the partition's completions in the window exceeded its latency target. -/
def Part.lateWindow (p : Part) : Bool := !p.entry.isSealed && decide (0 < p.entry.latency) && decide (p.shapeDone < 16 * p.shapeLate)

/-- The element with the largest key, the last of equals. -/
def lastMax {α : Type} (le : α → α → Bool) : List α → Option α
  | [] => none
  | a :: l => match lastMax le l with
    | none => some a
    | some b => if le a b then some b else some a

/-- Mean LANE segment cost of x at most that of y. -/
def meanLe (x y : Nat × Part) : Bool := decide (x.2.shapeCost * max 1 y.2.shapeSegs ≤ y.2.shapeCost * max 1 x.2.shapeSegs)

/-- The partition whose limit goes down: the ordinary one with the largest mean cost in the window. -/
def State.shapeUp (s : State) : Option Nat :=
  (lastMax meanLe (s.present.filter fun x => !x.2.entry.isSealed && decide (0 < x.2.shapeSegs))).map (·.1)

/-- The partition whose limit goes up again: the one with the largest seg_shift, the highest number on a tie. -/
def State.shapeDown (s : State) : Option Nat :=
  (lastMax (fun x y => decide (x.2.segShift ≤ y.2.segShift)) (s.present.filter fun x => decide (0 < x.2.segShift))).map (·.1)

/-- A new window of shaping begins. -/
def State.shapeClear (s : State) (calm : Nat) : State :=
  (s.onSch fun c => { c with shapeTicks := 0, calmWins := calm }).onPrt fun t => { t with parts := t.parts.map fun x =>
    (x.1, { x.2 with shapeDone := 0, shapeLate := 0, shapeCost := 0, shapeSegs := 0 }) }

/-- SEGMENT_SHAPING: every 64 ticks, at most one change of one partition's segment limit (R122). -/
def execSegmentShaping (s : State) : Out :=
  .next (
    if !s.policyOn || s.sch.shapeTicks < 64 then s
    else if s.prt.parts.any fun x => x.2.lateWindow then
      match s.shapeUp with
      | none => s.shapeClear 0
      | some p =>
        if 3 ≤ ((s.part p).map (·.segShift)).getD 3 then s.shapeClear 0
        else ((s.onPart p fun x => { x with segShift := x.segShift + 1 }).decide1).shapeClear 0
    else if s.sch.calmWins < 3 then s.shapeClear (s.sch.calmWins + 1)
    else match s.shapeDown with
      | none => s.shapeClear 4
      | some p => ((s.onPart p fun x => { x with segShift := x.segShift - 1 }).decide1).shapeClear 0)

/-! ### Quadrant gating -/

/-- A unit of the quadrant has a self-test before it or under way (R405). -/
def State.quadTests (s : State) (q : Nat) : Bool :=
  (allLanes ++ allEngines ++ allMacus ++ allQuads).any fun u =>
    let x := s.unitSt u
    quadOf u == q && (x.inTest || x.atCut || x.due || !x.exer.isEmpty)

/-- QUADRANT_GATING: a quadrant without activity for 256 ticks is gated, and its power request falls, unless a self-test needs
it (R122, R405). -/
def execQuadrantGating (q : Nat) (s : State) : Out :=
  let x := (s.dat.quads[q]?).getD {}
  .next (
    if !s.policyOn || q ≥ 4 || x.gated || x.u.ecl || x.active || x.idle < 256 || s.quadHeld q || s.quadSealed q || s.quadTests q then s
    else
      let s := s.onDat fun d => { d with quads := updAt d.quads q fun x => { x with gated := true } }
      let s := s.onIo fun i => { i with quadReq := updAt i.quadReq q fun _ => false }
      s.decide1.log 0x0A01 uidPolicy noPart)

/-! ### The power governor -/

/-- The least lane cap: the reserved lanes plus 4 (R122). -/
def State.capFloor (s : State) : Nat := countP (List.range 16) (s.holdsWindow 0) + 4

/-- The lane cap changes, with the record of its direction (R26, R122). -/
def State.setCap (s : State) (n : Nat) : State :=
  let old := s.sch.laneCap
  if n = old then s
  else ((s.onSch fun c => { c with laneCap := n }).decide1).log (if n < old then 0x0A03 else 0x0A04) uidPolicy noPart

/-- POWER_GOVERNOR: every 16 ticks the mean estimate is published and compared with the Charter ceiling (R122,
R123). -/
def execPowerGovernor (s : State) : Out :=
  .next (
    if !s.policyOn || s.sch.winTicks < 16 then s
    else
      let mean := s.sch.winSum / s.sch.winTicks
      let top := s.charter.powerCeil
      let step := if s.binaryOrd then 2 else 1
      let cap := s.sch.laneCap
      let low := if 100 * mean < 90 * top then s.sch.below90 + 1 else 0
      let s := s.onSch fun c => { c with estimate := mean, winSum := 0, winTicks := 0, below90 := low }
      if 97 * top < 100 * mean then s.setCap (min 16 (max s.capFloor (cap - step)))
      else if 4 ≤ low then (s.onSch fun c => { c with below90 := 0 }).setCap (min 16 (max s.capFloor (cap + step)))
      else s.setCap (min 16 (max s.capFloor cap)))

/-! ### Power acknowledgements -/

/-- POWER_ACK: an acknowledgement of the power port changes; what waits for it follows (R122, R233, R404, R405). -/
def execPowerAck (orrery : Bool) (n : Nat) (level : Bool) (s : State) : Out :=
  .next (
    if n ≥ 4 then s
    else s.onIo fun i =>
      if orrery then { i with oryAck := updAt i.oryAck n fun _ => level } else { i with quadAck := updAt i.quadAck n fun _ => level })

end Sys2Proof.Machine
end

