-- ==== Sys2Proof/Machine/Start.lean ====
section
/-! DEFINITION. Resets, the root key port, the loading of the Charter and its firmware, the end of SEEDING; the time base
and the TAP (R158, R321, R344 to R348, R354 to R361, R365, R369, R371, R372, R399 to R405). -/

namespace Sys2Proof.Machine

/-! ### Resets (R321, R361, R371) -/

/-- RST_CORE_ASSERT: every volatile state is lost and the block is DORMANT. What other clocks and inputs hold stays: the
register port's reset, the TAP, the power acknowledgements, the time base. -/
def execRstCoreAssert (s : State) : Out :=
  let z := State.reset
  .next { z with
    pending := s.pending, free := s.free
    blk := { z.blk with rpReset := s.blk.rpReset, rpRdata := s.blk.rpRdata, rpValid := s.blk.rpValid, time := s.blk.time
                        tbValid := s.blk.tbValid }
    io := { z.io with quadAck := s.io.quadAck, oryAck := s.io.oryAck, tapIr := s.io.tapIr, tapCap := s.io.tapCap, tapDr := s.io.tapDr } }

/-- RST_RP_ASSERT: the register port's ready and response fall (R371). -/
def execRstRpAssert (s : State) : Out := .next (s.onBlk fun b => { b with rpReset := true, rpValid := false })

/-- RST_RP_RELEASE: the register port answers again (R371). -/
def execRstRpRelease (s : State) : Out := .next (s.onBlk fun b => { b with rpReset := false })

/-- The lifecycles (R356). -/
def lcFactory : BitVec 2 := 0
def lcDecommissioned : BitVec 2 := 3

/-- The fixed test root (R158). -/
def testRoot : Bytes := List.replicate 32 0x5A

/-- The block samples the time base, where that is valid; its time never goes back (R401). -/
def State.sampleTime (s : State) (ns : W64) : State :=
  s.onBlk fun b => { b with time := if b.tbValid && decide (b.time.toNat ≤ ns.toNat) then ns else b.time }

/-- RESET_RELEASE: the lifecycle is latched, the time base sampled and CHARTER_LOAD entered; all power requests rise;
DECOMMISSIONED goes on to CONTAINMENT (R356, R358, R361, R365, R369, R401, R405). -/
def execResetRelease (release : Release) (s : State) : Out :=
  let lifecycle := release.lifecycle
  .next (
    if s.blk.mode != .dormant then s
    else
      let s := (s.onBlk fun b => { b with lifecycle := lifecycle }).sampleTime release.ns
      let s := s.onLdr fun l => { l with began := s.blk.time, root := if lifecycle = lcFactory then testRoot else l.root }
      let s := s.onIo fun i => { i with quadReq := List.replicate 4 true, oryReq := List.replicate 4 true }
      let s := (s.setMode .charterLoad).log 0x0102 uidMode noPart (natLE lifecycle.toNat 1)
      if lifecycle = lcDecommissioned then (s.cause .decommissioned 0x0102).containIfCaused else s)

/-! ### The root key port (R158, R399, R400) -/

/-- Words as the byte string they carry, low byte first. -/
def wordBytes (l : List W32) : Bytes := l.flatMap fun w => natLE w.toNat 4

/-- Root key words have a use: not in CONTAINMENT, and not in DECOMMISSIONED, where they are taken and discarded (R366,
R400). -/
def State.rootUsed (s : State) : Bool := s.blk.mode != .containment && s.blk.lifecycle != lcDecommissioned

/-- All 20 words are taken; what the lifecycle does not use is discarded. -/
def State.rootTaken (s : State) (l : List W32) : State :=
  let keep := s.rootUsed
  let lc := s.blk.lifecycle
  s.onLdr fun x => { x with
    rkWords := [], rkTaken := true
    root := if !keep then x.root else if lc = lcFactory then testRoot else wordBytes (l.take 8)
    owner := if keep then wordBytes (l.drop 8) else x.owner }

/-- ROOT_KEY_WORD: a word is taken; a `last` before word 19 discards the words so far (R400). -/
def execRootKeyWord (word : W32) (last : Bool) (s : State) : Out :=
  .next (
    if s.blk.mode == .dormant || s.ldr.rkTaken then s
    else
      let l := s.ldr.rkWords ++ [if s.rootUsed then word else 0]
      if l.length ≥ 20 then s.rootTaken l
      else s.onLdr fun x => { x with rkWords := if last then [] else l })

/-! ### The NVM (R344, R345) -/

/-- What discovery finds: signature valid; the modes 1-4-4, 1-1-4, 1-2-2 and 1-1-2 that the BFPT reports as supported, and
how 1-1-1 reads with 0x0B; the quad-enable requirement field, and the bit that it names. -/
structure Sfdp where
  valid   : Bool
  m144    : Option NvRead
  m114    : Option NvRead
  m122    : Option NvRead
  m112    : Option NvRead
  m111    : NvRead
  quadReq : Nat
  quadSet : Bool
  deriving DecidableEq, Repr

/-- The place and the length in bytes of the first parameter table with an identifier, from the parameter headers of 8 bytes
behind the SFDP header: identifier low byte, length in words of 32 bits, 24-bit pointer, identifier high byte (log 114). -/
def sfdpTable (b : Bytes) (id : Nat) : Option (Nat × Nat) :=
  let heads := (List.range (byteAt b 6 + 1)).map fun k => slice b (8 + 8 * k) 8
  (heads.find? fun h => byteAt h 0 + 256 * byteAt h 7 == id).map fun h => (leAt h 4 3, 4 * byteAt h 3)

/-- Word n, counted from 1, of the parameter table with an identifier; 0 past its end. -/
def sfdpWord (b : Bytes) (id n : Nat) : Nat :=
  match sfdpTable b id with
  | some (at', len) => if 4 * n ≤ len then leAt b (at' + 4 * n - 4) 4 else 0
  | none => 0

/-- The identifiers of the JEDEC Basic Flash Parameter Table and of the 4-byte Address Instruction Table (R345; log 114). -/
def bfptId : Nat := 0xFF00
def fourId : Nat := 0xFF84

/-- The fields of a fast read in half a BFPT word: dummy clocks, mode clocks, instruction; with its 4-byte instruction
(R345; log 114). -/
def sfdpMode (h : Nat) (four : Option Nat) : NvRead := { instr := fld h 8 8, dummy := fld h 0 5, modes := fld h 5 3, four := four }

/-- The quad-enable bit that a requirement field names reads 1: bit 1 of status register 2, bit 6 of status register 1, or bit 7
of what 0x3F reads (R345; log 114). -/
def quadEnabled (r : SfdpRead) (q : Nat) : Bool :=
  if q = 2 then r.st05.getLsbD 6 else if q = 3 then r.st3F.getLsbD 7 else q != 7 && r.st35.getLsbD 1

/-- SFDP discovery: signature, parameter headers, BFPT and 4-byte Address Instruction Table (R345; log 114). -/
def sfdpOf (r : SfdpRead) : Sfdp :=
  let b := r.data
  let w1 := sfdpWord b bfptId 1
  let w3 := sfdpWord b bfptId 3
  let w4 := sfdpWord b bfptId 4
  let four (i code : Nat) : Option Nat := if bit (sfdpWord b fourId 1) i then some code else none
  let mode (i h k code : Nat) : Option NvRead := if bit w1 i then some (sfdpMode h (four k code)) else none
  let q := fld (sfdpWord b bfptId 15) 20 3
  { valid := b.take 4 == ascii "SFDP"
    m144 := mode 21 w3 5 0xEC, m114 := mode 22 (w3 / 65536) 4 0x6C
    m122 := mode 20 (w4 / 65536) 3 0xBC, m112 := mode 16 w4 2 0x3C
    m111 := { instr := 0x0B, dummy := 8, four := four 1 0x0C }
    quadReq := q, quadSet := quadEnabled r q }

/-- The read mode, in the order of choice 1-4-4, 1-1-4, 1-2-2, 1-1-2, 1-1-1 with 0x0B, and without SFDP 1-1-1 with 0x03; a
quad mode only where the device's quad-enable bit needs no write (R345). -/
def readMode (f : Sfdp) : Nat × NvRead :=
  let quad := f.quadReq == 0 || f.quadSet
  let two : Nat × NvRead := match f.m122, f.m112 with
    | some x, _ => (2, x)
    | _, some x => (3, x)
    | _, _ => (4, { f.m111 with instr := 0x0B })
  if !f.valid then (5, { instr := 0x03 })
  else match if quad then f.m144 else none, if quad then f.m114 else none with
    | some x, _ => (0, x)
    | _, some x => (1, x)
    | _, _ => two

/-- Data lines of a read mode: four, two, or the one that carries the device's output (R345, R398). -/
def modeLines (m : Nat) : Nat := if m ≤ 1 then 4 else if m ≤ 3 then 2 else 1

/-- What the block drives while a read of the mode has its data phase: with four data lines nothing; with fewer io2 and io3,
both high; with one data line io0 too, whose value there is that of the address's end (R398; log 97). -/
def Nvm.drive (m : Nat) (x : Nvm) : Nvm :=
  if modeLines m = 4 then { x with ioOe := 0b0000, ioO := 0b0000 }
  else if modeLines m = 2 then { x with ioOe := 0b1100, ioO := 0b1100 }
  else { x with ioOe := 0b1101, ioO := 0b1100 }

/-- The data on the input lines in the last clock of a byte: its low bits, or its last on io1 (R398). -/
def Nvm.sample (m : Nat) (b : Byte) (x : Nvm) : Nvm :=
  if modeLines m = 4 then { x with ioI := b.setWidth 4 }
  else if modeLines m = 2 then { x with ioI := (b.setWidth 2 : BitVec 2).setWidth 4 }
  else { x with ioI := if b.getLsbD 0 then 0b0010 else 0b0000 }

/-- A read command is on the port: chip select low; between commands it is high and the clock rests low (R397, R398). -/
def State.nvCommand (s : State) (on : Bool) : State :=
  s.onIo fun i => { i with nvm := { i.nvm.drive s.ldr.nvmMode with csN := !on, sck := false } }

/-- NVM_FIRST_COMMAND: once word 19 is taken the block reads the SFDP and chooses its read mode; the read of Charter copy A, at
address 0, follows (R344, R345, R358, R400). -/
def execNvmFirstCommand (r : SfdpRead) (s : State) : Out :=
  let f := sfdpOf r
  .next (
    if s.blk.mode != .charterLoad || !s.ldr.rkTaken || s.ldr.nvmStarted then s
    else (s.onLdr fun l =>
      { l with nvmStarted := true, nvmMode := (readMode f).1, nvmRead := (readMode f).2, nvmSlow := !f.valid, nvmAddr := 0 }).nvCommand true)

/-- The address of the container of the stage: Charter copy A, copy B, or the firmware that the Charter copy tried names
(R344). -/
def State.nvBase (s : State) : Nat :=
  match s.ldr.stage with
  | .charterA => 0
  | .charterB => 0x40000
  | _ => (s.ldr.tried.map (·.fwOffset)).getD 0

/-- The first `n` bytes of the container lie within reach of the addresses that the block can send: 3 bytes of address while
all lie below 16 MiB, else by the 4-byte instruction of the chosen mode (R345). -/
def State.reachable (s : State) (n : Nat) : Bool := s.ldr.nvmRead.four.isSome || decide (s.nvBase + n ≤ 2 ^ 24)

/-- CONTAINER_READ_DONE: the last byte of the container being read arrives; one that cannot be read is empty (R345, R347,
R348). -/
def execContainerReadDone (data : ReadAnswer) (s : State) : Out :=
  .next (
    if s.blk.mode != .charterLoad || !s.ldr.nvmStarted || s.ldr.container.isSome || s.ldr.stage == .done then s
    else
      let b := if s.reachable (ansData data).length then ansData data else []
      let s := s.nvCommand false
      let s := match b.getLast? with
        | some x => s.onIo fun i => { i with nvm := i.nvm.sample s.ldr.nvmMode x }
        | none => s
      s.onLdr fun l => { l with container := some b })

/-! ### Verdicts (R348, R354, R355, R369) -/

/-- A container's result: BLK_CHARTER_STATUS and record 0x0103, with the failing check and the partition at fault. -/
def State.containerResult (s : State) (k res : Nat) (chk : Check) : State :=
  let c := chk.getD (0, globalPart)
  let s := s.onLdr fun l => { l with results := updAt l.results k fun _ => res, container := none }
  s.logSev (if res = resOk then 1 else 2) 0x0103 uidLoader c.2 (natLE k 1 ++ natLE res 1 ++ natLE c.1 1)

/-- What the block takes from an accepted copy (R355). -/
def State.applyCharter (s : State) (c : Charter) (i : Image) : State :=
  let s := s.onLdr fun l => { l with chosen := some c, tried := none, stage := .done }
  let s := s.onPrt fun t => { t with parts := c.parts.foldl (fun m e => mset m e.num (Part.fresh e)) [] }
  let s := s.onMov fun m => { m with timeout := c.readTimeout }
  let s := s.onKey fun k => { k with base := c.vaultBase, usedPages := vaultEnd c.parts / 4096 }
  s.onOry fun o => { o with
    bankA := some i, bankAct := false, cores := o.cores.map fun (x : Core) => { x with awake := true }
    threads := (List.range 64).map s.restThread }

/-- Tick 0: SEEDING begins with the self-test of every unit and the first window (R355, R360, R361). -/
def State.beginSeeding (s : State) (elapsed : Nat) : State :=
  let test (u : UnitSt) : UnitSt := { u with inTest := true }
  let s := s.onBlk fun b => { b with startLoad := min 0xFFFF elapsed }
  let s := s.onSch fun c => { c with tick := 0, cutDone := false, epochDone := false }
  let s := s.onDat fun d => { d.onUnits test with quads := d.quads.map fun x => { x with u := test x.u } }
  let s := s.onOry fun o => { o with cores := o.cores.map fun (x : Core) => { x with u := test x.u } }
  (s.onEnt fun e => { e with scn := .startup, winTick := 0 }).setMode .seeding

/-- A copy is accepted (R354, R355). -/
def State.acceptCopy (s : State) (copy : Nat) (c : Charter) (i : Image) (elapsed : Nat) : State :=
  let s := s.onBlk fun b => { b with charterCopy := copy == 1 }
  let s := s.log 0x0104 uidLoader noPart (natLE copy 1 ++ natLE c.serial 4 ++ natLE i.version.toNat 4 ++ natLE i.security 1)
  (s.applyCharter c i).beginSeeding elapsed

/-- No copy is accepted (R354, R365). -/
def State.loadFailed (s : State) : State :=
  let ok := s.ldr.results.getD 0 0 == resOk || s.ldr.results.getD 2 0 == resOk
  let s := s.onLdr fun l => { l with stage := .done, tried := none }
  (s.cause (if ok then .firmwareInvalid else .charterInvalid) 0x0103).containIfCaused

/-- The verdict on a Charter copy: its firmware is read next, or the other copy, or the load has failed. -/
def State.charterVerdict (s : State) (k : Nat) (b : Bytes) : State :=
  let r := judgeCharter s.ldr.owner b
  let s := s.containerResult k r.1 r.2.1
  match r.2.2 with
  | some c => s.onLdr fun l => { l with tried := some c, stage := if k = 0 then .fwA else .fwB }
  | none => if k = 0 then s.onLdr fun l => { l with stage := .charterB } else s.loadFailed

/-- The verdict on a firmware container: its copy is accepted, or the other copy is read, or the load has failed. -/
def State.firmwareVerdict (s : State) (k : Nat) (b : Bytes) (elapsed : Nat) : State :=
  match s.ldr.tried with
  | none => s
  | some c =>
    let r := judgeFirmware s.ldr.owner c.fwLength c.fwMinSec b
    let s := s.containerResult k r.1 none
    match r.2 with
    | some i => s.acceptCopy (k / 2) c i elapsed
    | none => if k = 1 then s.onLdr fun l => { l with tried := none, stage := .charterB } else s.loadFailed

/-- The next container is read from its address, if one is still to be and begins within reach (R344). -/
def State.nvNext (s : State) : State :=
  if s.blk.mode == .charterLoad && s.ldr.stage != .done && s.reachable 1 then
    let a := s.nvBase
    (s.onLdr fun l => { l with nvmAddr := a }).nvCommand true
  else s

/-- The block's time in CHARTER_LOAD, `elapsed` units of 10 µs after reset release: the time base's where that is valid, else
the time at the release and what has passed since (R401). -/
def State.loadTime (s : State) (elapsed : Nat) (ns : W64) : State :=
  if s.blk.tbValid then s.sampleTime ns
  else
    let t := s.ldr.began + BitVec.ofNat 64 (10000 * elapsed)
    s.onBlk fun b => { b with time := if b.time.toNat ≤ t.toNat then t else b.time }

/-- CONTAINER_VERDICT: the verification engine's result for the container read. `elapsed` is the time from reset release
to the verdict, or where it accepts a copy to tick 0, in units of 10 µs, `ns` the time base there (R347, R348, R354, R355,
R368, R401). -/
def execContainerVerdict (elapsed : Nat) (ns : W64) (s : State) : Out :=
  .next (
    if s.blk.mode != .charterLoad then s
    else match s.ldr.container with
      | none => s
      | some b =>
        let s := s.loadTime elapsed ns
        State.nvNext (match s.ldr.stage with
        | .charterA => s.charterVerdict 0 b
        | .fwA => s.firmwareVerdict 1 b elapsed
        | .charterB => s.charterVerdict 2 b
        | .fwB => s.firmwareVerdict 3 b elapsed
        | .done => s))

/-! ### The end of SEEDING (R360, R369) -/

/-- SEEDING_END: at the first boundary after record 0x0604 and the self-tests. `elapsed` is the length of SEEDING in units
of 10 µs. The code of the NVM read mode in 0x0105 is a free value, a function of the mode chosen (log 6). -/
def execSeedingEnd (elapsed : Nat) (s : State) : Out :=
  .next (
    if s.blk.mode != .seeding || !s.ldr.seedEnd then s
    else if s.blk.cause.isSome then s.containIfCaused
    else
      let s := (s.onBlk fun b => { b with startSeed := min 0xFFFF elapsed }).onLdr fun l => { l with seedEnd := false }
      let s := s.reducedAlarm
      let s := s.setMode s.normalMode
      s.log 0x0105 uidMode noPart (natLE s.blk.startLoad 2 ++ natLE s.blk.startSeed 2 ++ natLE (Config.nvmModeCode s.ldr.nvmMode).toNat 1))

/-! ### The time base (R401) -/

/-- TB_LOST: tb_valid falls, and the block goes on from its last sample (R401; log 66). -/
def execTbLost (s : State) : Out :=
  .next (
    if !s.blk.tbValid then s
    else (s.onBlk fun b => { b with tbValid := false }).log 0x0840 uidTb noPart)

/-- TB_RESTORED: tb_valid rises, so many core clocks after the block's time was last counted on: at the tick's boundary, or
where no tick runs at its last sample. The block's time never goes back, and 0x0841 carries the difference (R401). -/
def execTbRestored (back : TimeBack) (s : State) : Out :=
  .next (
    if s.blk.tbValid then s
    else
      let own := s.blk.time + BitVec.ofNat 64 (back.clocks / 8 * 5)
      let s := s.onBlk fun b => { b with tbValid := true, time := if own.toNat ≤ back.ns.toNat then back.ns else own }
      s.log 0x0841 uidTb noPart (natLE (back.ns - own).toNat 8))

/-! ### The TAP (R402, R403) -/

/-- TAP_RESET: trst_n resets the TAP controller alone, with IDCODE selected (R402, R403). -/
def execTapReset (s : State) : Out := .next (s.onIo fun i => { i with tapIr := tapIdcode })

/-- IDCODE (R403). -/
def execIdcode (s : State) : Out := .next (s.tapLoad tapIdcode)

/-- BYPASS: the one-bit register captures 0 (R403). -/
def execBypass (s : State) : Out := .next (s.tapLoad 0xFF)

/-- ORY_STATE captures ORY_DEBUG; in PRODUCTION and DECOMMISSIONED it acts as BYPASS (R246, R403). -/
def execOryState (s : State) : Out := .next (s.tapLoad tapState)

end Sys2Proof.Machine
end

