-- ==== Sys2Proof/Machine/Dispatch.lean ====
section
/-! DEFINITION. The dispatch: each command's own meaning. -/

namespace Sys2Proof.Machine

/-- The effect of a command on everything but the queue. -/
def exec (i : Instr) (s : State) : Host.Outcome State Fault Refusal :=
  match i with
  | .rstCoreAssert => Sys2Proof.Machine.execRstCoreAssert s
  | .rstRpAssert => Sys2Proof.Machine.execRstRpAssert s
  | .resetRelease release => Sys2Proof.Machine.execResetRelease release s
  | .rootKeyWord word last => Sys2Proof.Machine.execRootKeyWord word last s
  | .nvmFirstCommand sfdp => Sys2Proof.Machine.execNvmFirstCommand sfdp s
  | .containerReadDone data => Sys2Proof.Machine.execContainerReadDone data s
  | .containerVerdict elapsed ns => Sys2Proof.Machine.execContainerVerdict elapsed ns s
  | .seedingEnd elapsed => Sys2Proof.Machine.execSeedingEnd elapsed s
  | .containment => Sys2Proof.Machine.execContainment s
  | .blockFault => Sys2Proof.Machine.execBlockFault s
  | .tickBoundary ev => Sys2Proof.Machine.execTickBoundary ev s
  | .epochBoundary => Sys2Proof.Machine.execEpochBoundary s
  | .eligibilityCut faults => Sys2Proof.Machine.execEligibilityCut faults s
  | .mac u mod a b => Sys2Proof.Machine.execMac u mod a b s
  | .shift u mod b => Sys2Proof.Machine.execShift u mod b s
  | .load u b => Sys2Proof.Machine.execLoad u b s
  | .store u a => Sys2Proof.Machine.execStore u a s
  | .vmac u mod a b => Sys2Proof.Machine.execVmac u mod a b s
  | .vshift u mod sh b => Sys2Proof.Machine.execVshift u mod sh b s
  | .macuNop u => Sys2Proof.Machine.execMacuNop u s
  | .macuEnd u => Sys2Proof.Machine.execMacuEnd u s
  | .commandFault u => Sys2Proof.Machine.execCommandFault u s
  | .jobPreparation id reads => Sys2Proof.Machine.execJobPreparation id reads s
  | .jobWipe id => Sys2Proof.Machine.execJobWipe id s
  | .selfTest u pass => Sys2Proof.Machine.execSelfTest u pass s
  | .eclipseEffect u => Sys2Proof.Machine.execEclipseEffect u s
  | .quadrantLoss q => Sys2Proof.Machine.execQuadrantLoss q s
  | .orreryCoreLoss c => Sys2Proof.Machine.execOrreryCoreLoss c s
  | .cacheUncorrectable cache part index reader => Sys2Proof.Machine.execCacheUncorrectable cache part index reader s
  | .segmentShaping => Sys2Proof.Machine.execSegmentShaping s
  | .quadrantGating q => Sys2Proof.Machine.execQuadrantGating q s
  | .powerGovernor => Sys2Proof.Machine.execPowerGovernor s
  | .powerAck orrery n level => Sys2Proof.Machine.execPowerAck orrery n level s
  | .producerWrite who ring value => Sys2Proof.Machine.execProducerWrite who ring value s
  | .consumerWrite who ring value => Sys2Proof.Machine.execConsumerWrite who ring value s
  | .abortWrite who ring value => Sys2Proof.Machine.execAbortWrite who ring value s
  | .registerWrite who addr value => Sys2Proof.Machine.execRegisterWrite who addr value s
  | .readClears who addr => Sys2Proof.Machine.execReadClears who addr s
  | .irqPendClear who word value => Sys2Proof.Machine.execIrqPendClear who word value s
  | .irqTest who value => Sys2Proof.Machine.execIrqTest who value s
  | .freezeNow who => Sys2Proof.Machine.execFreezeNow who s
  | .frozenClear who => Sys2Proof.Machine.execFrozenClear who s
  | .testPatternEnable who => Sys2Proof.Machine.execTestPatternEnable who s
  | .testPatternDisable who => Sys2Proof.Machine.execTestPatternDisable who s
  | .ringFetch ring reads => Sys2Proof.Machine.execRingFetch ring reads s
  | .ringContextMiss ring answer => Sys2Proof.Machine.execRingContextMiss ring answer s
  | .headerReread ring reads => Sys2Proof.Machine.execHeaderReread ring reads s
  | .chainIncomplete ring => Sys2Proof.Machine.execChainIncomplete ring s
  | .cqStall ring => Sys2Proof.Machine.execCqStall ring s
  | .gatherListRead id src dst => Sys2Proof.Machine.execGatherListRead id src dst s
  | .keyStaging id reads => Sys2Proof.Machine.execKeyStaging id reads s
  | .ledgerReservationAck part index => Sys2Proof.Machine.execLedgerReservationAck part index s
  | .ledgerWriteRetry part index => Sys2Proof.Machine.execLedgerWriteRetry part index s
  | .nop id => Sys2Proof.Machine.execNop id s
  | .fenceRing id => Sys2Proof.Machine.execFenceRing id s
  | .fencePartition id => Sys2Proof.Machine.execFencePartition id s
  | .aeadSeal id => Sys2Proof.Machine.execAeadSeal id s
  | .aeadOpen id => Sys2Proof.Machine.execAeadOpen id s
  | .cipherEnc id => Sys2Proof.Machine.execCipherEnc id s
  | .cipherDec id => Sys2Proof.Machine.execCipherDec id s
  | .gmacGen id => Sys2Proof.Machine.execGmacGen id s
  | .gmacVerify id => Sys2Proof.Machine.execGmacVerify id s
  | .digest id => Sys2Proof.Machine.execDigest id s
  | .hmacGen id => Sys2Proof.Machine.execHmacGen id s
  | .hmacVerify id => Sys2Proof.Machine.execHmacVerify id s
  | .pkJob id => Sys2Proof.Machine.execPkJob id s
  | .random id => Sys2Proof.Machine.execRandom id s
  | .reseed id => Sys2Proof.Machine.execReseed id s
  | .keyGenerate id => Sys2Proof.Machine.execKeyGenerate id s
  | .keyImport id => Sys2Proof.Machine.execKeyImport id s
  | .keyDerive id => Sys2Proof.Machine.execKeyDerive id s
  | .keyRetire id => Sys2Proof.Machine.execKeyRetire id s
  | .copy id => Sys2Proof.Machine.execCopy id s
  | .completionRecordWrite ring => Sys2Proof.Machine.execCompletionRecordWrite ring s
  | .recordWriteRetry ring => Sys2Proof.Machine.execRecordWriteRetry ring s
  | .irqTicksTrigger ring => Sys2Proof.Machine.execIrqTicksTrigger ring s
  | .interruptMessage fid => Sys2Proof.Machine.execInterruptMessage fid s
  | .ringDrainComplete ring => Sys2Proof.Machine.execRingDrainComplete ring s
  | .ringOpenComplete ring => Sys2Proof.Machine.execRingOpenComplete ring s
  | .streamInputFrame port sop ring data => Sys2Proof.Machine.execStreamInputFrame port sop ring data s
  | .streamOutputFrame port => Sys2Proof.Machine.execStreamOutputFrame port s
  | .streamOutputPause port => Sys2Proof.Machine.execStreamOutputPause port s
  | .streamLongPause port => Sys2Proof.Machine.execStreamLongPause port s
  | .readCompletion port index gen beats => Sys2Proof.Machine.execReadCompletion port index gen beats s
  | .readTimeout port index => Sys2Proof.Machine.execReadTimeout port index s
  | .tagQuarantineEnd port index => Sys2Proof.Machine.execTagQuarantineEnd port index s
  | .writeResponse port index gen okay => Sys2Proof.Machine.execWriteResponse port index gen okay s
  | .bmeSet fid => Sys2Proof.Machine.execBmeSet fid s
  | .bmeClear fid => Sys2Proof.Machine.execBmeClear fid s
  | .bmeClearAck fid => Sys2Proof.Machine.execBmeClearAck fid s
  | .flrStart fid => Sys2Proof.Machine.execFlrStart fid s
  | .flrAck fid duration => Sys2Proof.Machine.execFlrAck fid duration s
  | .flrWriteLate fid => Sys2Proof.Machine.execFlrWriteLate fid s
  | .fcReservedOp fid => Sys2Proof.Machine.execFcReservedOp fid s
  | .tbLost => Sys2Proof.Machine.execTbLost s
  | .tbRestored back => Sys2Proof.Machine.execTbRestored back s
  | .tapReset => Sys2Proof.Machine.execTapReset s
  | .idcode => Sys2Proof.Machine.execIdcode s
  | .bypass => Sys2Proof.Machine.execBypass s
  | .oryState => Sys2Proof.Machine.execOryState s
  | .threadStop t => Sys2Proof.Machine.execThreadStop t s
  | .threadResume t => Sys2Proof.Machine.execThreadResume t s
  | .holdSet => Sys2Proof.Machine.execHoldSet s
  | .holdClear => Sys2Proof.Machine.execHoldClear s
  | .fork t entry => Sys2Proof.Machine.execFork t entry s
  | .join t u => Sys2Proof.Machine.execJoin t u s
  | .channelWrite t ch word final => Sys2Proof.Machine.execChannelWrite t ch word final s
  | .channelRead t ch => Sys2Proof.Machine.execChannelRead t ch s
  | .portRead t port => Sys2Proof.Machine.execPortRead t port s
  | .timeLimit root => Sys2Proof.Machine.execTimeLimit root s
  | .corePowerDown c => Sys2Proof.Machine.execCorePowerDown c s
  | .coreWake c => Sys2Proof.Machine.execCoreWake c s
  | .sdmaStart n setup list => Sys2Proof.Machine.execSdmaStart n setup list s
  | .sdmaAbort n => Sys2Proof.Machine.execSdmaAbort n s
  | .sdmaDone n => Sys2Proof.Machine.execSdmaDone n s
  | .go who ch value => Sys2Proof.Machine.execGo who ch value s
  | .ack who ch value => Sys2Proof.Machine.execAck who ch value s
  | .compatDoorbellMsg who ch => Sys2Proof.Machine.execCompatDoorbellMsg who ch s
  | .compatDoorbellAck who ch => Sys2Proof.Machine.execCompatDoorbellAck who ch s
  | .mbDbMaskClear who ch value => Sys2Proof.Machine.execMbDbMaskClear who ch value s
  | .messageTaken t read => Sys2Proof.Machine.execMessageTaken t read s
  | .mailboxReply ch => Sys2Proof.Machine.execMailboxReply ch s
  | .partitionRecordAck part => Sys2Proof.Machine.execPartitionRecordAck part s
  | .partitionRecordRetry part => Sys2Proof.Machine.execPartitionRecordRetry part s
  | .fwVerifyVerdict => Sys2Proof.Machine.execFwVerifyVerdict s
  | .swapEnter => Sys2Proof.Machine.execSwapEnter s
  | .quiesceTimeout t => Sys2Proof.Machine.execQuiesceTimeout t s
  | .flip => Sys2Proof.Machine.execFlip s
  | .initDone => Sys2Proof.Machine.execInitDone s
  | .initTimeout => Sys2Proof.Machine.execInitTimeout s
  | .swapExit => Sys2Proof.Machine.execSwapExit s
  | .windowEnd l => Sys2Proof.Machine.execWindowEnd l s
  | .healthTestFailure test osc => Sys2Proof.Machine.execHealthTestFailure test osc s
  | .retestStart => Sys2Proof.Machine.execRetestStart s
  | .retestVerdict pass l => Sys2Proof.Machine.execRetestVerdict pass l s
  | .drbgItemDone core => Sys2Proof.Machine.execDrbgItemDone core s
  | .entropyWaitExpiry id => Sys2Proof.Machine.execEntropyWaitExpiry id s
  | .recordCommit => Sys2Proof.Machine.execRecordCommit s
  | .readRefused who addr => Sys2Proof.Machine.execReadRefused who addr s
  | .streamInputBeat port sop ring data => Sys2Proof.Machine.execStreamInputBeat port sop ring data s
  | .streamPauseEnd port => Sys2Proof.Machine.execStreamPauseEnd port s
  | .rstRpRelease => Sys2Proof.Machine.execRstRpRelease s
  | .knownAnswerTestDone core0 core1 cond => Sys2Proof.Machine.execKnownAnswerTestDone core0 core1 cond s

end Sys2Proof.Machine
end

