-- ==== Sys2Proof/Safety.lean ====
section
/-! DEFINITION. What counts as a safe run of the block: in CONTAINMENT its secrets are gone and it is silent until the
next reset (R366, R367); what is latched changes by its own commands alone; its addressed memories are in
canonical form. -/

namespace Sys2Proof.Machine

/-! ### CONTAINMENT (R366) -/

/-- What R366 step 3 zeroizes holds nothing. -/
def State.secretsGone (s : State) : Bool :=
  s.dat.compare.isEmpty && s.ent.spillKey.isEmpty && s.ory.cores.all (fun c => c.regs.all (· == 0))
  && s.dat.macus.all (fun m => m.vec.all (· == 0))
  && s.ldr.root == List.replicate 32 0 && s.ldr.rkWords.all (· == 0)
  && s.key.slots.isEmpty && s.key.hslots.isEmpty && s.key.derived.isEmpty && s.key.jobs.isEmpty && s.key.pageOps.isEmpty
  && s.ent.insts.isEmpty && s.ent.buffer.isEmpty && s.ent.cores.all (·.items.isEmpty)
  && s.dat.macus.all (fun m => m.mem.isEmpty && m.loadQ.isEmpty && m.storeQ.isEmpty && m.acc == 0)
  && s.rng.reqs.isEmpty && s.ory.shmem.isEmpty && s.ory.chans.isEmpty && s.ory.staging.isNone

/-- Nothing is to issue: no grant, no read or write that has not issued, no stream output, no interrupt message, no SDMA
run; what was issued is to be discarded (R366 step 1). -/
def State.silent (s : State) : Bool :=
  s.sch.plan.isEmpty && s.sch.running.isEmpty
  && s.mov.ports.all (fun p => p.reads.all (fun r => r.issued && r.discard) && p.writes.all (fun w => w.issued && w.given))
  && s.mov.sdma.isEmpty && s.mov.streams.all (fun p => p.inp.isNone && p.out.isEmpty)
  && s.io.msgs.isEmpty

/-- The Ephemeris and the grant log take nothing more (R366 step 4). -/
def State.closedLogs (s : State) : Bool :=
  s.eph.frozen && s.eph.queue.isEmpty && s.eph.heldRecs.isEmpty && s.glog.frozen

/-- The block stands in CONTAINMENT as R366 leaves it. -/
structure State.Contained (s : State) : Prop where
  mode    : s.blk.mode = .containment
  alarm   : s.blk.alFatal = true
  wiped   : s.blk.wiped = true
  secrets : s.secretsGone = true
  silent  : s.silent = true
  logs    : s.closedLogs = true

/-- The commands that still act in CONTAINMENT: resets, root key words, the time base, the power acknowledgements, the
TAP, function control, what the fabric returns, and accesses to the register port (R320, R366, R367). -/
def actsInContainment : Instr → Bool
  | .rstCoreAssert | .rstRpAssert | .rstRpRelease | .rootKeyWord _ _ | .tbLost | .tbRestored _ | .powerAck _ _ _
  | .tapReset | .idcode | .bypass | .oryState | .threadStop _ | .threadResume _ | .holdSet | .holdClear | .recordCommit
  | .bmeSet _ | .bmeClear _ | .bmeClearAck _ | .flrStart _ | .flrWriteLate _ | .fcReservedOp _
  | .readCompletion _ _ _ _ | .tagQuarantineEnd _ _ | .writeResponse _ _ _ _
  | .producerWrite _ _ _ | .consumerWrite _ _ _ | .abortWrite _ _ _ | .irqPendClear _ _ _ | .irqTest _ _ | .freezeNow _
  | .frozenClear _ | .testPatternEnable _ | .testPatternDisable _ | .registerWrite _ _ _ | .readClears _ _ | .readRefused _ _ | .go _ _ _ | .ack _ _ _ | .compatDoorbellMsg _ _
  | .compatDoorbellAck _ _ | .mbDbMaskClear _ _ _ => true
  | _ => false

/-! ### What is latched -/

/-- State that changes by commands of its own alone: the queue, which no command's effect touches; the tick count and
whether its cut and its epoch are done; the block's time; the lifecycle latched at reset release; the register port's
reset; tb_valid; the power acknowledgements; the TAP's registers; the owner digest; the Charter in force. -/
structure Latched where
  queue     : List Instr
  tick      : Nat
  cutDone   : Bool
  epochDone : Bool
  time      : W64
  lifecycle : BitVec 2
  rpReset   : Bool
  tbValid   : Bool
  quadAck   : List Bool
  oryAck    : List Bool
  tapIr     : BitVec 8
  tapCap    : BitVec 8
  tapDr     : BitVec 32
  owner     : Bytes
  charter   : Option Charter
  deriving DecidableEq, Repr

def State.latched (s : State) : Latched :=
  { queue := s.pending, tick := s.sch.tick, cutDone := s.sch.cutDone, epochDone := s.sch.epochDone, time := s.blk.time
    lifecycle := s.blk.lifecycle, rpReset := s.blk.rpReset, tbValid := s.blk.tbValid
    quadAck := s.io.quadAck, oryAck := s.io.oryAck, tapIr := s.io.tapIr, tapCap := s.io.tapCap, tapDr := s.io.tapDr
    owner := s.ldr.owner, charter := s.ldr.chosen }

/-- The commands that change a part of what is latched (R99, R100, R116, R347, R355, R356, R371, R400 to R405). -/
def setsLatched : Instr → Bool
  | .rstCoreAssert | .rstRpAssert | .rstRpRelease | .resetRelease _ | .rootKeyWord _ _ | .containerVerdict _ _
  | .tickBoundary _ | .epochBoundary | .eligibilityCut _ | .tbLost | .tbRestored _ | .powerAck _ _ _ | .tapReset | .idcode | .bypass | .oryState
  | .threadStop _ | .threadResume _ | .holdSet | .holdClear | .containment => true
  | _ => false

/-! ### Doorbells -/

/-- What R434 and R32 ask of a doorbell write before its own check: the port acts, the accessor may act on the ring, and the
owner's partition is ACTIVE or SUSPENDED. -/
def State.doorbellOpen (s : State) (who : Accessor) (r : Nat) : Prop :=
  s.portActs = true ∧ s.mayAct who (s.ringOwner r) = true
    ∧ (s.partState (s.ring r).owner = .active ∨ s.partState (s.ring r).owner = .suspended)

/-! ### Addressed memories -/

/-- Canonical form of a memory whose unlisted addresses read as `z`: addresses strictly rising, no entry equal to z. -/
def Memory.wf {α : Type} [DecidableEq α] (z : α) (m : Map α) : Bool :=
  decide (m.Pairwise fun x y => x.1 < y.1) && m.all fun x => decide (x.2 ≠ z)

/-- Orrery shared memory and every MACU's operand memory are in canonical form. -/
def State.memWf (s : State) : Bool := Memory.wf 0 s.ory.shmem && s.dat.macus.all fun m => Memory.wf 0 m.mem

/-! ### Tags and write ids -/

/-- The read tags that serve a read: those reserved for the Vault and service DMA, or the others (R272). -/
def inPool (r : FRead) (i : Nat) : Bool := if r.vault then decide (896 ≤ i) && decide (i < 1024) else decide (i < 896)

/-- On a port no write id is outstanding twice nor beyond 1,023; no read tag is outstanding twice, in quarantine, or out of its
pool, and none is in quarantine twice (R272, R274, R376). -/
def Port.tagsOk (p : Port) : Bool :=
  decide (((p.writes.filter (·.issued)).map (·.idx)).Nodup) && decide (((p.reads.filter (·.issued)).map (·.idx)).Nodup)
  && decide p.quar.Nodup && (p.writes.all fun w => !w.issued || decide (w.idx < 1024))
  && p.reads.all fun r => !r.issued || (inPool r r.idx && !p.quar.contains r.idx)

def State.tagsOk (s : State) : Bool := s.mov.ports.all Port.tagsOk

/-! ### Grants -/

/-- A grant runs on lane n, its own or the second of its pair. -/
def Grant.onLane (g : Grant) (n : Nat) : Prop := g.unit = .lane n ∨ (g.pair = true ∧ ∃ m, g.unit = .lane m ∧ n = m + 1)

/-! ### Output of a link -/

/-- The data writes that stand for a link are those of these pieces of its output: every byte of a piece stands in one at
its address, and each holds bytes of one piece (R269, R270). -/
def State.putsOut (t : State) (id : LinkId) (ps : List (Nat × Nat × Nat × Bytes × Nat)) : Prop :=
  (∀ p ∈ ps, ∀ i, i < p.2.2.2.1.length → ∃ w ∈ t.writes, isLinkData id w.purpose = true ∧ w.addr ≤ p.2.1 + i
    ∧ w.data[p.2.1 + i - w.addr]? = p.2.2.2.1[i]?)
  ∧ ∀ w ∈ t.writes, isLinkData id w.purpose = true → ∃ p ∈ ps, p.2.1 ≤ w.addr ∧ w.addr + w.data.length ≤ p.2.1 + p.2.2.2.1.length
    ∧ w.data = slice p.2.2.2.1 (w.addr - p.2.1) w.data.length

/-- A link that had written nothing has put out the bytes `b`: inline after what it held, else in memory at the next bytes of
its destination (R77, R270). -/
def State.gaveOut (s t : State) (id : LinkId) (l l' : Link) (b : Bytes) : Prop :=
  l'.outPos = l.outPos + b.length
    ∧ if s.inlineDst l id then l'.output = l.output ++ b else t.putsOut id (outPieces l.dstList 0 l.outPos l.outPos b)

/-- A link has nothing of its output on the way to memory, which all eight ports serve. -/
def State.outIdle (s : State) (id : LinkId) (l : Link) : Bool :=
  s.mov.ports.length == 8 && l.unitHold.isEmpty && s.writes.all fun w => !isLinkData id w.purpose

end Sys2Proof.Machine
end

