-- ==== Sys2Proof/Certificates/Slice0/Obligations.lean ====
section
/-! DEFINITION. The statements for the provers. An equation `exec c s = .next t` in a conclusion says that the command
completes and what it leaves; what t does not change is the frame. A rule named after a clause is where the clause comes
from; a statement claims what its clauses say. -/

open Sys2Proof Sys2Proof.Machine

/-! ### The queue and the whole machine -/

/-- A step takes the command at the front of the queue, first in first out, and is its effect on the rest; with none
waiting the block idles (log 1: the model's own queue). -/
def Obligations.StepRunsFrontCommand : Prop :=
  (∀ (c : Instr) (l : List Instr) (s : State), s.pending = c :: l → step s = exec c { s with pending := l })
  ∧ (∀ s : State, s.pending = [] → step s = .next s)

/-- No command's effect touches the queue. -/
def Obligations.QueueKept : Prop := ∀ (c : Instr) (s t : State), exec c s = .next t → t.pending = s.pending

/-- The tick count, the cut and epoch marks, the time, the lifecycle, the register port's reset, tb_valid, the power
acknowledgements, the TAP's registers, the owner digest and the Charter in force are left by every command but those that
`setsLatched` names (R99, R100, R116, R347, R355, R356, R371, R400 to R405). -/
def Obligations.LatchedKept : Prop :=
  ∀ (c : Instr) (s t : State), setsLatched c = false → exec c s = .next t → t.latched = s.latched

/-- Every command keeps the canonical form of the addressed memories: shared memory and every MACU's operand memory (R201, R231;
the form, the model's own). -/
def Obligations.MemoryFormKept : Prop :=
  ∀ (c : Instr) (s t : State), s.memWf = true → exec c s = .next t → t.memWf = true

/-- Through every command no read tag and no write id of a port is outstanding twice, a read tag in use is of its pool and not in
quarantine, and no tag is in quarantine twice (R272, R274, R376). -/
def Obligations.TagsKept : Prop :=
  ∀ (c : Instr) (s t : State), s.tagsOk = true → exec c s = .next t → t.tagsOk = true

/-- A block in CONTAINMENT as R366 leaves it (the mode, the alarm, the secrets gone, nothing to issue, the logs closed)
stays so through every command but RST_CORE_ASSERT (R361, R366, R367). -/
def Obligations.ContainedUntilReset : Prop :=
  ∀ (c : Instr) (s t : State), c ≠ .rstCoreAssert → s.Contained → exec c s = .next t → t.Contained

/-- In CONTAINMENT every command but those that `actsInContainment` names changes nothing (R366, R367). -/
def Obligations.ContainmentQuiet : Prop :=
  ∀ (c : Instr) (s : State), s.blk.mode = .containment → actsInContainment c = false → exec c s = .next s

/-- CONTAINMENT in a block with a cause noted, in CHARTER_LOAD at once and where ticks run at the boundary after the cut, which
counts the tick on: the mode is CONTAINMENT, for the cause's reason; the fatal alarm and
`wiped` are set, the secrets are gone, nothing is to issue; the last record is 0x0106 with reason and code, and the
Ephemeris and the grant log are frozen; of what is latched the tick and the time alone go on (R314, R361, R365, R366; that the
command brings that boundary, log 112). BLOCK_FAULT with ticks running notes
BLOCK_FAULT as the cause of CONTAINMENT, for the next boundary, and changes nothing else; a cause noted before stays. In
CHARTER_LOAD, with no cause before it, the block is in CONTAINMENT at once, for BLOCK_FAULT (R314, R365). -/
def Obligations.ContainmentEntry : Prop :=
  (
    ∀ (s : State) (r : Reason) (code : Nat), s.live = true → s.blk.cause = some (r, code) →
      (s.ticking = true → s.sch.cutDone = true) →
      ∃ t, exec .containment s = .next t ∧ t.blk.mode = .containment ∧ t.blk.reason = r ∧ t.blk.cause = none
        ∧ t.blk.alFatal = true ∧ t.blk.wiped = true ∧ t.secretsGone = true ∧ t.silent = true
        ∧ t.eph.frozen = true ∧ t.glog.frozen = true
        ∧ (s.ticking = false → t.latched = s.latched)
        ∧ (s.ticking = true → t.latched = { s.latched with
            tick := (s.sch.tick + 1) % 2 ^ 32, cutDone := false, epochDone := false, time := t.blk.time })
        ∧ (s.eph.frozen = false → (s.eph.queue = [] → s.eph.heldRecs = []) → ∃ x l, t.eph.recs = x :: l
          ∧ x.body.code = 0x0106 ∧ x.body.detail.take 3 = natLE r.code 1 ++ natLE code 2))
  ∧ (
    (∀ s : State, s.ticking = true →
      (s.blk.cause = none → exec .blockFault s = .next (s.onBlk fun b => { b with cause := some (.blockFault, 0) }))
      ∧ (s.blk.cause ≠ none → exec .blockFault s = .next s))
    ∧ ∀ s : State, s.blk.mode = .charterLoad → s.blk.cause = none →
      ∃ t, exec .blockFault s = .next t ∧ t.blk.mode = .containment ∧ t.blk.reason = .blockFault ∧ t.blk.alFatal = true
        ∧ t.secretsGone = true ∧ t.silent = true)

/-! ### Reset -/

/-- What the spec gives for the block out of reset: DORMANT, no alarm, no bus master enable, no partition, no ring, an
empty Ephemeris, no power requested (R361, R369, R371, R405); the memories in canonical form and the queue empty (the
model's own). RST_CORE_ASSERT leaves the reset state but for what the core reset does not reach: the register port's own
reset and answer, the time base, the power acknowledgements and the TAP (R361, R371). While rst_rp_n is asserted no
response is valid; its release lets the port answer again (R371). -/
def Obligations.ResetResults : Prop :=
  (
    let s := State.reset
    s.blk.mode = .dormant ∧ s.blk.reason = .none ∧ s.blk.alFatal = false ∧ s.blk.alReduced = false ∧ s.blk.alEntropy = false
    ∧ s.blk.mbxWake = false ∧ s.blk.rpValid = false ∧ s.ldr.rkTaken = false ∧ s.ldr.chosen = none
    ∧ s.prt.parts = [] ∧ s.prt.bme = [] ∧ s.rng.rings = [] ∧ s.rng.reqs = [] ∧ s.sch.tick = 0 ∧ s.sch.running = []
    ∧ s.key.slots = [] ∧ s.ent.insts = [] ∧ s.ent.buffer = [] ∧ s.eph.queue = [] ∧ s.eph.recs = [] ∧ s.eph.frozen = false
    ∧ s.io.quadReq = List.replicate 4 false ∧ s.io.oryReq = List.replicate 4 false ∧ s.io.msgs = []
    ∧ s.memWf = true ∧ s.pending = [])
  ∧ (
    (
      ∀ s : State, exec .rstCoreAssert s = .next { State.reset with
        pending := s.pending, free := s.free
        blk := { State.reset.blk with rpReset := s.blk.rpReset, rpRdata := s.blk.rpRdata, rpValid := s.blk.rpValid
                                      time := s.blk.time, tbValid := s.blk.tbValid }
        io := { State.reset.io with quadAck := s.io.quadAck, oryAck := s.io.oryAck, tapIr := s.io.tapIr, tapCap := s.io.tapCap
                                    tapDr := s.io.tapDr } })
    ∧ (
      ∀ s : State, exec .rstRpAssert s = .next (s.onBlk fun b => { b with rpReset := true, rpValid := false })
        ∧ exec .rstRpRelease s = .next (s.onBlk fun b => { b with rpReset := false })))

/-- RESET_RELEASE out of DORMANT: the lifecycle is latched, the time base sampled, CHARTER_LOAD entered and power requested
everywhere; in FACTORY the test root stands in the root latch; DECOMMISSIONED goes on to CONTAINMENT (R158, R356, R358, R361, R365,
R401).
ROOT_KEY_WORD, in a lifecycle and mode that use the root: a word is taken, one after another; `last` on any other
word than the twentieth discards the words taken so far; the twentieth ends the sequence: words 0 to 7 are the root
secret, in FACTORY replaced by the test root, words 8 to 19 the owner digest; words after it are ignored (R158, R400). -/
def Obligations.ResetReleaseAndRootKey : Prop :=
  (
    ∀ (lc : BitVec 2) (ns : W64) (s : State), s.blk.mode = .dormant →
      (lc ≠ lcDecommissioned → ∃ t, exec (.resetRelease ⟨lc, ns⟩) s = .next t ∧ t.blk.mode = .charterLoad ∧ t.blk.lifecycle = lc
        ∧ t.io.quadReq = List.replicate 4 true ∧ t.io.oryReq = List.replicate 4 true
        ∧ t.ldr.root = (if lc = lcFactory then testRoot else s.ldr.root)
        ∧ t.latched = { s.latched with
            lifecycle := lc, time := if s.blk.tbValid = true ∧ s.blk.time.toNat ≤ ns.toNat then ns else s.blk.time })
      ∧ (lc = lcDecommissioned → s.blk.cause = none → ∃ t, exec (.resetRelease ⟨lc, ns⟩) s = .next t ∧ t.blk.mode = .containment
        ∧ t.blk.reason = .decommissioned ∧ t.blk.lifecycle = lc))
  ∧ (
    ∀ (w : W32) (last : Bool) (s : State), s.blk.mode ≠ .dormant → s.rootUsed = true →
      (s.ldr.rkTaken = false → s.ldr.rkWords.length < 19 →
        exec (.rootKeyWord w last) s = .next (s.onLdr fun l => { l with rkWords := if last then [] else s.ldr.rkWords ++ [w] }))
      ∧ (s.ldr.rkTaken = false → s.ldr.rkWords.length = 19 →
        exec (.rootKeyWord w last) s = .next (s.onLdr fun l => { l with
          rkTaken := true, rkWords := []
          root := if s.blk.lifecycle = lcFactory then testRoot else wordBytes (s.ldr.rkWords.take 8)
          owner := wordBytes (s.ldr.rkWords.drop 8 ++ [w]) }))
      ∧ (s.ldr.rkTaken = true → exec (.rootKeyWord w last) s = .next s))

/-- NVM_FIRST_COMMAND, once the last root key word is taken: of what SFDP discovery reads (its layout JESD216's, log 114) the read
mode is the first usable of 1-4-4, 1-1-4, 1-2-2,
1-1-2 and 1-1-1 with 0x0B, a quad mode usable where the quad-enable bit needs no write; without SFDP 1-1-1 with 0x03 at
the slow clock; chip select falls for the command, at address 0 of Charter copy A (R344, R345, R397, R400). CONTAINER_READ_DONE,
while a container is read: the bytes read stand for judgement, none where the read failed or its place is out of the addresses'
reach; chip select rises again (R345, R347, R348, R397). -/
def Obligations.LoaderReads : Prop :=
  (
    ∀ (r : SfdpRead) (s : State), s.blk.mode = .charterLoad → s.ldr.rkTaken = true → s.ldr.nvmStarted = false →
      let f := sfdpOf r
      let quad := f.quadReq = 0 ∨ f.quadSet = true
      ∃ t, exec (.nvmFirstCommand r) s = .next t ∧ t = { s with io := t.io, ldr := t.ldr }
        ∧ t.ldr = { s.ldr with nvmStarted := true, nvmSlow := !f.valid, nvmAddr := 0, nvmMode := t.ldr.nvmMode, nvmRead := t.ldr.nvmRead }
        ∧ (r.data.take 4 ≠ ascii "SFDP" → f.valid = false)
        ∧ t.io = { s.io with nvm := t.io.nvm } ∧ t.io.nvm.csN = false
        ∧ (f.valid = false → t.ldr.nvmMode = 5 ∧ t.ldr.nvmRead = { instr := 0x03 })
        ∧ (f.valid = true → ∀ x, quad → f.m144 = some x → t.ldr.nvmMode = 0 ∧ t.ldr.nvmRead = x)
        ∧ (f.valid = true → ∀ x, quad → f.m144 = none → f.m114 = some x → t.ldr.nvmMode = 1 ∧ t.ldr.nvmRead = x)
        ∧ (f.valid = true → (¬ quad ∨ f.m144 = none ∧ f.m114 = none) →
          (∀ x, f.m122 = some x → t.ldr.nvmMode = 2 ∧ t.ldr.nvmRead = x)
          ∧ (∀ x, f.m122 = none → f.m112 = some x → t.ldr.nvmMode = 3 ∧ t.ldr.nvmRead = x)
          ∧ (f.m122 = none → f.m112 = none → t.ldr.nvmMode = 4 ∧ t.ldr.nvmRead = { f.m111 with instr := 0x0B })))
  ∧ (
    ∀ (a : ReadAnswer) (s : State), s.blk.mode = .charterLoad → s.ldr.nvmStarted = true → s.ldr.container = none →
      s.ldr.stage ≠ .done →
      ∃ t b, exec (.containerReadDone a) s = .next t ∧ t = { s with io := t.io, ldr := { s.ldr with container := some b } }
        ∧ t.io = { s.io with nvm := t.io.nvm } ∧ t.io.nvm.csN = true
        ∧ (∀ d, a = .ok d → s.reachable d.length = true → b = d) ∧ (∀ d, a = .ok d → s.reachable d.length = false → b = [])
        ∧ ∀ c l, (a = .busError c l ∨ a = .timeout c l) → b = [])

/-- CONTAINER_VERDICT on a Charter copy: one that verifies is tried, its firmware to be read next; a copy A that does not
gives way to copy B; with a copy B that does not the block goes to CONTAINMENT. On the firmware of a copy under trial:
with a good image SEEDING begins at tick 0 with that Charter in force, the partitions of its table, and the image in bank
A; else copy A gives way to copy B, and after copy B the block goes to CONTAINMENT. The reason there is FIRMWARE_INVALID
where a Charter copy's result is OK, else CHARTER_INVALID (R354, R355, R360, R361, R365). -/
def Obligations.ContainerVerdicts : Prop :=
  ∀ (e : Nat) (ns : W64) (s : State) (b : Bytes), s.blk.mode = .charterLoad → s.ldr.container = some b →
    let good (k : Nat) : Prop := s.ldr.results.getD k 0 = resOk
    let failed (ok : Prop) (t : State) : Prop := t.blk.mode = .containment
      ∧ (ok → t.blk.reason = .firmwareInvalid) ∧ (¬ ok → t.blk.reason = .charterInvalid)
    let accepted (c : Charter) (i : Image) (t : State) : Prop := t.blk.mode = .seeding ∧ t.ldr.chosen = some c ∧ t.sch.tick = 0
      ∧ t.prt.parts = c.parts.foldl (fun m x => mset m x.num (Part.fresh x)) [] ∧ t.ory.bankA = some i ∧ t.ory.bankAct = false
      ∧ t.mov.timeout = c.readTimeout ∧ t.key.base = c.vaultBase ∧ t.ent.scn = .startup
    (s.ldr.stage = .charterA → ∃ t, exec (.containerVerdict e ns) s = .next t ∧ t.ldr.container = none ∧ t.blk.mode = .charterLoad ∧
      match (judgeCharter s.ldr.owner b).2.2 with
      | some c => t.ldr.stage = .fwA ∧ t.ldr.tried = some c
      | none => t.ldr.stage = .charterB)
    ∧ (s.ldr.stage = .charterB → s.blk.cause = none → s.ldr.results.length = 4 →
      ∃ t, exec (.containerVerdict e ns) s = .next t ∧
      match (judgeCharter s.ldr.owner b).2.2 with
      | some c => t.blk.mode = .charterLoad ∧ t.ldr.stage = .fwB ∧ t.ldr.tried = some c
      | none => failed (good 0) t)
    ∧ (∀ c, s.ldr.stage = .fwA → s.ldr.tried = some c → ∃ t, exec (.containerVerdict e ns) s = .next t ∧
      match (judgeFirmware s.ldr.owner c.fwLength c.fwMinSec b).2 with
      | some i => accepted c i t
      | none => t.blk.mode = .charterLoad ∧ t.ldr.stage = .charterB ∧ t.ldr.tried = none)
    ∧ ∀ c, s.ldr.stage = .fwB → s.ldr.tried = some c → s.blk.cause = none → ∃ t, exec (.containerVerdict e ns) s = .next t ∧
      match (judgeFirmware s.ldr.owner c.fwLength c.fwMinSec b).2 with
      | some i => accepted c i t
      | none => failed (good 0 ∨ good 2) t

/-- KNOWN_ANSWER_TEST_DONE in SEEDING: with a DRBG core and the conditioning core passing, the sixteen internal instances
wait to be seeded and a core that failed is eclipsed; without a DRBG core or without the conditioning core ENTROPY_FAILED
is noted as the cause of CONTAINMENT (R263, R264, R365). SEEDING_END, at the boundary that
found the internal instances seeded and the self-tests over, and with no cause of CONTAINMENT: the mode of normal operation by the
lifecycle and the units eclipsed, and the reduced alarm by the latter (R314, R360, R361); at any other time nothing. -/
def Obligations.SeedingResults : Prop :=
  (
    ∀ s : State, s.blk.mode = .seeding → s.ldr.katDone = false →
      (∀ a b : Bool, (a = true ∨ b = true) → ∃ t, exec (.knownAnswerTestDone a b true) s = .next t ∧ t.ldr.katDone = true
        ∧ (∀ k < 16, (t.inst (1024 + k)).st = .waiting)
        ∧ (s.ent.cores.length = 2 → (a = false → (t.unitSt (.drbgCore 0)).ecl = true) ∧ (b = false → (t.unitSt (.drbgCore 1)).ecl = true)))
      ∧ (∀ a b c : Bool, (c = false ∨ (a = false ∧ b = false)) → s.blk.cause = none →
        ∃ t, exec (.knownAnswerTestDone a b c) s = .next t ∧ t.blk.cause = some (.entropyFailed, 0x0606)))
  ∧ (
    ∀ (e : Nat) (s : State), s.blk.mode = .seeding →
      (s.ldr.seedEnd = false → exec (.seedingEnd e) s = .next s)
      ∧ (s.ldr.seedEnd = true → s.blk.cause = none →
      ∃ t, exec (.seedingEnd e) s = .next t ∧ t.latched = s.latched
        ∧ t.blk.mode = (if s.blk.lifecycle = lcFactory then .factory else if s.anyEclipsed then .reduced else .service)
        ∧ t.blk.alReduced = s.anyEclipsed))

/-! ### Time base, TAP, power port -/

/-- TB_LOST: tb_valid falls, with record 0x0840, and the block goes on from its last sample; TB_RESTORED: the block takes tb_ns
if it is at or above its own time, which went on at 5 ns for 8 clocks, else holds its own, and writes 0x0841 with the difference
(R401; the part of a tick, log 66). The TAP: reset selects IDCODE; IDCODE captures version 2, part 0xB0D2, the manufacturer
input and a 1; BYPASS captures 0; ORY_STATE captures the debug word where debug is on, and 0 elsewhere; the instruction
register captures 0x01 (R246, R402, R403). POWER_ACK: the acknowledgement of one domain takes the level given, and nothing else
changes (R405). -/
def Obligations.OutsideInputs : Prop :=
  (
    (∀ s : State, s.blk.tbValid = true → exec .tbLost s
        = .next ((s.onBlk fun b => { b with tbValid := false }).log 0x0840 uidTb noPart))
    ∧ (∀ (ns : W64) (clocks : Nat) (s : State), s.blk.tbValid = false →
        let own := s.blk.time + BitVec.ofNat 64 (clocks / 8 * 5)
        ∃ t, exec (.tbRestored ⟨ns, clocks⟩) s = .next t
        ∧ t.latched = { s.latched with tbValid := true, time := if own.toNat ≤ ns.toNat then ns else own }
        ∧ t = (s.onBlk fun b => { b with tbValid := true, time := t.blk.time }).log 0x0841 uidTb noPart (natLE (ns - own).toNat 8)))
  ∧ (
    ∀ s : State, exec .tapReset s = .next (s.onIo fun i => { i with tapIr := 0x01 })
      ∧ exec .idcode s = .next (s.onIo fun i => { i with
          tapIr := 0x01, tapCap := 0x01, tapDr := BitVec.ofNat 32 (2 * 2 ^ 28 + 0xB0D2 * 2 ^ 12 + 2 * Config.dbgMfr.toNat + 1) })
      ∧ exec .bypass s = .next (s.onIo fun i => { i with tapIr := 0xFF, tapCap := 0x01, tapDr := 0 })
      ∧ exec .oryState s = .next (s.onIo fun i => { i with
          tapIr := 0x21, tapCap := 0x01, tapDr := if s.debugOn then BitVec.ofNat 32 (s.oryReg 0x18) else 0 }))
  ∧ (
    ∀ (n : Nat) (level : Bool) (s : State), n < 4 →
      exec (.powerAck false n level) s = .next (s.onIo fun i => { i with quadAck := updAt i.quadAck n fun _ => level })
      ∧ exec (.powerAck true n level) s = .next (s.onIo fun i => { i with oryAck := updAt i.oryAck n fun _ => level }))

/-! ### The tick, its epoch and its cut -/

/-- TICK_BOUNDARY after the cut: the count goes on by one modulo 2^32, the new tick's cut and epoch are to come, the time
is the sampled one or, without a valid time base, 5 ns for every 8 clocks more, and never less; with a cause of
CONTAINMENT noted the block is in CONTAINMENT for it; with none noted by the end of the tick, what is due at a boundary
is done, and then of the grants planned those issue that still may, and no plan is left (R99, R100, R363, R365, R401). -/
def Obligations.TickBoundaryResult : Prop :=
  ∀ (ev : TickEvents) (s : State), s.ticking = true → s.sch.cutDone = true →
    let u := ((s.endTick ev).nextTick ev.ns).atBoundary
    ∃ t, exec (.tickBoundary ev) s = .next t
      ∧ t.latched = { s.latched with
          tick := (s.sch.tick + 1) % 2 ^ 32, cutDone := false, epochDone := false
          time := if s.blk.tbValid then (if s.blk.time.toNat ≤ ev.ns.toNat then ev.ns else s.blk.time)
            else s.blk.time + BitVec.ofNat 64 (s.tickLen / 8 * 5) }
      ∧ (∀ r code, s.blk.cause = some (r, code) → t.blk.mode = .containment ∧ t.blk.reason = r)
      ∧ ((s.endTick ev).blk.cause = none → t.sch.plan = [] ∧ t.sch.running = u.sch.plan.filter u.mayIssue)

/-- EPOCH_BOUNDARY at a tick that is a multiple of 1,024, once before the cut: the epoch is marked done and of the
latched state nothing else changes; the shares of sealed partitions that waited take effect, the patterns of the epoch
are made, quadrants with windows in them are lit, and DUAL use follows the windows (R116, R125, R260). ELIGIBILITY_CUT,
once a tick and after what is due at its boundary: in this order the faults found before the cut strike, the grants whose
clocks end before it have run, aborts and timeouts and units to test and jobs to prepare are observed, and the grants of
the coming tick are planned; the cut is marked done and of the latched state nothing else changes (R100). -/
def Obligations.EpochAndCutResults : Prop :=
  (
    ∀ s : State, s.ticking = true → s.sch.cutDone = false → s.sch.epochDone = false → s.sch.tick % 1024 = 0 →
      ∃ t, exec .epochBoundary s = .next t ∧ t.latched = { s.latched with epochDone := true }
        ∧ t = ((s.sealedShares.newPatterns (s.sch.tick / 1024)).lightWindows.onSch fun c => { c with epochDone := true }).markDual)
  ∧ (
    ∀ (l : List UnitFault) (s : State), s.ticking = true → s.sch.cutDone = false → s.boundaryDue = false →
      let u := (s.strikeAll l).runAll fun g => !g.slot && decide (s.grantEnd g ≤ s.tickLen - 512)
      let v := u.residCut.abortsCut.timeoutsCut.endErrs.retriesCut.testsCut.jobsCut
      ∃ t, exec (.eligibilityCut l) s = .next t ∧ t.latched = { s.latched with cutDone := true }
        ∧ t = ((v.forEpoch.makePlan.ungate.closedCut.drbgCut.backFrom v).lightWindows).onSch fun c => { c with cutDone := true })

/-- The grant set that a cut makes. Lanes: a grant outside the windows ends within the budget, L − 256; on one lane it begins after
every earlier grant of the set has ended, so that what these cost in sum stays within the budget (R98, R112, R113). MACUs, likewise
outside the windows: a batch of one MACU ends within the budget, one of a pair within its half of it, and of one MACU no
two overlap (R113, R208). A lane segment, and a segment that takes an engine, lies in the quadrant of its request (R14, R113). The
floor pass, where no retry is in it, charges a partition within its ceiling and what it is credited, the lending pass within its
ceiling, counted as borrowed, and neither charges another (R111, R112, R114); credit is the quantum more, up to one budget or
engine-tick above it, and none without eligible work (R112). Retries first: R307. -/
def Obligations.GrantSetRules : Prop :=
  (
    ∀ s : State,
      let plan := s.makePlan.sch.plan
      (∀ g ∈ plan, ∀ n, g.unit = .lane n → g.win = false → 0 < g.cost → g.start + g.cost ≤ s.tickLen - 256)
      ∧ (plan.Pairwise fun g h => ∀ n, g.onLane n → h.onLane n → h.win = false → g.start + g.cost ≤ h.start)
      ∧ (∀ g ∈ plan, ∀ n, g.unit = .macu n → g.win = false → 0 < g.cost →
        (g.pair = false → g.start + g.cost ≤ s.budget)
        ∧ (g.pair = true → g.odd = false → g.start + g.cost ≤ s.budget / 2)
        ∧ (g.pair = true → g.odd = true → g.start + g.cost ≤ s.budget - s.budget / 2))
      ∧ (plan.Pairwise fun g h => ∀ n, g.unit = .macu n → h.unit = .macu n → g.win = false → h.win = false →
        g.pair = false → h.pair = false → g.start + g.cost ≤ h.start)
      ∧ ((s.rng.reqs.map fun r => (r.ring, r.idx)).Nodup → ∀ g ∈ plan,
        ((∃ n, g.unit = .lane n) ∨ (∃ n, g.unit = .engine n) ∧ g.cont = false) →
        ∀ q, s.makePlan.req g.id.ring g.id.idx = some q → q.quad = some (quadOf g.unit)))
  ∧ (
    ∀ (w : GPlan) (c p g : Nat) (l : List Cand),
      ((∀ x ∈ l, x.retry = false) →
        let r := w.floorPart c p g l
        r.used.nat p ≤ max (w.used.nat p) g ∧ r.used.nat p + r.s.dcOf p c = w.used.nat p + w.s.dcOf p c
          ∧ r.bor = w.bor ∧ ∀ k, k ≠ p → r.used.nat k = w.used.nat k)
      ∧ (let r := (w.lendPart c p g l).1
        r.used.nat p ≤ max (w.used.nat p) g ∧ r.bor.nat p + w.used.nat p = w.bor.nat p + r.used.nat p
          ∧ ∀ k, r.s.dcOf k c = w.s.dcOf k c ∧ (k ≠ p → r.used.nat k = w.used.nat k ∧ r.bor.nat k = w.bor.nat k)))
  ∧ ∀ (w : GPlan) (floors : Map (List Nat)) (c p : Nat) (has : List Nat) (x : Part), (w.s.prt.parts.map (·.1)).Nodup →
    w.s.part p = some x → c < x.dc.length →
    let q := (((mget floors p).getD []).getD c 0) * w.s.capacity c / 65536
    (w.credit floors c has).s.dcOf p c
      = if has.contains p then min (x.dc.getD c 0 + q) (q + if c = 2 then 1 else w.s.budget) else 0

/-! ### The policy loop -/

/-- SEGMENT_SHAPING at the end of a window of 64 ticks: with a late partition the segment limit of the one with the
largest mean cost is halved, at most three times; in calm, from the fourth window on, the limit of the one with the
largest shift is doubled; each change is counted and the window begins anew (R26, R122). QUADRANT_GATING of a quadrant
idle for 256 ticks that holds nothing and has no self-test before it: it is gated and its power request falls, with record 0x0A01 (R122, R405).
POWER_GOVERNOR at the end of a window of 16 ticks: the mean estimate is published and the window begins anew; above 97 %
of the ceiling the lane cap falls by a lane, or a pair with a BINARY partition; after four windows below 90 % it rises by
as much; it stays from the reserved lanes plus 4 to 16, and a change is a decision (R122, R123). -/
def Obligations.PolicyLoopResults : Prop :=
  (
    ∀ s : State, s.policyOn = true → 64 ≤ s.sch.shapeTicks →
      (∀ p x, s.prt.parts.any (fun y => y.2.lateWindow) = true → s.shapeUp = some p → s.part p = some x →
        exec .segmentShaping s = .next (if x.segShift < 3
          then ((s.onPart p fun x => { x with segShift := x.segShift + 1 }).decide1).shapeClear 0 else s.shapeClear 0))
      ∧ (s.prt.parts.any (fun y => y.2.lateWindow) = false → s.sch.calmWins < 3 →
        exec .segmentShaping s = .next (s.shapeClear (s.sch.calmWins + 1)))
      ∧ ∀ p, s.prt.parts.any (fun y => y.2.lateWindow) = false → 3 ≤ s.sch.calmWins → s.shapeDown = some p →
        exec .segmentShaping s = .next (((s.onPart p fun x => { x with segShift := x.segShift - 1 }).decide1).shapeClear 0))
  ∧ (
    (∀ (q : Nat) (x : Quad) (s : State), s.policyOn = true → q < 4 → s.dat.quads[q]? = some x → x.gated = false →
      x.u.ecl = false → x.active = false → 256 ≤ x.idle → s.quadHeld q = false → s.quadSealed q = false → s.quadTests q = false →
      exec (.quadrantGating q) s = .next (((((s.onDat fun d => { d with quads := updAt d.quads q fun x => { x with gated := true } }).onIo
        fun i => { i with quadReq := updAt i.quadReq q fun _ => false }).onSch
        fun c => { c with decisions := c.decisions + 1 }).log 0x0A01 uidPolicy noPart)))
    ∧ ∀ s : State, s.policyOn = true → 16 ≤ s.sch.winTicks →
      let mean := s.sch.winSum / s.sch.winTicks
      let step := if s.binaryOrd then 2 else 1
      let low := if 100 * mean < 90 * s.charter.powerCeil then s.sch.below90 + 1 else 0
      let high := decide (97 * s.charter.powerCeil < 100 * mean)
      let want := if high then s.sch.laneCap - step else if 4 ≤ low then s.sch.laneCap + step else s.sch.laneCap
      let cap := min 16 (max s.capFloor want)
      ∃ t, exec .powerGovernor s = .next t ∧ t.sch.estimate = mean ∧ t.sch.winSum = 0 ∧ t.sch.winTicks = 0
        ∧ t.sch.laneCap = cap ∧ t.sch.below90 = (if !high && decide (4 ≤ low) then 0 else low)
        ∧ t.sch.decisions = s.sch.decisions + (if cap = s.sch.laneCap then 0 else 1)
        ∧ (cap = s.sch.laneCap → t.eph = s.eph) ∧ t.dat = s.dat ∧ t.prt = s.prt)

/-! ### Units: self-test, eclipse, loss -/

/-- SELF_TEST of a unit in its self-test tick, or eclipsed and being exercised, outside start-up: the result stands and
is counted for the unit and the block, with record 0x0303 for a pass and 0x0304 for a failure, and without power nothing is
tested (R405, log 110); in SEEDING it stands
uncounted, a quadrant or core without power fails, and a failure alone writes a record (R309, R311, R360, R405, log 31). -/
def Obligations.SelfTestResult : Prop :=
  ∀ (u : UnitId) (pass : Bool) (s : State), s.live = true → (s.unitSt u).tested = none →
    ((s.unitSt u).inTest = true ∨ ((s.unitSt u).ecl = true ∧ (s.unitSt u).exer ≠ [])) →
    (s.blk.mode ≠ .seeding → s.unlit u = true → exec (.selfTest u pass) s = .next s)
    ∧ (s.blk.mode ≠ .seeding → s.unlit u = false → exec (.selfTest u pass) s = .next
      (((s.onUnit u fun x => { x with tested := some pass, stPass := sat 0xFF x.stPass (b2n pass)
                                      stFail := sat 0xFF x.stFail (b2n !pass) }).onSch
        fun c => { c with stPassed := sat 0xFF c.stPassed (b2n pass), stFailed := sat 0xFF c.stFailed (b2n !pass) }).log
        (if pass then 0x0303 else 0x0304) (uid u) noPart))
    ∧ (s.blk.mode = .seeding → pass = true → s.unpowered u = false →
      exec (.selfTest u pass) s = .next (s.onUnit u fun x => { x with tested := some true }))
    ∧ (s.blk.mode = .seeding → (pass = false ∨ s.unpowered u = true) →
      exec (.selfTest u pass) s = .next ((s.onUnit u fun x => { x with tested := some false }).log 0x0304 (uid u) noPart))

/-- ECLIPSE_EFFECT of a unit marked for eclipse that the boundary found to hold no state leaves it eclipsed, its marks gone, with
the reduced bit and alarm (R310, R311, R314). QUADRANT_LOSS eclipses the quadrant at once, and its MACUs hold nothing more; of
every request with affinity to it the first link that has not completed completes HW_FAULT with detail QUADRANT_LOST, whatever was
known of its result, and every later link CHAIN_ABANDONED with that link's number, and no write of these links that had not
issued is left (R14, R312). ORRERY_CORE_LOSS eclipses the core at once and leaves its threads ended, stopped or not as they
were (R240, R313). -/
def Obligations.EclipseResults : Prop :=
  (∀ (u : UnitId) (w : EclWhy) (s : State), s.live = true → s.sch.cutDone = false → (s.unitSt u).eclPend = some w →
    (s.unitSt u).eclDue = true →
    ∃ t, exec (.eclipseEffect u) s = .next t ∧ (t.unitSt u).ecl = true ∧ (t.unitSt u).eclPend = none ∧ (t.unitSt u).eclDue = false
      ∧ (u ∈ allUnits → t.blk.reduced = true ∧ t.blk.alReduced = true))
  ∧ (∀ (q : Nat) (s : State), s.live = true → q < 4 → q < s.dat.quads.length → (s.unitSt (.quad q)).ecl = false →
    ∃ t, exec (.quadrantLoss q) s = .next t ∧ (t.unitSt (.quad q)).ecl = true
      ∧ (∀ u m, u / 4 = q → t.dat.macus[u]? = some m → m.mem = [] ∧ m.loadQ = [] ∧ m.storeQ = [] ∧ m.acc = 0 ∧ m.batch = none)
      ∧ ((s.rng.reqs.map fun r => (r.ring, r.idx)).Nodup → ∀ r ∈ s.rng.reqs, r.quad = some q → ∀ k l, r.links[k]? = some l →
        let ended (j : Nat) (x : Link) : Bool := x.recorded || s.linkDone (r.linkId j) x
        ended k l = false → (∀ j x, j < k → r.links[j]? = some x → ended j x = true) →
        (∃ r' l', t.link (r.linkId k) = some (r', l') ∧ l'.stat = some ⟨0x80, 2⟩)
        ∧ (∀ j x, k < j → r.links[j]? = some x → x.recorded = false →
          ∃ r' l', t.link (r.linkId j) = some (r', l') ∧ l'.stat = some ⟨0x71, k⟩)
        ∧ ∀ j x, k ≤ j → r.links[j]? = some x → ∀ w ∈ t.writes, isLinkWrite (r.linkId j) w.purpose = true → w.issued = true))
  ∧ ∀ (c : Nat) (s : State), s.live = true → c < 4 → c < s.ory.cores.length → (s.unitSt (.oryCore c)).ecl = false →
    ∃ t, exec (.orreryCoreLoss c) s = .next t ∧ (t.unitSt (.oryCore c)).ecl = true
      ∧ ∀ k, k / 16 = c → t.thread k = { stopped := (s.thread k).stopped }

/-- CACHE_UNCORRECTABLE on a key or key-state slot: the slot is gone, the error is counted, and no link whose result is
not known keeps the slot, but a KEY_RETIRE under way and, for key state, a link that is no digest; in a key store it is
counted too (R175, R184). -/
def Obligations.CacheUncorrectableResult : Prop :=
  ∀ (p i : Nat) (reader : Option LinkId) (s : State), s.live = true →
    (∀ x, s.key.slots.find? (fun x => x.part == p && x.index == i) = some x →
      ∃ t, exec (.cacheUncorrectable .keyCache p i reader) s = .next t ∧ t.key.uncorr = sat 0xFF s.key.uncorr 1
        ∧ (∀ y ∈ t.key.slots, (y.part, y.index, y.gen) ≠ (x.part, x.index, x.gen))
        ∧ ∀ q ∈ t.rng.reqs, ∀ l ∈ q.links, l.stat = none → l.hdr.opcode ≠ opRetire → l.keySlot ≠ some (x.part, x.index, x.gen))
    ∧ (∀ x, s.key.hslots.find? (fun x => x.part == p && x.index == i) = some x →
      ∃ t, exec (.cacheUncorrectable .stateCache p i reader) s = .next t ∧ t.key.uncorr = sat 0xFF s.key.uncorr 1
        ∧ (∀ y ∈ t.key.hslots, (y.part, y.index, y.gen) ≠ (x.part, x.index, x.gen))
        ∧ ∀ q ∈ t.rng.reqs, ∀ l ∈ q.links, l.stat = none → isDigest l.hdr.opcode = true → l.hdr.opcode ≠ opRetire →
          l.keySlot ≠ some (x.part, x.index, x.gen))
    ∧ ((mget s.key.derived p).isSome = true →
      ∃ t, exec (.cacheUncorrectable .keyStore p i reader) s = .next t ∧ t.key.uncorr = sat 0xFF s.key.uncorr 1)

/-! ### MACU commands (R202 to R204) -/

/-- Every MACU command is read back from its word, with every operand that it names; the words by R202 and R203, bit by
bit for the fields of each (R202, R203). -/
def Obligations.MacuWords : Prop :=
  ∀ (u : Nat) (mod : BitVec 4) (a b : BitVec 10) (sh : BitVec 6),
    (∀ i ∈ [Instr.macuNop u, .mac u mod a b, .shift u mod b, .load u b, .store u a, .vmac u mod a b, .vshift u mod sh b, .macuEnd u],
      ∃ w, encodeMacu i = some w ∧ decodeMacu u w = i)
    ∧ ∀ w : BitVec 32,
      let op := w.toNat / 2 ^ 28
      let m := BitVec.ofNat 4 (w.toNat / 2 ^ 24)
      let x := BitVec.ofNat 10 (w.toNat / 2 ^ 12)
      let y := BitVec.ofNat 10 w.toNat
      decodeMacu u w = if op = 0 then .macuNop u else if op = 1 then .mac u m x y else if op = 2 then .shift u m y
        else if op = 3 then .load u y else if op = 4 then .store u x else if op = 8 then .vmac u m x y
        else if op = 9 then .vshift u m (BitVec.ofNat 6 (w.toNat / 2 ^ 12)) y else if op = 15 then .macuEnd u else .commandFault u

/-- The scalar commands on a MACU with a batch in progress, not under DUAL, on addresses that the batch's job holds: MAC
adds or subtracts the product of two words modulo 2^576, clearing A first where asked; SHIFT writes A's low word, unless
told to discard it, and moves A down by 256 bits; LOAD takes the oldest word of the load queue that is the job's, and
with none a free value (log 6); STORE appends to the store queue; NOP changes nothing; END clears the accumulators and
begins the next batch (R203). Nothing but that MACU changes. -/
def Obligations.MacuScalarCommands : Prop :=
  ∀ (u : Nat) (m : Macu) (id : LinkId) (s : State), s.serving = true → s.dat.macus[u]? = some m → m.batch = some id →
    s.dualOn u = none →
    let answer (m' : Macu) : Out := .next (s.onDat fun d => { d with macus := updAt d.macus u fun _ => m' })
    (∀ (mod : BitVec 4) (a b : BitVec 10), m.holdsAddr a.toNat = true → m.holdsAddr b.toNat = true →
      let x := if mod.getLsbD 0 then 0 else m.acc
      let p := (m.word a.toNat).setWidth 576 * (m.word b.toNat).setWidth 576
      exec (.mac u mod a b) s = answer { m with acc := if mod.getLsbD 1 then x - p else x + p })
    ∧ (∀ (mod : BitVec 4) (b : BitVec 10), (mod.getLsbD 0 = true ∨ m.holdsAddr b.toNat = true) →
      exec (.shift u mod b) s = answer (if mod.getLsbD 0 then { m with acc := m.acc >>> 256 }
        else { m.put b.toNat (m.acc.setWidth 256) with acc := m.acc >>> 256 }))
    ∧ (∀ (b : BitVec 10) (w : BitVec 256), m.holdsAddr b.toNat = true → m.loadQ.find? (fun x => x.1 == id) = some (id, w) →
      exec (.load u b) s = answer { m.put b.toNat w with loadQ := m.loadQ.erase (id, w) })
    ∧ (∀ b : BitVec 10, m.holdsAddr b.toNat = true → m.loadQ.find? (fun x => x.1 == id) = none →
      ∃ w t, exec (.load u b) s = .next t
        ∧ { t with free := s.free } = s.onDat fun d => { d with macus := updAt d.macus u fun _ => m.put b.toNat w })
    ∧ (∀ a : BitVec 10, m.holdsAddr a.toNat = true →
      exec (.store u a) s = answer { m with storeQ := m.storeQ ++ [(id, m.word a.toNat)] })
    ∧ exec (.macuNop u) s = .next s
    ∧ exec (.macuEnd u) s = answer { m with acc := 0, vec := List.replicate 16 0, batch := (s.nextBatch u m.batchAt).map (·.1)
                                            batchAt := (s.nextBatch u m.batchAt).map (·.2) <|> m.batchAt }

/-- The vector commands, not under DUAL, on even addresses that the batch's job holds, lane by lane: VMAC multiplies
unsigned 32-bit lanes into 64-bit accumulators, cleared first, subtracted, or with lane 0 of Y in every lane as the
modifier says; VSHIFT writes bits s + 31 to s of each accumulator and clears them all unless told to keep them; above bit
63 the lane's bits are a free value (R201, R203, log 6). -/
def Obligations.MacuVectorCommands : Prop :=
  ∀ (u : Nat) (m : Macu) (s : State) (b : BitVec 10), s.serving = true → s.dat.macus[u]? = some m →
    m.batch.isSome = true → s.dualOn u = none → m.vecAddr b.toNat = true →
    (∀ (mod : BitVec 4) (a : BitVec 10), m.vecAddr a.toNat = true →
      ∃ t m', exec (.vmac u mod a b) s = .next t ∧ t = (s.onDat fun d => { d with macus := updAt d.macus u fun _ => m' })
        ∧ m' = { m with vec := m'.vec } ∧ m'.vec.length = 16
        ∧ ∀ i < 16,
          let v := if mod.getLsbD 0 then 0 else m.vec.getD i 0
          let p := BitVec.ofNat 64 (m.vlane a.toNat i) * BitVec.ofNat 64 (m.vlane b.toNat (if mod.getLsbD 2 then 0 else i))
          m'.vec.getD i 0 = if mod.getLsbD 1 then v - p else v + p)
    ∧ ∀ (mod : BitVec 4) (sh : BitVec 6), Memory.wf 0 m.mem = true →
      ∃ t m', exec (.vshift u mod sh b) s = .next t
        ∧ { t with free := s.free } = (s.onDat fun d => { d with macus := updAt d.macus u fun _ => m' })
        ∧ m' = { m with vec := m'.vec, mem := m'.mem }
        ∧ m'.vec = (if mod.getLsbD 0 then m.vec else List.replicate 16 0)
        ∧ (∀ i < 16, let n := min 32 (64 - sh.toNat)
          m'.vlane b.toNat i % 2 ^ n = ((m.vec.getD i 0).toNat >>> sh.toNat) % 2 ^ n)
        ∧ ∀ a, a ≠ b.toNat → a ≠ b.toNat + 1 → m'.word a = m.word a

/-- A word of operand memory that is stored reads back and every other word reads as before; the same for the bytes of
Orrery shared memory (R201, R231; the memories in canonical form, the model's own). -/
def Obligations.MemoryLaws : Prop :=
  (∀ (m : Macu) (a b : Nat) (w : BitVec 256), Memory.wf 0 m.mem = true →
    (m.put a w).word b = if b = a then w else m.word b)
  ∧ ∀ (s : State) (a : Nat) (b : Bytes), Memory.wf 0 s.ory.shmem = true →
    (s.shWrite a b).shRead a b.length = b
    ∧ ∀ k n, (k + n ≤ a ∨ a + b.length ≤ k) → (s.shWrite a b).shRead k n = s.shRead k n

/-- COMMAND_FAULT on the batch of a job whose retry is not used: the batch stops, no grant of the job goes on, and it is
due a retry with fault detail MACU_PARITY, away from every unit of its grant, with the MACU charged (R204, R306, R307); a
MAC on an address that the job does not hold is that fault. SHIFT under DUAL on a MACU of the pair: the leader's acts and
its word is kept for comparison; the follower's, on an equal word, acts and the kept one is gone; on another word the job
is due a retry with fault detail DUAL_MISMATCH, away from both MACUs, both charged, and no grant of it goes on (R222,
R306, R307). -/
def Obligations.CommandFaultResult : Prop :=
  (
    ∀ (u : Nat) (m : Macu) (id : LinkId) (g : Grant) (q : Req) (l : Link) (s : State), s.serving = true →
      s.dat.macus[u]? = some m → m.batch = some id →
      s.sch.running.find? (fun g => g.id == id && g.units.contains (.macu u)) = some g →
      s.link id = some (q, l) → l.hdr.opcode = opPk → l.stat = none → l.retryUsed = false → l.job.isSome = true →
      (∃ t q' l', exec (.commandFault u) s = .next t ∧ t.link id = some (q', l') ∧ l'.retryDue = true ∧ l'.retryDet = 5
        ∧ (∀ x ∈ g.units, x ∈ l'.excluded) ∧ l'.charged = [.macu u] ∧ ∀ x ∈ t.sch.running, x.id ≠ id)
      ∧ ∀ (mod : BitVec 4) (a b : BitVec 10), m.holdsAddr a.toNat = false →
        exec (.mac u mod a b) s = exec (.commandFault u) s)
  ∧ (
    ∀ (u : Nat) (m : Macu) (id : LinkId) (g : Grant) (q : Req) (l : Link) (lead : Bool) (mod : BitVec 4) (b : BitVec 10) (s : State),
      s.serving = true → s.dat.macus[u]? = some m → m.batch = some id → s.dualOn u = some (id, lead) →
      s.sch.running.find? (fun x => x.id == id && x.pair) = some g → g.units = [.macu u, .macu (mate u)] ∨ g.units = [.macu (mate u), .macu u] →
      s.link id = some (q, l) → l.stat = none → l.retryUsed = false → l.hdr.opcode = opPk → l.job.isSome = true →
      (mod.getLsbD 0 = true ∨ m.holdsAddr b.toNat = true) →
      let word : BitVec 256 := m.acc.setWidth 256
      let acts (s : State) : State := s.onDat fun d => { d with macus := updAt d.macus u fun m =>
        { (if mod.getLsbD 0 then m else m.put b.toNat word) with acc := m.acc >>> 256 } }
      (lead = true → exec (.shift u mod b) s = .next (acts (s.onDat fun d => { d with compare := d.compare ++ [⟨id, u, [word], 0⟩] })))
      ∧ ∀ w, lead = false → s.leaderWord u id = some w →
        (w.words = [word] → exec (.shift u mod b) s = .next (acts (s.onDat fun d => { d with compare := d.compare.erase w })))
        ∧ (w.words ≠ [word] → ∃ t q' l', exec (.shift u mod b) s = .next t ∧ t.link id = some (q', l') ∧ l'.retryDue = true
          ∧ l'.retryDet = 4 ∧ .macu u ∈ l'.excluded ∧ .macu (mate u) ∈ l'.excluded ∧ l'.charged = g.units
          ∧ ∀ x ∈ t.sch.running, x.id ≠ id))

/-! ### The register port -/

/-- PRODUCER_WRITE by the check of R46: a value with a bit at or above log2(N), or one further than D ahead of sub_head
that is not behind P0, is BEYOND; P0 itself is ignored; a value from P0 to D ahead of sub_head is accepted and is the new
P0; every other is BACKWARD. BEYOND is violation 0x0501 and BACKWARD 0x0502, in QUARANTINED only the ring's error counter
counts; a ring that is CLOSED, OPENING or DRAINING, or a stream ring, drops the write as violation 0x050A; a ring that is
not ACTIVE is not fetched. The write's response follows, with read data 0 (R46, R58, R60, R387). -/
def Obligations.ProducerWriteResult : Prop :=
  ∀ (who : Accessor) (r : Nat) (v : W32) (s : State), s.doorbellOpen who r →
    let x := s.ring r
    let n := 2 * 2 ^ x.attr.log2
    let p := v.toNat % 2 ^ 21
    let a := modSub p x.subHead n
    let e := if modSub x.prod x.subHead n > n / 2 then 0 else modSub x.prod x.subHead n
    let memory := x.attr.stream = false ∧ (x.st = .active ∨ x.st = .held ∨ x.st = .quarantined)
    let gives (t : State) : Prop := exec (.producerWrite who r v) s = .next (t.respond 0)
    let drop (code : Nat) : State := if x.st = .quarantined then s.onRing r fun x => { x with errors := x.errors + 1 }
      else s.violation code uidRp (s.accPart who) (some r) (!who.priv) v.toNat who.fid
    (memory → n ≤ p → gives (drop 0x0501))
    ∧ (memory → p < n → p = x.prod → gives s)
    ∧ (memory → p < n → p ≠ x.prod → a ≤ n / 2 → e ≤ a →
      gives (s.onRing r fun x => { x with prod := p, pubs := x.pubs ++ [(p, s.sch.tick)] }))
    ∧ (memory → p < n → p ≠ x.prod → (a ≤ n / 2 ∧ a < e ∨ n / 2 < a ∧ modSub x.prod p n ≤ n / 2) → gives (drop 0x0502))
    ∧ (memory → p < n → p ≠ x.prod → n / 2 < a → n / 2 < modSub x.prod p n → gives (drop 0x0501))
    ∧ ((x.attr.stream = true ∨ x.st = .closed ∨ x.st = .opening ∨ x.st = .draining) → gives (drop 0x050A))
    ∧ (x.st ≠ .active → s.mayFetch r = false)

/-- CONSUMER_WRITE of C to a memory ring that is neither CLOSED nor OPENING is accepted if (C − C0) mod N ≤ (W − C0) mod
N, and C modulo N is the new C0, else dropped as violation 0x050B; to a CLOSED, an OPENING or a stream ring it is dropped
as violation 0x050A; a quarantined ring counts the write it drops as an error alone. The response follows (R49, R58, R60,
R387). -/
def Obligations.ConsumerWriteResult : Prop :=
  ∀ (who : Accessor) (r : Nat) (v : W32) (s : State), s.doorbellOpen who r →
    let x := s.ring r
    let n := 2 * 2 ^ x.attr.log2
    let c := v.toNat % 2 ^ 21
    let gives (t : State) : Prop := exec (.consumerWrite who r v) s = .next (t.respond 0)
    let drop (code : Nat) : State := if x.st = .quarantined then s.onRing r fun x => { x with errors := x.errors + 1 }
      else s.violation code uidRp (s.accPart who) (some r) (!who.priv) v.toNat who.fid
    (x.attr.stream = false → x.st ≠ .closed → x.st ≠ .opening →
      gives (if modSub c x.cons n ≤ modSub x.wIdx x.cons n then s.onRing r fun x => { x with cons := c % n } else drop 0x050B))
    ∧ ((x.attr.stream = true ∨ x.st = .closed ∨ x.st = .opening) → gives (drop 0x050A))

/-- ABORT_WRITE on a ring that is not CLOSED and whose partition is not RESETTING, with an index of the published range,
is held for the coming cut; with any other it is dropped as violation 0x050C (R52, R53, R315). A doorbell or abort write
of a partition that is RESETTING, to a ring it owns, changes nothing; a doorbell write to a ring that another partition
owns is dropped as violation 0x0503; while the partition of an owner's ring is READY a doorbell write is dropped as
violation 0x050A (R32, R435). Each has its response. -/
def Obligations.AbortWriteResult : Prop :=
  ∀ (who : Accessor) (r : Nat) (v : W32) (s : State), s.portActs = true →
    let x := s.ring r
    let n := 2 * 2 ^ x.attr.log2
    let i := v.toNat % 2 ^ 21
    let d := 2 ^ x.attr.log2
    let head := if x.attr.stream then x.frameIdx else x.subHead
    let ahead := if x.attr.stream ∨ modSub x.prod x.subHead n > d then 0 else modSub x.prod x.subHead n
    let gives (c : Instr) (t : State) : Prop := exec c s = .next (t.respond 0)
    (s.mayAct who (s.ringOwner r) = true → x.st ≠ .closed → s.partState x.owner ≠ .resetting →
      gives (.abortWrite who r v) (
        if i < n ∧ modSub i (modSub head d n) n ≤ d + ahead then
          s.onRing r fun x => { x with abortIdx := i, aborts := x.aborts ++ [(i, if x.attr.stream then x.frameIdx else x.prod)] }
        else if x.st = .quarantined then s.onRing r fun x => { x with errors := x.errors + 1 }
        else s.violation 0x050C uidRp (s.accPart who) (some r) (!who.priv) v.toNat who.fid))
    ∧ (s.mayAct who (s.ringOwner r) = true → x.st ≠ .closed → s.partState x.owner = .resetting →
      gives (.abortWrite who r v) s ∧ gives (.producerWrite who r v) s ∧ gives (.consumerWrite who r v) s)
    ∧ (s.mayAct who (s.ringOwner r) = false → (∀ p, s.partOfFid who.fid = some p → s.partState p ≠ .resetting) →
      gives (.producerWrite who r v) (s.violation 0x0503 uidRp (s.accPart who) (some r) false (8 * r) who.fid)
      ∧ gives (.consumerWrite who r v) (s.violation 0x0503 uidRp (s.accPart who) (some r) false (8 * r + 4) who.fid))
    ∧ (s.mayAct who (s.ringOwner r) = true → x.st ≠ .closed → s.partState x.owner = .ready → x.st ≠ .quarantined →
      gives (.producerWrite who r v) (s.violation 0x050A uidRp (s.accPart who) (some r) (!who.priv) v.toNat who.fid))

/-- A violation that is the sixty-fifth of a ring within ticks t − 1,023 to t, the tick count wrapping, puts an ACTIVE or
HELD ring in QUARANTINED, in tick t; with fewer its state stays; a write that a quarantined ring drops counts in its
error counter and is no violation (R59, R60, R99). -/
def Obligations.QuarantineRule : Prop :=
  (
    ∀ (s : State) (code source part r value fid : Nat), s.blk.mode ≠ .containment →
      let t := s.violation code source part (some r) true value fid
      let near := ((s.ring r).viol.filter fun k => decide (modSub s.sch.tick k (2 ^ 32) ≤ 1023)).length
      (t.ring r).violations = (s.ring r).violations + 1 ∧ (t.ring r).viol.getLast? = some s.sch.tick
      ∧ (t.ring r).st = (if 64 ≤ near ∧ ((s.ring r).st = .active ∨ (s.ring r).st = .held) then .quarantined else (s.ring r).st)
      ∧ (∀ k, k ≠ r → t.ring k = s.ring k) ∧ (s.violation code source part (some r) false value fid).rng = s.rng)
  ∧ ∀ (who : Accessor) (r : Nat) (v : W32) (s : State), s.doorbellOpen who r → (s.ring r).st = .quarantined →
    let x := s.ring r
    let n := 2 * 2 ^ x.attr.log2
    let k := v.toNat % 2 ^ 21
    let gives (i : Instr) (f : Ring → Ring) : Prop := exec i s = .next ((s.onRing r f).respond 0)
    let dropped (i : Instr) : Prop := gives i fun x => { x with errors := x.errors + 1 }
    (dropped (.producerWrite who r v) ∨ (k = x.prod ∧ exec (.producerWrite who r v) s = .next (s.respond 0))
      ∨ gives (.producerWrite who r v) fun x => { x with prod := k, pubs := x.pubs ++ [(k, s.sch.tick)] })
    ∧ (dropped (.consumerWrite who r v) ∨ gives (.consumerWrite who r v) fun x => { x with cons := k % n })
    ∧ (dropped (.abortWrite who r v) ∨ gives (.abortWrite who r v) fun x => { x with
        abortIdx := k, aborts := x.aborts ++ [(k, if x.attr.stream then x.frameIdx else x.prod)] })
    ∧ ((x.attr.stream = true ∨ n ≤ k) → dropped (.producerWrite who r v))
    ∧ (x.attr.stream = true → dropped (.consumerWrite who r v))
    ∧ (n ≤ k → dropped (.abortWrite who r v))

/-- REGISTER_WRITE of a scratch register, of RING_STATUS's W1C bits, of GLOG_CTL, of SCN_TEST_SEED, which takes a value in lifecycle
FACTORY alone, and of EPH_STATUS's W1C bit; of a doorbell, an abort register, BLK_IRQ_TEST, a pending word and SCN_TEST, which are the
commands of their own; a privileged write to any other word outside rings and channels changes nothing, read-only registers and
addresses that name none alike; a write that the checks of R434 refuse is dropped
and is violation 0x0503; each has a response with read data 0 (R6, R7, R52, R265, R387, R420, R431, R434). READ_CLEARS answers with the
value before it clears: every register with RC fields leaves these 0 and nothing else changed, every other register leaves all as it was,
and an address that names none reads 0 to a privileged access; in CONTAINMENT nothing is
cleared (R6, R157, R184, R199, R227, R246, R288, R325, R332, R367, R420, R434). READ_REFUSED answers 0xFFFFFFFF, with violation 0x0503 while the port acts, and none in
CONTAINMENT or DORMANT (R7, R362, R367). -/
def Obligations.RegisterAccessResults : Prop :=
  (
    (∀ (who : Accessor) (k : Nat) (v : W32) (s : State), s.portActs = true → who.priv = true → k < 4 →
      exec (.registerWrite who (0x300030 + 4 * k) v) s
        = .next ((s.onBlk fun b => { b with scratch := b.scratch.set k v }).respond 0))
    ∧ (∀ (who : Accessor) (r : Nat) (v : W32) (s : State), s.portActs = true → r < 131072 → (s.ring r).st ≠ .closed →
      s.mayAct who (s.ringOwner r) = true →
      exec (.registerWrite who (0x200000 + 8 * r) v) s = .next ((s.onRing r fun x => { x with
        flushed := x.flushed && !v.getLsbD 28, abortLate := x.abortLate && !v.getLsbD 27, cqStall := x.cqStall && !v.getLsbD 26 }).respond 0))
    ∧ ∀ (who : Accessor) (k : Nat) (v : W32) (s : State), s.portActs = true → who.priv = false → k < 4 →
      exec (.registerWrite who (0x300030 + 4 * k) v) s
        = .next ((s.violation 0x0503 uidRp (s.accPart who) none false (0x300030 + 4 * k) who.fid).respond 0))
  ∧ (
    ∀ (who : Accessor) (addr : Nat) (v : W32) (s : State), s.portActs = true →
      let a := wordAddr addr
      (ringAt a = none → chanAt a = none →
        (s.mayWrite who a = false → exec (.registerWrite who addr v) s
          = .next ((s.violation 0x0503 uidRp (s.accPart who) none false a who.fid).respond 0))
        ∧ (who.priv = true → ¬ (0x300030 ≤ a ∧ a ≤ 0x300040) → ¬ (0x308000 ≤ a ∧ a < 0x30C000) →
          a ∉ [0x4A0000, 0x660008, 0x66000C, 0x6C0004] → exec (.registerWrite who addr v) s = .next (s.respond 0)))
      ∧ (∀ r < 131072, exec (.registerWrite who (8 * r) v) s = exec (.producerWrite who r v) s
        ∧ exec (.registerWrite who (8 * r + 4) v) s = exec (.consumerWrite who r v) s
        ∧ exec (.registerWrite who (0x200004 + 8 * r) v) s = exec (.abortWrite who r v) s)
      ∧ (∀ w < 4096, exec (.registerWrite who (0x308000 + 4 * w) v) s = exec (.irqPendClear who w v) s)
      ∧ exec (.registerWrite who 0x300040 v) s = exec (.irqTest who v) s
      ∧ (who.priv = true →
        exec (.registerWrite who 0x660008 v) s = exec (if v.getLsbD 0 then .testPatternEnable who else .testPatternDisable who) s
        ∧ exec (.registerWrite who 0x4A0000 v) s = .next ((s.onGlog fun g => { g with
            post := v.toNat / 65536, onFault := v.getLsbD 1, enable := v.getLsbD 0, frozen := v.getLsbD 3 || (g.frozen && !v.getLsbD 2)
            counting := if v.getLsbD 3 then none else g.counting }).respond 0)
        ∧ exec (.registerWrite who 0x66000C v) s
          = .next ((if s.blk.lifecycle = lcFactory then s.onEnt fun e => { e with testSeed := v } else s).respond 0)
        ∧ exec (.registerWrite who 0x6C0004 v) s
          = .next ((s.onEph fun e => { e with overrun := e.overrun && !v.getLsbD 30 }).respond 0)))
  ∧ (
    ∀ (who : Accessor) (s : State), s.portActs = true → who.priv = true →
      let clears (a : Nat) (t : State) : Prop := exec (.readClears who a) s = .next (t.respond (s.readValue who a))
      let ecc (u : UnitId) : State := s.onUnit u fun x => { x with ecc1 := 0, ecc2 := 0 }
      clears 0x300214 (s.onSch fun c => { c with waitEvents := 0 })
      ∧ clears 0x300218 (s.onSch fun c => { c with decisions := 0, discarded := 0 })
      ∧ clears 0x600A00 (s.onSch fun c => { c with fallback := 0 })
      ∧ clears 0x620010 (s.onKey fun k => { k with ledgerWaits := 0, tagFails := 0, uncorr := 0 })
      ∧ clears 0x640014 (s.onOry fun o => { o with closedWait := 0, timeLimit := 0, quiesce := 0, forkFail := 0 })
      ∧ clears 0x660004 (s.onEnt fun e => { e with lasting := 0, transient := 0, windows := 0 })
      ∧ clears 0x6A000C (s.onSch fun c => { c with retryTrans := 0, retryFail := 0 })
      ∧ clears 0x6A0010 (s.onSch fun c => { c with stPassed := 0, stFailed := 0 })
      ∧ clears 0x6C0008 (s.onEph fun e => { e with warn := 0, fault := 0 })
      ∧ clears 0x6C000C (s.onEph fun e => { e with stalls := 0, peak := 0 })
      ∧ (∀ n < 4, clears (0x300380 + 4 * n) (s.onStream n fun p => { p with long := 0 }))
      ∧ (∀ n < 16, clears (0x600004 + 32 * n) (ecc (.lane n)) ∧ clears (0x600804 + 32 * n) (ecc (.macu n)))
      ∧ (∀ n < 32, clears (0x600408 + 32 * n) (ecc (.engine n)))
      ∧ (∀ c < 1040, clears (0x100090 + 256 * c) (s.onChan c fun m => { m with completed := 0, refused := 0, aborts := 0 }))
      ∧ ∀ p ∈ [(0x141000, 0x200000), (0x30E000, 0x310000), (0x320000, 0x400000), (0x480800, 0x490000), (0x490100, 0x4A0000),
          (0x4A0010, 0x4C0000), (0x540000, 0x600000), (0x600200, 0x600400), (0x600A04, 0x620000), (0x620014, 0x640000),
          (0x64001C, 0x660000), (0x660014, 0x661000), (0x663080, 0x680000), (0x680800, 0x6A0000), (0x6A0014, 0x6C0000),
          (0x6C0010, 0x1000000)],
        ∀ a, p.1 ≤ a → a < p.2 → a % 4 = 0 → exec (.readClears who a) s = .next (s.respond 0))
  ∧ (
    ∀ (who : Accessor) (addr : Nat) (s : State), s.portActs = true →
      let a := wordAddr addr
      s.mayRead who a = true → a ∉ [0x300214, 0x300218, 0x600A00, 0x620010, 0x640014, 0x660004, 0x6A000C, 0x6A0010, 0x6C0008, 0x6C000C] →
      ¬ (0x300300 ≤ a ∧ a < 0x300340 ∧ a % 8 = 4) → ¬ (0x300380 ≤ a ∧ a < 0x300390) → ¬ (0x600000 ≤ a ∧ a < 0x600200 ∧ a % 32 = 4) →
      ¬ (0x600400 ≤ a ∧ a < 0x600800 ∧ a % 32 = 8) → ¬ (0x600800 ≤ a ∧ a < 0x600A00 ∧ a % 32 = 4) →
      (∀ c, chanAt a = some c → a % 256 ≠ 0x90) → exec (.readClears who addr) s = .next (s.respond (s.readValue who a)))
  ∧ (
    (∀ (who : Accessor) (n : Nat) (s : State), s.portActs = true → who.priv = true → n < 8 →
      exec (.readClears who (0x300304 + 8 * n)) s = .next ((s.onPort n fun p => { p with late := 0, tmo := 0, pois := 0, bus := 0 }).respond
        (s.readValue who (0x300304 + 8 * n))))
    ∧ (∀ (who : Accessor) (a : Nat) (s : State), s.blk.rpReset = false → s.blk.mode = .containment → s.mayRead who (wordAddr a) = true →
      exec (.readClears who a) s = .next (s.respond (s.readValue who (wordAddr a))))
    ∧ ∀ (who : Accessor) (a : Nat) (s : State), s.blk.rpReset = false → s.mayRead who (wordAddr a) = false →
      (s.portActs = true → exec (.readRefused who a) s = .next ((s.violation 0x0503 uidRp (s.accPart who) (ringAt (wordAddr a)) false
        (wordAddr a) who.fid).respond 0xFFFFFFFF))
      ∧ (s.portActs = false → exec (.readRefused who a) s = .next (s.respond 0xFFFFFFFF)))

/-- IRQ_PEND_CLEAR clears the pending bit of every ring of the word whose bit is 1 in the value and that the accessor's
partition owns, of every such ring for a privileged access, and changes nothing else of any ring (R438, R439). FREEZE_NOW
freezes the grant log at once; FROZEN_CLEAR lets it take entries again; neither touches an entry, a grant or a counter
(R431). Each has its response.
IRQ_TEST issues one message for the function and vector, under the rules of R392 that none is held twice and none for
a function in its reset, and sets no pending bit; it is ignored where the function is bound to no partition or the vector
lies outside its partition's range. The response follows (R387, R392, R437).
In lifecycle FACTORY, in a live block, TEST_PATTERN_ENABLE empties the buffer, starts the pattern at block 0 of the
seed and leaves no instance seeded; TEST_PATTERN_DISABLE returns to the source, with the buffer empty and no instance
seeded; a change of the enable writes record 0x0607, no other command of the two does; in every other lifecycle neither
has an effect. Each has its response (R265, R387). -/
def Obligations.RegisterCommandResults : Prop :=
  (
    (∀ (who : Accessor) (w : Nat) (v : W32) (s : State), s.portActs = true → w < 4096 →
      (who.priv = true ∨ (s.partOfFid who.fid).isSome = true) →
      ∃ t : State, exec (.irqPendClear who w v) s = .next (t.respond 0) ∧ { t with rng := s.rng } = s ∧ t.rng.reqs = s.rng.reqs
        ∧ ∀ r, t.ring r = { s.ring r with
            pend := (s.ring r).pend && !(decide (r / 32 = w) && v.getLsbD (r % 32)
              && (who.priv || s.partOfFid who.fid == some (s.ring r).owner)) })
    ∧ ∀ (who : Accessor) (s : State), s.portActs = true → who.priv = true →
      exec (.freezeNow who) s = .next ((s.onGlog fun g => { g with frozen := true, counting := none }).respond 0)
      ∧ exec (.frozenClear who) s = .next ((s.onGlog fun g => { g with frozen := false }).respond 0))
  ∧ (
    ∀ (who : Accessor) (v : W32) (s : State), s.portActs = true → who.priv = true →
      let fid := v.toNat % 1024
      let vec := v.toNat / 65536 % 2048
      (∀ p x, s.partOfFid fid = some p → s.part p = some x →
        exec (.irqTest who v) s = .next (State.respond (
          if x.entry.vecBase ≤ vec ∧ vec < x.entry.vecBase + x.entry.vecCount ∧ s.flrOn fid = false ∧ ⟨fid, vec⟩ ∉ s.io.msgs then
            s.onIo fun i => { i with msgs := i.msgs ++ [⟨fid, vec⟩] }
          else s) 0))
      ∧ (s.partOfFid fid = none → exec (.irqTest who v) s = .next (s.respond 0)))
  ∧ (
    ∀ (who : Accessor) (s : State), s.portActs = true → who.priv = true →
      (s.blk.lifecycle = lcFactory →
        (∃ t : State, exec (.testPatternEnable who) s = .next (t.respond 0) ∧ t.ent.testEn = true ∧ t.ent.patSeed = s.ent.testSeed
          ∧ t.ent.patCount = 0 ∧ t.ent.buffer = [] ∧ t.latched = s.latched ∧ (∀ x ∈ t.ent.insts, x.2.st ≠ .seeded)
          ∧ t = { (if s.ent.testEn then s else s.log 0x0607 uidScn noPart) with ent := t.ent })
        ∧ (∃ t : State, exec (.testPatternDisable who) s = .next (t.respond 0) ∧ t.ent.testEn = false ∧ t.ent.buffer = []
          ∧ (∀ x ∈ t.ent.insts, x.2.st ≠ .seeded)
          ∧ t = { (if s.ent.testEn then s.log 0x0607 uidScn noPart else s) with ent := t.ent }))
      ∧ (s.blk.lifecycle ≠ lcFactory → exec (.testPatternEnable who) s = .next (s.respond 0)
        ∧ exec (.testPatternDisable who) s = .next (s.respond 0)))

/-! ### Ring commands -/

/-- RING_FETCH and HEADER_REREAD with a header that is read, a tag being free for each access: sub_head moves past the
header and its further entries, modulo N, the packet is counted, a failure of earlier reads is over, and the request that the
header begins, named by its index, or goes on with has a link with the header's index, fetched in this tick; with a header that cannot be read sub_head and the
requests stay and the ring waits to read it again (R36, R45, R272, R278). RING_CONTEXT_MISS with a context that is read
brings it into the cache, with one that cannot be read the ring stays as it is (R35). -/
def Obligations.FetchResults : Prop :=
  (∀ (r : Nat) (f : FetchReads) (b : Bytes) (s : State), s.mayFetch r = true → f.header = .ok b →
    let x := s.ring r
    let hb := ansBytes (.ok b) (entryBytes x.attr.fmt)
    let n := if x.attr.fmt = 1 then f1Entries hb else f2Slots hb
    let rd := s.ringReader x.owner (some (s.fetchId r))
    let goal (t : State) : Prop := (t.ring r).subHead = (x.subHead + 1 + n) % (2 * 2 ^ x.attr.log2)
      ∧ (t.ring r).submitted = x.submitted + 1 ∧ (t.ring r).hdrFail = none
      ∧ ∃ q ∈ t.rng.reqs, q.ring = r ∧ q.idx = (s.fetchId r).idx ∧ ∃ l ∈ q.links, l.subIdx = x.subHead ∧ l.fetchTick = s.sch.tick
    s.canRead rd (x.entryExts x.subHead 1) = true → s.canRead rd (x.entryExts (x.subHead + 1) n) = true →
    (x.hdrFail = none → ∃ t, exec (.ringFetch r f) s = .next t ∧ goal t)
    ∧ (x.hdrFail.isSome = true → x.hdrTick ≠ s.sch.tick → ∃ t, exec (.headerReread r f) s = .next t ∧ goal t))
  ∧ (∀ (r : Nat) (f : FetchReads) (s : State), s.mayFetch r = true → (∀ b, f.header ≠ .ok b) →
    let x := s.ring r
    let rd := s.ringReader x.owner (some (s.fetchId r))
    let goal (t : State) : Prop := (t.ring r).subHead = x.subHead ∧ (t.ring r).hdrTick = s.sch.tick
      ∧ (t.ring r).hdrFail = some (x.hdrFail.getD s.sch.tick) ∧ t.rng.reqs = s.rng.reqs
    s.canRead rd (x.entryExts x.subHead 1) = true →
    (x.hdrFail = none → ∃ t, exec (.ringFetch r f) s = .next t ∧ goal t)
    ∧ (x.hdrFail.isSome = true → x.hdrTick ≠ s.sch.tick → ∃ t, exec (.headerReread r f) s = .next t ∧ goal t))
  ∧ ∀ (r : Nat) (a : ReadAnswer) (s : State), s.serving = true → (s.ring r).st ≠ .closed → (s.ring r).cached = false →
    s.canRead (s.vaultReader (s.ring r).owner none) [(s.key.base + ringCtxBase + 256 * r, 256)] = true →
    ((∃ b, a = .ok b) → ∃ t, exec (.ringContextMiss r a) s = .next t ∧ t.ring r = { s.ring r with cached := true })
    ∧ ((∀ b, a ≠ .ok b) → ∃ t, exec (.ringContextMiss r a) s = .next t ∧ t.rng = s.rng)

/-- CHAIN_INCOMPLETE of a request that is open for 1,024 ticks, with no header to fetch: its last fetched link completes
MALFORMED, detail CHAIN_INCOMPLETE, the others CHAIN_ABANDONED with the last one's number (R85). CQ_STALL after 256 ticks
sets cq_stall, with violation 0x0504, and counts 256 ticks more to the next (R48). GATHER_LIST_READ of a link with a
list, source or destination, a tag being free: a list that fails its read by a bus error ends the link BUS_ERROR with detail
LIST, a poisoned one POISONED_INPUT with that detail, and one timed out is noted for the coming cut; a bad element ends it
MALFORMED, or one of the wrong length LENGTH_MISMATCH, as the check of R75 finds; lists that pass give the link their elements
(R74, R75, R90, R91, R274 to R277). -/
def Obligations.RingStageResults : Prop :=
  (
    (∀ (r : Nat) (q : Req) (o : Nat) (s : State), s.serving = true → ((s.ring r).hasHeader = false ∨ (s.ring r).st ≠ .active) → q.ring = r →
      s.rng.reqs.find? (fun q => q.ring == r && q.openSince.isSome) = some q → s.req r q.idx = some q → q.openSince = some o →
      1024 ≤ modSub s.sch.tick o (2 ^ 32) → q.abort = .none →
      ∃ t, exec (.chainIncomplete r) s = .next t ∧ ∀ k l, q.links[k]? = some l → l.recorded = false →
        ∃ q' l', t.link ⟨r, q.idx, k⟩ = some (q', l')
          ∧ l'.stat = some (if k = q.links.length - 1 then ⟨0x60, 15⟩ else ⟨0x71, q.links.length - 1⟩))
    ∧ ∀ (r : Nat) (s : State), s.serving = true → 256 ≤ (s.ring r).stallTicks →
      exec (.cqStall r) s = .next ((s.onRing r fun x => { x with cqStall := true, stallTicks := x.stallTicks - 256 }).violation
        0x0504 uidSched (s.ring r).owner (some r) true 0 (s.fidOf (s.ring r).owner)))
  ∧ (
    ∀ (id : LinkId) (src dst : ReadAnswer) (q : Req) (l : Link) (s : State), s.serving = true → s.link id = some (q, l) → l.stat = none →
      l.timedOut = false → l.listsDone = false → q.openSince = none → q.abort = .none → tagRead l.hdr.opcode = false →
      let h := l.hdr
      let exts (n a : Nat) := if isList n then [(a, 16 * n)] else []
      s.canRead (s.ringReader q.part (some id)) (exts h.srcGather h.src ++ exts h.dstGather h.dst) = true →
      let elems (n : Nat) (b : Bytes) := if isList n then readElems n (ansBytes (.ok b) (16 * n)) else []
      let ends (src dst : ReadAnswer) (st : Stat) : Prop :=
        ∃ t q' l', exec (.gatherListRead id src dst) s = .next t ∧ t.link id = some (q', l') ∧ l'.stat = some st
      (isList h.srcGather = true → (∃ c o, src = .busError c o) → (isList h.dstGather = false ∨ ∃ b, dst = .ok b) → ends src dst ⟨0x40, 3⟩)
      ∧ (isList h.dstGather = true → (∃ c o, dst = .busError c o) → (isList h.srcGather = false ∨ ∃ b, src = .ok b) → ends src dst ⟨0x40, 3⟩)
      ∧ (isList h.dstGather = true → (∃ c b o, dst = .poisoned c b o) → (isList h.srcGather = false ∨ ∃ b, src = .ok b) →
        ends src dst ⟨0x41, 3⟩)
      ∧ (isList h.srcGather = true → (∃ c o, src = .timeout c o) → (isList h.dstGather = false ∨ ∃ b, dst = .ok b) →
        ∃ t q' l', exec (.gatherListRead id src dst) s = .next t ∧ t.link id = some (q', l') ∧ l'.stat = none ∧ l'.timedOut = true
          ∧ l'.err = some (l.err.getD ⟨0x42, 3⟩))
      ∧ ∀ b d, src = .ok b → dst = .ok d →
        (∀ st, listCheck h (elems h.srcGather b) (elems h.dstGather d) = some st → ends src dst st)
        ∧ (listCheck h (elems h.srcGather b) (elems h.dstGather d) = none → ∃ t q', exec (.gatherListRead id src dst) s = .next t
          ∧ t.link id = some (q', { l with srcElems := (elems h.srcGather b).map (·.1), dstElems := (elems h.dstGather d).map (·.1)
                                           listsDone := true })
          ∧ t.rng.rings = s.rng.rings ∧ t.key = s.key))

/-- COMPLETION_RECORD_WRITE on a memory ring: the record of the next ready link goes to slot W mod D, as R86 and R96 lay
it out with phase by R50, the link has its record and W goes on modulo N; on a stream ring it goes into an output frame
of the paired port, in front (R47, R50, R86, R96, R302, R303). -/
def Obligations.RecordWriteResult : Prop :=
  ∀ (r k : Nat) (q : Req) (l : Link) (st : Stat) (s : State), s.serving = true → s.nextRecord r = some (q, k) →
    q.links[k]? = some l → l.stat = some st → s.link (q.linkId k) = some (q, l) → q.ring = r →
    s.silentFid (s.fidOf q.part) = false → (s.ring r).recFail = none →
    let x := s.ring r
    let d := 2 ^ x.attr.log2
    let rec' : Record :=
      { fmt := x.attr.fmt, stat := st, retried := l.retried, link := k, more := !(k + 1 == q.links.length && q.openSince.isNone)
        phase := x.wIdx / d % 2 == 0, tag := l.hdr.tag, entry := l.subIdx % d, bytes := if st.code ≤ 1 then l.bytesOut else 0
        w45 := l.w45, tick := s.sch.tick }
    let goal (t : State) : Prop := (t.ring r).wIdx = (x.wIdx + 1) % (2 * d) ∧ ∃ q' l', t.link (q.linkId k) = some (q', l') ∧ l'.recorded = true
    let addr := x.attr.cqBase + 32 * (x.wIdx % d)
    (x.attr.stream = false → x.attr.cqBase % 32 = 0 → s.writeFree addr (s.fidOf q.part) = true →
      ∃ t, exec (.completionRecordWrite r) s = .next t ∧ goal t
        ∧ ∃ w ∈ t.writes, w.addr = addr ∧ w.data = rec'.encode ∧ w.purpose = .record (q.linkId k) l.hdr.irq)
    ∧ (x.attr.stream = true → x.attr.pair < s.mov.streams.length →
      ∃ t f, exec (.completionRecordWrite r) s = .next t ∧ goal t ∧ (t.stream x.attr.pair).out = (s.stream x.attr.pair).out ++ [f]
        ∧ f.data.take 32 = rec'.encode)

/-- RECORD_WRITE_RETRY, once in a tick: the first of a ring's failed record writes that is not done, in the order of its slots,
is issued again where it is not outstanding, and no other; while an Ephemeris record about its request is on its way none is
(R281, R300). IRQ_TICKS_TRIGGER signals the ring: its pending bit is set, its counts begin anew, and
outside a reset of its function the message stands (R51, R438). INTERRUPT_MESSAGE issues the oldest message of a function
whose bus master enable is set and that is not in its reset (R297, R392). -/
def Obligations.RecordRetryAndInterrupts : Prop :=
  (∀ (r : Nat) (s : State), s.serving = true → (s.ring r).recFail.isSome = true → (s.ring r).recTick ≠ s.sch.tick →
    s.silentFid (s.fidOf (s.ring r).owner) = false →
    let t := s.onRing r fun x => { x with recTick := s.sch.tick }
    let failed := s.writes.filter fun w => isRecord r w.purpose && (w.held || w.again) && !w.given
    (∀ v, minBy (s.ring r).slotAge failed = some v →
      (s.recordWaits v = true → exec (.recordWriteRetry r) s = .next s)
      ∧ (s.recordWaits v = false → v.held = false → exec (.recordWriteRetry r) s = .next t)
      ∧ (s.recordWaits v = false → v.held = true → exec (.recordWriteRetry r) s
        = .next ((t.onWrites fun w => some (if w == v then w.recordAgain s.sch.tick else w)).pump)))
    ∧ (failed = [] → exec (.recordWriteRetry r) s = .next t))
  ∧ (∀ (r n : Nat) (s : State), s.live = true → (s.ring r).irqAge = some n → (s.ring r).attr.irqTicks ≠ 0 →
    (s.ring r).attr.irqTicks ≤ n → (s.ring r).st ≠ .closed →
    ∃ t, exec (.irqTicksTrigger r) s = .next t ∧ t.ring r = { s.ring r with pend := true, sinceIrq := 0, irqAge := none }
      ∧ (s.flrOn (s.fidOf (s.ring r).owner) = false → ⟨s.fidOf (s.ring r).owner, (s.ring r).attr.vector⟩ ∈ t.io.msgs))
  ∧ ∀ (fid : Nat) (m : IrqMsg) (s : State), s.live = true → s.io.msgs.find? (fun m => m.fid == fid) = some m →
    s.bmeOf fid = true → s.flrOn fid = false →
    exec (.interruptMessage fid) s = .next (s.onIo fun i => { i with msgs := i.msgs.filter fun n => n != m, lastIrq := some m })

/-- RING_DRAIN_COMPLETE of a DRAINING ring without a request, its message's thread running: the ring is CLOSED and keeps
nothing, and the reply to the closing message gives the final sub_head (R40, R42). RING_OPEN_COMPLETE, its message's
thread running: an OPENING ring is ACTIVE with the attributes given, every index, count and history clear, its pending bit as
it was, and the reply gives its number and its old sub_head (R40, R61, R422, R438). -/
def Obligations.RingOpenAndClose : Prop :=
  (∀ (r c : Nat) (s : State), s.live = true → s.paused = false → s.carried (.message c) = true → (s.ring r).st = .draining →
    s.ringBusy r = false → (s.ring r).closeCh = some c → (s.chan c).st = .busy →
    exec (.ringDrainComplete r) s = .next ((s.onChan c fun m => { m with
      reply := some [0, BitVec.ofNat 32 (if (s.ring r).attr.stream then (s.ring r).frameIdx else (s.ring r).subHead)] }).onRng
      fun t => { t with rings := mdel t.rings r }))
  ∧ ∀ (r c : Nat) (a : Attr) (s : State), s.live = true → s.paused = false → s.carried (.message c) = true →
    (s.ring r).st = .opening → (s.ring r).openCh = some c → (s.ring r).next = some a → s.ringBusy r = false →
    (s.chan c).st = .busy →
    ∃ t, exec (.ringOpenComplete r) s = .next t
      ∧ t.ring r = { st := .active, owner := (s.ring r).owner, attr := a, cached := true, pend := (s.ring r).pend }
      ∧ (t.chan c).reply = some [0, BitVec.ofNat 32 r, BitVec.ofNat 32 (s.ring r).lastHead]

/-! ### Requests -/

/-- NOP completes OK with no data, with FENCE_BEFORE once the ring is clear before it; FENCE once the ring, or the
partition, is clear before it (R21, R64, R81, R304). Each leaves the link its status and moves no byte. -/
def Obligations.BareRequests : Prop :=
  ∀ (id : LinkId) (q : Req) (l : Link) (s : State), s.link id = some (q, l) → s.bareOk q l = true → l.err = none →
    l.retried = false → l.hdr.bufDst = false →
    let goal (c : Instr) : Prop := ∃ t q' l', exec c s = .next t ∧ t.link id = some (q', l') ∧ l'.stat = some ⟨0, 0⟩
      ∧ t.writes = s.writes ∧ t.key = s.key
    (l.hdr.opcode = opNop → (l.hdr.fence = false ∨ s.ringClear q = true) → goal (.nop id))
    ∧ (l.hdr.opcode = opFence → l.hdr.subop = 0 → s.ringClear q = true → goal (.fenceRing id))
    ∧ (l.hdr.opcode = opFence → l.hdr.subop = 1 → s.partClear q = true → goal (.fencePartition id))

/-- A request command runs the grant that was issued for its link at the last boundary, and the grant runs no more:
AEAD_SEAL, AEAD_OPEN, CIPHER_ENC, CIPHER_DEC, GMAC_GEN, GMAC_VERIFY, DIGEST, HMAC_GEN, HMAC_VERIFY, COPY and PK_JOB, where no
word of a leader waits for its comparison (R100, R222). Where the grant is not the link's last segment on a lane, the link goes on at the next position with the context
that the segment leaves (R126, R150); where it is not the last of a message on an engine, at the next position (R192);
where it is not the last element of a job nor the one that finds it invalid, at the next element (R205). -/
def Obligations.GrantRuns : Prop :=
  ∀ (id : LinkId) (c : Instr) (q : Req) (l : Link) (g : Grant) (s : State), s.serving = true → s.link id = some (q, l) →
    s.runningOf id = some g → g.id = id → g.follow = false → l.stat = none → l.retryUsed = false →
    (∀ w ∈ s.dat.compare, w.id ≠ id) → (l.hdr.opcode, c) ∈ [(opSeal, Instr.aeadSeal id), (opOpen, .aeadOpen id), (opEnc, .cipherEnc id), (opDec, .cipherDec id),
      (opGmacGen, .gmacGen id), (opGmacVer, .gmacVerify id), (opDigest, .digest id), (opHmacGen, .hmacGen id),
      (opHmacVer, .hmacVerify id), (opCopy, .copy id), (opPk, .pkJob id)] →
    (∃ t, exec c s = .next t ∧ ∀ h ∈ t.sch.running, h.id ≠ id)
    ∧ ∀ n, (g.unit = .lane n → g.zero = false → g.last = false → isLane l.hdr.opcode = true →
        ∃ t q' l', exec c s = .next t ∧ t.link id = some (q', l') ∧ l'.stat = none ∧ l'.pos = l.pos + g.len ∧ l'.seg = l.seg + 1
          ∧ l'.ctx = some { (laneSeg l.hdr (s.linkKey l) l.iv (l.ctx.getD (initCtx l.hdr (s.linkKey l) l.iv)) l.pos
            (l.srcSlice l.pos g.len) false).ctx with spilled := none })
      ∧ (g.unit = .engine n → g.last = false → l.absDone = false → isDigest l.hdr.opcode = true → l.job = none →
        ∃ t q' l', exec c s = .next t ∧ t.link id = some (q', l') ∧ l'.stat = none ∧ l'.pos = l.pos + g.len ∧ l'.seg = l.seg + 1)
      ∧ ∀ j, g.unit = .macu n → l.hdr.opcode = opPk → l.job = some j → j.elemNo + 1 < j.elems.length → j.elemNo + 1 ≠ j.valid →
        ∃ t q' l' j', exec c s = .next t ∧ t.link id = some (q', l') ∧ l'.stat = none ∧ l'.job = some j' ∧ j'.elemNo = j.elemNo + 1

/-- A lane command whose source fits in one segment, with nothing failed before and nothing of its output on the way: CIPHER_ENC,
CIPHER_DEC and COPY put out the bytes that the segment computes, each at its place, and complete OK; GMAC_GEN puts out the tag and completes OK, GMAC_VERIFY compares it and
completes OK or AUTH_FAIL with detail GMAC; AEAD_OPEN puts out its whole output on a match of the tag and completes OK,
on a mismatch it writes no byte and completes AUTH_FAIL with detail TAG; AEAD_SEAL completes OK with its output and the
tag behind it where its destination is inline, else it puts out the output, and the tag behind it once the writes of it are
done (R77, R87, R126, R132, R146, R147, R149, R270); its bytes in memory are stated for a destination without a gather list. -/
def Obligations.LaneOneSegment : Prop :=
  ∀ (id : LinkId) (q : Req) (l : Link) (g : Grant) (n : Nat) (s : State), s.serving = true → s.link id = some (q, l) →
    s.runningOf id = some g → g.id = id → g.unit = .lane n → g.follow = false → g.last = true → g.zero = false → l.pos = 0 →
    l.stat = none → l.err = none → l.retried = false → l.retryUsed = false → l.poisoned = [] → l.hdr.bufDst = false →
    s.outIdle id l = true → (∀ w ∈ s.dat.compare, w.id ≠ id) →
    let key := s.linkKey l
    let o := laneSeg l.hdr key l.iv (l.ctx.getD (initCtx l.hdr key l.iv)) 0 (l.srcSlice 0 g.len) true
    let good := l.srcSlice l.hdr.cover l.hdr.tagLen = o.tag
    let ends (c : Instr) (st : Stat) (put : Bytes) : Prop := ∃ t q' l', exec c s = .next t ∧ t.link id = some (q', l')
      ∧ l'.stat = some st ∧ (st.code = 0 → s.gaveOut t id l l' put) ∧ (st.code ≠ 0 → l'.output = [] ∧ t.writes = s.writes)
    (l.hdr.opcode = opEnc → ends (.cipherEnc id) ⟨0, 0⟩ o.out)
    ∧ (l.hdr.opcode = opDec → ends (.cipherDec id) ⟨0, 0⟩ o.out)
    ∧ (l.hdr.opcode = opCopy → ends (.copy id) ⟨0, 0⟩ o.out)
    ∧ (l.hdr.opcode = opGmacGen → ends (.gmacGen id) ⟨0, 0⟩ o.tag)
    ∧ (l.hdr.opcode = opGmacVer → ends (.gmacVerify id) (if good then ⟨0, 0⟩ else ⟨0x10, 3⟩) [])
    ∧ (l.hdr.opcode = opOpen → ends (.aeadOpen id) (if good then ⟨0, 0⟩ else ⟨0x10, 1⟩) o.out)
    ∧ (l.hdr.opcode = opSeal → s.inlineDst l id = true → ends (.aeadSeal id) ⟨0, 0⟩ (o.out ++ o.tag))
    ∧ (l.hdr.opcode = opSeal → s.inlineDst l id = false → ∃ t q' l', exec (.aeadSeal id) s = .next t ∧ t.link id = some (q', l')
      ∧ ((l'.stat = none ∧ l'.tagDue = some o.tag ∧ l'.outPos = l.outPos + o.out.length
          ∧ (l.hdr.dstGather = 0 → t.putsOut id (outPieces l.dstList 0 l.outPos l.outPos o.out)))
        ∨ (l'.stat = some ⟨0, 0⟩ ∧ l'.outPos = l.outPos + o.out.length + o.tag.length
          ∧ (l.hdr.dstGather = 0 → t.putsOut id (outPieces l.dstList 0 l.outPos l.outPos o.out
            ++ outPieces l.dstList 0 (l.outPos + o.out.length) (l.outPos + o.out.length) o.tag)))))

/-- The last absorbing grant of a digest message with nothing failed before and nothing of its output on the way: DIGEST of a
fixed length puts out the bytes of the hash of the whole source and completes OK, HMAC_GEN those of its tag, and HMAC_VERIFY compares the tag and completes OK or AUTH_FAIL
with detail HMAC (R187, R189, R190). The last element of a PK_JOB that makes no key, of a job not found invalid: the
bytes of the job's result are put out where it is good, and the request completes with its status (R205, R218); padding bytes that the
job draws apart are a free value (log 6). The last element of a job that generates an ML key pair puts out the public key, and keeps
the private one for the Vault writes, which end the request (R176, R218, R225). -/
def Obligations.MessageAndJobEnd : Prop :=
  ∀ (id : LinkId) (q : Req) (l : Link) (g : Grant) (n : Nat) (s : State), s.serving = true → s.link id = some (q, l) →
    s.runningOf id = some g → g.id = id → g.follow = false → l.stat = none → l.err = none → l.retried = false →
    l.retryUsed = false → l.poisoned = [] → l.hdr.bufDst = false → l.outPos = 0 →
    s.outIdle id l = true → (∀ w ∈ s.dat.compare, w.id ≠ id) →
    let ends (c : Instr) (st : Stat) (put : Bytes) : Prop := ∃ t q' l', exec c s = .next t ∧ t.link id = some (q', l')
      ∧ l'.stat = some st ∧ (st.code = 0 → s.gaveOut t id l l' put)
    let msg := l.srcSlice 0 l.hdr.srcLen
    (g.unit = .engine n → l.job = none → l.absDone = false → g.last = true →
      (l.hdr.opcode = opDigest → l.hdr.subop < 0x21 → ends (.digest id) ⟨0, 0⟩ (hash l.hdr.subop msg (hashLen l.hdr.subop)))
      ∧ ∀ x, l.hloaded = some x →
        let tag := (hmacFrom l.hdr.subop x.1 x.2 msg).take l.hdr.tagBytes
        (l.hdr.opcode = opHmacGen → ends (.hmacGen id) ⟨0, 0⟩ tag)
        ∧ (l.hdr.opcode = opHmacVer → ends (.hmacVerify id)
          (if l.srcSlice l.hdr.srcLen l.hdr.tagBytes = tag then ⟨0, 0⟩ else ⟨0x10, 4⟩) []))
    ∧ (∀ j, g.unit = .macu n → l.hdr.opcode = opPk → isCreate l.hdr.opcode l.hdr.subop = false → l.job = some j →
      j.elemNo + 1 = j.elems.length → j.elemNo + 1 ≠ j.valid → (∀ k b, j.elems[j.elemNo]? ≠ some (.hash k b)) →
      ∃ free, ends (.pkJob id) (jobResult l (s.jobKey l j) j free).2.1 (jobResult l (s.jobKey l j) j free).1)
    ∧ ∀ j, g.unit = .macu n → l.hdr.opcode = opPk → isCreate l.hdr.opcode l.hdr.subop = true → l.job = some j →
      j.elemNo + 1 = j.elems.length → j.elemNo + 1 ≠ j.valid → (∀ k b, j.elems[j.elemNo]? ≠ some (.hash k b)) →
      ∃ free t q' l' j', exec (.pkJob id) s = .next t ∧ t.link id = some (q', l') ∧ l'.stat = none
        ∧ s.gaveOut t id l l' (jobResult l (s.jobKey l j) j free).1
        ∧ l'.job = some j' ∧ j'.elemNo = j.elems.length ∧ j'.extRec = (jobResult l (s.jobKey l j) j free).2.2

/-- An item of a DRBG core that finds a clock and the blocks it needs is placed with the bytes that its function returns over
the instance, which stands after it as that function leaves it: a generate that needs no reseed those of the generate function
from the instance's own key and V, one of a prediction-resistant instance those after a reseed with the next block (R254,
R256, R262). RANDOM and RESEED, in the tick of their item's last clock: the bytes of RANDOM's item are put out and it
completes OK; RESEED completes OK; the item is off its core (R254, R262). DRBG_ITEM_DONE ends the first due item of a core:
an instantiation leaves its instance SEEDED, a draw gives its link the bytes (R177, R255, R262). -/
def Obligations.RandomResults : Prop :=
  (∀ (p : DPlan) (t : Nat) (x : Item) (c : Nat), p.core false = c → c < p.s.ent.cores.length → 0 < p.room.getD c 0 →
    let y := p.s.inst x.inst
    let done (out : Bytes) (kv : KV) : Prop := (p.place t x false).2 = .done
      ∧ (∃ d z, (p.place t x false).1.s.ent.cores[c]? = some d ∧ d.items.getLast? = some z ∧ z.kind = x.kind ∧ z.inst = x.inst
        ∧ z.who = x.who ∧ z.out = out)
      ∧ (((p.place t x false).1.s.inst x.inst).key, ((p.place t x false).1.s.inst x.inst).v) = kv
    (x.kind = .generate → y.calls < p.s.interval x.inst →
      done (drbgGenerate (y.key, y.v) x.add x.n).1 (drbgGenerate (y.key, y.v) x.add x.n).2)
    ∧ ∀ b l, x.kind = .prGenerate → p.s.ent.buffer = b :: l →
      done (drbgGenerate (drbgReseed (y.key, y.v) b x.add) [] x.n).1 (drbgGenerate (drbgReseed (y.key, y.v) b x.add) [] x.n).2
        ∧ (p.place t x false).1.s.ent.buffer = l)
  ∧ (∀ (id : LinkId) (q : Req) (l : Link) (d e : DCore) (x : Item) (s : State), s.serving = true → s.link id = some (q, l) →
    l.stat = none → l.err = none → l.retried = false → l.hdr.bufDst = false → l.healed = [] → l.poisoned = [] → s.outIdle id l = true →
    s.ent.cores = [d, e] →
    (d.items.find? fun x => x.who == some id && (match x.last with | some k => k == s.sch.tick | none => false)) = some x →
    (e.items.find? fun x => x.who == some id && (match x.last with | some k => k == s.sch.tick | none => false)) = none →
    (l.hdr.opcode = opRandom → (x.kind = .generate ∨ x.kind = .prGenerate) →
      ∃ t q' l', exec (.random id) s = .next t ∧ t.link id = some (q', l') ∧ l'.stat = some ⟨0, 0⟩
        ∧ s.gaveOut t id l l' x.out ∧ t.ent.cores = [{ d with items := d.items.erase x }, e])
    ∧ (l.hdr.opcode = opReseed → x.kind = .reseed →
      ∃ t q' l', exec (.reseed id) s = .next t ∧ t.link id = some (q', l') ∧ l'.stat = some ⟨0, 0⟩ ∧ l'.outPos = l.outPos
        ∧ t.ent.cores = [{ d with items := d.items.erase x }, e]))
  ∧ ∀ (c : Nat) (d : DCore) (x : Item) (s : State), s.ticking = true → s.ent.cores[c]? = some d → d.due s.sch.tick = some x →
    let off := s.onEnt fun e => { e with cores := updAt e.cores c fun d => { d with items := d.items.erase x } }
    exec (.drbgItemDone c) s = .next (off.itemDone x)
    ∧ (x.kind = .instantiate → ∃ t, exec (.drbgItemDone c) s = .next t ∧ (t.inst x.inst).st = .seeded
      ∧ t.ent.cores[c]? = some { d with items := d.items.erase x })
    ∧ (x.kind = .uninstantiate ∨ x.kind = .ahead → exec (.drbgItemDone c) s = .next off)
    ∧ ∀ id q l, x.kind = .generate → x.who = some id → s.link id = some (q, l) → l.stat = none → l.hdr.opcode ≠ opRandom →
      ∃ t q', exec (.drbgItemDone c) s = .next t ∧ t.link id = some (q', { l with drawn := drawTake l.hdr l.drawn x.out })
        ∧ t.ent.cores[c]? = some { d with items := d.items.erase x }

/-! ### Keys -/

/-- KEY_STAGING of a link whose handle names another partition completes KEY_FOREIGN with detail 1, of one whose
generation differs with detail 2; of one whose key stands in the cache, fits its use and needs nothing more, the link
holds the slot and is staged, unless a reservation write of the staging is outstanding (R162, R170, R171, R183).
LEDGER_RESERVATION_ACK once the page's write is done: in use the acknowledged value rises to the one written; at staging
the links that wait are staged too; after eviction the slot is gone. LEDGER_WRITE_RETRY repeats a failed write once, at a
later tick, and writes nothing of a generation that has passed (R162, R183). -/
def Obligations.KeyStagingAndLedger : Prop :=
  (
    ∀ (id : LinkId) (r : VaultReads) (q : Req) (l : Link) (p : Part) (s : State), s.serving = true → s.link id = some (q, l) →
      s.part q.part = some p → l.stat = none → l.timedOut = false → l.staged = false → l.keySlot = none → l.listsDone = true →
      q.openSince = none → q.abort = .none → s.stageReads q l = true →
      let ends (st : Stat) : Prop := ∃ t q' l', exec (.keyStaging id r) s = .next t ∧ t.link id = some (q', l') ∧ l'.stat = some st
      (l.hdr.keyPart ≠ q.part → ends ⟨0x33, 1⟩)
      ∧ (l.hdr.keyPart = q.part → l.hdr.keyGen ≠ p.gen → ends ⟨0x33, 2⟩)
      ∧ ∀ x : KSlot, l.hdr.keyPart = q.part → l.hdr.f1GenBad = false → l.hdr.keyGen = p.gen → p.recWrite = none →
        (p.rot.any fun r => r.committed && r.stage == 0) = false →
        s.mustQueue q id.link l.hdr = false → usesKey l.hdr.opcode l.hdr.subop = true → isLane l.hdr.opcode = true →
        l.hdr.keyIndex ≠ 0 → l.hdr.keyIndex < p.entry.ctxSlots → s.retiring q.part l.hdr.keyIndex id = false →
        s.key.jobs = [] → s.slot (q.part, l.hdr.keyIndex, p.gen) = some x → x.unusable = false → (x.write.map (·.why)) ≠ some .evict →
        typeFits l.hdr (ctxType x.ctx) (ctxHash x.ctx) = true → operatingCheck l.hdr x.ctx x.next l.count.isSome = none →
        ∃ t q' l', exec (.keyStaging id r) s = .next t ∧ t.link id = some (q', l') ∧ l'.stat = none
          ∧ l'.keySlot = some (q.part, l.hdr.keyIndex, p.gen) ∧ l'.staged = ((x.write.map (·.why)) != some .staging))
  ∧ (
    ∀ (p i : Nat) (x : KSlot) (w : LedgerWrite) (s : State), s.live = true → s.writing p i = some (x, w) →
      let k := (x.part, x.index, x.gen)
      (w.failed = none → s.ledgerWaits p i = false → w.why = .use →
        exec (.ledgerReservationAck p i) s = .next (s.onSlot k fun x => { x with acked := w.value, write := none }))
      ∧ (w.failed = none → s.ledgerWaits p i = false → w.why = .staging →
        ∃ t, exec (.ledgerReservationAck p i) s = .next t
          ∧ t.key = (s.onSlot k fun x => { x with acked := w.value, write := none }).key
          ∧ ∀ q ∈ t.rng.reqs, ∀ l ∈ q.links, l.keySlot = some k → l.stat = none → l.staged = true)
      ∧ (w.failed = none → s.ledgerWaits p i = false → w.why = .evict →
        ∃ t, exec (.ledgerReservationAck p i) s = .next t ∧ t.slot k = none ∧ t.rng = s.rng)
      ∧ ∀ f, w.failed = some f → f ≠ s.sch.tick → w.again = false →
        ((s.part p).map (·.gen) = some x.gen → exec (.ledgerWriteRetry p i) s = .next ((s.ledgerWrite k w.why w.value (w.why == .evict)).onSlot k
          fun y => { y with write := some { w with failed := none, again := true } }))
        ∧ ((s.part p).map (·.gen) ≠ some x.gen → ∃ t, exec (.ledgerWriteRetry p i) s = .next t ∧ t.writes = s.writes
          ∧ (w.why = .evict → t.slot k = none)
          ∧ (w.why ≠ .evict → t = s.onSlot k fun y => { y with write := none })))

/-- KEY_GENERATE, KEY_IMPORT and KEY_DERIVE, and PK_JOB of a key-generation job, with their work run, their thread issuing and outside
the SWAP pause, begin the Vault writes of the new key at its index: what they write is the wrapped context of that key, and the wrapped
extended record where its type needs one (R165, R168, R169, R176 to R179; the record_id a free value, log 6); a failure found before
ends them with nothing written. Once the writes of a step are done, outside the SWAP pause, the next step is begun, and after the last
the request completes OK; a step that failed twice completes it BUS_ERROR with detail VAULT (R176, R180).
KEY_RETIRE of a key that no other request holds and whose value is not being written wipes its slot and begins its Vault
writes, or with page 0 failing its tag completes KEY_INVALID (R180, R181). -/
def Obligations.KeyCreationAndRetirement : Prop :=
  (∀ (id : LinkId) (q : Req) (l : Link) (s : State), s.oryServing = true → s.carried (.request id) = true →
    s.link id = some (q, l) → l.stat = none → l.jobReady q.part = true → (s.key.jobs.any fun v => v.id == id) = false → q.abort = .none →
    (∀ x ∈ [(opGenerate, Instr.keyGenerate id), (opImport, Instr.keyImport id), (opDerive, Instr.keyDerive id), (opPk, .pkJob id)],
      l.hdr.opcode = x.1 → isCreate l.hdr.opcode l.hdr.subop = true → s.linkWaits id = false → l.timedOut = false →
      (x.1 = opPk → s.runningOf id = none) →
      (l.err = none → ∀ j, l.job = some j → ∃ t v n, exec x.2 s = .next t ∧ v ∈ t.key.jobs ∧ v.id = id ∧ v.part = q.part
        ∧ v.index = createIndex l.hdr ∧ v.retire = false
        ∧ (let g := ((s.part q.part).map (·.gen)).getD 0
          let k := s.newKey l j n
          v.ctx = kwpWrap (s.keysOf q.part).ctx (ctxPlain q.part g (createIndex l.hdr) k)
          ∧ v.ext = (if needsExt k.type then some (kwpWrap (s.keysOf q.part).ctx (extPlain q.part g (createIndex l.hdr) k)) else none)))
      ∧ ∀ st, l.err = some st → exec x.2 s = .next (s.endLink id st))
    ∧ ∀ k : Nat × Nat × Nat, l.hdr.opcode = opRetire → l.keySlot = some k →
      (∀ x ∈ s.allLinks, x.1 ≠ id → x.2.2.stat = none → x.2.2.keySlot ≠ some k) → (s.slot k).bind (·.write) = none →
      ((s.page q.part 0).bad = false → ∃ t v, exec (.keyRetire id) s = .next t ∧ t.slot k = none ∧ v ∈ t.key.jobs ∧ v.id = id
        ∧ v.part = k.1 ∧ v.index = k.2.1 ∧ v.retire = true)
      ∧ ((s.page q.part 0).bad = true → ∃ t q' l', exec (.keyRetire id) s = .next t ∧ t.link id = some (q', l')
        ∧ l'.stat = some ⟨0x30, 2⟩))
  ∧ ∀ (id : LinkId) (q : Req) (l : Link) (v : VJob) (s : State), s.writeWaits (isVaultWrite id) = false → s.paused = false →
    s.key.jobs.find? (fun v => v.id == id) = some v → s.link id = some (q, l) → l.stat = none → l.err = none → l.retried = false →
    l.hdr.bufDst = false →
    let ends (st : Stat) : Prop := (∀ w ∈ (s.vaultAnswered id).key.jobs, w.id ≠ id)
      ∧ ∃ q' l', (s.vaultAnswered id).link id = some (q', l') ∧ l'.stat = some st
    (v.bad = true → ends ⟨0x40, 4⟩)
    ∧ (v.bad = false → s.opWaits (.vault id) = false →
      ((v.step = 3 ∨ v.step = 5) → ends ⟨0, 0⟩)
      ∧ (v.step ≠ 3 → v.step ≠ 5 → s.vaultAnswered id = (s.onVJob id fun _ => { v with step := v.step + 1 }).vaultStep
        { v with step := v.step + 1 }))

/-- JOB_PREPARATION of a staged link in its preparation tick, its reads having their tags, a thread on a core that runs
and enough buffers being free: the link has a job on that thread with the lowest free buffers, which belong to the
thread, and the thread runs for it; a job that was stopped and wiped for a retry is prepared anew on the thread and the buffers
it has, from its first element on, the ticks charged to it kept (R206, R224, R231, R238, R307). JOB_WIPE of a job that has ended: nothing of it is left on any MACU nor
in its queues, its buffers are zero, and it is wiped (R224, R231). -/
def Obligations.JobResults : Prop :=
  (∀ (id : LinkId) (r : JobReads) (q : Req) (l : Link) (k : Nat) (s : State), s.oryServing = true → s.link id = some (q, l) →
    isOrrery l.hdr.opcode l.hdr.subop = true → l.stat = none → l.staged = true → l.job = none → s.prepTime l = true →
    q.abort = .none → s.prepReads q l = true → bufferCount l.hdr ≤ s.freeBuffers.length → s.freeThread = some k → s.coreRuns k = true →
    ∃ t q' l' j, exec (.jobPreparation id r) s = .next t ∧ t.link id = some (q', l') ∧ l'.job = some j ∧ j.thread = k
      ∧ j.buffers = s.freeBuffers.take (bufferCount l.hdr) ∧ (t.thread k).st = .running ∧ (t.thread k).work = .request id
      ∧ ∀ b ∈ j.buffers, mget t.ory.buffers b = some k)
  ∧ (∀ (id : LinkId) (r : JobReads) (q : Req) (l : Link) (j : Job) (s : State), s.oryServing = true → s.link id = some (q, l) →
    isOrrery l.hdr.opcode l.hdr.subop = true → l.stat = none → l.staged = true → l.job = some j → j.stale = true → s.prepTime l = true →
    q.abort = .none → s.prepReads q l = true → s.stoppedT j.thread = false → s.coreRuns j.thread = true →
    ∃ t q' l' j', exec (.jobPreparation id r) s = .next t ∧ t.link id = some (q', l') ∧ l'.job = some j' ∧ j'.thread = j.thread
      ∧ j'.buffers = j.buffers ∧ j'.stale = false ∧ j'.elemNo = 0 ∧ j'.charged = j.charged)
  ∧ ∀ (id : LinkId) (q : Req) (l : Link) (j : Job) (st : Stat) (s : State), s.live = true → s.link id = some (q, l) →
    l.job = some j → j.wiped = false → l.stat = some st → l.lastTick ≠ some s.sch.tick →
    (s.key.jobs.any fun v => v.id == id) = false → (s.sch.running.any fun g => g.id == id) = false →
    ∃ t q' l' j', exec (.jobWipe id) s = .next t ∧ t.link id = some (q', l') ∧ l'.job = some j' ∧ j'.wiped = true ∧ j'.buffers = []
      ∧ (∀ m ∈ t.dat.macus, some id ∉ m.regions ∧ m.batch ≠ some id ∧ ∀ w ∈ m.loadQ ++ m.storeQ, w.1 ≠ id)
      ∧ ∀ b ∈ j.buffers, ∀ i < 16384, mget t.ory.shmem (16384 * b + i) = none

/-! ### Stream ports -/

/-- Input: the eop beat of a frame in progress on a stream ring that is ACTIVE and bound to the port takes the ring's
next frame index (R43, R384); a first beat that finds its space begins a frame, and one that does not is held off (R285);
the next bytes join the frame below 16,384 (R384), 64 on every beat but the last (R383); a beat outside a frame is violation 0x0508
(R58). Each beat taken is counted. Output: the oldest frame leaves whole, in beats of 64 bytes with sop on the first, eop and the
count of valid bytes on the last (R382), its link's record done (R43, R386); a pause holds the next beat and is
counted; at 32 ticks it is a long pause with record 0x0807, and its end writes a second with its length (R286). -/
def Obligations.StreamPortResults : Prop :=
  (
    ∀ (n r : Nat) (data : Bytes) (s : State), s.serving = true → n < 4 → n < s.mov.streams.length →
      (∀ f, (s.stream n).inp = some f → (s.ring f.ring).st = .active → (s.ring f.ring).attr.stream = true →
        (s.ring f.ring).attr.pair = n → (s.partState (s.ring f.ring).owner = .active ∨ s.partState (s.ring f.ring).owner = .suspended) →
        ∃ t, exec (.streamInputFrame n false r data) s = .next t ∧ (t.stream n).inp = none
          ∧ (t.ring f.ring).frameIdx = ((s.ring f.ring).frameIdx + 1) % (2 * 2 ^ (s.ring f.ring).attr.log2)
          ∧ (t.ring f.ring).submitted = (s.ring f.ring).submitted + 1)
      ∧ (let d := (data ++ zeros 64).take 64
        (s.stream n).inp = none → (s.outRoom n r d = true →
          exec (.streamInputBeat n true r data) s = .next (s.onStream n fun p => { p with
            beats := p.beats + 1, inp := some { ring := r, data := d }, inHeld := false, lost := false }))
        ∧ (s.outRoom n r d = false → exec (.streamInputBeat n true r data) s = .next (s.onStream n fun p => { p with inHeld := true })))
      ∧ (∀ f, (s.stream n).inp = some f → f.data.length + 64 < frameMax →
        exec (.streamInputBeat n false r data) s
          = .next (s.onStream n fun p => { p with beats := p.beats + 1, inp := some { f with data := f.data ++ (data ++ zeros 64).take 64 } }))
      ∧ ((s.stream n).inp = none → (s.stream n).lost = false → exec (.streamInputBeat n false r data) s
          = .next (((s.onStream n fun p => { p with beats := p.beats + 1 }).violation 0x0508 (uidStream n) noPart none false 0 0).onStream n
            fun p => { p with lost := true })))
  ∧ (
    ∀ (n : Nat) (s : State), s.live = true → n < 4 →
      (∀ f l, (s.stream n).out = f :: l → (s.stream n).paused = false → n < s.mov.streams.length →
        ∃ t b, exec (.streamOutputFrame n) s = .next t ∧ (t.stream n).out = l ∧ (t.stream n).last = some f ∧ (t.stream n).sent = b
          ∧ b.length = cdiv f.data.length 64 ∧ (b.flatMap fun x => x.data) = f.data
          ∧ (∀ i x, b[i]? = some x → x.sop = decide (i = 0) ∧ x.eop = decide (i + 1 = b.length)
            ∧ x.bv = (if i + 1 = b.length then (f.data.length - 1) % 64 else 63) ∧ (i = 0 → x.ring = f.id.ring))
          ∧ t = ((((s.onStream n fun p => { p with out := l, last := some f, sent := b, beats := p.beats + b.length }).onLink f.id
            fun x => { x with written := true }).recordVisible f.id.ring f.irq).retire f.id.ring))
      ∧ ((s.stream n).out ≠ [] → (s.stream n).paused = false →
        exec (.streamOutputPause n) s = .next (s.onStream n fun p => { p with
          paused := true, pauseTick := s.sch.tick, pauseTime := s.blk.time, longDone := false, pauses := p.pauses + 1 }))
      ∧ ((s.stream n).paused = true → (s.stream n).longDone = false → 32 ≤ modSub s.sch.tick (s.stream n).pauseTick (2 ^ 32) →
        exec (.streamLongPause n) s = .next ((s.onStream n fun p => { p with longDone := true, long := sat 0xFFFF p.long 1 }).log
          0x0807 (uidStream n) (s.outPart n)))
      ∧ ((s.stream n).paused = true → exec (.streamPauseEnd n) s = .next (
        let t := s.onStream n fun p => { p with paused := false, longDone := false }
        if (s.stream n).longDone then t.log 0x0807 (uidStream n) (s.outPart n)
          (natLE ((s.blk.time - (s.stream n).pauseTime).toNat % 2 ^ 32) 4) else t)))

/-! ### The memory fabric -/

/-- READ_COMPLETION counts its beats, frees the tag of an outstanding read and gives it its answer, or nothing to one
marked for discard; READ_TIMEOUT fails a read and puts its tag in quarantine, and leaves one marked for discard;
TAG_QUARANTINE_END takes the tag out; an answer that matches none outstanding is counted as late and does nothing to any
request (R273 to R276, R282). WRITE_RESPONSE frees the write id and does what the answer does; an answer to a write that
was given up does nothing more (R279 to R281, R319). A source read that fails: a bus error ends its link BUS_ERROR, a
timeout is noted and ends it at the coming cut with READ_TIMEOUT, and poisoned beats end it POISONED_INPUT, a lane or digest link once
it has run to its end (R90, R274 to R277). -/
def Obligations.FabricAnswers : Prop :=
  (
    (∀ (n k g : Nat) (bs : List ReadBeat) (p : Port) (s : State), s.live = true → n < 8 → s.mov.ports[n]? = some p →
      let u := s.onPort n fun p => { p with beats := p.beats + bs.length }
      let v := u.onPort n fun p => { p with reads := p.reads.filter fun r => !(r.issued && r.idx == k) }
      (∀ r, p.reads.find? (fun r => r.issued && r.idx == k && r.gen == g) = some r →
        exec (.readCompletion n k g bs) s = .next (if r.discard then v.pump else (v.readAnswered r (r.answer bs) bs).pump))
      ∧ (p.reads.find? (fun r => r.issued && r.idx == k && r.gen == g) = none →
        ∃ t, exec (.readCompletion n k g bs) s = .next t ∧ t.rng = s.rng
          ∧ t.mov = (u.onPort n fun p => { p with late := sat 0xFF p.late 1 }).mov ∧ t.key = s.key ∧ t.ory = s.ory))
    ∧ (∀ (n k : Nat) (p : Port) (r : FRead) (s : State), s.live = true → s.mov.ports[n]? = some p →
      p.reads.find? (fun r => r.issued && r.idx == k) = some r →
      exec (.readTimeout n k) s = .next (if r.discard then s else ((s.onPort n fun p => { p with
        reads := p.reads.filter (fun r => !(r.issued && r.idx == k)), quar := p.quar ++ [k] }).readAnswered r (.timeout 0 []) []).pump))
    ∧ ∀ (n k : Nat) (s : State), s.blk.mode ≠ .dormant →
      exec (.tagQuarantineEnd n k) s = .next ((s.onPort n fun p => { p with quar := p.quar.filter fun i => i != k }).pump))
  ∧ (
    ∀ (n : Nat) (p : Port) (r : FRead) (id : LinkId) (off : Nat) (q : Req) (l : Link) (s : State), s.live = true → n < 8 →
      s.mov.ports[n]? = some p → r ∈ p.reads → r.issued = true → r.discard = false → r.purpose = .source id off →
      ((p.reads.filter (·.issued)).map (·.idx)).Nodup → s.link id = some (q, l) → l.stat = none →
      let gives (c : Instr) (f : Link → Prop) : Prop := ∃ t q' l', exec c s = .next t ∧ t.link id = some (q', l') ∧ f l'
      gives (.readTimeout n r.idx) (fun l' => l'.stat = none ∧ l'.timedOut = true ∧ l'.err = some (l.err.getD ⟨0x42, 1⟩))
      ∧ ∀ bs, (∀ c o, r.answer bs = .busError c o → l.err = none → gives (.readCompletion n r.idx r.gen bs) fun l' => l'.stat = some ⟨0x40, 1⟩)
        ∧ ∀ c b o, r.answer bs = .poisoned c b o →
          ((isLane l.hdr.opcode = true ∨ isDigest l.hdr.opcode = true) → gives (.readCompletion n r.idx r.gen bs) fun l' =>
            l'.stat = none ∧ l'.err = some (l.err.getD ⟨0x41, 1⟩) ∧ ∃ m, l'.poisoned = l.poisoned ++ m)
          ∧ (isLane l.hdr.opcode = false → isDigest l.hdr.opcode = false → l.err = none →
            gives (.readCompletion n r.idx r.gen bs) fun l' => l'.stat = some ⟨0x41, 1⟩))
  ∧ (
    ∀ (n k g : Nat) (okay : Bool) (p : Port) (s : State), s.live = true → n < 8 → s.mov.ports[n]? = some p →
      (∀ w, p.writes.find? (fun w => w.issued && w.idx == k && w.gen == g) = some w →
        let t := s.onPort n fun p => { p with writes := p.writes.filter fun v => !(v.issued && v.idx == k) }
        exec (.writeResponse n k g okay) s = .next (if w.given then t.pump
          else (((if okay then t else t.writeError n w).writeAnswered n w okay).opsNext).pump))
      ∧ (p.writes.find? (fun w => w.issued && w.idx == k && w.gen == g) = none →
        ∃ t, exec (.writeResponse n k g okay) s = .next t ∧ t.rng = s.rng ∧ t.key = s.key
          ∧ t.mov = (s.onPort n fun p => { p with late := sat 0xFF p.late 1 }).mov))

/-- What issues on a port takes an index that is not outstanding in its pool, read tags none in quarantine either, and
nothing that may issue stays while an index of its pool is free: write ids 0 to 1,023, read tags 896 to 1,023 for the Vault and
service DMA and 0 to 895 for all others; so no index is outstanding twice (R272, R274, R376). -/
def Obligations.PumpKeepsTags : Prop :=
  ∀ (silent : Nat → Bool) (p : Port),
    (((p.writes.filter (·.issued)).map (·.idx)).Nodup → ((((p.pump silent).writes.filter (·.issued)).map (·.idx)).Nodup))
    ∧ (((p.reads.filter (·.issued)).map (·.idx)).Nodup → (∀ r ∈ p.reads, r.issued = true → r.idx ∉ p.quar) →
      (((p.pump silent).reads.filter (·.issued)).map (·.idx)).Nodup
      ∧ ∀ r ∈ (p.pump silent).reads, r.issued = true → r.idx ∉ (p.pump silent).quar)
    ∧ (p.pump silent).writes.length = p.writes.length ∧ (p.pump silent).reads.length = p.reads.length
    ∧ (∀ w ∈ (p.pump silent).writes, w.issued = false → w.held = true ∨ silent w.fid = true
      ∨ 1024 ≤ ((p.pump silent).writes.filter (·.issued)).length)
    ∧ (∀ w ∈ (p.pump silent).writes, w.issued = true → w ∈ p.writes ∨ w.idx < 1024)
    ∧ (∀ r ∈ (p.pump silent).reads, r.issued = true → r ∈ p.reads ∨ inPool r r.idx = true)
    ∧ ∀ r ∈ (p.pump silent).reads, r.issued = false → silent r.fid = true
      ∨ ∀ i, inPool r i = true → i ∈ (p.pump silent).quar ∨ ∃ v ∈ (p.pump silent).reads, v.issued = true ∧ v.idx = i

/-! ### Function control -/

/-- Function control outside DORMANT and CONTAINMENT for a function with no operation pending: BME_SET is acknowledged
and takes effect at the next boundary; BME_CLEAR silences the function at once, all its writes that have not issued gone but for
record writes that wait after a failure, acknowledged at once where no partition is bound, later where an ACTIVE one is, which is
to be flushed; a reserved operation is acknowledged with no effect
(R282, R284, R364, R394, R396). -/
def Obligations.BmeResults : Prop :=
  ∀ (fid : Nat) (s : State), s.live = true → fid < 1024 → s.io.fc.length < 64 → (∀ x ∈ s.io.fc, x.1 ≠ fid) →
    (∃ t, exec (.bmeSet fid) s = .next t ∧ t.io.acks = [(fid, 0)] ∧ (fid ∈ t.prt.bmeNext ∨ fid ∈ t.prt.bme) ∧ t.prt.bme = s.prt.bme)
    ∧ (∃ t, exec (.bmeClear fid) s = .next t ∧ fid ∉ t.prt.bme ∧ fid ∉ t.prt.bmeNext
      ∧ (s.partOfFid fid = none → t.io.acks = [(fid, 1)])
      ∧ ∀ p x, s.partOfFid fid = some p → s.part p = some x → x.st = .active →
        t.io.acks = [] ∧ (fid, FcOp.bmeClear) ∈ t.io.fc ∧ (∃ y, t.part p = some y ∧ y.flush = true)
          ∧ (fid ≠ s.vaultFid → ∀ w ∈ t.writes, w.fid = fid → w.issued = true ∨ w.waits = true))
    ∧ exec (.fcReservedOp fid) s = .next (s.onIo fun i => { i with acks := [(fid, 3)] })

/-- BME_CLEAR_ACK once the outstanding responses have come acknowledges the clearing; FLR_START puts the partition in
RESETTING, its work dropped, its keys wiped and its messages gone; FLR_ACK leaves it READY, with the acknowledgement; a
write response missing at the bound is given up (R282, R318, R319, R395, R396). -/
def Obligations.FlrResults : Prop :=
  (∀ (fid : Nat) (s : State), s.blk.mode ≠ .dormant → s.io.fc = [(fid, .bmeClear)] → s.answered fid = true →
    exec (.bmeClearAck fid) s = .next (s.onIo fun i => { i with acks := [(fid, 1)], fc := [] }))
  ∧ (∀ (fid p : Nat) (x : Part) (s : State), s.live = true → fid < 1024 → s.io.fc.length < 64 → s.partOfFid fid = some p →
    s.part p = some x → x.st ≠ .absent → x.st ≠ .resetting → x.flr = none →
    ∃ t y, exec (.flrStart fid) s = .next t ∧ t.part p = some y ∧ y.st = .resetting ∧ (fid, FcOp.flr) ∈ t.io.fc
      ∧ (∀ q ∈ t.rng.reqs, q.part ≠ p) ∧ (∀ k ∈ t.key.slots, k.part ≠ p) ∧ ∀ m ∈ t.io.msgs, m.fid ≠ fid)
  ∧ (∀ (fid d p : Nat) (x : Part) (f : Flr) (s : State), s.live = true → s.partOfFid fid = some p → s.part p = some x →
    x.flr = some f → f.boundary = true → f.seqDone = false → f.destroy = false → s.answered fid = true →
    s.io.fc = [(fid, .flr)] →
    ∃ t y, exec (.flrAck fid d) s = .next t ∧ t.part p = some y ∧ y.st = .ready ∧ y.flr = none ∧ y.hello = false
      ∧ t.io.acks = [(fid, 2)] ∧ t.io.fc = [])
  ∧ ∀ (fid : Nat) (s : State), s.blk.mode ≠ .dormant → (s.flrOn fid = true ∨ s.clearing fid = true) → s.answered fid = false →
    ∃ t, exec (.flrWriteLate fid) s = .next t ∧ t.answered fid = true ∧ t.rng = s.rng ∧ t.prt = s.prt

/-! ### The Orrery -/

/-- The debugger in FACTORY and DEVELOP loads ORY_CTRL with the word of the command: a stop and a resume act on the thread alone,
with record 0x0910, but that a thread resumed on a channel that holds a message takes it; the hold is set and cleared; in the
other lifecycles the TAP acts as BYPASS and none has an effect on the Orrery (R240, R241, R403). FORK by a thread that issues takes a free thread of
its class into its group and gives it as the result, or fails at once, counted, with that result (R234). JOIN blocks on a
live thread of the group and goes on once it has ended, given again it is that end (R234; that it is one is the model's choice,
log 113). PORT_READ blocks until its event occurs, and then takes
what the port gives (R235). -/
def Obligations.ThreadAndDebugResults : Prop :=
  (
    ∀ (k : Nat) (s : State), k < 64 →
      let ctrl (w : Nat) : State := s.onIo fun i => { i with tapIr := 0x20, tapCap := 0x01, tapDr := BitVec.ofNat 32 w }
      (s.live = true → s.blk.lifecycle.toNat ≤ 1 →
        ((s.thread k).stopped = false →
          exec (.threadStop k) s = .next (((ctrl (2 ^ 31 + k)).onThread k fun x => { x with stopped := true }).log 0x0910 (uidThread k) noPart))
        ∧ ((s.thread k).stopped = true → exec (.threadStop k) s = .next (ctrl (2 ^ 31 + k)))
        ∧ ((s.thread k).stopped = true → (∀ c, (s.thread k).st ≠ .blocked (.chanRead c) ∧ (s.thread k).st ≠ .blocked (.chanWrite c)) →
          exec (.threadResume k) s
            = .next (((ctrl (2 ^ 30 + k)).onThread k fun x => { x with stopped := false }).log 0x0910 (uidThread k) noPart))
        ∧ (∀ c ch m l, (s.thread k).stopped = true → (s.thread k).st = .blocked (.chanRead c) → mget s.ory.chans c = some ch →
          ch.msgs = m :: l → (∀ w ∈ ch.writers, (s.thread w).st ≠ .blocked (.chanWrite c)) → k < s.ory.threads.length →
          ∃ t, exec (.threadResume k) s = .next t ∧ t.thread k = { s.thread k with st := .running, stopped := false, got := m })
        ∧ ((s.thread k).stopped = false → exec (.threadResume k) s = .next (ctrl (2 ^ 30 + k)))
        ∧ exec .holdSet s = .next ((ctrl (2 ^ 29)).onOry fun o => { o with hold := true })
        ∧ exec .holdClear s = .next ((ctrl (2 ^ 28)).onOry fun o => { o with hold := false }))
      ∧ (2 ≤ s.blk.lifecycle.toNat → ∀ c ∈ [Instr.threadStop k, .threadResume k, .holdSet, .holdClear], exec c s = .next (ctrl 0)))
  ∧ (
    (∀ (k e : Nat) (s : State), s.issues k = true →
      (∀ u, (s.groupOf (s.thread k).root).length < 8 → s.forkThread k = some u →
        exec (.fork k e) s = .next ((s.onThread u fun _ => { st := .running, root := (s.thread k).root, entry := e, work := (s.thread k).work }).onThread
          k fun y => { y with forked := some (some u) }))
      ∧ ((8 ≤ (s.groupOf (s.thread k).root).length ∨ s.forkThread k = none) →
        exec (.fork k e) s = .next ((s.onOry fun o => { o with forkFail := sat 0xFF o.forkFail 1 }).onThread k fun y => { y with forked := some none })))
    ∧ (∀ (k u : Nat) (s : State),
      (s.issues k = true → u ≠ k → (s.thread u).st ≠ .ended → (s.thread u).root = (s.thread k).root →
        exec (.join k u) s = .next (s.onThread k fun y => { y with st := .blocked (.join u), since := s.sch.tick }))
      ∧ (s.live = true → (s.thread k).st = .blocked (.join u) → (s.thread k).stopped = false → (s.thread u).st = .ended →
        exec (.join k u) s = .next (s.onThread k fun y => { y with st := .running }))
      ∧ (s.live = true → (s.thread k).st = .blocked (.join u) → (s.thread k).stopped = false → s.issues u = true → u ≠ k →
        (s.thread u).root = (s.thread k).root → u ≠ (s.thread k).root →
        exec (.join k u) s = .next ((s.endThreads [u]).onThread k fun y => { y with st := .running })))
    ∧ ∀ (k : Nat) (p : OryPort) (s : State),
      (s.issues k = true → exec (.portRead k p) s = .next (if s.portEvent k p then s.portTaken k p
        else s.onThread k fun y => { y with st := .blocked (.port p), since := s.sch.tick }))
      ∧ (s.oryServing = true → (s.thread k).st = .blocked (.port p) → (s.thread k).stopped = false →
        s.coreRuns k = true → s.portEvent k p = true →
        exec (.portRead k p) s = .next ((s.portTaken k p).onThread k fun y => { y with st := .running })))

/-- A channel's words stay in their writer's staging until the final one, which commits the message whole while fewer
than four stand and blocks the writer else, and goes to a reader that waits at once; a reader takes one whole message, or
blocks (R236). -/
def Obligations.ChannelResults : Prop :=
  ∀ (k c : Nat) (ch : Chan) (s : State), s.issues k = true → s.chanClass k c = true → mget s.ory.chans c = some ch →
    (∀ w : W64, ch.writers.contains k = true → ((mget ch.staged k).getD []).length < 16 →
      let msg := (mget ch.staged k).getD [] ++ [w]
      let staged := mset ch.staged k msg
      exec (.channelWrite k c w false) s = .next (s.onChanO c fun x => { x with staged := staged })
      ∧ (ch.msgs.length < 4 → (s.thread ch.reader).st ≠ .blocked (.chanRead c) →
        ∃ t y, exec (.channelWrite k c w true) s = .next t ∧ mget t.ory.chans c = some y
          ∧ y.msgs = ch.msgs ++ [msg] ∧ y.reader = ch.reader ∧ t.ory.threads = s.ory.threads)
      ∧ (ch.msgs = [] → (s.thread ch.reader).st = .blocked (.chanRead c) → (s.thread ch.reader).stopped = false →
        ch.reader < s.ory.threads.length →
        ∃ t y, exec (.channelWrite k c w true) s = .next t ∧ mget t.ory.chans c = some y ∧ y.msgs = []
          ∧ t.thread ch.reader = { s.thread ch.reader with st := .running, got := msg })
      ∧ (4 ≤ ch.msgs.length → exec (.channelWrite k c w true) s = .next ((s.onChanO c fun x => { x with staged := staged }).onThread k
        fun x => { x with st := .blocked (.chanWrite c), since := s.sch.tick })))
    ∧ (ch.reader = k → ch.msgs = [] →
      exec (.channelRead k c) s = .next (s.onThread k fun x => { x with st := .blocked (.chanRead c), since := s.sch.tick }))
    ∧ ∀ m l, ch.reader = k → ch.msgs = m :: l → (∀ w ∈ ch.writers, (s.thread w).st ≠ .blocked (.chanWrite c)) →
      exec (.channelRead k c) s = .next ((s.onChanO c fun x => { x with msgs := l }).onThread k fun x => { x with st := .running, got := m })

/-- TIME_LIMIT of a request's group that has reached its charged ticks: it is counted, the request completes HW_FAULT
with detail 4, and no thread of the group runs (R238). A core idle for 64 ticks lowers its power request, core 0 not in
SERVICE, REDUCED or SWAP; an event for a thread of a powered-down core raises it again, and with the acknowledgement the
core resumes (R233, R405). -/
def Obligations.LimitAndCorePower : Prop :=
  (∀ (k : Nat) (id : LinkId) (q : Req) (l : Link) (j : Job) (s : State), s.live = true → (s.thread k).st ≠ .ended →
    (s.thread k).root = k → (s.thread k).work = .request id → s.link id = some (q, l) → l.job = some j → 0 < j.limit →
    j.limit ≤ j.charged → l.stat = none → l.err = none →
    ∃ t q' l', exec (.timeLimit k) s = .next t ∧ t.link id = some (q', l') ∧ l'.stat = some ⟨0x80, 4⟩
      ∧ t.ory.timeLimit = sat 0xFF s.ory.timeLimit 1 ∧ ∀ i < 64, (t.thread i).root = k → (t.thread i).st ≠ .running)
  ∧ (∀ (c : Nat) (x : Core) (s : State), s.live = true → c < 4 → s.ory.cores[c]? = some x → x.awake = true → 64 ≤ x.idle →
    s.coreIdle c = true → (c ≠ 0 ∨ s.blk.mode = .factory ∨ s.blk.mode = .seeding ∨ s.blk.mode = .charterLoad) →
    exec (.corePowerDown c) s = .next ((s.onOry fun o => { o with cores := updAt o.cores c fun k => { k with awake := false } }).onIo
      fun i => { i with oryReq := updAt i.oryReq c fun _ => false }))
  ∧ ∀ (c : Nat) (x : Core) (s : State), s.live = true → c < 4 → s.ory.cores[c]? = some x → x.awake = false → x.u.ecl = false →
    s.coreIdle c = false →
    (s.io.oryReq.getD c false = false → s.io.oryAck.getD c false = false →
      exec (.coreWake c) s = .next (s.onIo fun i => { i with oryReq := updAt i.oryReq c fun _ => true }))
    ∧ (s.io.oryReq.getD c false = true → s.io.oryAck.getD c false = true →
      exec (.coreWake c) s = .next (s.onOry fun o => { o with cores := updAt o.cores c fun k => { k with awake := true, idle := 0 } }))

/-- SDMA_START of a free channel, its function not silent. In single mode from shared memory to shared memory it moves COUNT
bytes, swapped; from fabric memory it issues the reads of the transfer's accesses, on the tags of service DMA, and the bytes that
they bring go out, swapped, in writes of its accesses where the destination is fabric memory. In list mode, its list in shared
memory, the one descriptor of the list is run and its length written back as done; an invalid one is written back with BAD and
cause 1, and the run has an error (R269, R271, R272, R289 to R292; the write-back of a descriptor that did not fail: log 98).
SDMA_ABORT marks the run and takes back what has not issued; SDMA_DONE once no write is outstanding reports done, an aborted
run without error (R290, R293). -/
def Obligations.SdmaResults : Prop :=
  (∀ (n : Nat) (c : SdmaSetup) (s : State), s.issues n = true → (s.dma n).busy = false → s.silentFid (s.dmaFid { setup := c }) = false →
    (c.list = false → 0 < c.count → c.count < 2 ^ 24 → c.dstSpace = 1 → c.dst + c.count ≤ shmemSize →
      (c.srcSpace = 1 → c.src + c.count ≤ shmemSize → Memory.wf 0 s.ory.shmem = true →
        ∃ t, exec (.sdmaStart n c (.ok [])) s = .next t ∧ (t.dma n).busy = true ∧ (t.dma n).ended = true ∧ (t.dma n).error = false
          ∧ t.shRead c.dst c.count = applySwap c.swap (s.shRead c.src c.count))
      ∧ (c.srcSpace = 0 → c.src < 2 ^ 52 → s.mov.ports.length = 8 →
        ∃ t, exec (.sdmaStart n c (.ok [])) s = .next t ∧ (t.dma n).busy = true ∧ (t.dma n).cur.isSome = true ∧ t.ory.shmem = s.ory.shmem
          ∧ ∀ x ∈ cut c.src c.count, ∃ r ∈ t.reads, r.addr = x.1 ∧ r.len = x.2 ∧ r.vault = true ∧ r.purpose = .sdma n (x.1 - c.src)))
    ∧ (c.list = true → c.listSm = true → c.count = 1 → c.src + 32 ≤ shmemSize → Memory.wf 0 s.ory.shmem = true → s.dmaWrites n = false →
      let d := readDesc (s.shRead c.src 32) c.src
      (d.invalid = false → d.srcSpace = 1 → d.dstSpace = 1 → (d.dst + d.len ≤ c.src ∨ c.src + 32 ≤ d.dst) →
        ∃ t, exec (.sdmaStart n c (.ok [])) s = .next t ∧ (t.dma n).ended = true ∧ (t.dma n).error = false ∧ (t.dma n).progress = 1
          ∧ t.shRead d.dst d.len = applySwap d.swap (s.shRead d.src d.len) ∧ t.shRead (c.src + 24) 4 = natLE d.len 4
          ∧ t.shRead c.src 24 = s.shRead c.src 24)
      ∧ (d.invalid = true → ∃ t, exec (.sdmaStart n c (.ok [])) s = .next t ∧ (t.dma n).ended = true ∧ (t.dma n).error = true
        ∧ (t.dma n).cause = 1 ∧ (t.dma n).bad = 1
        ∧ t.shRead (c.src + 20) 8 = natLE (d.raw % 4 + 4 + 8 + 32 * (d.raw / 32 % 2 ^ 27)) 4 ++ natLE 0 4)))
  ∧ (∀ (n : Nat) (d : Desc) (b : Bytes) (s : State), (s.dma n).cur = some d → d.bad = false → (s.dma n).got = [] → b.length = d.len →
    0 < d.len → d.dstSpace = 0 → (s.dma n).setup.list = false → s.mov.ports.length = 8 →
    ∀ i, i < d.len → ∃ w ∈ (s.dmaRead n 0 (some b) 0).writes, w.purpose = .sdma n (s.dma n).progress ∧ w.addr ≤ d.dst + i
      ∧ w.data[d.dst + i - w.addr]? = (applySwap d.swap b)[i]?)
  ∧ (∀ (n : Nat) (s : State), s.issues n = true → (s.dma n).busy = true →
    ∃ t, exec (.sdmaAbort n) s = .next t ∧ t.dma n = { s.dma n with abort := true }
      ∧ ∀ w ∈ t.writes, (∃ k, w.purpose = .sdma n k) → w.issued = true)
  ∧ ∀ (n : Nat) (s : State), s.live = true → (s.dma n).busy = true → s.dmaWrites n = false →
    ((s.dma n).abort = true ∨ ((s.dma n).ended = true ∧ (s.dma n).cur = none)) →
    ∃ t, exec (.sdmaDone n) s = .next t ∧ (t.dma n).busy = false ∧ (t.dma n).done = true
      ∧ (t.dma n).error = ((s.dma n).error && !(s.dma n).abort)

/-! ### Mailboxes and management -/

/-- GO on a channel that may be written and stands in no message: the words are latched and the message waits in PENDING,
or is REJECTED where its length differs from its type's; ACK brings a channel with an outcome back to IDLE, its up words
0; the two doorbells of the compatibility mode do the same (R55, R328, R330, R333). -/
def Obligations.ChannelStarts : Prop :=
  ∀ (who : Accessor) (c : Nat) (v : W32) (s : State), s.serving = true → s.mailOpen c 0x80 = true → s.mailOpen c 0x84 = true →
    s.mayMail who c = true → (s.chan c).st ≠ .pending → (s.chan c).st ≠ .busy →
    (c < 16 ∨ s.partState (c - 16) = .ready ∨ s.partState (c - 16) = .active ∨ s.partState (c - 16) = .suspended) →
    let down := (s.chan c).down
    let fits := ∀ m, msgTypeOf ((down.getD 0 0).toNat % 4096) = some m → m.down = (down.getD 0 0).toNat / 2 ^ 24 % 16
    let started (i : Instr) : Prop := ∃ t, exec i s = .next t ∧ (t.chan c).msg = down ∧ (t.chan c).up = List.replicate 16 0
      ∧ (fits → (t.chan c).st = .pending) ∧ (¬ fits → (t.chan c).st = .rejected)
    let acked (i : Instr) : Prop := ∃ t, exec i s = .next t ∧ (t.chan c).st = .idle ∧ (t.chan c).up = List.replicate 16 0
    (v.getLsbD 31 = true → started (.go who c v))
    ∧ (v.getLsbD 31 = false → v.getLsbD 30 = true → acked (.ack who c v))
    ∧ (16 ≤ c → s.chanVersion c < 2 → started (.compatDoorbellMsg who c) ∧ acked (.compatDoorbellAck who c))

/-- MB_DB_MASK_CLEAR writes the mask, and a mask bit cleared over a doorbell bit that is 1 issues the partition's mailbox
interrupt (R333). MESSAGE_TAKEN by a free management thread that issues makes the next message BUSY, a refused one with
its result as reply (R331, R339). MAILBOX_REPLY with the reply known and its thread issuing makes it DONE, with its words
in MB_UP and counted (R331). -/
def Obligations.MessageResults : Prop :=
  (∀ (who : Accessor) (c : Nat) (v : W32) (s : State), s.mailOpen c 0x8C = true → s.mayMail who c = true →
    ∃ t, exec (.mbDbMaskClear who c v) s = .next t ∧ t.chan c = { s.chan c with dbMask := v }
      ∧ ((s.chan c).dbMask &&& ~~~v &&& (s.chan c).dbUp.setWidth 32 = 0 → t.io = s.io)
      ∧ ∀ p, 16 ≤ c → s.part (c - 16) = some p → p.st ≠ .resetting → s.flrOn p.entry.fid = false →
        (s.chan c).dbMask &&& ~~~v &&& (s.chan c).dbUp.setWidth 32 ≠ 0 → ⟨p.entry.fid, p.entry.vecBase⟩ ∈ t.io.msgs)
  ∧ (∀ (k c : Nat) (a : ReadAnswer) (s : State), s.oryServing = true → s.freeMgmt k = true → s.stoppedT k = false →
    s.coreRuns k = true → s.nextMsg = some c → ((s.msgCheck c).isSome = true ∨ s.msgCanRead c = true) →
    let u := (s.onThread k fun x => { x with st := .running, work := .message c, charged := 0, closedCuts := 0 }).onChan c
      fun m => { m with st := .busy }
    (∀ x, u.msgCheck c = some x → exec (.messageTaken k a) s
      = .next (u.onChan c fun m => { m with reply := some [BitVec.ofNat 32 (x.1 + 256 * x.2)] }))
    ∧ (u.msgCheck c = none → exec (.messageTaken k a) s = .next ((u.msgActs c k a).waitMsg k c)))
  ∧ ∀ (c : Nat) (w : W32) (l : List W32) (s : State), s.live = true → s.paused = false → s.carried (.message c) = true →
    (s.chan c).st = .busy → (s.chan c).reply = some (w :: l) →
    ∃ t, exec (.mailboxReply c) s = .next t ∧ (t.chan c).st = .done ∧ (t.chan c).reply = none
      ∧ (t.chan c).up = s.replyWords c (w :: l) ∧ (t.chan c).completed = sat 0xFFFF (s.chan c).completed 1

/-- PARTITION_RECORD_ACK once the record's write is done, for a partition in no reset sequence outside the SWAP pause: the
generation is adopted, with the keys derived for it, and every ledger page cached for the old one is dropped; at the end of a
destruction, in the pause too, the partition is ABSENT and no key is derived for it any more (R27, R31, R161); PARTITION_RECORD_RETRY writes a failed record again, once, at a
later tick (R161, R162). -/
def Obligations.PartitionRecordResults : Prop :=
  ∀ (p : Nat) (x : Part) (w : RecWrite) (s : State), s.live = true → s.part p = some x → x.recWrite = some w →
    (s.writeWaits (isPartRec p) = false → (w.failed = none ∨ w.again = true) →
      (x.flr = none → s.paused = false → ∃ t y, exec (.partitionRecordAck p) s = .next t ∧ t.part p = some y ∧ y.gen = w.gen
        ∧ y.recWrite = none ∧ mget t.key.derived p = some (deriveKeys s.ldr.root p w.gen) ∧ ∀ g ∈ t.key.pages, g.part ≠ p)
      ∧ ∀ f, x.flr = some f → f.destroy = true → f.wrote = true → ∃ t y, exec (.partitionRecordAck p) s = .next t ∧ t.part p = some y
        ∧ y.st = .absent ∧ y.gen = w.gen ∧ y.recWrite = none ∧ y.flr = none ∧ mget t.key.derived p = none)
    ∧ ∀ f, w.failed = some f → w.again = false → w.tick ≠ s.sch.tick →
      exec (.partitionRecordRetry p) s = .next (s.writeRecord p w.gen w.spent true (some f))

/-- FW_VERIFY_VERDICT: a good image stands in the inactive bank, any other leaves it empty, and the code is the reply
(R243). A swap in its order: SWAP_ENTER enters SWAP and quiesces; QUIESCE_TIMEOUT ends a thread at no wait point with its
group, and counts the group's threads; FLIP changes the banks once every thread waits, and the control thread, wherever it
sits, runs the new image's init; INIT_DONE resumes in the new image, INIT_TIMEOUT reverses the flip, each with the control
thread as it was; SWAP_EXIT returns
to the mode of normal operation (R244, R361). -/
def Obligations.FirmwareSwapResults : Prop :=
  (
    ∀ (c k : Nat) (b : Bytes) (s : State), s.oryServing = true → s.mgmtActs = true → s.ory.staging = some (c, b, k) →
      (s.chan c).st = .busy →
      let j := judgeStaged s.ldr.owner s.charter.fwMinSec s.running.checkpoint b
      ∃ t, exec .fwVerifyVerdict s = .next t ∧ t.ory.staging = none ∧ t.ory.stageRes = j.1
        ∧ (if s.ory.bankAct then t.ory.bankA else t.ory.bankB) = j.2
        ∧ (if s.ory.bankAct then t.ory.bankB else t.ory.bankA) = (if s.ory.bankAct then s.ory.bankB else s.ory.bankA)
        ∧ ((t.chan c).reply = some [if j.1 = 1 then 0 else 0x0D, BitVec.ofNat 32 j.1]))
  ∧ (
    (∀ s : State, s.ory.swapStage = swapDue → s.swapMode = true →
      ∃ t, exec .swapEnter s = .next t ∧ t.blk.mode = .swap ∧ t.ory.swapStage = swapQuiesce ∧ t.ory.swapTick = s.sch.tick)
    ∧ (∀ (k : Nat) (s : State), s.blk.mode = .swap → s.ory.swapStage = swapQuiesce → k < 64 → (s.thread k).st = .running →
      (s.thread k).root < 64 → 32768 / s.tickLen ≤ s.swapAge →
      ∃ t, exec (.quiesceTimeout k) s = .next t ∧ t.ory.quiesce = sat 0xFF s.ory.quiesce (s.groupOf (s.thread k).root).length
        ∧ ∀ i < 64, (s.thread i).root = (s.thread k).root → (t.thread i).st ≠ .running)
    ∧ (∀ s : State, s.blk.mode = .swap → s.ory.swapStage = swapQuiesce → (∀ k < 64, (s.thread k).st ≠ .running) →
      let c := (mget s.ory.statics 0).getD 0
      c < s.ory.threads.length →
      ∃ t, exec .flip s = .next t ∧ t.ory.bankAct = !s.ory.bankAct ∧ t.ory.swapStage = swapInit ∧ (t.thread c).st = .running
        ∧ (t.thread c).entry = t.running.init ∧ t.ory.initSave = some (s.thread c) ∧ ∀ k, k ≠ c → t.thread k = s.thread k)
    ∧ (∀ (x : Thread) (s : State), s.blk.mode = .swap → s.ory.swapStage = swapInit → s.ory.initSave = some x →
      let c := (mget s.ory.statics 0).getD 0
      c < s.ory.threads.length →
      (∃ t, exec .initDone s = .next t ∧ t.ory.swapOk = true ∧ t.ory.swapStage = swapResumed ∧ t.ory.bankAct = s.ory.bankAct
        ∧ t.thread c = x)
      ∧ (76800 / s.tickLen ≤ s.swapAge → ∃ t, exec .initTimeout s = .next t ∧ t.ory.swapOk = false ∧ t.ory.swapStage = swapResumed
        ∧ t.ory.bankAct = !s.ory.bankAct ∧ t.thread c = x))
    ∧ ∀ s : State, s.blk.mode = .swap → s.ory.swapStage = swapExitDue →
      ∃ t, exec .swapExit s = .next t ∧ t.blk.mode = s.normalMode ∧ t.ory.swapStage = 0 ∧ t.ory.swapCh = none)

/-! ### Entropy -/

/-- WINDOW_END with samples that pass every test: the hashed blocks enter the buffer, at most 128, and Scintilla runs;
with samples that fail one, the runs of the window before counted on, it pauses, dated the tick of the sample that failed, and
names test and oscillator, as HEALTH_TEST_FAILURE does (R249); RETEST_START two ticks
after; RETEST_VERDICT: a pass is a transient and runs on, or ends FAILED, a failure is lasting, with the alarm (R248 to
R251). ENTROPY_WAIT_EXPIRY after more than eight counted ticks: a hedged signature of a partition with the deterministic
fallback runs on with it, counted; any other work completes ENTROPY_FAILED with the detail of what lacked at the cut that counted the eighth (R214, R258). -/
def Obligations.EntropyResults : Prop :=
  (
    (∀ (w : List W64) (s : State), s.ticking = true → (s.ent.scn = .startup ∨ s.ent.scn = .running) → s.winOver = true →
      (windowFails s.ent.runs w = none → ∃ t, exec (.windowEnd w) s = .next t ∧ t.ent.scn = .running ∧ t.ent.winTick = s.sch.tick
        ∧ t.ent.windows = sat 0xFFFF s.ent.windows 1
        ∧ t.ent.buffer = (if s.ent.testEn then s.ent.buffer
            else (s.ent.buffer ++ ((rawStrings w).drop s.ent.flushed).map sha256).take 128))
      ∧ ∀ k o j, windowFails s.ent.runs w = some (k, o, j) → ∃ t, exec (.windowEnd w) s = .next t ∧ t.ent.scn = .pause
        ∧ t.ent.failTick = s.sampleTick j
        ∧ t.ent.lastTest = testCode k ∧ t.ent.lastOsc = o ∧ t.ent.buffer = s.ent.buffer ∧ t.ent.windows = s.ent.windows)
    ∧ (∀ (k : HealthTest) (o : Nat) (n : List Nat) (s : State), s.ticking = true → o < 64 → testFails k n = true → s.testTime k = true →
      (s.ent.scn = .startup ∨ s.ent.scn = .running) →
      ∃ t, exec (.healthTestFailure k ⟨o, n⟩) s = .next t ∧ t.ent.scn = .pause ∧ t.ent.failTick = s.sch.tick
        ∧ t.ent.lastTest = testCode k ∧ t.ent.lastOsc = o ∧ t.ent.buffer = s.ent.buffer)
    ∧ (∀ s : State, s.ticking = true → s.sch.cutDone = false →
      ((s.ent.scn = .pause ∧ 2 ≤ modSub s.sch.tick s.ent.failTick (2 ^ 32)) ∨ (s.ent.scn = .failed ∧ s.sch.tick % 1024 = 0)) →
      ∃ t, exec .retestStart s = .next t ∧ t.ent.scn = .retest ∧ t.ent.retestBad = false ∧ t.ent.winTick = s.sch.tick)
    ∧ ∀ (w : List W64) (s : State), s.ticking = true → s.ent.scn = .retest → s.winOver = true → s.ent.retestBad = false →
      (windowFails s.ent.runs w = none → ∃ t, exec (.retestVerdict true w) s = .next t ∧ t.ent.scn = .running ∧ t.blk.alEntropy = false
        ∧ t.ent.transient = (if s.blk.alEntropy then s.ent.transient else sat 0xFF s.ent.transient 1))
      ∧ (s.blk.alEntropy = false → ∃ t, exec (.retestVerdict false w) s = .next t ∧ t.ent.scn = .failed ∧ t.blk.alEntropy = true
        ∧ t.ent.lasting = sat 0xFF s.ent.lasting 1 ∧ t.ent.buffer = []
        ∧ (s.blk.mode = .seeding → s.blk.cause = none → t.blk.cause = some (.entropyFailed, 0x0602))))
  ∧ (
    ∀ (id : LinkId) (q : Req) (l : Link) (p : Part) (s : State), s.serving = true → s.link id = some (q, l) → l.stat = none →
      8 < l.entWait → s.part q.part = some p →
      let hedge := l.hdr.opcode = opPk ∧ (l.hdr.subop = 0x10 ∨ l.hdr.subop = 0x29)
      (hedge → p.entry.detFallback = true → ∃ t q' l', exec (.entropyWaitExpiry id) s = .next t ∧ t.link id = some (q', l')
        ∧ l'.fallback = true ∧ l'.stat = none ∧ l'.entWait = 0 ∧ t.sch.fallback = sat 0xFFFF s.sch.fallback 1)
      ∧ (¬ (hedge ∧ p.entry.detFallback = true) → l.err = none →
        ∃ t q' l', exec (.entropyWaitExpiry id) s = .next t ∧ t.link id = some (q', l')
          ∧ l'.stat = some ⟨0x50, if l.hdr.opcode = opPk ∧ (l.hdr.subop = 0x10 ∨ l.hdr.subop = 0x29) then 3
            else if l.entFailed then 2 else 1⟩))

/-! ### The Ephemeris -/

/-- A record out of DORMANT and before the freeze enters the queue of 256 entries, or with the queue full is held by its
source with f3, as is one whose source holds an earlier one; before tick 0 it is marked so; nothing else changes (R412, R415). RECORD_COMMIT gives the next record
the next seq and the time, lets a held record in, and counts it; a FAULT or FATAL record arms the grant log's freeze
(R415, R420, R431). -/
def Obligations.EphemerisRules : Prop :=
  (∀ (s : State) (r : EphQ), s.blk.mode ≠ .dormant → s.eph.frozen = false →
    { s.ephPush r with eph := s.eph } = s
    ∧ let r := { r with early := s.blk.mode == .charterLoad }
      (s.eph.queue.length < 256 → (∀ h ∈ s.eph.heldRecs, h.source ≠ r.source) →
        (s.ephPush r).eph = { s.eph with queue := s.eph.queue ++ [r], peak := max s.eph.peak (s.eph.queue.length + 1) })
      ∧ ((256 ≤ s.eph.queue.length ∨ ∃ h ∈ s.eph.heldRecs, h.source = r.source) → (s.ephPush r).eph = { s.eph with
          heldRecs := s.eph.heldRecs ++ [{ r with flags := r.flags ||| 8 }], stalls := sat 0xFFFF s.eph.stalls 1 }))
  ∧ (∀ (s : State) (r : EphQ), ephNext s.eph.queue = some r →
    ∃ t, exec .recordCommit s = .next t ∧ t.eph.recs.head? = some { time := s.blk.time, seq := s.eph.nextSeq, body := r }
      ∧ t.eph.nextSeq = s.eph.nextSeq + 1 ∧ t.eph.committed = s.eph.committed + 1 ∧ t.eph.recs.length ≤ 8192
      ∧ t.eph.queue.length + t.eph.heldRecs.length + 1 = s.eph.queue.length + s.eph.heldRecs.length
      ∧ (s.eph.queue.filter fun x => x.source == r.source && x.tick == r.tick).head? = some r
      ∧ t.glog = (if 3 ≤ r.sev ∧ s.glog.onFault = true ∧ s.glog.frozen = false ∧ s.glog.counting = none then
          (if min 4096 s.glog.post = 0 then { s.glog with trigger := s.eph.nextSeq, frozen := true }
            else { s.glog with trigger := s.eph.nextSeq, counting := some (min 4096 s.glog.post) }) else s.glog))
  ∧ ∀ s : State, s.eph.queue = [] → exec .recordCommit s = .next s
end

