-- ==== Sys2Proof/Laws/State.lean ====
section
/-! SUPPORT. What each update of a sub-state changes: the sub-state itself, and nothing else. -/

namespace Sys2Proof.Machine

variable (s : State)

@[simp] theorem State.onBlk_pending (f : Blk → Blk) : (s.onBlk f).pending = s.pending := rfl
@[simp] theorem State.onBlk_free (f : Blk → Blk) : (s.onBlk f).free = s.free := rfl
@[simp] theorem State.onBlk_blk (f : Blk → Blk) : (s.onBlk f).blk = f s.blk := rfl
@[simp] theorem State.onBlk_ldr (f : Blk → Blk) : (s.onBlk f).ldr = s.ldr := rfl
@[simp] theorem State.onBlk_sch (f : Blk → Blk) : (s.onBlk f).sch = s.sch := rfl
@[simp] theorem State.onBlk_dat (f : Blk → Blk) : (s.onBlk f).dat = s.dat := rfl
@[simp] theorem State.onBlk_prt (f : Blk → Blk) : (s.onBlk f).prt = s.prt := rfl
@[simp] theorem State.onBlk_rng (f : Blk → Blk) : (s.onBlk f).rng = s.rng := rfl
@[simp] theorem State.onBlk_key (f : Blk → Blk) : (s.onBlk f).key = s.key := rfl
@[simp] theorem State.onBlk_ory (f : Blk → Blk) : (s.onBlk f).ory = s.ory := rfl
@[simp] theorem State.onBlk_ent (f : Blk → Blk) : (s.onBlk f).ent = s.ent := rfl
@[simp] theorem State.onBlk_mov (f : Blk → Blk) : (s.onBlk f).mov = s.mov := rfl
@[simp] theorem State.onBlk_mbx (f : Blk → Blk) : (s.onBlk f).mbx = s.mbx := rfl
@[simp] theorem State.onBlk_io (f : Blk → Blk) : (s.onBlk f).io = s.io := rfl
@[simp] theorem State.onBlk_eph (f : Blk → Blk) : (s.onBlk f).eph = s.eph := rfl
@[simp] theorem State.onBlk_glog (f : Blk → Blk) : (s.onBlk f).glog = s.glog := rfl

@[simp] theorem State.onLdr_pending (f : Ldr → Ldr) : (s.onLdr f).pending = s.pending := rfl
@[simp] theorem State.onLdr_free (f : Ldr → Ldr) : (s.onLdr f).free = s.free := rfl
@[simp] theorem State.onLdr_blk (f : Ldr → Ldr) : (s.onLdr f).blk = s.blk := rfl
@[simp] theorem State.onLdr_ldr (f : Ldr → Ldr) : (s.onLdr f).ldr = f s.ldr := rfl
@[simp] theorem State.onLdr_sch (f : Ldr → Ldr) : (s.onLdr f).sch = s.sch := rfl
@[simp] theorem State.onLdr_dat (f : Ldr → Ldr) : (s.onLdr f).dat = s.dat := rfl
@[simp] theorem State.onLdr_prt (f : Ldr → Ldr) : (s.onLdr f).prt = s.prt := rfl
@[simp] theorem State.onLdr_rng (f : Ldr → Ldr) : (s.onLdr f).rng = s.rng := rfl
@[simp] theorem State.onLdr_key (f : Ldr → Ldr) : (s.onLdr f).key = s.key := rfl
@[simp] theorem State.onLdr_ory (f : Ldr → Ldr) : (s.onLdr f).ory = s.ory := rfl
@[simp] theorem State.onLdr_ent (f : Ldr → Ldr) : (s.onLdr f).ent = s.ent := rfl
@[simp] theorem State.onLdr_mov (f : Ldr → Ldr) : (s.onLdr f).mov = s.mov := rfl
@[simp] theorem State.onLdr_mbx (f : Ldr → Ldr) : (s.onLdr f).mbx = s.mbx := rfl
@[simp] theorem State.onLdr_io (f : Ldr → Ldr) : (s.onLdr f).io = s.io := rfl
@[simp] theorem State.onLdr_eph (f : Ldr → Ldr) : (s.onLdr f).eph = s.eph := rfl
@[simp] theorem State.onLdr_glog (f : Ldr → Ldr) : (s.onLdr f).glog = s.glog := rfl

@[simp] theorem State.onSch_pending (f : Sch → Sch) : (s.onSch f).pending = s.pending := rfl
@[simp] theorem State.onSch_free (f : Sch → Sch) : (s.onSch f).free = s.free := rfl
@[simp] theorem State.onSch_blk (f : Sch → Sch) : (s.onSch f).blk = s.blk := rfl
@[simp] theorem State.onSch_ldr (f : Sch → Sch) : (s.onSch f).ldr = s.ldr := rfl
@[simp] theorem State.onSch_sch (f : Sch → Sch) : (s.onSch f).sch = f s.sch := rfl
@[simp] theorem State.onSch_dat (f : Sch → Sch) : (s.onSch f).dat = s.dat := rfl
@[simp] theorem State.onSch_prt (f : Sch → Sch) : (s.onSch f).prt = s.prt := rfl
@[simp] theorem State.onSch_rng (f : Sch → Sch) : (s.onSch f).rng = s.rng := rfl
@[simp] theorem State.onSch_key (f : Sch → Sch) : (s.onSch f).key = s.key := rfl
@[simp] theorem State.onSch_ory (f : Sch → Sch) : (s.onSch f).ory = s.ory := rfl
@[simp] theorem State.onSch_ent (f : Sch → Sch) : (s.onSch f).ent = s.ent := rfl
@[simp] theorem State.onSch_mov (f : Sch → Sch) : (s.onSch f).mov = s.mov := rfl
@[simp] theorem State.onSch_mbx (f : Sch → Sch) : (s.onSch f).mbx = s.mbx := rfl
@[simp] theorem State.onSch_io (f : Sch → Sch) : (s.onSch f).io = s.io := rfl
@[simp] theorem State.onSch_eph (f : Sch → Sch) : (s.onSch f).eph = s.eph := rfl
@[simp] theorem State.onSch_glog (f : Sch → Sch) : (s.onSch f).glog = s.glog := rfl

@[simp] theorem State.onDat_pending (f : Dat → Dat) : (s.onDat f).pending = s.pending := rfl
@[simp] theorem State.onDat_free (f : Dat → Dat) : (s.onDat f).free = s.free := rfl
@[simp] theorem State.onDat_blk (f : Dat → Dat) : (s.onDat f).blk = s.blk := rfl
@[simp] theorem State.onDat_ldr (f : Dat → Dat) : (s.onDat f).ldr = s.ldr := rfl
@[simp] theorem State.onDat_sch (f : Dat → Dat) : (s.onDat f).sch = s.sch := rfl
@[simp] theorem State.onDat_dat (f : Dat → Dat) : (s.onDat f).dat = f s.dat := rfl
@[simp] theorem State.onDat_prt (f : Dat → Dat) : (s.onDat f).prt = s.prt := rfl
@[simp] theorem State.onDat_rng (f : Dat → Dat) : (s.onDat f).rng = s.rng := rfl
@[simp] theorem State.onDat_key (f : Dat → Dat) : (s.onDat f).key = s.key := rfl
@[simp] theorem State.onDat_ory (f : Dat → Dat) : (s.onDat f).ory = s.ory := rfl
@[simp] theorem State.onDat_ent (f : Dat → Dat) : (s.onDat f).ent = s.ent := rfl
@[simp] theorem State.onDat_mov (f : Dat → Dat) : (s.onDat f).mov = s.mov := rfl
@[simp] theorem State.onDat_mbx (f : Dat → Dat) : (s.onDat f).mbx = s.mbx := rfl
@[simp] theorem State.onDat_io (f : Dat → Dat) : (s.onDat f).io = s.io := rfl
@[simp] theorem State.onDat_eph (f : Dat → Dat) : (s.onDat f).eph = s.eph := rfl
@[simp] theorem State.onDat_glog (f : Dat → Dat) : (s.onDat f).glog = s.glog := rfl

@[simp] theorem State.onPrt_pending (f : Prt → Prt) : (s.onPrt f).pending = s.pending := rfl
@[simp] theorem State.onPrt_free (f : Prt → Prt) : (s.onPrt f).free = s.free := rfl
@[simp] theorem State.onPrt_blk (f : Prt → Prt) : (s.onPrt f).blk = s.blk := rfl
@[simp] theorem State.onPrt_ldr (f : Prt → Prt) : (s.onPrt f).ldr = s.ldr := rfl
@[simp] theorem State.onPrt_sch (f : Prt → Prt) : (s.onPrt f).sch = s.sch := rfl
@[simp] theorem State.onPrt_dat (f : Prt → Prt) : (s.onPrt f).dat = s.dat := rfl
@[simp] theorem State.onPrt_prt (f : Prt → Prt) : (s.onPrt f).prt = f s.prt := rfl
@[simp] theorem State.onPrt_rng (f : Prt → Prt) : (s.onPrt f).rng = s.rng := rfl
@[simp] theorem State.onPrt_key (f : Prt → Prt) : (s.onPrt f).key = s.key := rfl
@[simp] theorem State.onPrt_ory (f : Prt → Prt) : (s.onPrt f).ory = s.ory := rfl
@[simp] theorem State.onPrt_ent (f : Prt → Prt) : (s.onPrt f).ent = s.ent := rfl
@[simp] theorem State.onPrt_mov (f : Prt → Prt) : (s.onPrt f).mov = s.mov := rfl
@[simp] theorem State.onPrt_mbx (f : Prt → Prt) : (s.onPrt f).mbx = s.mbx := rfl
@[simp] theorem State.onPrt_io (f : Prt → Prt) : (s.onPrt f).io = s.io := rfl
@[simp] theorem State.onPrt_eph (f : Prt → Prt) : (s.onPrt f).eph = s.eph := rfl
@[simp] theorem State.onPrt_glog (f : Prt → Prt) : (s.onPrt f).glog = s.glog := rfl

@[simp] theorem State.onRng_pending (f : Rng → Rng) : (s.onRng f).pending = s.pending := rfl
@[simp] theorem State.onRng_free (f : Rng → Rng) : (s.onRng f).free = s.free := rfl
@[simp] theorem State.onRng_blk (f : Rng → Rng) : (s.onRng f).blk = s.blk := rfl
@[simp] theorem State.onRng_ldr (f : Rng → Rng) : (s.onRng f).ldr = s.ldr := rfl
@[simp] theorem State.onRng_sch (f : Rng → Rng) : (s.onRng f).sch = s.sch := rfl
@[simp] theorem State.onRng_dat (f : Rng → Rng) : (s.onRng f).dat = s.dat := rfl
@[simp] theorem State.onRng_prt (f : Rng → Rng) : (s.onRng f).prt = s.prt := rfl
@[simp] theorem State.onRng_rng (f : Rng → Rng) : (s.onRng f).rng = f s.rng := rfl
@[simp] theorem State.onRng_key (f : Rng → Rng) : (s.onRng f).key = s.key := rfl
@[simp] theorem State.onRng_ory (f : Rng → Rng) : (s.onRng f).ory = s.ory := rfl
@[simp] theorem State.onRng_ent (f : Rng → Rng) : (s.onRng f).ent = s.ent := rfl
@[simp] theorem State.onRng_mov (f : Rng → Rng) : (s.onRng f).mov = s.mov := rfl
@[simp] theorem State.onRng_mbx (f : Rng → Rng) : (s.onRng f).mbx = s.mbx := rfl
@[simp] theorem State.onRng_io (f : Rng → Rng) : (s.onRng f).io = s.io := rfl
@[simp] theorem State.onRng_eph (f : Rng → Rng) : (s.onRng f).eph = s.eph := rfl
@[simp] theorem State.onRng_glog (f : Rng → Rng) : (s.onRng f).glog = s.glog := rfl

@[simp] theorem State.onKey_pending (f : KeyU → KeyU) : (s.onKey f).pending = s.pending := rfl
@[simp] theorem State.onKey_free (f : KeyU → KeyU) : (s.onKey f).free = s.free := rfl
@[simp] theorem State.onKey_blk (f : KeyU → KeyU) : (s.onKey f).blk = s.blk := rfl
@[simp] theorem State.onKey_ldr (f : KeyU → KeyU) : (s.onKey f).ldr = s.ldr := rfl
@[simp] theorem State.onKey_sch (f : KeyU → KeyU) : (s.onKey f).sch = s.sch := rfl
@[simp] theorem State.onKey_dat (f : KeyU → KeyU) : (s.onKey f).dat = s.dat := rfl
@[simp] theorem State.onKey_prt (f : KeyU → KeyU) : (s.onKey f).prt = s.prt := rfl
@[simp] theorem State.onKey_rng (f : KeyU → KeyU) : (s.onKey f).rng = s.rng := rfl
@[simp] theorem State.onKey_key (f : KeyU → KeyU) : (s.onKey f).key = f s.key := rfl
@[simp] theorem State.onKey_ory (f : KeyU → KeyU) : (s.onKey f).ory = s.ory := rfl
@[simp] theorem State.onKey_ent (f : KeyU → KeyU) : (s.onKey f).ent = s.ent := rfl
@[simp] theorem State.onKey_mov (f : KeyU → KeyU) : (s.onKey f).mov = s.mov := rfl
@[simp] theorem State.onKey_mbx (f : KeyU → KeyU) : (s.onKey f).mbx = s.mbx := rfl
@[simp] theorem State.onKey_io (f : KeyU → KeyU) : (s.onKey f).io = s.io := rfl
@[simp] theorem State.onKey_eph (f : KeyU → KeyU) : (s.onKey f).eph = s.eph := rfl
@[simp] theorem State.onKey_glog (f : KeyU → KeyU) : (s.onKey f).glog = s.glog := rfl

@[simp] theorem State.onOry_pending (f : Ory → Ory) : (s.onOry f).pending = s.pending := rfl
@[simp] theorem State.onOry_free (f : Ory → Ory) : (s.onOry f).free = s.free := rfl
@[simp] theorem State.onOry_blk (f : Ory → Ory) : (s.onOry f).blk = s.blk := rfl
@[simp] theorem State.onOry_ldr (f : Ory → Ory) : (s.onOry f).ldr = s.ldr := rfl
@[simp] theorem State.onOry_sch (f : Ory → Ory) : (s.onOry f).sch = s.sch := rfl
@[simp] theorem State.onOry_dat (f : Ory → Ory) : (s.onOry f).dat = s.dat := rfl
@[simp] theorem State.onOry_prt (f : Ory → Ory) : (s.onOry f).prt = s.prt := rfl
@[simp] theorem State.onOry_rng (f : Ory → Ory) : (s.onOry f).rng = s.rng := rfl
@[simp] theorem State.onOry_key (f : Ory → Ory) : (s.onOry f).key = s.key := rfl
@[simp] theorem State.onOry_ory (f : Ory → Ory) : (s.onOry f).ory = f s.ory := rfl
@[simp] theorem State.onOry_ent (f : Ory → Ory) : (s.onOry f).ent = s.ent := rfl
@[simp] theorem State.onOry_mov (f : Ory → Ory) : (s.onOry f).mov = s.mov := rfl
@[simp] theorem State.onOry_mbx (f : Ory → Ory) : (s.onOry f).mbx = s.mbx := rfl
@[simp] theorem State.onOry_io (f : Ory → Ory) : (s.onOry f).io = s.io := rfl
@[simp] theorem State.onOry_eph (f : Ory → Ory) : (s.onOry f).eph = s.eph := rfl
@[simp] theorem State.onOry_glog (f : Ory → Ory) : (s.onOry f).glog = s.glog := rfl

@[simp] theorem State.onEnt_pending (f : Ent → Ent) : (s.onEnt f).pending = s.pending := rfl
@[simp] theorem State.onEnt_free (f : Ent → Ent) : (s.onEnt f).free = s.free := rfl
@[simp] theorem State.onEnt_blk (f : Ent → Ent) : (s.onEnt f).blk = s.blk := rfl
@[simp] theorem State.onEnt_ldr (f : Ent → Ent) : (s.onEnt f).ldr = s.ldr := rfl
@[simp] theorem State.onEnt_sch (f : Ent → Ent) : (s.onEnt f).sch = s.sch := rfl
@[simp] theorem State.onEnt_dat (f : Ent → Ent) : (s.onEnt f).dat = s.dat := rfl
@[simp] theorem State.onEnt_prt (f : Ent → Ent) : (s.onEnt f).prt = s.prt := rfl
@[simp] theorem State.onEnt_rng (f : Ent → Ent) : (s.onEnt f).rng = s.rng := rfl
@[simp] theorem State.onEnt_key (f : Ent → Ent) : (s.onEnt f).key = s.key := rfl
@[simp] theorem State.onEnt_ory (f : Ent → Ent) : (s.onEnt f).ory = s.ory := rfl
@[simp] theorem State.onEnt_ent (f : Ent → Ent) : (s.onEnt f).ent = f s.ent := rfl
@[simp] theorem State.onEnt_mov (f : Ent → Ent) : (s.onEnt f).mov = s.mov := rfl
@[simp] theorem State.onEnt_mbx (f : Ent → Ent) : (s.onEnt f).mbx = s.mbx := rfl
@[simp] theorem State.onEnt_io (f : Ent → Ent) : (s.onEnt f).io = s.io := rfl
@[simp] theorem State.onEnt_eph (f : Ent → Ent) : (s.onEnt f).eph = s.eph := rfl
@[simp] theorem State.onEnt_glog (f : Ent → Ent) : (s.onEnt f).glog = s.glog := rfl

@[simp] theorem State.onMov_pending (f : Mov → Mov) : (s.onMov f).pending = s.pending := rfl
@[simp] theorem State.onMov_free (f : Mov → Mov) : (s.onMov f).free = s.free := rfl
@[simp] theorem State.onMov_blk (f : Mov → Mov) : (s.onMov f).blk = s.blk := rfl
@[simp] theorem State.onMov_ldr (f : Mov → Mov) : (s.onMov f).ldr = s.ldr := rfl
@[simp] theorem State.onMov_sch (f : Mov → Mov) : (s.onMov f).sch = s.sch := rfl
@[simp] theorem State.onMov_dat (f : Mov → Mov) : (s.onMov f).dat = s.dat := rfl
@[simp] theorem State.onMov_prt (f : Mov → Mov) : (s.onMov f).prt = s.prt := rfl
@[simp] theorem State.onMov_rng (f : Mov → Mov) : (s.onMov f).rng = s.rng := rfl
@[simp] theorem State.onMov_key (f : Mov → Mov) : (s.onMov f).key = s.key := rfl
@[simp] theorem State.onMov_ory (f : Mov → Mov) : (s.onMov f).ory = s.ory := rfl
@[simp] theorem State.onMov_ent (f : Mov → Mov) : (s.onMov f).ent = s.ent := rfl
@[simp] theorem State.onMov_mov (f : Mov → Mov) : (s.onMov f).mov = f s.mov := rfl
@[simp] theorem State.onMov_mbx (f : Mov → Mov) : (s.onMov f).mbx = s.mbx := rfl
@[simp] theorem State.onMov_io (f : Mov → Mov) : (s.onMov f).io = s.io := rfl
@[simp] theorem State.onMov_eph (f : Mov → Mov) : (s.onMov f).eph = s.eph := rfl
@[simp] theorem State.onMov_glog (f : Mov → Mov) : (s.onMov f).glog = s.glog := rfl

@[simp] theorem State.onMbx_pending (f : Mbxs → Mbxs) : (s.onMbx f).pending = s.pending := rfl
@[simp] theorem State.onMbx_free (f : Mbxs → Mbxs) : (s.onMbx f).free = s.free := rfl
@[simp] theorem State.onMbx_blk (f : Mbxs → Mbxs) : (s.onMbx f).blk = s.blk := rfl
@[simp] theorem State.onMbx_ldr (f : Mbxs → Mbxs) : (s.onMbx f).ldr = s.ldr := rfl
@[simp] theorem State.onMbx_sch (f : Mbxs → Mbxs) : (s.onMbx f).sch = s.sch := rfl
@[simp] theorem State.onMbx_dat (f : Mbxs → Mbxs) : (s.onMbx f).dat = s.dat := rfl
@[simp] theorem State.onMbx_prt (f : Mbxs → Mbxs) : (s.onMbx f).prt = s.prt := rfl
@[simp] theorem State.onMbx_rng (f : Mbxs → Mbxs) : (s.onMbx f).rng = s.rng := rfl
@[simp] theorem State.onMbx_key (f : Mbxs → Mbxs) : (s.onMbx f).key = s.key := rfl
@[simp] theorem State.onMbx_ory (f : Mbxs → Mbxs) : (s.onMbx f).ory = s.ory := rfl
@[simp] theorem State.onMbx_ent (f : Mbxs → Mbxs) : (s.onMbx f).ent = s.ent := rfl
@[simp] theorem State.onMbx_mov (f : Mbxs → Mbxs) : (s.onMbx f).mov = s.mov := rfl
@[simp] theorem State.onMbx_mbx (f : Mbxs → Mbxs) : (s.onMbx f).mbx = f s.mbx := rfl
@[simp] theorem State.onMbx_io (f : Mbxs → Mbxs) : (s.onMbx f).io = s.io := rfl
@[simp] theorem State.onMbx_eph (f : Mbxs → Mbxs) : (s.onMbx f).eph = s.eph := rfl
@[simp] theorem State.onMbx_glog (f : Mbxs → Mbxs) : (s.onMbx f).glog = s.glog := rfl

@[simp] theorem State.onIo_pending (f : Io → Io) : (s.onIo f).pending = s.pending := rfl
@[simp] theorem State.onIo_free (f : Io → Io) : (s.onIo f).free = s.free := rfl
@[simp] theorem State.onIo_blk (f : Io → Io) : (s.onIo f).blk = s.blk := rfl
@[simp] theorem State.onIo_ldr (f : Io → Io) : (s.onIo f).ldr = s.ldr := rfl
@[simp] theorem State.onIo_sch (f : Io → Io) : (s.onIo f).sch = s.sch := rfl
@[simp] theorem State.onIo_dat (f : Io → Io) : (s.onIo f).dat = s.dat := rfl
@[simp] theorem State.onIo_prt (f : Io → Io) : (s.onIo f).prt = s.prt := rfl
@[simp] theorem State.onIo_rng (f : Io → Io) : (s.onIo f).rng = s.rng := rfl
@[simp] theorem State.onIo_key (f : Io → Io) : (s.onIo f).key = s.key := rfl
@[simp] theorem State.onIo_ory (f : Io → Io) : (s.onIo f).ory = s.ory := rfl
@[simp] theorem State.onIo_ent (f : Io → Io) : (s.onIo f).ent = s.ent := rfl
@[simp] theorem State.onIo_mov (f : Io → Io) : (s.onIo f).mov = s.mov := rfl
@[simp] theorem State.onIo_mbx (f : Io → Io) : (s.onIo f).mbx = s.mbx := rfl
@[simp] theorem State.onIo_io (f : Io → Io) : (s.onIo f).io = f s.io := rfl
@[simp] theorem State.onIo_eph (f : Io → Io) : (s.onIo f).eph = s.eph := rfl
@[simp] theorem State.onIo_glog (f : Io → Io) : (s.onIo f).glog = s.glog := rfl

@[simp] theorem State.onEph_pending (f : Eph → Eph) : (s.onEph f).pending = s.pending := rfl
@[simp] theorem State.onEph_free (f : Eph → Eph) : (s.onEph f).free = s.free := rfl
@[simp] theorem State.onEph_blk (f : Eph → Eph) : (s.onEph f).blk = s.blk := rfl
@[simp] theorem State.onEph_ldr (f : Eph → Eph) : (s.onEph f).ldr = s.ldr := rfl
@[simp] theorem State.onEph_sch (f : Eph → Eph) : (s.onEph f).sch = s.sch := rfl
@[simp] theorem State.onEph_dat (f : Eph → Eph) : (s.onEph f).dat = s.dat := rfl
@[simp] theorem State.onEph_prt (f : Eph → Eph) : (s.onEph f).prt = s.prt := rfl
@[simp] theorem State.onEph_rng (f : Eph → Eph) : (s.onEph f).rng = s.rng := rfl
@[simp] theorem State.onEph_key (f : Eph → Eph) : (s.onEph f).key = s.key := rfl
@[simp] theorem State.onEph_ory (f : Eph → Eph) : (s.onEph f).ory = s.ory := rfl
@[simp] theorem State.onEph_ent (f : Eph → Eph) : (s.onEph f).ent = s.ent := rfl
@[simp] theorem State.onEph_mov (f : Eph → Eph) : (s.onEph f).mov = s.mov := rfl
@[simp] theorem State.onEph_mbx (f : Eph → Eph) : (s.onEph f).mbx = s.mbx := rfl
@[simp] theorem State.onEph_io (f : Eph → Eph) : (s.onEph f).io = s.io := rfl
@[simp] theorem State.onEph_eph (f : Eph → Eph) : (s.onEph f).eph = f s.eph := rfl
@[simp] theorem State.onEph_glog (f : Eph → Eph) : (s.onEph f).glog = s.glog := rfl

@[simp] theorem State.onGlog_pending (f : Glog → Glog) : (s.onGlog f).pending = s.pending := rfl
@[simp] theorem State.onGlog_free (f : Glog → Glog) : (s.onGlog f).free = s.free := rfl
@[simp] theorem State.onGlog_blk (f : Glog → Glog) : (s.onGlog f).blk = s.blk := rfl
@[simp] theorem State.onGlog_ldr (f : Glog → Glog) : (s.onGlog f).ldr = s.ldr := rfl
@[simp] theorem State.onGlog_sch (f : Glog → Glog) : (s.onGlog f).sch = s.sch := rfl
@[simp] theorem State.onGlog_dat (f : Glog → Glog) : (s.onGlog f).dat = s.dat := rfl
@[simp] theorem State.onGlog_prt (f : Glog → Glog) : (s.onGlog f).prt = s.prt := rfl
@[simp] theorem State.onGlog_rng (f : Glog → Glog) : (s.onGlog f).rng = s.rng := rfl
@[simp] theorem State.onGlog_key (f : Glog → Glog) : (s.onGlog f).key = s.key := rfl
@[simp] theorem State.onGlog_ory (f : Glog → Glog) : (s.onGlog f).ory = s.ory := rfl
@[simp] theorem State.onGlog_ent (f : Glog → Glog) : (s.onGlog f).ent = s.ent := rfl
@[simp] theorem State.onGlog_mov (f : Glog → Glog) : (s.onGlog f).mov = s.mov := rfl
@[simp] theorem State.onGlog_mbx (f : Glog → Glog) : (s.onGlog f).mbx = s.mbx := rfl
@[simp] theorem State.onGlog_io (f : Glog → Glog) : (s.onGlog f).io = s.io := rfl
@[simp] theorem State.onGlog_eph (f : Glog → Glog) : (s.onGlog f).eph = s.eph := rfl
@[simp] theorem State.onGlog_glog (f : Glog → Glog) : (s.onGlog f).glog = f s.glog := rfl

@[simp] theorem State.draw_fst (k : Nat) : (s.draw k).1 = Config.freeNat k s.free := rfl
@[simp] theorem State.draw_free (k : Nat) : (s.draw k).2.free = s.free + 1 := rfl
@[simp] theorem State.draw_pending (k : Nat) : (s.draw k).2.pending = s.pending := rfl
@[simp] theorem State.draw_blk (k : Nat) : (s.draw k).2.blk = s.blk := rfl
@[simp] theorem State.draw_ldr (k : Nat) : (s.draw k).2.ldr = s.ldr := rfl
@[simp] theorem State.draw_sch (k : Nat) : (s.draw k).2.sch = s.sch := rfl
@[simp] theorem State.draw_dat (k : Nat) : (s.draw k).2.dat = s.dat := rfl
@[simp] theorem State.draw_prt (k : Nat) : (s.draw k).2.prt = s.prt := rfl
@[simp] theorem State.draw_rng (k : Nat) : (s.draw k).2.rng = s.rng := rfl
@[simp] theorem State.draw_key (k : Nat) : (s.draw k).2.key = s.key := rfl
@[simp] theorem State.draw_ory (k : Nat) : (s.draw k).2.ory = s.ory := rfl
@[simp] theorem State.draw_ent (k : Nat) : (s.draw k).2.ent = s.ent := rfl
@[simp] theorem State.draw_mov (k : Nat) : (s.draw k).2.mov = s.mov := rfl
@[simp] theorem State.draw_mbx (k : Nat) : (s.draw k).2.mbx = s.mbx := rfl
@[simp] theorem State.draw_io (k : Nat) : (s.draw k).2.io = s.io := rfl
@[simp] theorem State.draw_eph (k : Nat) : (s.draw k).2.eph = s.eph := rfl
@[simp] theorem State.draw_glog (k : Nat) : (s.draw k).2.glog = s.glog := rfl

end Sys2Proof.Machine
end

