-- ==== Sys2Proof/Laws/Contained.lean ====
section
/-! SUPPORT. What keeps a block contained: the updates that CONTAINMENT still makes, each shown to leave its secrets gone and
the block silent. -/

namespace Sys2Proof.Machine

variable {s : State}

theorem State.Contained.onPrt (h : s.Contained) (f : Prt → Prt) : (s.onPrt f).Contained := ⟨h.1, h.2, h.3, h.4, h.5, h.6⟩

theorem State.Contained.onMbx (h : s.Contained) (f : Mbxs → Mbxs) : (s.onMbx f).Contained := ⟨h.1, h.2, h.3, h.4, h.5, h.6⟩

theorem State.Contained.onChan (h : s.Contained) (c : Nat) (f : Mbx → Mbx) : (s.onChan c f).Contained := h.onMbx _

theorem State.Contained.onBlk (h : s.Contained) (f : Blk → Blk) (hm : ∀ b, (f b).mode = b.mode)
    (ha : ∀ b, (f b).alFatal = b.alFatal) (hw : ∀ b, (f b).wiped = b.wiped) : (s.onBlk f).Contained :=
  ⟨by simp [hm, h.mode], by simp [ha, h.alarm], by simp [hw, h.wiped], h.4, h.5, h.6⟩

theorem State.Contained.onIo (h : s.Contained) (f : Io → Io) (hm : ∀ i, (f i).msgs = i.msgs) : (s.onIo f).Contained :=
  ⟨h.1, h.2, h.3, h.4, by have := h.silent; simpa [State.silent, hm] using this, h.6⟩

/-- The Ephemeris takes no record. -/
theorem State.Contained.log (h : s.Contained) (code source part : Nat) (d : Bytes) : s.log code source part d = s := by
  have := h.logs
  simp only [State.closedLogs, Bool.and_eq_true] at this
  simp [State.log, State.logSev, State.ephPush, this.1.1.1]

theorem State.Contained.logReq (h : s.Contained) (code source part ring idx link word : Nat) :
    s.logReq code source part ring idx link word = s := by
  have := h.logs
  simp only [State.closedLogs, Bool.and_eq_true] at this
  simp [State.logReq, State.logAt, State.ephPush, this.1.1.1]

theorem State.Contained.live (h : s.Contained) : s.live = false := by simp [State.live, h.mode]

theorem State.Contained.serving (h : s.Contained) : s.serving = false := by simp [State.serving, h.mode]

theorem State.Contained.portActs (h : s.Contained) : s.portActs = false := by simp [State.portActs, h.mode]

theorem State.Contained.violation (h : s.Contained) (code source part : Nat) (r : Option Nat) (t : Bool) (v fid : Nat) :
    s.violation code source part r t v fid = s := by simp [State.violation, h.mode]

/-! ### Orrery, units, fabric -/

theorem State.Contained.freeGroup (h : s.Contained) (root : Nat) : (s.freeGroup root).Contained := by
  have h1 := h.secrets
  have h2 := h.silent
  have hc : s.ory.chans = [] := by
    simp only [State.secretsGone, Bool.and_eq_true, List.isEmpty_iff] at h1; exact h1.1.2
  have hm : s.mov.sdma = [] := by
    simp only [State.silent, Bool.and_eq_true, List.isEmpty_iff] at h2; exact h2.1.1.2
  have hf : s.freeGroup root = (s.onOry fun o => { o with
      threads := o.threads.zipIdx.map fun t => if (s.groupOf root).contains t.2 then s.restThread t.2 else t.1
      chans := [] }) := by
    simp [State.freeGroup, State.endThreads, hc, hm, State.onMov, State.onOry]
    show { s.mov with sdma := [] } = s.mov
    rw [← hm]
  rw [hf]
  refine ⟨h.1, h.2, h.3, ?_, h2, h.6⟩
  simp only [State.secretsGone, State.onOry, hc] at h1 ⊢
  simpa using h1

theorem State.Contained.foldl {α : Type} (f : State → α → State) (hf : ∀ s a, s.Contained → (f s a).Contained) (l : List α)
    (s : State) (h : s.Contained) : (l.foldl f s).Contained := by
  induction l generalizing s with
  | nil => exact h
  | cons a l ih => exact ih _ (hf _ _ h)

/-- Ports whose accesses have all issued and are to be discarded. -/
def portsShut (l : List Port) : Bool :=
  l.all fun p => p.reads.all (fun r => r.issued && r.discard) && p.writes.all (fun w => w.issued && w.given)

theorem State.Contained.ports (h : s.Contained) : portsShut s.mov.ports = true := by
  have := h.silent
  simp only [State.silent, Bool.and_eq_true] at this
  exact this.1.1.1.2

theorem State.Contained.onPorts (h : s.Contained) (f : List Port → List Port) (hf : portsShut (f s.mov.ports) = true) :
    (s.onMov fun m => { m with ports := f m.ports }).Contained := by
  refine ⟨h.1, h.2, h.3, h.4, ?_, h.6⟩
  have := h.silent
  simp only [State.silent, Bool.and_eq_true] at this ⊢
  exact ⟨⟨⟨⟨this.1.1.1.1, hf⟩, this.1.1.2⟩, this.1.2⟩, this.2⟩

theorem portsShut_updAt (f : Port → Port) (hf : ∀ p, portsShut [p] = true → portsShut [f p] = true) :
    ∀ (l : List Port) (n : Nat), portsShut l = true → portsShut (updAt l n f) = true
  | [], _, h => h
  | p :: l, 0, h => by
    simp only [portsShut, List.all_cons, Bool.and_eq_true] at h
    have := hf p (by simp only [portsShut, List.all_cons, List.all_nil, Bool.and_eq_true]; exact ⟨h.1, trivial⟩)
    simp only [portsShut, List.all_cons, List.all_nil, Bool.and_eq_true] at this
    simp only [updAt, portsShut, List.all_cons, Bool.and_eq_true]
    exact ⟨this.1, h.2⟩
  | p :: l, n + 1, h => by
    simp only [portsShut, List.all_cons, Bool.and_eq_true] at h
    simp only [updAt, portsShut, List.all_cons, Bool.and_eq_true]
    exact ⟨h.1, portsShut_updAt f hf l n h.2⟩

theorem Port.pump_shut (sil : Nat → Bool) (p : Port) (h : portsShut [p] = true) : p.pump sil = p := by
  simp only [portsShut, List.all_cons, List.all_nil, Bool.and_eq_true] at h
  have hw : (p.writes.all fun w => w.issued) = true := by
    simp only [List.all_eq_true, Bool.and_eq_true] at h ⊢
    exact fun w hw => (h.1.2 w hw).1
  have hr : (p.reads.all fun r => r.issued) = true := by
    simp only [List.all_eq_true, Bool.and_eq_true] at h ⊢
    exact fun r hr => (h.1.1 r hr).1
  simp only [Port.pump, hw, hr, if_true]

/-- Nothing that waits on a port issues. -/
theorem State.Contained.pump (h : s.Contained) : s.pump.Contained := by
  refine h.onPorts _ ?_
  have hp := h.ports
  have : (s.mov.ports.map fun p => p.pump s.silentFid) = s.mov.ports := by
    refine (List.map_congr_left fun p hp' => Port.pump_shut _ p ?_).trans (List.map_id _)
    simp only [portsShut, List.all_eq_true] at hp
    simp only [portsShut, List.all_cons, List.all_nil]
    simpa using hp p hp'
  rw [this]; exact hp

/-! ### The mailbox -/

theorem mget_mset_self {α : Type} (m : Map α) (k : Nat) (v : α) : mget (mset m k v) k = some v := by
  induction m with
  | nil => simp [mset, mget]
  | cons x m ih =>
    obtain ⟨a, w⟩ := x
    unfold mset
    split
    · rename_i h
      simp [mget, Nat.ne_of_lt h, ih]
    · split <;> simp [mget]

theorem State.Contained.wakeLevel (h : s.Contained) : s.wakeLevel.Contained := by
  unfold State.wakeLevel
  exact h.onBlk _ (fun _ => rfl) (fun _ => rfl) (fun _ => rfl)

theorem State.Contained.ackChan (h : s.Contained) (c : Nat) : (s.ackChan c).Contained := by
  unfold State.ackChan
  split
  · exact h
  · exact h
  · exact (h.onChan _ _).wakeLevel

/-- On a management channel no interrupt message is due. -/
theorem State.Contained.notifyOut (h : s.Contained) (b : Nat) (c : Nat) (hc : c < 16) : (s.notifyOut c b).Contained := by
  have hm : ∀ t : State, t.mbxIrq c = t := fun t => by simp [State.mbxIrq, hc]
  unfold State.notifyOut
  refine State.Contained.wakeLevel ?_
  split
  · unfold State.dbSet
    dsimp only
    split
    · rw [hm]; exact h.onChan _ _
    · exact h.onChan _ _
  · split
    · rw [hm]; exact h
    · exact h

theorem State.Contained.mbxLog (h : s.Contained) (code c a b : Nat) : s.mbxLog code c a b = s := h.log _ _ _ _

theorem State.Contained.reply (h : s.Contained) (c : Nat) (hc : c < 16) : (s.reply c).Contained := by
  unfold State.reply
  dsimp only
  split
  · exact h
  · rename_i ws _
    refine State.Contained.foldl _ (fun t a ht => ht.freeGroup a) _ _ ?_
    refine State.Contained.notifyOut ?_ _ _ hc
    split
    · rw [State.Contained.mbxLog (h.onChan _ _)]; exact h.onChan _ _
    · exact h.onChan _ _

theorem State.Contained.replyRes (h : s.Contained) (c res det : Nat) (w : List W32) : (s.replyRes c res det w).Contained := by
  unfold State.replyRes
  split
  · exact h.onChan _ _
  · exact h

theorem State.Contained.statusReply (h : s.Contained) (c : Nat) (hc : c < 16) : (s.statusReply c).Contained := by
  unfold State.statusReply
  refine State.Contained.reply ?_ c hc
  split <;> exact (h.onChan _ _).replyRes _ _ _ _

theorem State.chan_onChan_self (s : State) (c : Nat) (f : Mbx → Mbx) : (s.onChan c f).chan c = f (s.chan c) := by
  simp [State.chan, State.onChan, mget_mset_self]

theorem State.chan_wakeLevel (s : State) (c : Nat) : s.wakeLevel.chan c = s.chan c := rfl

theorem State.down_ackChan (s : State) (c : Nat) : ((s.ackChan c).chan c).down = (s.chan c).down := by
  unfold State.ackChan
  split
  · rfl
  · rfl
  · rw [State.chan_wakeLevel, State.chan_onChan_self]

/-- STATUS is answered at once, and no other message starts. -/
theorem State.Contained.goChan (h : s.Contained) (db : Bool) (hm : fld ((s.chan 0).down.getD 0 0).toNat 0 12 = mStatus) :
    (s.goChan 0 db).Contained := by
  have ha := h.ackChan 0
  have hd := s.down_ackChan 0
  unfold State.goChan
  split
  · exact h
  · exact h
  · generalize s.ackChan 0 = a at ha hd
    dsimp only
    generalize hb : (a.onChan 0 fun m => { m with msg := m.down, applied := false, reply := none, order := a.mbx.order
                                                  compat := decide (16 ≤ 0) && (s.chanVersion 0 == 1 || (s.chanVersion 0 == 0 && db)) }) = b
    have hbc : b.Contained := hb ▸ ha.onChan _ _
    have ht : (b.chan 0).type = mStatus := by
      subst hb
      rw [State.chan_onChan_self]
      simpa [Mbx.type, Mbx.word, hd] using hm
    generalize hk : (b.onMbx fun m => { m with order := m.order + 1 }) = k
    have hkc : k.Contained := hk ▸ hbc.onMbx _
    have hkt : (k.chan 0).type = mStatus := by subst hk; exact ht
    simp only [hkc.mode, hkt]
    simp only [beq_self_eq_true, Bool.and_true, Bool.not_true, Bool.and_false, Bool.or_false, ge_iff_le, Nat.not_le_of_lt (show 0 < 16 by decide), decide_false, Bool.false_and]
    simp
    split
    · split
      · exact hkc.statusReply 0 (by decide)
      · refine State.Contained.notifyOut ?_ 2 0 (by decide)
        rw [State.Contained.violation (hkc.onChan _ _)]; exact hkc.onChan _ _
    · exact hkc.onChan _ _

end Sys2Proof.Machine
end

