-- ==== Sys2Proof/Laws/Latched.lean ====
section
/-! SUPPORT. What is latched (Safety.lean) is left as it was by every operation of the block, and by every command but those
that `setsLatched` names: one lemma for each, in the order of the definitions. -/

namespace Sys2Proof.Machine

theorem latched_foldl {α : Type} (f : State → α → State) (h : ∀ s a, (f s a).latched = s.latched) (l : List α) (s : State) :
    (l.foldl f s).latched = s.latched := by
  induction l generalizing s with
  | nil => rfl
  | cons a l ih => simp [ih, h]
theorem latched_foldl1 {α β : Type} (f : State × β → α → State × β) (h : ∀ s a, (f s a).1.latched = s.1.latched) (l : List α)
    (s : State × β) : (l.foldl f s).1.latched = s.1.latched := by
  induction l generalizing s with
  | nil => rfl
  | cons a l ih => simp [ih, h]
@[simp] theorem State.onBlk_latched (s : State) (f : Blk → Blk) (h : ∀ b, (f b).lifecycle = b.lifecycle)
    (h2 : ∀ b, (f b).rpReset = b.rpReset) (h3 : ∀ b, (f b).tbValid = b.tbValid) (h4 : ∀ b, (f b).time = b.time) :
    (s.onBlk f).latched = s.latched := by
  simp [State.latched, h, h2, h3, h4]
@[simp] theorem State.onSch_latched (s : State) (f : Sch → Sch) (h : ∀ b, (f b).tick = b.tick)
    (h2 : ∀ b, (f b).cutDone = b.cutDone) (h3 : ∀ b, (f b).epochDone = b.epochDone) : (s.onSch f).latched = s.latched := by
  simp [State.latched, h, h2, h3]
@[simp] theorem State.onIo_latched (s : State) (f : Io → Io) (h : ∀ b, (f b).quadAck = b.quadAck)
    (h2 : ∀ b, (f b).oryAck = b.oryAck) (h3 : ∀ b, (f b).tapIr = b.tapIr) (h4 : ∀ b, (f b).tapDr = b.tapDr)
    (h5 : ∀ b, (f b).tapCap = b.tapCap) : (s.onIo f).latched = s.latched := by
  simp [State.latched, h, h2, h3, h4, h5]
@[simp] theorem State.onLdr_latched (s : State) (f : Ldr → Ldr) (h : ∀ b, (f b).owner = b.owner)
    (h2 : ∀ b, (f b).chosen = b.chosen) : (s.onLdr f).latched = s.latched := by
  simp [State.latched, h, h2]
@[simp] theorem State.draw_latched (s : State) (k : Nat) : (s.draw k).2.latched = s.latched := rfl
@[simp] theorem ite_latched (c : Prop) [Decidable c] (a b : State) :
    (if c then a else b).latched = if c then a.latched else b.latched := by split <;> rfl
@[simp] theorem State.onDat_latched (s : State) (f : Dat → Dat) : (s.onDat f).latched = s.latched := rfl
@[simp] theorem State.onPrt_latched (s : State) (f : Prt → Prt) : (s.onPrt f).latched = s.latched := rfl
@[simp] theorem State.onRng_latched (s : State) (f : Rng → Rng) : (s.onRng f).latched = s.latched := rfl
@[simp] theorem State.onKey_latched (s : State) (f : KeyU → KeyU) : (s.onKey f).latched = s.latched := rfl
@[simp] theorem State.onOry_latched (s : State) (f : Ory → Ory) : (s.onOry f).latched = s.latched := rfl
@[simp] theorem State.onEnt_latched (s : State) (f : Ent → Ent) : (s.onEnt f).latched = s.latched := rfl
@[simp] theorem State.onMov_latched (s : State) (f : Mov → Mov) : (s.onMov f).latched = s.latched := rfl
@[simp] theorem State.onMbx_latched (s : State) (f : Mbxs → Mbxs) : (s.onMbx f).latched = s.latched := rfl
@[simp] theorem State.onEph_latched (s : State) (f : Eph → Eph) : (s.onEph f).latched = s.latched := rfl
@[simp] theorem State.onGlog_latched (s : State) (f : Glog → Glog) : (s.onGlog f).latched = s.latched := rfl
@[simp] theorem State.onPart_latched (s : State) (p : Nat) (f : Part → Part) : (State.onPart s p f).latched = s.latched := by
  unfold State.onPart
  simp

@[simp] theorem State.wakeReq_latched (s : State) (c : Nat) : (State.wakeReq s c).latched = s.latched := by
  unfold State.wakeReq
  simp

@[simp] theorem State.setRing_latched (s : State) (r : Nat) (x : Ring) : (State.setRing s r x).latched = s.latched := by
  unfold State.setRing
  simp

@[simp] theorem State.onRing_latched (s : State) (r : Nat) (f : Ring → Ring) : (State.onRing s r f).latched = s.latched := by
  unfold State.onRing
  simp

@[simp] theorem State.onReq_latched (s : State) (ring idx : Nat) (f : Req → Req) : (State.onReq s ring idx f).latched = s.latched := by
  unfold State.onReq
  simp

@[simp] theorem State.onLink_latched (s : State) (id : LinkId) (f : Link → Link) : (State.onLink s id f).latched = s.latched := by
  unfold State.onLink
  simp

@[simp] theorem State.onUnit_latched (s : State) (u : UnitId) (f : UnitSt → UnitSt) : (State.onUnit s u f).latched = s.latched := by
  unfold State.onUnit
  (repeat' (first | (simp; done) | split | (dsimp only)))

@[simp] theorem State.ephPush_latched (s : State) (q : EphQ) : (State.ephPush s q).latched = s.latched := by
  unfold State.ephPush
  simp

@[simp] theorem State.logSev_latched (s : State) (sev code source part : Nat) (detail : Bytes) : (State.logSev s sev code source part detail).latched = s.latched := by
  unfold State.logSev
  simp

@[simp] theorem State.log_latched (s : State) (code source part : Nat) (detail : Bytes) : (State.log s code source part detail).latched = s.latched := by
  unfold State.log
  simp

@[simp] theorem State.logAt_latched (s : State) (code source part ring index link word : Nat) (req : Option (Nat × Nat)) : (State.logAt s code source part ring index link word req).latched = s.latched := by
  unfold State.logAt
  simp

@[simp] theorem State.logReq_latched (s : State) (code source part ring idx link : Nat) (word : Nat) : (State.logReq s code source part ring idx link word).latched = s.latched := by
  unfold State.logReq
  simp

@[simp] theorem State.countViolation_latched (s : State) (part : Nat) : (State.countViolation s part).latched = s.latched := by
  unfold State.countViolation
  simp

@[simp] theorem State.countRing_latched (s : State) (r : Nat) : (State.countRing s r).latched = s.latched := by
  unfold State.countRing
  simp

@[simp] theorem State.violation_latched (s : State) (code source part : Nat) (ring : Option Nat) (toward : Bool) (value fid : Nat) : (State.violation s code source part ring toward value fid).latched = s.latched := by
  unfold State.violation
  (repeat' (first | (simp; done) | split | (dsimp only)))

@[simp] theorem State.packetViolation_latched (s : State) (code ring idx link : Nat) : (State.packetViolation s code ring idx link).latched = s.latched := by
  unfold State.packetViolation
  simp

@[simp] theorem State.irqMsg_latched (s : State) (fid vector : Nat) : (State.irqMsg s fid vector).latched = s.latched := by
  unfold State.irqMsg
  simp

@[simp] theorem State.ringIrq_latched (s : State) (r : Nat) : (State.ringIrq s r).latched = s.latched := by
  unfold State.ringIrq
  simp

@[simp] theorem State.pump_latched (s : State) : (State.pump s).latched = s.latched := by
  unfold State.pump
  simp

@[simp] theorem State.write_latched (s : State) (addr : Nat) (data : Bytes) (fid cls : Nat) (purpose : WPurpose) (poison : List Nat) : (State.write s addr data fid cls purpose poison).latched = s.latched := by
  unfold State.write
  simp

@[simp] theorem State.vaultWrite_latched (s : State) (addr : Nat) (data : Bytes) (purpose : WPurpose) : (State.vaultWrite s addr data purpose).latched = s.latched := by
  unfold State.vaultWrite
  simp

@[simp] theorem State.onWrites_latched (s : State) (f : FWrite → Option FWrite) : (State.onWrites s f).latched = s.latched := by
  unfold State.onWrites
  simp

@[simp] theorem State.onReads_latched (s : State) (f : FRead → Option FRead) : (State.onReads s f).latched = s.latched := by
  unfold State.onReads
  simp

@[simp] theorem State.onPort_latched (s : State) (n : Nat) (f : Port → Port) : (State.onPort s n f).latched = s.latched := by
  unfold State.onPort
  simp

@[simp] theorem State.onChan_latched (s : State) (c : Nat) (f : Mbx → Mbx) : (State.onChan s c f).latched = s.latched := by
  unfold State.onChan
  simp

@[simp] theorem State.cause_latched (s : State) (r : Reason) (code : Nat) : (State.cause s r code).latched = s.latched := by
  unfold State.cause
  simp

@[simp] theorem State.readFailed_latched (s : State) (a : ReadAnswer) (addr part : Nat) (about : Option LinkId) : (State.readFailed s a addr part about).latched = s.latched := by
  unfold State.readFailed
  (repeat' (first | (simp; done) | split | (dsimp only)))

@[simp] theorem State.wholeAnswered_latched (s : State) (x : Reader) (a : ReadAnswer) (fail : Bool) (r : FRead) (bs : List ReadBeat) : (State.wholeAnswered s x a fail r bs).latched = s.latched := by
  unfold State.wholeAnswered
  (repeat' (first | (simp; done) | split | (dsimp only)))

@[simp] theorem State.readString_latched (s : State) (x : Reader) (exts : List (Nat × Nat)) (a : ReadAnswer) : (State.readString s x exts a).latched = s.latched := by
  unfold State.readString
  first
  | with_reducible rfl
  | (simp; done)
  | (repeat' (first | with_reducible rfl | (simp; done) | (with_reducible refine (latched_foldl _ ?_ _ _).trans ?_; intros) | (with_reducible refine (latched_foldl1 _ ?_ _ _).trans ?_; intros) | split | (dsimp only) | simp))

@[simp] theorem State.newReads_latched (s : State) : (State.newReads s).latched = s.latched := by
  unfold State.newReads
  simp

@[simp] theorem State.readAhead_latched (s : State) (id : LinkId) (want : Nat) : (State.readAhead s id want).latched = s.latched := by
  unfold State.readAhead
  (repeat' (first | (simp; done) | split | (dsimp only)))

@[simp] theorem State.readNext_latched (s : State) (id : LinkId) (e : Nat) : (State.readNext s id e).latched = s.latched := by
  unfold State.readNext
  (repeat' (first | (simp; done) | split | (dsimp only)))

@[simp] theorem State.readWaiting_latched (s : State) : (State.readWaiting s).latched = s.latched := by
  unfold State.readWaiting
  (repeat' (first | (simp; done) | (with_reducible refine (latched_foldl _ ?_ _ _).trans ?_; intros) | split | (dsimp only) | simp))

@[simp] theorem State.discardReads_latched (s : State) (p : RPurpose → Bool) : (State.discardReads s p).latched = s.latched := by
  unfold State.discardReads
  simp

@[simp] theorem State.emitAt_latched (s : State) (id : LinkId) (pos : Nat) (b : Bytes) (bad : Nat → Bool) (last : Bool) : (State.emitAt s id pos b bad last).latched = s.latched := by
  unfold State.emitAt
  (repeat' (first | (simp; done) | (with_reducible refine (latched_foldl _ ?_ _ _).trans ?_; intros) | split | (dsimp only) | simp))

@[simp] theorem State.emit_latched (s : State) (id : LinkId) (b : Bytes) (bad : Nat → Bool) (last : Bool) : (State.emit s id b bad last).latched = s.latched := by
  unfold State.emit
  (repeat' (first | (simp; done) | split | (dsimp only)))

@[simp] theorem State.unbind_latched (s : State) (id : LinkId) : (State.unbind s id).latched = s.latched := by
  unfold State.unbind
  simp

@[simp] theorem State.transient_latched (s : State) (u : UnitId) : (State.transient s u).latched = s.latched := by
  unfold State.transient
  (repeat' (first | (simp; done) | split | (dsimp only)))

@[simp] theorem State.healLink_latched (s : State) (id : LinkId) : (State.healLink s id).latched = s.latched := by
  unfold State.healLink
  (repeat' (first | (simp; done) | (with_reducible refine (latched_foldl _ ?_ _ _).trans ?_; intros) | split | (dsimp only) | simp))

@[simp] theorem State.dropOps_latched (s : State) (f : PageOp → Bool) : (State.dropOps s f).latched = s.latched := by
  unfold State.dropOps
  simp

@[simp] theorem State.dropWork_latched (s : State) (id : LinkId) : (State.dropWork s id).latched = s.latched := by
  unfold State.dropWork
  simp

@[simp] theorem State.forceStat_latched (s : State) (id : LinkId) (st : Stat) : (State.forceStat s id st).latched = s.latched := by
  unfold State.forceStat
  (repeat' (first | (simp; done) | split | (dsimp only)))

@[simp] theorem State.forceFrom_latched (s : State) (q : Req) (k : Nat) (st : Nat → Stat) : (State.forceFrom s q k st).latched = s.latched := by
  unfold State.forceFrom
  (repeat' (first | (simp; done) | (with_reducible refine (latched_foldl _ ?_ _ _).trans ?_; intros) | split | (dsimp only) | simp))

@[simp] theorem State.abandonAfter_latched (s : State) (id : LinkId) : (State.abandonAfter s id).latched = s.latched := by
  unfold State.abandonAfter
  (repeat' (first | (simp; done) | split | (dsimp only)))

@[simp] theorem State.dropWrites_latched (s : State) (id : LinkId) : (State.dropWrites s id).latched = s.latched := by
  unfold State.dropWrites
  simp

@[simp] theorem State.endAs_latched (s : State) (id : LinkId) (st : Stat) : (State.endAs s id st).latched = s.latched := by
  unfold State.endAs
  (repeat' (first | (simp; done) | split | (dsimp only)))

@[simp] theorem State.handOver_latched (s : State) (id : LinkId) : (State.handOver s id).latched = s.latched := by
  unfold State.handOver
  (repeat' (first | (simp; done) | split | (dsimp only)))

@[simp] theorem State.endLink_latched (s : State) (id : LinkId) (st : Stat) : (State.endLink s id st).latched = s.latched := by
  unfold State.endLink
  (repeat' (first | (simp; done) | split | (dsimp only)))

@[simp] theorem State.failData_latched (s : State) (id : LinkId) (st : Stat) : (State.failData s id st).latched = s.latched := by
  unfold State.failData
  simp

@[simp] theorem State.noteErr_latched (s : State) (id : LinkId) (st : Stat) : (State.noteErr s id st).latched = s.latched := by
  unfold State.noteErr
  simp

@[simp] theorem State.readTimedOut_latched (s : State) (id : LinkId) (st : Stat) : (State.readTimedOut s id st).latched = s.latched := by
  unfold State.readTimedOut
  simp

@[simp] theorem State.failStage_latched (s : State) (id : LinkId) (st : Stat) : (State.failStage s id st).latched = s.latched := by
  unfold State.failStage
  simp

@[simp] theorem State.loadKey_latched (s : State) (id : LinkId) : (State.loadKey s id).latched = s.latched := by
  unfold State.loadKey
  (repeat' (first | (simp; done) | split | (dsimp only)))

@[simp] theorem State.tagNow_latched (s : State) (id : LinkId) : (State.tagNow s id).latched = s.latched := by
  unfold State.tagNow
  (repeat' (first | (simp; done) | split | (dsimp only)))

@[simp] theorem State.laneEnd_latched (s : State) (id : LinkId) (l : Link) (single : Bool) (out tag : Bytes) : (State.laneEnd s id l single out tag).latched = s.latched := by
  unfold State.laneEnd
  simp

@[simp] theorem State.spill_latched (s : State) (q : Nat) : (State.spill s q).latched = s.latched := by
  unfold State.spill
  (repeat' (first | (simp; done) | split | (dsimp only)))

@[simp] theorem State.runLane_latched (s : State) (g : Grant) (l : Link) : (State.runLane s g l).latched = s.latched := by
  unfold State.runLane
  (repeat' (first | (simp; done) | split | (dsimp only)))

@[simp] theorem State.runDigest_latched (s : State) (g : Grant) (l : Link) : (State.runDigest s g l).latched = s.latched := by
  unfold State.runDigest
  simp

@[simp] theorem State.markBad_latched (s : State) (id : LinkId) (part list n : Nat) (es : List Elem) : (State.markBad s id part list n es).latched = s.latched := by
  unfold State.markBad
  (repeat' (first | (simp; done) | split | (dsimp only)))

@[simp] theorem State.markSourceAt_latched (s : State) (id : LinkId) (off : Nat) : (State.markSourceAt s id off).latched = s.latched := by
  unfold State.markSourceAt
  (repeat' (first | (simp; done) | split | (dsimp only)))

@[simp] theorem State.sourceBusError_latched (s : State) (id : LinkId) (off : Nat) : (State.sourceBusError s id off).latched = s.latched := by
  unfold State.sourceBusError
  (repeat' (first | (simp; done) | split | (dsimp only)))

@[simp] theorem State.markSource_latched (s : State) (id : LinkId) (a : ReadAnswer) : (State.markSource s id a).latched = s.latched := by
  unfold State.markSource
  (repeat' (first | (simp; done) | split | (dsimp only)))

@[simp] theorem State.destBusError_latched (s : State) (id : LinkId) (elem : Nat) : (State.destBusError s id elem).latched = s.latched := by
  unfold State.destBusError
  (repeat' (first | (simp; done) | split | (dsimp only)))

@[simp] theorem State.onThread_latched (s : State) (t : Nat) (f : Thread → Thread) : (State.onThread s t f).latched = s.latched := by
  unfold State.onThread
  simp

@[simp] theorem State.dmaStop_latched (s : State) (n : Nat) : (State.dmaStop s n).latched = s.latched := by
  unfold State.dmaStop
  simp

@[simp] theorem State.endThreads_latched (s : State) (ids : List Nat) : (State.endThreads s ids).latched = s.latched := by
  unfold State.endThreads
  (repeat' (first | (simp; done) | (with_reducible refine (latched_foldl _ ?_ _ _).trans ?_; intros) | split | (dsimp only) | simp))

@[simp] theorem State.freeGroup_latched (s : State) (root : Nat) : (State.freeGroup s root).latched = s.latched := by
  unfold State.freeGroup
  simp

@[simp] theorem State.moveThread_latched (s : State) (a b : Nat) : (State.moveThread s a b).latched = s.latched := by
  unfold State.moveThread
  (repeat' (first | (simp; done) | split | (dsimp only)))

@[simp] theorem State.stopBatch_latched (s : State) (id : LinkId) : (State.stopBatch s id).latched = s.latched := by
  unfold State.stopBatch
  simp

@[simp] theorem State.wipeJob_latched (s : State) (id : LinkId) : (State.wipeJob s id).latched = s.latched := by
  unfold State.wipeJob
  (repeat' (first | (simp; done) | split | (dsimp only)))

@[simp] theorem State.killJob_latched (s : State) (id : LinkId) : (State.killJob s id).latched = s.latched := by
  unfold State.killJob
  simp

@[simp] theorem State.killJobs_latched (s : State) (p : Nat) : (State.killJobs s p).latched = s.latched := by
  unfold State.killJobs
  (repeat' (first | (simp; done) | (with_reducible refine (latched_foldl _ ?_ _ _).trans ?_; intros) | split | (dsimp only) | simp))

@[simp] theorem State.dropReqs_latched (s : State) (p : Req → Bool) : (State.dropReqs s p).latched = s.latched := by
  unfold State.dropReqs
  (repeat' (first | (simp; done) | (with_reducible refine (latched_foldl _ ?_ _ _).trans ?_; intros) | split | (dsimp only) | simp))

@[simp] theorem State.flushRing_latched (s : State) (r : Nat) : (State.flushRing s r).latched = s.latched := by
  unfold State.flushRing
  (repeat' (first | (simp; done) | split | (dsimp only)))

@[simp] theorem State.countRecord_latched (s : State) (q : Req) (l : Link) (st : Stat) (last : Bool) : (State.countRecord s q l st last).latched = s.latched := by
  unfold State.countRecord
  simp

@[simp] theorem State.onInst_latched (s : State) (i : Nat) (f : Inst → Inst) : (State.onInst s i f).latched = s.latched := by
  unfold State.onInst
  simp

@[simp] theorem State.instWait_latched (s : State) (i : Nat) : (State.instWait s i).latched = s.latched := by
  unfold State.instWait
  simp

@[simp] theorem State.instDrop_latched (s : State) (i : Nat) : (State.instDrop s i).latched = s.latched := by
  unfold State.instDrop
  simp

theorem latched_foldlD {α : Type} (f : DPlan → α → DPlan) (h : ∀ p a, (f p a).s.latched = p.s.latched) (l : List α)
    (p : DPlan) : (l.foldl f p).s.latched = p.s.latched := by
  induction l generalizing p with
  | nil => rfl
  | cons a l ih => simp [ih, h]
theorem latched_foldlD1 {α : Type} (f : DPlan × List Item → α → DPlan × List Item) (h : ∀ p a, (f p a).1.s.latched = p.1.s.latched) (l : List α)
    (p : DPlan × List Item) : (l.foldl f p).1.s.latched = p.1.s.latched := by
  induction l generalizing p with
  | nil => rfl
  | cons a l ih => simp [ih, h]
@[simp] theorem planContinue_latched (t c : Nat) (p : DPlan) (x : Item) : (planContinue t c p x).1.s.latched = p.s.latched := by
  unfold planContinue
  (repeat' (first | (simp; done) | split | (dsimp only)))

@[simp] theorem DPlan.place_latched (p : DPlan) (t : Nat) (x : Item) (sealedW : Bool) : (DPlan.place p t x sealedW).1.s.latched = p.s.latched := by
  unfold DPlan.place
  (repeat' (first | (simp; done) | split | (dsimp only)))

@[simp] theorem State.countWait_latched (s : State) (id : LinkId) : (State.countWait s id).latched = s.latched := by
  unfold State.countWait
  simp

@[simp] theorem DPlan.waitBlock_latched (p : DPlan) (id : LinkId) (i : Nat) : (DPlan.waitBlock p id i).s.latched = p.s.latched := by
  unfold DPlan.waitBlock
  simp

@[simp] theorem DPlan.work_latched (p : DPlan) (t : Nat) (id : LinkId) (x : Item) (sealedW : Bool) : (DPlan.work p t id x sealedW).1.s.latched = p.s.latched := by
  unfold DPlan.work
  (repeat' (first | (simp; done) | split | (dsimp only)))

@[simp] theorem State.patternFill_latched (s : State) : (State.patternFill s).latched = s.latched := by
  unfold State.patternFill
  simp

@[simp] theorem State.drbgStart_latched (s : State) (t : Nat) : (State.drbgStart s t).s.latched = s.latched := by
  unfold State.drbgStart
  first
  | with_reducible rfl
  | (simp; done)
  | (repeat' (first | with_reducible rfl | (simp; done) | (with_reducible refine (latched_foldl _ ?_ _ _).trans ?_; intros) | (with_reducible refine (latched_foldl1 _ ?_ _ _).trans ?_; intros) | (with_reducible refine (latched_foldlD _ ?_ _ _).trans ?_; intros) | (with_reducible refine (latched_foldlD1 _ ?_ _ _).trans ?_; intros) | split | (dsimp only) | simp))

@[simp] theorem DPlan.instantiate_latched (p : DPlan) (t lo hi : Nat) : (DPlan.instantiate p t lo hi).s.latched = p.s.latched := by
  unfold DPlan.instantiate
  first
  | with_reducible rfl
  | (simp; done)
  | (repeat' (first | with_reducible rfl | (simp; done) | (with_reducible refine (latched_foldl _ ?_ _ _).trans ?_; intros) | (with_reducible refine (latched_foldl1 _ ?_ _ _).trans ?_; intros) | (with_reducible refine (latched_foldlD _ ?_ _ _).trans ?_; intros) | (with_reducible refine (latched_foldlD1 _ ?_ _ _).trans ?_; intros) | split | (dsimp only) | simp))

@[simp] theorem DPlan.uninstantiate_latched (p : DPlan) (t : Nat) : (DPlan.uninstantiate p t).s.latched = p.s.latched := by
  unfold DPlan.uninstantiate
  first
  | with_reducible rfl
  | (simp; done)
  | (repeat' (first | with_reducible rfl | (simp; done) | (with_reducible refine (latched_foldl _ ?_ _ _).trans ?_; intros) | (with_reducible refine (latched_foldl1 _ ?_ _ _).trans ?_; intros) | (with_reducible refine (latched_foldlD _ ?_ _ _).trans ?_; intros) | (with_reducible refine (latched_foldlD1 _ ?_ _ _).trans ?_; intros) | split | (dsimp only) | simp))

@[simp] theorem DPlan.drawSpill_latched (p : DPlan) (t : Nat) : (DPlan.drawSpill p t).s.latched = p.s.latched := by
  unfold DPlan.drawSpill
  (repeat' (first | (simp; done) | split | (dsimp only)))

@[simp] theorem DPlan.ahead_latched (p : DPlan) (t : Nat) : (DPlan.ahead p t).s.latched = p.s.latched := by
  unfold DPlan.ahead
  first
  | with_reducible rfl
  | (simp; done)
  | (repeat' (first | with_reducible rfl | (simp; done) | (with_reducible refine (latched_foldl _ ?_ _ _).trans ?_; intros) | (with_reducible refine (latched_foldl1 _ ?_ _ _).trans ?_; intros) | (with_reducible refine (latched_foldlD _ ?_ _ _).trans ?_; intros) | (with_reducible refine (latched_foldlD1 _ ?_ _ _).trans ?_; intros) | split | (dsimp only) | simp))

@[simp] theorem State.giveBytes_latched (s : State) (id : LinkId) (out : Bytes) : (State.giveBytes s id out).latched = s.latched := by
  unfold State.giveBytes
  (repeat' (first | (simp; done) | split | (dsimp only)))

@[simp] theorem State.seedCheck_latched (s : State) : (State.seedCheck s).latched = s.latched := by
  unfold State.seedCheck
  simp

@[simp] theorem State.itemDone_latched (s : State) (x : Item) : (State.itemDone s x).latched = s.latched := by
  unfold State.itemDone
  (repeat' (first | (simp; done) | split | (dsimp only)))

@[simp] theorem State.coreDone_latched (s : State) (c : Nat) : (State.coreDone s c).latched = s.latched := by
  unfold State.coreDone
  (repeat' (first | (simp; done) | split | (dsimp only)))

@[simp] theorem State.coresDone_latched (s : State) : (State.coresDone s).latched = s.latched := by
  unfold State.coresDone
  (repeat' (first | (simp; done) | (with_reducible refine (latched_foldl _ ?_ _ _).trans ?_; intros) | split | (dsimp only) | simp))

theorem execDrbgItemDone_latched (c : Nat) (s : State) : ∀ z, execDrbgItemDone c s = .next z → z.latched = s.latched := by
  intro z h0
  unfold execDrbgItemDone at h0
  cases h0
  simp

@[simp] theorem State.runItemOf_latched (s : State) (id : LinkId) (op : Nat) : (State.runItemOf s id op).latched = s.latched := by
  unfold State.runItemOf
  (repeat' (first | (simp; done) | (with_reducible refine (latched_foldl _ ?_ _ _).trans ?_; intros) | split | (dsimp only) | simp))

theorem execRandom_latched (id : LinkId) (s : State) : ∀ z, execRandom id s = .next z → z.latched = s.latched := by
  intro z h0
  unfold execRandom at h0
  cases h0
  simp

theorem execReseed_latched (id : LinkId) (s : State) : ∀ z, execReseed id s = .next z → z.latched = s.latched := by
  intro z h0
  unfold execReseed at h0
  cases h0
  simp

theorem execEntropyWaitExpiry_latched (id : LinkId) (s : State) : ∀ z, execEntropyWaitExpiry id s = .next z → z.latched = s.latched := by
  intro z h0
  unfold execEntropyWaitExpiry at h0
  cases h0
  (repeat' (first | (simp; done) | split | (dsimp only)))

@[simp] theorem State.stager_latched (s : State) : (State.stager s).2.latched = s.latched := by
  unfold State.stager
  simp

@[simp] theorem State.logKey_latched (s : State) (code part : Nat) (detail : Bytes) : (State.logKey s code part detail).latched = s.latched := by
  unfold State.logKey
  simp

@[simp] theorem State.logKeyReq_latched (s : State) (code part : Nat) (v : VJob) : (State.logKeyReq s code part v).latched = s.latched := by
  unfold State.logKeyReq
  simp

@[simp] theorem State.setPage_latched (s : State) (x : LPage) : (State.setPage s x).latched = s.latched := by
  unfold State.setPage
  simp

@[simp] theorem State.opsNext_latched (s : State) : (State.opsNext s).latched = s.latched := by
  unfold State.opsNext
  simp

@[simp] theorem State.writePage_latched (s : State) (p n : Nat) (why : WPurpose) (us : List PageUpd) : (State.writePage s p n why us).latched = s.latched := by
  unfold State.writePage
  simp

@[simp] theorem State.opWrite_latched (s : State) (o : PageOp) (x : LPage) : (State.opWrite s o x).latched = s.latched := by
  unfold State.opWrite
  simp

@[simp] theorem State.onSlot_latched (s : State) (k : Nat × Nat × Nat) (f : KSlot → KSlot) : (State.onSlot s k f).latched = s.latched := by
  unfold State.onSlot
  simp

@[simp] theorem State.wipeSlot_latched (s : State) (k : Nat × Nat × Nat) : (State.wipeSlot s k).latched = s.latched := by
  unfold State.wipeSlot
  simp

@[simp] theorem State.wipePart_latched (s : State) (p : Nat) : (State.wipePart s p).latched = s.latched := by
  unfold State.wipePart
  simp

@[simp] theorem State.dropUnusable_latched (s : State) (p : Nat) : (State.dropUnusable s p).latched = s.latched := by
  unfold State.dropUnusable
  (repeat' (first | (simp; done) | (with_reducible refine (latched_foldl _ ?_ _ _).trans ?_; intros) | split | (dsimp only) | simp))

@[simp] theorem State.pageBad_latched (s : State) (p n : Nat) : (State.pageBad s p n).latched = s.latched := by
  unfold State.pageBad
  (repeat' (first | (simp; done) | (with_reducible refine (latched_foldl _ ?_ _ _).trans ?_; intros) | split | (dsimp only) | simp))

@[simp] theorem State.takePage_latched (s : State) (p n : Nat) (a : ReadAnswer) (id : LinkId) : (State.takePage s p n a id).1.latched = s.latched := by
  unfold State.takePage
  (repeat' (first | (simp; done) | split | (dsimp only)))

@[simp] theorem State.ledgerWrite_latched (s : State) (k : Nat × Nat × Nat) (why : LedgerWhy) (v : Nat) (clean : Bool) : (State.ledgerWrite s k why v clean).latched = s.latched := by
  unfold State.ledgerWrite
  simp

@[simp] theorem State.makeRoom_latched (s : State) (p : Nat) : (State.makeRoom s p).1.latched = s.latched := by
  unfold State.makeRoom
  (repeat' (first | (simp; done) | split | (dsimp only)))

@[simp] theorem State.placeKey_latched (s : State) (p i g : Nat) (c : Bytes) : (State.placeKey s p i g c).latched = s.latched := by
  unfold State.placeKey
  simp

@[simp] theorem State.makeHRoom_latched (s : State) (p : Nat) : (State.makeHRoom s p).1.latched = s.latched := by
  unfold State.makeHRoom
  (repeat' (first | (simp; done) | split | (dsimp only)))

@[simp] theorem State.placeStates_latched (s : State) (p i g hash : Nat) (mat : Bytes) : (State.placeStates s p i g hash mat).latched = s.latched := by
  unfold State.placeStates
  simp

@[simp] theorem State.stageWaiters_latched (s : State) (k : Nat × Nat × Nat) : (State.stageWaiters s k).latched = s.latched := by
  unfold State.stageWaiters
  simp

theorem execLedgerReservationAck_latched (p i : Nat) (s : State) : ∀ z, execLedgerReservationAck p i s = .next z → z.latched = s.latched := by
  intro z h0
  unfold execLedgerReservationAck at h0
  cases h0
  (repeat' (first | (simp; done) | split | (dsimp only)))

theorem execLedgerWriteRetry_latched (p i : Nat) (s : State) : ∀ z, execLedgerWriteRetry p i s = .next z → z.latched = s.latched := by
  intro z h0
  unfold execLedgerWriteRetry at h0
  cases h0
  (repeat' (first | (simp; done) | split | (dsimp only)))

@[simp] theorem State.ledgerFailed_latched (s : State) (p i : Nat) : (State.ledgerFailed s p i).latched = s.latched := by
  unfold State.ledgerFailed
  (repeat' (first | (simp; done) | (with_reducible refine (latched_foldl _ ?_ _ _).trans ?_; intros) | split | (dsimp only) | simp))

@[simp] theorem State.ledgerStep_latched (s : State) (v : VJob) : (State.ledgerStep s v).latched = s.latched := by
  unfold State.ledgerStep
  simp

@[simp] theorem State.vaultStep_latched (s : State) (v : VJob) : (State.vaultStep s v).latched = s.latched := by
  unfold State.vaultStep
  (repeat' (first | (simp; done) | split | (dsimp only)))

@[simp] theorem State.vaultBegin_latched (s : State) (v : VJob) : (State.vaultBegin s v).latched = s.latched := by
  unfold State.vaultBegin
  simp

@[simp] theorem State.onVJob_latched (s : State) (id : LinkId) (f : VJob → VJob) : (State.onVJob s id f).latched = s.latched := by
  unfold State.onVJob
  simp

@[simp] theorem State.dropVJob_latched (s : State) (id : LinkId) : (State.dropVJob s id).latched = s.latched := by
  unfold State.dropVJob
  simp

@[simp] theorem State.opsReady_latched (s : State) (id : LinkId) : (State.opsReady s id).latched = s.latched := by
  unfold State.opsReady
  (repeat' (first | (simp; done) | split | (dsimp only)))

@[simp] theorem State.vaultAnswered_latched (s : State) (id : LinkId) : (State.vaultAnswered s id).latched = s.latched := by
  unfold State.vaultAnswered
  (repeat' (first | (simp; done) | split | (dsimp only)))

@[simp] theorem State.vaultFailed_latched (s : State) (n : Nat) (w : FWrite) (id : LinkId) : (State.vaultFailed s n w id).latched = s.latched := by
  unfold State.vaultFailed
  simp

@[simp] theorem State.opTagFails_latched (s : State) (o : PageOp) : (State.opTagFails s o).latched = s.latched := by
  unfold State.opTagFails
  (repeat' (first | (simp; done) | split | (dsimp only)))

@[simp] theorem State.onOp_latched (s : State) (o : PageOp) (f : PageOp → PageOp) : (State.onOp s o f).latched = s.latched := by
  unfold State.onOp
  simp

@[simp] theorem State.opReadFails_latched (s : State) (o : PageOp) (late : Bool) : (State.opReadFails s o late).latched = s.latched := by
  unfold State.opReadFails
  (repeat' (first | (simp; done) | split | (dsimp only)))

@[simp] theorem State.opReady_latched (s : State) (o : PageOp) (x : LPage) : (State.opReady s o x).latched = s.latched := by
  unfold State.opReady
  (repeat' (first | (simp; done) | split | (dsimp only)))

@[simp] theorem State.opPart_latched (s : State) (o : PageOp) (addr : Nat) (b : Bytes) : (State.opPart s o addr b).latched = s.latched := by
  unfold State.opPart
  (repeat' (first | (simp; done) | split | (dsimp only)))

@[simp] theorem State.pageArrived_latched (s : State) (p n addr : Nat) (a : ReadAnswer) : (State.pageArrived s p n addr a).latched = s.latched := by
  unfold State.pageArrived
  (repeat' (first | (simp; done) | split | (dsimp only)))

@[simp] theorem State.vaultRepeat_latched (s : State) : (State.vaultRepeat s).latched = s.latched := by
  unfold State.vaultRepeat
  simp

@[simp] theorem State.vaultResume_latched (s : State) : (State.vaultResume s).latched = s.latched := by
  unfold State.vaultResume
  (repeat' (first | (simp; done) | (with_reducible refine (latched_foldl _ ?_ _ _).trans ?_; intros) | split | (dsimp only) | simp))

@[simp] theorem State.readKey_latched (s : State) (id : LinkId) (p g i : Nat) (r : VaultReads) :
    (s.readKey id p g i r).1.latched = s.latched := by
  unfold State.readKey
  dsimp only
  generalize hs : s.readString _ _ r.context = u
  have h : u.latched = s.latched := by rw [← hs, State.readString_latched]
  clear hs
  generalize ansBytes r.context 256 = ct
  split
  · exact h
  · split
    · exact h
    · rename_i c _
      generalize hv : (if needsExt (ctxType c) = true then u.readString _ _ r.extended else u) = v
      have hv : v.latched = s.latched := by rw [← hv]; split <;> simp [h]
      split
      · exact hv
      · split
        · exact hv
        · split <;> simp [hv]

@[simp] theorem State.stageOperating_latched (s : State) (id : LinkId) (p g i : Nat) (r : VaultReads) : (State.stageOperating s id p g i r).1.latched = s.latched := by
  unfold State.stageOperating
  (repeat' (first | (simp; done) | split | (dsimp only)))

@[simp] theorem State.targetCheck_latched (s : State) (id : LinkId) (p i : Nat) (r : VaultReads) (same : Bool) : (State.targetCheck s id p i r same).1.latched = s.latched := by
  unfold State.targetCheck
  (repeat' (first | (simp; done) | split | (dsimp only)))

@[simp] theorem State.quotaCheck_latched (s : State) (id : LinkId) (p : Nat) (r : VaultReads) (read : Bool) : (State.quotaCheck s id p r read).1.latched = s.latched := by
  unfold State.quotaCheck
  (repeat' (first | (simp; done) | split | (dsimp only)))

@[simp] theorem State.createCheck_latched (s : State) (id : LinkId) (p : Nat) (h : Hdr) (blob : Bytes) (opPage : Option Nat) (op : Option Stat) (r : VaultReads) : (State.createCheck s id p h blob opPage op r).1.latched = s.latched := by
  unfold State.createCheck
  (repeat' (first | (simp; done) | split | (dsimp only)))

@[simp] theorem State.stageStates_latched (s : State) (p g i : Nat) (h : Hdr) (c : Bytes) : (State.stageStates s p g i h c).1.latched = s.latched := by
  unfold State.stageStates
  (repeat' (first | (simp; done) | split | (dsimp only)))

@[simp] theorem State.holdKey_latched (s : State) (id : LinkId) (k : Nat × Nat × Nat) (c : Bytes) : (State.holdKey s id k c).latched = s.latched := by
  unfold State.holdKey
  simp

@[simp] theorem State.takeBlob_latched (s : State) (id : LinkId) (p g : Nat) (l : Link) (a : ReadAnswer) : (State.takeBlob s id p g l a).1.latched = s.latched := by
  unfold State.takeBlob
  (repeat' (first | (simp; done) | split | (dsimp only)))

@[simp] theorem State.stageLink_latched (s : State) (id : LinkId) (q : Req) (l : Link) (r : VaultReads) : (State.stageLink s id q l r).latched = s.latched := by
  unfold State.stageLink
  (repeat' (first | (simp; done) | split | (dsimp only)))

theorem execKeyStaging_latched (id : LinkId) (r : VaultReads) (s : State) : ∀ z, execKeyStaging id r s = .next z → z.latched = s.latched := by
  intro z h0
  unfold execKeyStaging at h0
  cases h0
  (repeat' (first | (simp; done) | split | (dsimp only)))

@[simp] theorem State.createKey_latched (s : State) (id : LinkId) : (State.createKey s id).latched = s.latched := by
  unfold State.createKey
  (repeat' (first | (simp; done) | split | (dsimp only)))

@[simp] theorem State.createOf_latched (s : State) (op : Nat) (id : LinkId) : (State.createOf s op id).latched = s.latched := by
  unfold State.createOf
  (repeat' (first | (simp; done) | split | (dsimp only)))

theorem execKeyGenerate_latched (id : LinkId) (s : State) : ∀ z, execKeyGenerate id s = .next z → z.latched = s.latched := by
  intro z h0
  unfold execKeyGenerate at h0
  cases h0
  simp

theorem execKeyImport_latched (id : LinkId) (s : State) : ∀ z, execKeyImport id s = .next z → z.latched = s.latched := by
  intro z h0
  unfold execKeyImport at h0
  cases h0
  simp

theorem execKeyDerive_latched (id : LinkId) (s : State) : ∀ z, execKeyDerive id s = .next z → z.latched = s.latched := by
  intro z h0
  unfold execKeyDerive at h0
  cases h0
  simp

theorem execKeyRetire_latched (id : LinkId) (s : State) : ∀ z, execKeyRetire id s = .next z → z.latched = s.latched := by
  intro z h0
  unfold execKeyRetire at h0
  cases h0
  (repeat' (first | (simp; done) | split | (dsimp only)))

@[simp] theorem State.readerFails_latched (s : State) (id : LinkId) : (State.readerFails s id).latched = s.latched := by
  unfold State.readerFails
  simp

@[simp] theorem State.slotLost_latched (s : State) (state : Bool) (k : Nat × Nat × Nat) (reader : Option LinkId) : (State.slotLost s state k reader).latched = s.latched := by
  unfold State.slotLost
  (repeat' (first | (simp; done) | split | (dsimp only)))

@[simp] theorem State.storeLost_latched (s : State) (p : Nat) (reader : Option LinkId) : (State.storeLost s p reader).latched = s.latched := by
  unfold State.storeLost
  (repeat' (first | (simp; done) | split | (dsimp only)))

theorem execCacheUncorrectable_latched (cache : KeyCacheId) (p i : Nat) (reader : Option LinkId) (s : State) : ∀ z, execCacheUncorrectable cache p i reader s = .next z → z.latched = s.latched := by
  intro z h0
  unfold execCacheUncorrectable at h0
  cases h0
  (repeat' (first | (simp; done) | split | (dsimp only)))

@[simp] theorem State.respond_latched (s : State) (v : W32) : (State.respond s v).latched = s.latched := by
  unfold State.respond
  simp

@[simp] theorem State.wrote_latched (s : State) : (State.wrote s).latched = s.latched := by
  unfold State.wrote
  simp

@[simp] theorem State.refuse_latched (s : State) (who : Accessor) (addr : Nat) (ring : Option Nat) : (State.refuse s who addr ring).latched = s.latched := by
  unfold State.refuse
  simp

@[simp] theorem State.dropDoorbell_latched (s : State) (who : Accessor) (r code value : Nat) : (State.dropDoorbell s who r code value).latched = s.latched := by
  unfold State.dropDoorbell
  simp

@[simp] theorem State.doorbell_latched (s : State) (who : Accessor) (r addr value : Nat) (go : State → State) (h : ∀ s, (go s).latched = s.latched) : (State.doorbell s who r addr value go).latched = s.latched := by
  unfold State.doorbell
  first
  | with_reducible rfl
  | (simp [h]; done)
  | (repeat' (first | with_reducible rfl | (simp [h]; done) | (with_reducible refine (latched_foldl _ ?_ _ _).trans ?_; intros) | (with_reducible refine (latched_foldl1 _ ?_ _ _).trans ?_; intros) | (with_reducible refine (latched_foldlD _ ?_ _ _).trans ?_; intros) | (with_reducible refine (latched_foldlD1 _ ?_ _ _).trans ?_; intros) | split | (dsimp only) | simp))

theorem execProducerWrite_latched (who : Accessor) (r : Nat) (value : W32) (s : State) : ∀ z, execProducerWrite who r value s = .next z → z.latched = s.latched := by
  intro z h0
  unfold execProducerWrite at h0
  cases h0
  first
  | with_reducible rfl
  | (simp; done)
  | (repeat' (first | with_reducible rfl | (simp; done) | (with_reducible refine (latched_foldl _ ?_ _ _).trans ?_; intros) | (with_reducible refine (latched_foldl1 _ ?_ _ _).trans ?_; intros) | (with_reducible refine (latched_foldlD _ ?_ _ _).trans ?_; intros) | (with_reducible refine (latched_foldlD1 _ ?_ _ _).trans ?_; intros) | (with_reducible refine State.doorbell_latched _ _ _ _ _ _ ?_; intros) | split | (dsimp only) | simp))

theorem execConsumerWrite_latched (who : Accessor) (r : Nat) (value : W32) (s : State) : ∀ z, execConsumerWrite who r value s = .next z → z.latched = s.latched := by
  intro z h0
  unfold execConsumerWrite at h0
  cases h0
  simp

theorem execAbortWrite_latched (who : Accessor) (r : Nat) (value : W32) (s : State) : ∀ z, execAbortWrite who r value s = .next z → z.latched = s.latched := by
  intro z h0
  unfold execAbortWrite at h0
  cases h0
  simp

@[simp] theorem State.cacheRing_latched (s : State) (r : Nat) : (State.cacheRing s r).latched = s.latched := by
  unfold State.cacheRing
  simp

theorem execRingContextMiss_latched (r : Nat) (a : ReadAnswer) (s : State) : ∀ z, execRingContextMiss r a s = .next z → z.latched = s.latched := by
  intro z h0
  unfold execRingContextMiss at h0
  cases h0
  (repeat' (first | (simp; done) | split | (dsimp only)))

@[simp] theorem State.abortTidy_latched (s : State) (r : Nat) : (State.abortTidy s r).latched = s.latched := by
  unfold State.abortTidy
  simp

@[simp] theorem State.beginLink_latched (s : State) (id : LinkId) : (State.beginLink s id).latched = s.latched := by
  unfold State.beginLink
  (repeat' (first | (simp; done) | split | (dsimp only)))

@[simp] theorem State.chainFetched_latched (s : State) (q : Req) (own : List (Option Stat)) : (State.chainFetched s q own).latched = s.latched := by
  unfold State.chainFetched
  (repeat' (first | (simp; done) | (with_reducible refine (latched_foldl _ ?_ _ _).trans ?_; intros) | split | (dsimp only) | simp))

@[simp] theorem State.abortFrom_latched (s : State) (q : Req) (k : Nat) (st : Nat → Stat) : (State.abortFrom s q k st).latched = s.latched := by
  unfold State.abortFrom
  simp

@[simp] theorem State.addLink_latched (s : State) (r idx arrival : Nat) (l : Link) (chain : Bool) : (State.addLink s r idx arrival l chain).latched = s.latched := by
  unfold State.addLink
  simp

@[simp] theorem State.takePacket_latched (s : State) (r : Nat) (hb : Bytes) (inl : ReadAnswer) : (State.takePacket s r hb inl).latched = s.latched := by
  unfold State.takePacket
  simp

@[simp] theorem State.headerFailed_latched (s : State) (r : Nat) : (State.headerFailed s r).latched = s.latched := by
  unfold State.headerFailed
  simp

@[simp] theorem State.fetchAt_latched (s : State) (r : Nat) (reads : FetchReads) : (State.fetchAt s r reads).latched = s.latched := by
  unfold State.fetchAt
  (repeat' (first | (simp; done) | split | (dsimp only)))

theorem execRingFetch_latched (r : Nat) (reads : FetchReads) (s : State) : ∀ z, execRingFetch r reads s = .next z → z.latched = s.latched := by
  intro z h0
  unfold execRingFetch at h0
  cases h0
  simp

theorem execHeaderReread_latched (r : Nat) (reads : FetchReads) (s : State) : ∀ z, execHeaderReread r reads s = .next z → z.latched = s.latched := by
  intro z h0
  unfold execHeaderReread at h0
  cases h0
  simp

theorem execChainIncomplete_latched (r : Nat) (s : State) : ∀ z, execChainIncomplete r s = .next z → z.latched = s.latched := by
  intro z h0
  unfold execChainIncomplete at h0
  cases h0
  (repeat' (first | (simp; done) | split | (dsimp only)))

theorem execCqStall_latched (r : Nat) (s : State) : ∀ z, execCqStall r s = .next z → z.latched = s.latched := by
  intro z h0
  unfold execCqStall at h0
  cases h0
  simp

theorem execGatherListRead_latched (id : LinkId) (src dst : ReadAnswer) (s : State) : ∀ z, execGatherListRead id src dst s = .next z → z.latched = s.latched := by
  intro z h0
  unfold execGatherListRead at h0
  cases h0
  (repeat' (first | (simp; done) | split | (dsimp only)))

@[simp] theorem State.enterHold_latched (s : State) (r : Nat) : (State.enterHold s r).latched = s.latched := by
  unfold State.enterHold
  (repeat' (first | (simp; done) | (with_reducible refine (latched_foldl _ ?_ _ _).trans ?_; intros) | split | (dsimp only) | simp))

@[simp] theorem State.retire_latched (s : State) (r : Nat) : (State.retire s r).latched = s.latched := by
  unfold State.retire
  simp

@[simp] theorem State.violNext_latched (s : State) (q : Req) (k : Nat) : (State.violNext s q k).latched = s.latched := by
  unfold State.violNext
  (repeat' (first | (simp; done) | split | (dsimp only)))

theorem execCompletionRecordWrite_latched (r : Nat) (s : State) : ∀ z, execCompletionRecordWrite r s = .next z → z.latched = s.latched := by
  intro z h0
  unfold execCompletionRecordWrite at h0
  cases h0
  (repeat' (first | (simp; done) | split | (dsimp only)))

@[simp] theorem State.nextHeld_latched (s : State) (r : Nat) : (State.nextHeld s r).latched = s.latched := by
  unfold State.nextHeld
  (repeat' (first | (simp; done) | split | (dsimp only)))

theorem execRecordWriteRetry_latched (r : Nat) (s : State) : ∀ z, execRecordWriteRetry r s = .next z → z.latched = s.latched := by
  intro z h0
  unfold execRecordWriteRetry at h0
  cases h0
  simp

@[simp] theorem State.recordVisible_latched (s : State) (r : Nat) (irq : Bool) : (State.recordVisible s r irq).latched = s.latched := by
  unfold State.recordVisible
  simp

theorem execIrqTicksTrigger_latched (r : Nat) (s : State) : ∀ z, execIrqTicksTrigger r s = .next z → z.latched = s.latched := by
  intro z h0
  unfold execIrqTicksTrigger at h0
  cases h0
  (repeat' (first | (simp; done) | split | (dsimp only)))

theorem execInterruptMessage_latched (fid : Nat) (s : State) : ∀ z, execInterruptMessage fid s = .next z → z.latched = s.latched := by
  intro z h0
  unfold execInterruptMessage at h0
  cases h0
  (repeat' (first | (simp; done) | split | (dsimp only)))

@[simp] theorem State.replyOk_latched (s : State) (ch : Nat) (words : List W32) : (State.replyOk s ch words).latched = s.latched := by
  unfold State.replyOk
  simp

@[simp] theorem State.closeRing_latched (s : State) (r : Nat) : (State.closeRing s r).latched = s.latched := by
  unfold State.closeRing
  simp

theorem execRingDrainComplete_latched (r : Nat) (s : State) : ∀ z, execRingDrainComplete r s = .next z → z.latched = s.latched := by
  intro z h0
  unfold execRingDrainComplete at h0
  cases h0
  (repeat' (first | (simp; done) | split | (dsimp only)))

theorem execRingOpenComplete_latched (r : Nat) (s : State) : ∀ z, execRingOpenComplete r s = .next z → z.latched = s.latched := by
  intro z h0
  unfold execRingOpenComplete at h0
  cases h0
  (repeat' (first | (simp; done) | split | (dsimp only)))

@[simp] theorem State.prepRead_latched (s : State) (id : LinkId) (q : Req) (l : Link) (r : JobReads) : (State.prepRead s id q l r).1.latched = s.latched := by
  unfold State.prepRead
  (repeat' (first | (simp; done) | (with_reducible refine (latched_foldl _ ?_ _ _).trans ?_; intros) | split | (dsimp only) | simp))

theorem execJobPreparation_latched (id : LinkId) (r : JobReads) (s : State) : ∀ z, execJobPreparation id r s = .next z → z.latched = s.latched := by
  intro z h0
  unfold execJobPreparation at h0
  cases h0
  (repeat' (first | (simp; done) | split | (dsimp only)))

@[simp] theorem State.jobBuild_latched (s : State) (id : LinkId) : (State.jobBuild s id).latched = s.latched := by
  unfold State.jobBuild
  (repeat' (first | (simp; done) | split | (dsimp only)))

@[simp] theorem State.finishJob_latched (s : State) (id : LinkId) (l : Link) (j : Job) : (State.finishJob s id l j).latched = s.latched := by
  unfold State.finishJob
  (repeat' (first | (simp; done) | split | (dsimp only)))

@[simp] theorem State.runJob_latched (s : State) (id : LinkId) (l : Link) : (State.runJob s id l).latched = s.latched := by
  unfold State.runJob
  (repeat' (first | (simp; done) | split | (dsimp only)))

theorem execJobWipe_latched (id : LinkId) (s : State) : ∀ z, execJobWipe id s = .next z → z.latched = s.latched := by
  intro z h0
  unfold execJobWipe at h0
  cases h0
  (repeat' (first | (simp; done) | split | (dsimp only)))

@[simp] theorem State.mbxIrq_latched (s : State) (c : Nat) : (State.mbxIrq s c).latched = s.latched := by
  unfold State.mbxIrq
  (repeat' (first | (simp; done) | split | (dsimp only)))

@[simp] theorem State.dbSet_latched (s : State) (c bit' : Nat) : (State.dbSet s c bit').latched = s.latched := by
  unfold State.dbSet
  simp

@[simp] theorem State.wakeLevel_latched (s : State) : (State.wakeLevel s).latched = s.latched := by
  unfold State.wakeLevel
  simp

@[simp] theorem State.notifyOut_latched (s : State) (c bit' : Nat) : (State.notifyOut s c bit').latched = s.latched := by
  unfold State.notifyOut
  simp

@[simp] theorem State.mbxLog_latched (s : State) (code c a b : Nat) : (State.mbxLog s code c a b).latched = s.latched := by
  unfold State.mbxLog
  simp

@[simp] theorem State.commit_latched (s : State) (c : Nat) : (State.commit s c).latched = s.latched := by
  unfold State.commit
  simp

@[simp] theorem State.dropExercise_latched (s : State) (c : Nat) : (State.dropExercise s c).latched = s.latched := by
  unfold State.dropExercise
  (repeat' (first | (simp; done) | (with_reducible refine (latched_foldl _ ?_ _ _).trans ?_; intros) | split | (dsimp only) | simp))

@[simp] theorem State.detach_latched (s : State) (c : Nat) : (State.detach s c).latched = s.latched := by
  unfold State.detach
  simp

@[simp] theorem State.abortMsg_latched (s : State) (c cause : Nat) : (State.abortMsg s c cause).latched = s.latched := by
  unfold State.abortMsg
  (repeat' (first | (simp; done) | (with_reducible refine (latched_foldl _ ?_ _ _).trans ?_; intros) | split | (dsimp only) | simp))

@[simp] theorem State.replyRes_latched (s : State) (c res det : Nat) (words : List W32) : (State.replyRes s c res det words).latched = s.latched := by
  unfold State.replyRes
  simp

@[simp] theorem State.reply_latched (s : State) (c : Nat) : (State.reply s c).latched = s.latched := by
  unfold State.reply
  (repeat' (first | (simp; done) | (with_reducible refine (latched_foldl _ ?_ _ _).trans ?_; intros) | split | (dsimp only) | simp))

theorem execMailboxReply_latched (c : Nat) (s : State) : ∀ z, execMailboxReply c s = .next z → z.latched = s.latched := by
  intro z h0
  unfold execMailboxReply at h0
  cases h0
  simp

@[simp] theorem State.ackChan_latched (s : State) (c : Nat) : (State.ackChan s c).latched = s.latched := by
  unfold State.ackChan
  (repeat' (first | (simp; done) | split | (dsimp only)))

@[simp] theorem State.statusReply_latched (s : State) (c : Nat) : (State.statusReply s c).latched = s.latched := by
  unfold State.statusReply
  (repeat' (first | (simp; done) | split | (dsimp only)))

@[simp] theorem State.goChan_latched (s : State) (c : Nat) (db : Bool) : (State.goChan s c db).latched = s.latched := by
  unfold State.goChan
  (repeat' (first | (simp; done) | split | (dsimp only)))

@[simp] theorem State.mailWrite_latched (s : State) (who : Accessor) (c off : Nat) (go : State → State) (h : ∀ s, (go s).latched = s.latched) : (State.mailWrite s who c off go).latched = s.latched := by
  unfold State.mailWrite
  first
  | with_reducible rfl
  | (simp [h]; done)
  | (repeat' (first | with_reducible rfl | (simp [h]; done) | (with_reducible refine (latched_foldl _ ?_ _ _).trans ?_; intros) | (with_reducible refine (latched_foldl1 _ ?_ _ _).trans ?_; intros) | (with_reducible refine (latched_foldlD _ ?_ _ _).trans ?_; intros) | (with_reducible refine (latched_foldlD1 _ ?_ _ _).trans ?_; intros) | (with_reducible refine State.doorbell_latched _ _ _ _ _ _ ?_; intros) | split | (dsimp only) | simp))

@[simp] theorem State.ctrlWrite_latched (s : State) (c : Nat) (v : W32) : (State.ctrlWrite s c v).latched = s.latched := by
  unfold State.ctrlWrite
  simp

theorem execGo_latched (who : Accessor) (c : Nat) (v : W32) (s : State) : ∀ z, execGo who c v s = .next z → z.latched = s.latched := by
  intro z h0
  unfold execGo at h0
  cases h0
  simp

theorem execAck_latched (who : Accessor) (c : Nat) (v : W32) (s : State) : ∀ z, execAck who c v s = .next z → z.latched = s.latched := by
  intro z h0
  unfold execAck at h0
  cases h0
  simp

@[simp] theorem State.dbDown_latched (s : State) (who : Accessor) (c : Nat) (act : State → State) (h : ∀ s, (act s).latched = s.latched) : (State.dbDown s who c act).latched = s.latched := by
  unfold State.dbDown
  first
  | with_reducible rfl
  | (simp [h]; done)
  | (repeat' (first | with_reducible rfl | (simp [h]; done) | (with_reducible refine (latched_foldl _ ?_ _ _).trans ?_; intros) | (with_reducible refine (latched_foldl1 _ ?_ _ _).trans ?_; intros) | (with_reducible refine (latched_foldlD _ ?_ _ _).trans ?_; intros) | (with_reducible refine (latched_foldlD1 _ ?_ _ _).trans ?_; intros) | (with_reducible refine State.doorbell_latched _ _ _ _ _ _ ?_; intros) | (with_reducible refine State.mailWrite_latched _ _ _ _ _ ?_; intros) | split | (dsimp only) | simp))

theorem execCompatDoorbellMsg_latched (who : Accessor) (c : Nat) (s : State) : ∀ z, execCompatDoorbellMsg who c s = .next z → z.latched = s.latched := by
  intro z h0
  unfold execCompatDoorbellMsg at h0
  cases h0
  simp

theorem execCompatDoorbellAck_latched (who : Accessor) (c : Nat) (s : State) : ∀ z, execCompatDoorbellAck who c s = .next z → z.latched = s.latched := by
  intro z h0
  unfold execCompatDoorbellAck at h0
  cases h0
  simp

theorem execMbDbMaskClear_latched (who : Accessor) (c : Nat) (v : W32) (s : State) : ∀ z, execMbDbMaskClear who c v s = .next z → z.latched = s.latched := by
  intro z h0
  unfold execMbDbMaskClear at h0
  cases h0
  simp

@[simp] theorem State.modeChanged_latched (s : State) : (State.modeChanged s).latched = s.latched := by
  unfold State.modeChanged
  (repeat' (first | (simp; done) | (with_reducible refine (latched_foldl _ ?_ _ _).trans ?_; intros) | split | (dsimp only) | simp))

@[simp] theorem State.clearChan_latched (s : State) (p : Nat) : (State.clearChan s p).latched = s.latched := by
  unfold State.clearChan
  (repeat' (first | (simp; done) | split | (dsimp only)))

@[simp] theorem State.markDue_latched (s : State) (det : Nat) (u : UnitId) : (State.markDue s det u).latched = s.latched := by
  unfold State.markDue
  simp

@[simp] theorem State.eclipse_latched (s : State) (u : UnitId) (code : Nat) : (State.eclipse s u code).latched = s.latched := by
  unfold State.eclipse
  (repeat' (first | (simp; done) | split | (dsimp only)))

@[simp] theorem State.refund_latched (s : State) (g : Grant) : (State.refund s g).latched = s.latched := by
  unfold State.refund
  simp

@[simp] theorem State.withdraw_latched (s : State) (id : LinkId) : (State.withdraw s id).latched = s.latched := by
  unfold State.withdraw
  (repeat' (first | (simp; done) | (with_reducible refine (latched_foldl _ ?_ _ _).trans ?_; intros) | split | (dsimp only) | simp))

@[simp] theorem State.rewind_latched (s : State) (id : LinkId) : (State.rewind s id).latched = s.latched := by
  unfold State.rewind
  (repeat' (first | (simp; done) | split | (dsimp only)))

@[simp] theorem State.retryOk_latched (s : State) (id : LinkId) : (State.retryOk s id).latched = s.latched := by
  unfold State.retryOk
  simp

@[simp] theorem State.retryFailed_latched (s : State) (id : LinkId) (units : List UnitId) (src : Nat) : (State.retryFailed s id units src).latched = s.latched := by
  unfold State.retryFailed
  (repeat' (first | (simp; done) | (with_reducible refine (latched_foldl _ ?_ _ _).trans ?_; intros) | split | (dsimp only) | simp))

@[simp] theorem State.enterRetry_latched (s : State) (id : LinkId) (det : Nat) (units charged : List UnitId) : (State.enterRetry s id det units charged).latched = s.latched := by
  unfold State.enterRetry
  (repeat' (first | (simp; done) | split | (dsimp only)))

@[simp] theorem State.beatsBefore_latched (s : State) (g : Grant) (n : Nat) : (State.beatsBefore s g n).latched = s.latched := by
  unfold State.beatsBefore
  (repeat' (first | (simp; done) | split | (dsimp only)))

@[simp] theorem State.strike_latched (s : State) (f : UnitFault) (g : Grant) : (State.strike s f g).latched = s.latched := by
  unfold State.strike
  (repeat' (first | (simp; done) | split | (dsimp only)))

@[simp] theorem State.strikeAll_latched (s : State) (fs : List UnitFault) : (State.strikeAll s fs).latched = s.latched := by
  unfold State.strikeAll
  (repeat' (first | (simp; done) | (with_reducible refine (latched_foldl _ ?_ _ _).trans ?_; intros) | split | (dsimp only) | simp))

theorem execCommandFault_latched (u : Nat) (s : State) : ∀ z, execCommandFault u s = .next z → z.latched = s.latched := by
  intro z h0
  unfold execCommandFault at h0
  cases h0
  (repeat' (first | (simp; done) | split | (dsimp only)))

@[simp] theorem State.loseHeld_latched (s : State) (u : UnitId) (det : Nat) : (State.loseHeld s u det).latched = s.latched := by
  unfold State.loseHeld
  (repeat' (first | (simp; done) | (with_reducible refine (latched_foldl _ ?_ _ _).trans ?_; intros) | split | (dsimp only) | simp))

theorem execSelfTest_latched (u : UnitId) (pass : Bool) (s : State) : ∀ z, execSelfTest u pass s = .next z → z.latched = s.latched := by
  intro z h0
  unfold execSelfTest at h0
  cases h0
  simp

@[simp] theorem State.testEnd_latched (s : State) (u : UnitId) : (State.testEnd s u).latched = s.latched := by
  unfold State.testEnd
  (repeat' (first | (simp; done) | (with_reducible refine (latched_foldl _ ?_ _ _).trans ?_; intros) | split | (dsimp only) | simp))

@[simp] theorem State.testsEnd_latched (s : State) : (State.testsEnd s).latched = s.latched := by
  unfold State.testsEnd
  (repeat' (first | (simp; done) | (with_reducible refine (latched_foldl _ ?_ _ _).trans ?_; intros) | split | (dsimp only) | simp))

@[simp] theorem State.testsCut_latched (s : State) : (State.testsCut s).latched = s.latched := by
  unfold State.testsCut
  (repeat' (first | (simp; done) | (with_reducible refine (latched_foldl _ ?_ _ _).trans ?_; intros) | split | (dsimp only) | simp))

@[simp] theorem State.testsBegin_latched (s : State) : (State.testsBegin s).latched = s.latched := by
  unfold State.testsBegin
  (repeat' (first | (simp; done) | (with_reducible refine (latched_foldl _ ?_ _ _).trans ?_; intros) | split | (dsimp only) | simp))

@[simp] theorem State.seat_latched (s : State) (h a b : Nat) : (State.seat s h a b).latched = s.latched := by
  unfold State.seat
  simp

@[simp] theorem State.seatStatics_latched (s : State) : (State.seatStatics s).latched = s.latched := by
  unfold State.seatStatics
  (repeat' (first | (simp; done) | (with_reducible refine (latched_foldl _ ?_ _ _).trans ?_; intros) | split | (dsimp only) | simp))

@[simp] theorem State.restoreCore_latched (s : State) (c : Nat) : (State.restoreCore s c).latched = s.latched := by
  unfold State.restoreCore
  (repeat' (first | (simp; done) | (with_reducible refine (latched_foldl _ ?_ _ _).trans ?_; intros) | split | (dsimp only) | simp))

@[simp] theorem State.loseLink_latched (s : State) (id : LinkId) : (State.loseLink s id).latched = s.latched := by
  unfold State.loseLink
  (repeat' (first | (simp; done) | (with_reducible refine (latched_foldl _ ?_ _ _).trans ?_; intros) | split | (dsimp only) | simp))

@[simp] theorem State.restage_latched (s : State) (q : Nat) : (State.restage s q).latched = s.latched := by
  unfold State.restage
  simp

theorem execQuadrantLoss_latched (q : Nat) (s : State) : ∀ z, execQuadrantLoss q s = .next z → z.latched = s.latched := by
  intro z h0
  unfold execQuadrantLoss at h0
  cases h0
  (repeat' (first | (simp; done) | (with_reducible refine (latched_foldl _ ?_ _ _).trans ?_; intros) | split | (dsimp only) | simp))

@[simp] theorem State.reduceFloors_latched (s : State) : (State.reduceFloors s).latched = s.latched := by
  unfold State.reduceFloors
  simp

@[simp] theorem State.newPatterns_latched (s : State) (epoch : Nat) : (State.newPatterns s epoch).latched = s.latched := by
  unfold State.newPatterns
  simp

@[simp] theorem State.takeShares_latched (s : State) : (State.takeShares s).latched = s.latched := by
  unfold State.takeShares
  simp

@[simp] theorem State.forEpoch_latched (s : State) : (State.forEpoch s).latched = s.latched := by
  unfold State.forEpoch
  simp

@[simp] theorem State.backFrom_latched (new old : State) : (State.backFrom new old).latched = new.latched := by
  unfold State.backFrom
  simp

@[simp] theorem State.moveWindows_latched (s : State) (c : Nat) : (State.moveWindows s c).latched = s.latched := by
  unfold State.moveWindows
  (repeat' (first | (simp; done) | (with_reducible refine (latched_foldl _ ?_ _ _).trans ?_; intros) | split | (dsimp only) | simp))

@[simp] theorem State.lightWindows_latched (s : State) : (State.lightWindows s).latched = s.latched := by
  unfold State.lightWindows
  (repeat' (first | (simp; done) | (with_reducible refine (latched_foldl _ ?_ _ _).trans ?_; intros) | split | (dsimp only) | simp))

@[simp] theorem State.residCut_latched (s : State) : (State.residCut s).latched = s.latched := by
  unfold State.residCut
  simp

@[simp] theorem State.prepBuffered_latched (s : State) : (State.prepBuffered s).latched = s.latched := by
  unfold State.prepBuffered
  (repeat' (first | (simp; done) | (with_reducible refine (latched_foldl _ ?_ _ _).trans ?_; intros) | split | (dsimp only) | simp))

@[simp] theorem State.noteElig_latched (s : State) (x : Cand) : (State.noteElig s x).1.latched = s.latched := by
  unfold State.noteElig
  simp

@[simp] theorem State.noteLate_latched (s : State) (q : Req) (seg : Nat) : (State.noteLate s q seg).latched = s.latched := by
  unfold State.noteLate
  (repeat' (first | (simp; done) | split | (dsimp only)))

@[simp] theorem State.scan_latched (s : State) (q : Req) : (State.scan s q).1.latched = s.latched := by
  unfold State.scan
  (repeat' (first | (simp; done) | split | (dsimp only)))

@[simp] theorem State.scanAll_latched (s : State) : (State.scanAll s).1.latched = s.latched := by
  unfold State.scanAll
  first
  | with_reducible rfl
  | (simp; done)
  | (repeat' (first | with_reducible rfl | (simp; done) | (with_reducible refine (latched_foldl _ ?_ _ _).trans ?_; intros) | (with_reducible refine (latched_foldl1 _ ?_ _ _).trans ?_; intros) | (with_reducible refine (latched_foldlD _ ?_ _ _).trans ?_; intros) | (with_reducible refine (latched_foldlD1 _ ?_ _ _).trans ?_; intros) | (with_reducible refine State.doorbell_latched _ _ _ _ _ _ ?_; intros) | (with_reducible refine State.mailWrite_latched _ _ _ _ _ ?_; intros) | (with_reducible refine State.dbDown_latched _ _ _ _ ?_; intros) | split | (dsimp only) | simp))

theorem latched_foldlG {α : Type} (f : GPlan → α → GPlan) (h : ∀ p a, (f p a).s.latched = p.s.latched) (l : List α)
    (p : GPlan) : (l.foldl f p).s.latched = p.s.latched := by
  induction l generalizing p with
  | nil => rfl
  | cons a l ih => simp [ih, h]
@[simp] theorem GPlan.block_latched (w : GPlan) (c : Nat) (x : Win) : (GPlan.block w c x).s.latched = w.s.latched := by
  unfold GPlan.block
  (repeat' (first | (simp; done) | split | (dsimp only)))

@[simp] theorem GPlan.begin_latched (w : GPlan) (c : Nat) : (GPlan.begin w c).s.latched = w.s.latched := by
  unfold GPlan.begin
  first
  | with_reducible rfl
  | (simp; done)
  | (repeat' (first | with_reducible rfl | (simp; done) | (with_reducible refine (latched_foldl _ ?_ _ _).trans ?_; intros) | (with_reducible refine (latched_foldl1 _ ?_ _ _).trans ?_; intros) | (with_reducible refine (latched_foldlD _ ?_ _ _).trans ?_; intros) | (with_reducible refine (latched_foldlD1 _ ?_ _ _).trans ?_; intros) | (with_reducible refine State.doorbell_latched _ _ _ _ _ _ ?_; intros) | (with_reducible refine State.mailWrite_latched _ _ _ _ _ ?_; intros) | (with_reducible refine State.dbDown_latched _ _ _ _ ?_; intros) | (with_reducible refine (latched_foldlG _ ?_ _ _).trans ?_; intros) | split | (dsimp only) | simp))

@[simp] theorem State.takeCount_latched (s : State) (x : Cand) : (State.takeCount s x).latched = s.latched := by
  unfold State.takeCount
  (repeat' (first | (simp; done) | split | (dsimp only)))

@[simp] theorem GPlan.add_latched (w : GPlan) (x : Cand) (g : Grant) : (GPlan.add w x g).s.latched = w.s.latched := by
  unfold GPlan.add
  simp

@[simp] theorem GPlan.lacks_latched (w : GPlan) (x : Cand) (unit : Bool) : (GPlan.lacks w x unit).1.s.latched = w.s.latched := by
  unfold GPlan.lacks
  simp

@[simp] theorem GPlan.keyHold_latched (w : GPlan) (x : Cand) : (GPlan.keyHold w x).1.s.latched = w.s.latched := by
  unfold GPlan.keyHold
  simp

@[simp] theorem GPlan.keyOut_latched (w : GPlan) (x : Cand) : (GPlan.keyOut w x).1.s.latched = w.s.latched := by
  unfold GPlan.keyOut
  simp

@[simp] theorem GPlan.fill_latched (w : GPlan) (c n : Nat) (p : Bool) (k : Nat) : (w.fill c n p k).2.2.s.latched = w.s.latched := by
  unfold GPlan.fill; dsimp only; split
  · split <;> rfl
  · split <;> rfl
@[simp] theorem GPlan.tryLane_latched (w : GPlan) (x : Cand) (lend : Bool) : (GPlan.tryLane w x lend).1.s.latched = w.s.latched := by
  unfold GPlan.tryLane
  (repeat' (first | (simp; done) | split | (dsimp only)))

@[simp] theorem State.pin_latched (s : State) (id : LinkId) (n : Nat) (pair : Bool) (k : Nat) : (State.pin s id n pair k).latched = s.latched := by
  unfold State.pin
  simp

@[simp] theorem GPlan.tryMacu_latched (w : GPlan) (x : Cand) (lend : Bool) : (GPlan.tryMacu w x lend).1.s.latched = w.s.latched := by
  unfold GPlan.tryMacu
  (repeat' (first | (simp; done) | split | (dsimp only)))

@[simp] theorem GPlan.onEngines_latched (w : GPlan) (x : Cand) (g : Grant) (m : Option Nat) : (GPlan.onEngines w x g m).s.latched = w.s.latched := by
  unfold GPlan.onEngines
  (repeat' (first | (simp; done) | split | (dsimp only)))

@[simp] theorem GPlan.tryEngine_latched (w : GPlan) (x : Cand) (win lend : Bool) : (GPlan.tryEngine w x win lend).1.s.latched = w.s.latched := by
  unfold GPlan.tryEngine
  (repeat' (first | (simp; done) | split | (dsimp only)))

@[simp] theorem GPlan.attempt_latched (w : GPlan) (x : Cand) (lend : Bool) : (GPlan.attempt w x lend).1.s.latched = w.s.latched := by
  unfold GPlan.attempt
  (repeat' (first | (simp; done) | split | (dsimp only)))

@[simp] theorem GPlan.retryWins_latched (w : GPlan) (x : Cand) : (GPlan.retryWins w x).s.latched = w.s.latched := by
  unfold GPlan.retryWins
  (repeat' (first | (simp; done) | split | (dsimp only)))

@[simp] theorem GPlan.onBound_latched (w : GPlan) (x : Cand) (win : Bool) : (GPlan.onBound w x win).1.s.latched = w.s.latched := by
  unfold GPlan.onBound
  (repeat' (first | (simp; done) | split | (dsimp only)))

@[simp] theorem State.repack_latched (s : State) (id : LinkId) (a : Option (List JElem × Nat)) : (State.repack s id a).latched = s.latched := by
  unfold State.repack
  simp

@[simp] theorem State.retriesCut_latched (s : State) : (State.retriesCut s).latched = s.latched := by
  unfold State.retriesCut
  (repeat' (first | (simp; done) | (with_reducible refine (latched_foldl _ ?_ _ _).trans ?_; intros) | split | (dsimp only) | simp))

@[simp] theorem GPlan.trySealed_latched (w : GPlan) (x : Cand) : (GPlan.trySealed w x).1.s.latched = w.s.latched := by
  unfold GPlan.trySealed
  (repeat' (first | (simp; done) | split | (dsimp only)))

@[simp] theorem State.setDc_latched (s : State) (p c v : Nat) : (State.setDc s p c v).latched = s.latched := by
  unfold State.setDc
  simp

@[simp] theorem GPlan.credit_latched (w : GPlan) (floors : Map (List Nat)) (c : Nat) (has : List Nat) : (GPlan.credit w floors c has).s.latched = w.s.latched := by
  unfold GPlan.credit
  first
  | with_reducible rfl
  | (simp; done)
  | (repeat' (first | with_reducible rfl | (simp; done) | (with_reducible refine (latched_foldl _ ?_ _ _).trans ?_; intros) | (with_reducible refine (latched_foldl1 _ ?_ _ _).trans ?_; intros) | (with_reducible refine (latched_foldlD _ ?_ _ _).trans ?_; intros) | (with_reducible refine (latched_foldlD1 _ ?_ _ _).trans ?_; intros) | (with_reducible refine State.doorbell_latched _ _ _ _ _ _ ?_; intros) | (with_reducible refine State.mailWrite_latched _ _ _ _ _ ?_; intros) | (with_reducible refine State.dbDown_latched _ _ _ _ ?_; intros) | (with_reducible refine (latched_foldlG _ ?_ _ _).trans ?_; intros) | split | (dsimp only) | simp))

theorem latched_foldlG1 {α : Type} (f : GPlan × Bool → α → GPlan × Bool) (h : ∀ p a, (f p a).1.s.latched = p.1.s.latched) (l : List α)
    (p : GPlan × Bool) : (l.foldl f p).1.s.latched = p.1.s.latched := by
  induction l generalizing p with
  | nil => rfl
  | cons a l ih => simp [ih, h]
@[simp] theorem GPlan.floorPart_latched (w : GPlan) (c p g : Nat) (l : List Cand) : (w.floorPart c p g l).s.latched = w.s.latched := by
  induction l generalizing w with
  | nil => rfl
  | cons x l ih => unfold GPlan.floorPart; (repeat' (first | with_reducible rfl | (simp [ih]; done) | split | (dsimp only)))
@[simp] theorem GPlan.lendPart_latched (w : GPlan) (c p g : Nat) (l : List Cand) : (w.lendPart c p g l).1.s.latched = w.s.latched := by
  induction l generalizing w with
  | nil => rfl
  | cons x l ih => unfold GPlan.lendPart; (repeat' (first | with_reducible rfl | (simp [ih]; done) | split | (dsimp only)))
@[simp] theorem GPlan.lend_latched (c : Nat) (work : List (Nat × List Cand)) (n : Nat) (w : GPlan) : (GPlan.lend c work n w).s.latched = w.s.latched := by
  induction n generalizing w with
  | zero => rfl
  | succ n ih =>
    have h : ∀ w : GPlan, (work.foldl (fun (a : GPlan × Bool) x => let y := a.1.lendPart c x.1 (a.1.ceil c x.1) x.2
      (y.1, a.2 || y.2)) (w, false)).1.s.latched = w.s.latched := fun w => by
      refine (latched_foldlG1 _ ?_ _ _).trans ?_ <;> simp
    unfold GPlan.lend; dsimp only; split
    · rw [ih]; exact h w
    · exact h w
@[simp] theorem GPlan.boundPass_latched (w : GPlan) (cands : List Cand) : (GPlan.boundPass w cands).s.latched = w.s.latched := by
  unfold GPlan.boundPass
  first
  | with_reducible rfl
  | (simp; done)
  | (repeat' (first | with_reducible rfl | (simp; done) | (with_reducible refine (latched_foldl _ ?_ _ _).trans ?_; intros) | (with_reducible refine (latched_foldl1 _ ?_ _ _).trans ?_; intros) | (with_reducible refine (latched_foldlD _ ?_ _ _).trans ?_; intros) | (with_reducible refine (latched_foldlD1 _ ?_ _ _).trans ?_; intros) | (with_reducible refine State.doorbell_latched _ _ _ _ _ _ ?_; intros) | (with_reducible refine State.mailWrite_latched _ _ _ _ _ ?_; intros) | (with_reducible refine State.dbDown_latched _ _ _ _ ?_; intros) | (with_reducible refine (latched_foldlG _ ?_ _ _).trans ?_; intros) | (with_reducible refine (latched_foldlG1 _ ?_ _ _).trans ?_; intros) | split | (dsimp only) | simp))

@[simp] theorem GPlan.lendPass_latched (w : GPlan) (c : Nat) (work : List (Nat × List Cand)) (n : Nat) : (GPlan.lendPass w c work n).s.latched = w.s.latched := by
  unfold GPlan.lendPass
  (repeat' (first | (simp; done) | split | (dsimp only)))

@[simp] theorem State.noteShort_latched (s : State) (left : List LinkId) : (State.noteShort s left).latched = s.latched := by
  unfold State.noteShort
  simp

@[simp] theorem State.noteMsgs_latched (s : State) (msgs : List LinkId) : (State.noteMsgs s msgs).latched = s.latched := by
  unfold State.noteMsgs
  (repeat' (first | (simp; done) | (with_reducible refine (latched_foldl _ ?_ _ _).trans ?_; intros) | split | (dsimp only) | simp))

@[simp] theorem GPlan.noteWaits_latched (w : GPlan) (c : Nat) (mine : List Cand) : (GPlan.noteWaits w c mine).s.latched = w.s.latched := by
  unfold GPlan.noteWaits
  (repeat' (first | (simp; done) | (with_reducible refine (latched_foldl _ ?_ _ _).trans ?_; intros) | split | (dsimp only) | simp))

@[simp] theorem GPlan.sealedPass_latched (w : GPlan) (mine : List Cand) : (GPlan.sealedPass w mine).s.latched = w.s.latched := by
  unfold GPlan.sealedPass
  first
  | with_reducible rfl
  | (simp; done)
  | (repeat' (first | with_reducible rfl | (simp; done) | (with_reducible refine (latched_foldl _ ?_ _ _).trans ?_; intros) | (with_reducible refine (latched_foldl1 _ ?_ _ _).trans ?_; intros) | (with_reducible refine (latched_foldlD _ ?_ _ _).trans ?_; intros) | (with_reducible refine (latched_foldlD1 _ ?_ _ _).trans ?_; intros) | (with_reducible refine State.doorbell_latched _ _ _ _ _ _ ?_; intros) | (with_reducible refine State.mailWrite_latched _ _ _ _ _ ?_; intros) | (with_reducible refine State.dbDown_latched _ _ _ _ ?_; intros) | (with_reducible refine (latched_foldlG _ ?_ _ _).trans ?_; intros) | (with_reducible refine (latched_foldlG1 _ ?_ _ _).trans ?_; intros) | split | (dsimp only) | simp))

@[simp] theorem GPlan.floorPass_latched (w : GPlan) (c : Nat) (work : List (Nat × List Cand)) : (GPlan.floorPass w c work).s.latched = w.s.latched := by
  unfold GPlan.floorPass
  first
  | with_reducible rfl
  | (simp; done)
  | (repeat' (first | with_reducible rfl | (simp; done) | (with_reducible refine (latched_foldl _ ?_ _ _).trans ?_; intros) | (with_reducible refine (latched_foldl1 _ ?_ _ _).trans ?_; intros) | (with_reducible refine (latched_foldlD _ ?_ _ _).trans ?_; intros) | (with_reducible refine (latched_foldlD1 _ ?_ _ _).trans ?_; intros) | (with_reducible refine State.doorbell_latched _ _ _ _ _ _ ?_; intros) | (with_reducible refine State.mailWrite_latched _ _ _ _ _ ?_; intros) | (with_reducible refine State.dbDown_latched _ _ _ _ ?_; intros) | (with_reducible refine (latched_foldlG _ ?_ _ _).trans ?_; intros) | (with_reducible refine (latched_foldlG1 _ ?_ _ _).trans ?_; intros) | split | (dsimp only) | simp))

@[simp] theorem GPlan.runClass_latched (w : GPlan) (cands : List Cand) (floors : Map (List Nat)) (c : Nat) : (GPlan.runClass w cands floors c).s.latched = w.s.latched := by
  unfold GPlan.runClass
  (repeat' (first | (simp; done) | split | (dsimp only)))

@[simp] theorem State.makePlan_latched (s : State) : (State.makePlan s).latched = s.latched := by
  unfold State.makePlan
  simp

@[simp] theorem State.endGroup_latched (s : State) (root det cause : Nat) : (State.endGroup s root det cause).latched = s.latched := by
  unfold State.endGroup
  (repeat' (first | (simp; done) | (with_reducible refine (latched_foldl _ ?_ _ _).trans ?_; intros) | split | (dsimp only) | simp))

@[simp] theorem State.restartControl_latched (s : State) : (State.restartControl s).latched = s.latched := by
  unfold State.restartControl
  (repeat' (first | (simp; done) | (with_reducible refine (latched_foldl _ ?_ _ _).trans ?_; intros) | split | (dsimp only) | simp))

@[simp] theorem State.logGroup_latched (s : State) (code root : Nat) (detail : Bytes) : (State.logGroup s code root detail).latched = s.latched := by
  unfold State.logGroup
  (repeat' (first | (simp; done) | split | (dsimp only)))

@[simp] theorem State.closedCut_latched (s : State) : (State.closedCut s).latched = s.latched := by
  unfold State.closedCut
  (repeat' (first | (simp; done) | (with_reducible refine (latched_foldl _ ?_ _ _).trans ?_; intros) | split | (dsimp only) | simp))

@[simp] theorem State.chargeTicks_latched (s : State) : (State.chargeTicks s).latched = s.latched := by
  unfold State.chargeTicks
  (repeat' (first | (simp; done) | (with_reducible refine (latched_foldl _ ?_ _ _).trans ?_; intros) | split | (dsimp only) | simp))

theorem execTimeLimit_latched (root : Nat) (s : State) : ∀ z, execTimeLimit root s = .next z → z.latched = s.latched := by
  intro z h0
  unfold execTimeLimit at h0
  cases h0
  simp

theorem execFork_latched (t entry : Nat) (s : State) : ∀ z, execFork t entry s = .next z → z.latched = s.latched := by
  intro z h0
  unfold execFork at h0
  cases h0
  (repeat' (first | (simp; done) | split | (dsimp only)))

theorem execJoin_latched (t u : Nat) (s : State) : ∀ z, execJoin t u s = .next z → z.latched = s.latched := by
  intro z h0
  unfold execJoin at h0
  cases h0
  simp

@[simp] theorem State.chanFor_latched (s : State) (t c : Nat) (read : Bool) : (State.chanFor s t c read).latched = s.latched := by
  unfold State.chanFor
  simp

@[simp] theorem State.onChanO_latched (s : State) (c : Nat) (f : Chan → Chan) : (State.onChanO s c f).latched = s.latched := by
  unfold State.onChanO
  simp

@[simp] theorem State.takeMsg_latched (s : State) (t c : Nat) : (State.takeMsg s t c).latched = s.latched := by
  unfold State.takeMsg
  (repeat' (first | (simp; done) | split | (dsimp only)))

@[simp] theorem State.commitMsg_latched (s : State) (t c : Nat) : (State.commitMsg s t c).latched = s.latched := by
  unfold State.commitMsg
  (repeat' (first | (simp; done) | split | (dsimp only)))

@[simp] theorem State.readChan_latched (s : State) (t c : Nat) : (State.readChan s t c).latched = s.latched := by
  unfold State.readChan
  (repeat' (first | (simp; done) | split | (dsimp only)))

theorem execChannelWrite_latched (t c : Nat) (word : W64) (final : Bool) (s : State) : ∀ z, execChannelWrite t c word final s = .next z → z.latched = s.latched := by
  intro z h0
  unfold execChannelWrite at h0
  cases h0
  (repeat' (first | (simp; done) | split | (dsimp only)))

theorem execChannelRead_latched (t c : Nat) (s : State) : ∀ z, execChannelRead t c s = .next z → z.latched = s.latched := by
  intro z h0
  unfold execChannelRead at h0
  cases h0
  (repeat' (first | (simp; done) | split | (dsimp only)))

@[simp] theorem State.portTaken_latched (s : State) (t : Nat) (p : OryPort) : (State.portTaken s t p).latched = s.latched := by
  unfold State.portTaken
  (repeat' (first | (simp; done) | split | (dsimp only)))

theorem execPortRead_latched (t : Nat) (p : OryPort) (s : State) : ∀ z, execPortRead t p s = .next z → z.latched = s.latched := by
  intro z h0
  unfold execPortRead at h0
  cases h0
  simp

@[simp] theorem State.stopThread_latched (s : State) (t : Nat) : (State.stopThread s t).latched = s.latched := by
  unfold State.stopThread
  simp

@[simp] theorem State.resumeChan_latched (s : State) (t : Nat) : (State.resumeChan s t).latched = s.latched := by
  unfold State.resumeChan
  (repeat' (first | (simp; done) | split | (dsimp only)))

@[simp] theorem State.resumeThread_latched (s : State) (t : Nat) : (State.resumeThread s t).latched = s.latched := by
  unfold State.resumeThread
  simp

@[simp] theorem State.onCore_latched (s : State) (c : Nat) (f : Core → Core) : (State.onCore s c f).latched = s.latched := by
  unfold State.onCore
  simp

theorem execCorePowerDown_latched (c : Nat) (s : State) : ∀ z, execCorePowerDown c s = .next z → z.latched = s.latched := by
  intro z h0
  unfold execCorePowerDown at h0
  cases h0
  simp

theorem execCoreWake_latched (c : Nat) (s : State) : ∀ z, execCoreWake c s = .next z → z.latched = s.latched := by
  intro z h0
  unfold execCoreWake at h0
  cases h0
  simp

@[simp] theorem State.coreTicks_latched (s : State) : (State.coreTicks s).latched = s.latched := by
  unfold State.coreTicks
  (repeat' (first | (simp; done) | (with_reducible refine (latched_foldl _ ?_ _ _).trans ?_; intros) | split | (dsimp only) | simp))

theorem execOrreryCoreLoss_latched (c : Nat) (s : State) : ∀ z, execOrreryCoreLoss c s = .next z → z.latched = s.latched := by
  intro z h0
  unfold execOrreryCoreLoss at h0
  cases h0
  (repeat' (first | (simp; done) | (with_reducible refine (latched_foldl _ ?_ _ _).trans ?_; intros) | split | (dsimp only) | simp))

theorem State.macuCmd_latched (s : State) (u : Nat) (ok : Macu → Bool) (f : Macu → Macu) :
    ∀ z, s.macuCmd u ok f = .next z → z.latched = s.latched := by
  intro z h
  unfold State.macuCmd at h
  split at h
  · cases h; rfl
  · split at h
    · cases h; rfl
    · split at h
      · cases h; simp
      · exact execCommandFault_latched u s z h

theorem State.macuOut_latched (s : State) (u n : Nat) (ok : Macu → Bool) (out : Macu → Nat → List (BitVec 256)) (f : Macu → Nat → Macu)
    (g : Dat → Dat) : ∀ z, s.macuOut u n ok out f g = .next z → z.latched = s.latched := by
  intro z h
  unfold State.macuOut at h
  split at h
  · split at h
    · exact s.macuCmd_latched u _ _ z h
    · split at h
      · exact (State.macuCmd_latched _ u _ _ z h).trans (by simp)
      · split at h
        · cases h; rfl
        · split at h
          · exact (State.macuCmd_latched _ u _ _ z h).trans (by simp)
          · split at h
            · cases h; rfl
            · cases h; simp
  · exact s.macuCmd_latched u _ _ z h

theorem execMac_latched (u : Nat) (mod : BitVec 4) (a b : BitVec 10) (s : State) : ∀ z, execMac u mod a b s = .next z → z.latched = s.latched :=
  fun z h => s.macuCmd_latched u _ _ z h

theorem execShift_latched (u : Nat) (mod : BitVec 4) (b : BitVec 10) (s : State) : ∀ z, execShift u mod b s = .next z → z.latched = s.latched := by
  intro z h; unfold execShift at h; exact s.macuOut_latched u _ _ _ _ _ z h

theorem execLoad_latched (u : Nat) (b : BitVec 10) (s : State) : ∀ z, execLoad u b s = .next z → z.latched = s.latched := by
  intro z h
  refine (State.macuCmd_latched _ u _ _ z h).trans ?_
  split
  · simp only [State.onDat_latched]; split <;> simp
  · split <;> simp

theorem execStore_latched (u : Nat) (a : BitVec 10) (s : State) : ∀ z, execStore u a s = .next z → z.latched = s.latched := by
  intro z h; unfold execStore at h; exact s.macuOut_latched u _ _ _ _ _ z h

theorem execVmac_latched (u : Nat) (mod : BitVec 4) (a b : BitVec 10) (s : State) : ∀ z, execVmac u mod a b s = .next z → z.latched = s.latched :=
  fun z h => s.macuCmd_latched u _ _ z h

theorem execVshift_latched (u : Nat) (mod : BitVec 4) (sh : BitVec 6) (b : BitVec 10) (s : State) :
    ∀ z, execVshift u mod sh b s = .next z → z.latched = s.latched := by
  intro z h; unfold execVshift at h; exact (State.macuOut_latched _ u _ _ _ _ _ z h).trans (by split <;> simp)

theorem execMacuNop_latched (u : Nat) (s : State) : ∀ z, execMacuNop u s = .next z → z.latched = s.latched :=
  fun z h => s.macuCmd_latched u _ _ z h

theorem execMacuEnd_latched (u : Nat) (s : State) : ∀ z, execMacuEnd u s = .next z → z.latched = s.latched :=
  fun z h => s.macuCmd_latched u _ _ z h

@[simp] theorem State.runUnit_latched (s : State) (g : Grant) : (State.runUnit s g).latched = s.latched := by
  unfold State.runUnit
  (repeat' (first | (simp; done) | split | (dsimp only)))

@[simp] theorem State.runGrant_latched (s : State) (g : Grant) : (State.runGrant s g).latched = s.latched := by
  unfold State.runGrant
  (repeat' (first | (simp; done) | split | (dsimp only)))

@[simp] theorem State.runLink_latched (s : State) (id : LinkId) : (State.runLink s id).latched = s.latched := by
  unfold State.runLink
  (repeat' (first | (simp; done) | split | (dsimp only)))

@[simp] theorem State.runAll_latched (s : State) (p : Grant → Bool) : (State.runAll s p).latched = s.latched := by
  unfold State.runAll
  (repeat' (first | (simp; done) | (with_reducible refine (latched_foldl _ ?_ _ _).trans ?_; intros) | split | (dsimp only) | simp))

@[simp] theorem State.abortReq_latched (s : State) (q : Req) : (State.abortReq s q).latched = s.latched := by
  unfold State.abortReq
  (repeat' (first | (simp; done) | (with_reducible refine (latched_foldl _ ?_ _ _).trans ?_; intros) | split | (dsimp only) | simp))

@[simp] theorem State.abortRange_latched (s : State) (r : Nat) (a : Nat × Nat) : (State.abortRange s r a).latched = s.latched := by
  unfold State.abortRange
  (repeat' (first | (simp; done) | (with_reducible refine (latched_foldl _ ?_ _ _).trans ?_; intros) | split | (dsimp only) | simp))

@[simp] theorem State.abortsCut_latched (s : State) : (State.abortsCut s).latched = s.latched := by
  unfold State.abortsCut
  (repeat' (first | (simp; done) | (with_reducible refine (latched_foldl _ ?_ _ _).trans ?_; intros) | split | (dsimp only) | simp))

@[simp] theorem State.endErrs_latched (s : State) : (State.endErrs s).latched = s.latched := by
  unfold State.endErrs
  (repeat' (first | (simp; done) | (with_reducible refine (latched_foldl _ ?_ _ _).trans ?_; intros) | split | (dsimp only) | simp))

@[simp] theorem State.timeoutsCut_latched (s : State) : (State.timeoutsCut s).latched = s.latched := by
  unfold State.timeoutsCut
  (repeat' (first | (simp; done) | (with_reducible refine (latched_foldl _ ?_ _ _).trans ?_; intros) | split | (dsimp only) | simp))

@[simp] theorem State.jobsCut_latched (s : State) : (State.jobsCut s).latched = s.latched := by
  unfold State.jobsCut
  (repeat' (first | (simp; done) | (with_reducible refine (latched_foldl _ ?_ _ _).trans ?_; intros) | split | (dsimp only) | simp))

@[simp] theorem DPlan.requests_latched (p : DPlan) (t : Nat) (qs : List Req) (ok : Nat → Bool) : (DPlan.requests p t qs ok).s.latched = p.s.latched := by
  unfold DPlan.requests
  first
  | with_reducible rfl
  | (simp; done)
  | (repeat' (first | with_reducible rfl | (simp; done) | (with_reducible refine (latched_foldl _ ?_ _ _).trans ?_; intros) | (with_reducible refine (latched_foldl1 _ ?_ _ _).trans ?_; intros) | (with_reducible refine (latched_foldlD _ ?_ _ _).trans ?_; intros) | (with_reducible refine (latched_foldlD1 _ ?_ _ _).trans ?_; intros) | (with_reducible refine State.doorbell_latched _ _ _ _ _ _ ?_; intros) | (with_reducible refine State.mailWrite_latched _ _ _ _ _ ?_; intros) | (with_reducible refine State.dbDown_latched _ _ _ _ ?_; intros) | (with_reducible refine (latched_foldlG _ ?_ _ _).trans ?_; intros) | (with_reducible refine (latched_foldlG1 _ ?_ _ _).trans ?_; intros) | split | (dsimp only) | simp))

@[simp] theorem State.drbgCut_latched (s : State) : (State.drbgCut s).latched = s.latched := by
  unfold State.drbgCut
  simp

@[simp] theorem State.ungate_latched (s : State) : (State.ungate s).latched = s.latched := by
  unfold State.ungate
  (repeat' (first | (simp; done) | split | (dsimp only)))

@[simp] theorem State.runOp_latched (s : State) (op : Nat) (id : LinkId) : (State.runOp s op id).latched = s.latched := by
  unfold State.runOp
  (repeat' (first | (simp; done) | split | (dsimp only)))

theorem execAeadSeal_latched (id : LinkId) (s : State) : ∀ z, execAeadSeal id s = .next z → z.latched = s.latched := by
  intro z h0
  unfold execAeadSeal at h0
  cases h0
  simp

theorem execAeadOpen_latched (id : LinkId) (s : State) : ∀ z, execAeadOpen id s = .next z → z.latched = s.latched := by
  intro z h0
  unfold execAeadOpen at h0
  cases h0
  simp

theorem execCipherEnc_latched (id : LinkId) (s : State) : ∀ z, execCipherEnc id s = .next z → z.latched = s.latched := by
  intro z h0
  unfold execCipherEnc at h0
  cases h0
  simp

theorem execCipherDec_latched (id : LinkId) (s : State) : ∀ z, execCipherDec id s = .next z → z.latched = s.latched := by
  intro z h0
  unfold execCipherDec at h0
  cases h0
  simp

theorem execGmacGen_latched (id : LinkId) (s : State) : ∀ z, execGmacGen id s = .next z → z.latched = s.latched := by
  intro z h0
  unfold execGmacGen at h0
  cases h0
  simp

theorem execGmacVerify_latched (id : LinkId) (s : State) : ∀ z, execGmacVerify id s = .next z → z.latched = s.latched := by
  intro z h0
  unfold execGmacVerify at h0
  cases h0
  simp

theorem execDigest_latched (id : LinkId) (s : State) : ∀ z, execDigest id s = .next z → z.latched = s.latched := by
  intro z h0
  unfold execDigest at h0
  cases h0
  simp

theorem execHmacGen_latched (id : LinkId) (s : State) : ∀ z, execHmacGen id s = .next z → z.latched = s.latched := by
  intro z h0
  unfold execHmacGen at h0
  cases h0
  simp

theorem execHmacVerify_latched (id : LinkId) (s : State) : ∀ z, execHmacVerify id s = .next z → z.latched = s.latched := by
  intro z h0
  unfold execHmacVerify at h0
  cases h0
  simp

theorem execCopy_latched (id : LinkId) (s : State) : ∀ z, execCopy id s = .next z → z.latched = s.latched := by
  intro z h0
  unfold execCopy at h0
  cases h0
  simp

theorem execPkJob_latched (id : LinkId) (s : State) : ∀ z, execPkJob id s = .next z → z.latched = s.latched := by
  intro z h0
  unfold execPkJob at h0
  cases h0
  simp

theorem execNop_latched (id : LinkId) (s : State) : ∀ z, execNop id s = .next z → z.latched = s.latched := by
  intro z h0
  unfold execNop at h0
  cases h0
  (repeat' (first | (simp; done) | split | (dsimp only)))

theorem execFenceRing_latched (id : LinkId) (s : State) : ∀ z, execFenceRing id s = .next z → z.latched = s.latched := by
  intro z h0
  unfold execFenceRing at h0
  cases h0
  (repeat' (first | (simp; done) | split | (dsimp only)))

theorem execFencePartition_latched (id : LinkId) (s : State) : ∀ z, execFencePartition id s = .next z → z.latched = s.latched := by
  intro z h0
  unfold execFencePartition at h0
  cases h0
  (repeat' (first | (simp; done) | split | (dsimp only)))

@[simp] theorem State.commitOne_latched (s : State) : (State.commitOne s).latched = s.latched := by
  unfold State.commitOne
  (repeat' (first | (simp; done) | split | (dsimp only)))

theorem execRecordCommit_latched (s : State) : ∀ z, execRecordCommit s = .next z → z.latched = s.latched := by
  intro z h0
  unfold execRecordCommit at h0
  cases h0
  simp

@[simp] theorem State.commitAll_latched (s : State) : (State.commitAll s).latched = s.latched := by
  unfold State.commitAll
  (repeat' (first | (simp; done) | (with_reducible refine (latched_foldl _ ?_ _ _).trans ?_; intros) | split | (dsimp only) | simp))

@[simp] theorem State.setMode_latched (s : State) (m : Mode) : (State.setMode s m).latched = s.latched := by
  unfold State.setMode
  simp

@[simp] theorem State.reducedAlarm_latched (s : State) : (State.reducedAlarm s).latched = s.latched := by
  unfold State.reducedAlarm
  simp

@[simp] theorem State.zeroize_latched (s : State) : (State.zeroize s).latched = s.latched := by
  unfold State.zeroize
  simp

@[simp] theorem State.silence_latched (s : State) : (State.silence s).latched = s.latched := by
  unfold State.silence
  simp

@[simp] theorem State.contain_latched (s : State) (r : Reason) (code : Nat) : (State.contain s r code).latched = s.latched := by
  unfold State.contain
  (repeat' (first | (simp; done) | (with_reducible refine (latched_foldl _ ?_ _ _).trans ?_; intros) | split | (dsimp only) | simp))

@[simp] theorem State.containIfCaused_latched (s : State) : (State.containIfCaused s).latched = s.latched := by
  unfold State.containIfCaused
  (repeat' (first | (simp; done) | split | (dsimp only)))

theorem execBlockFault_latched (s : State) : ∀ z, execBlockFault s = .next z → z.latched = s.latched := by
  intro z h0
  unfold execBlockFault at h0
  cases h0
  simp

@[simp] theorem State.wakePart_latched (s : State) (p : Nat) : (State.wakePart s p).latched = s.latched := by
  unfold State.wakePart
  (repeat' (first | (simp; done) | split | (dsimp only)))

@[simp] theorem State.silence1_latched (s : State) (fid : Nat) (keep : Bool) : (State.silence1 s fid keep).latched = s.latched := by
  unfold State.silence1
  simp

@[simp] theorem State.silenceVault_latched (s : State) : (State.silenceVault s).latched = s.latched := by
  unfold State.silenceVault
  simp

@[simp] theorem State.unrecord_latched (s : State) (r : Nat) : (State.unrecord s r).latched = s.latched := by
  unfold State.unrecord
  (repeat' (first | (simp; done) | (with_reducible refine (latched_foldl _ ?_ _ _).trans ?_; intros) | split | (dsimp only) | simp))

@[simp] theorem State.flushPart_latched (s : State) (p : Nat) : (State.flushPart s p).latched = s.latched := by
  unfold State.flushPart
  (repeat' (first | (simp; done) | (with_reducible refine (latched_foldl _ ?_ _ _).trans ?_; intros) | split | (dsimp only) | simp))

@[simp] theorem State.fcAck_latched (s : State) (fid op : Nat) : (State.fcAck s fid op).latched = s.latched := by
  unfold State.fcAck
  simp

@[simp] theorem State.bmeSetNow_latched (s : State) (fid : Nat) : (State.bmeSetNow s fid).latched = s.latched := by
  unfold State.bmeSetNow
  simp

@[simp] theorem State.bmeClearNow_latched (s : State) (fid : Nat) : (State.bmeClearNow s fid).latched = s.latched := by
  unfold State.bmeClearNow
  (repeat' (first | (simp; done) | split | (dsimp only)))

@[simp] theorem State.fcNext_latched (s : State) (fid n : Nat) : (s.fcNext fid n).latched = s.latched := by
  induction n generalizing s with
  | zero => rfl
  | succ n ih => unfold State.fcNext; (repeat' (first | with_reducible rfl | (simp [ih]; done) | split | (dsimp only)))
@[simp] theorem State.fcTake_latched (s : State) (fid : Nat) (go : State → State) (h : ∀ s, (go s).latched = s.latched) : (State.fcTake s fid go).latched = s.latched := by
  unfold State.fcTake
  first
  | with_reducible rfl
  | (simp [h]; done)
  | (repeat' (first | with_reducible rfl | (simp [h]; done) | (with_reducible refine (latched_foldl _ ?_ _ _).trans ?_; intros) | (with_reducible refine (latched_foldl1 _ ?_ _ _).trans ?_; intros) | (with_reducible refine (latched_foldlD _ ?_ _ _).trans ?_; intros) | (with_reducible refine (latched_foldlD1 _ ?_ _ _).trans ?_; intros) | (with_reducible refine State.doorbell_latched _ _ _ _ _ _ ?_; intros) | (with_reducible refine State.mailWrite_latched _ _ _ _ _ ?_; intros) | (with_reducible refine State.dbDown_latched _ _ _ _ ?_; intros) | (with_reducible refine (latched_foldlG _ ?_ _ _).trans ?_; intros) | (with_reducible refine (latched_foldlG1 _ ?_ _ _).trans ?_; intros) | split | (dsimp only) | simp))

theorem execBmeSet_latched (fid : Nat) (s : State) : ∀ z, execBmeSet fid s = .next z → z.latched = s.latched := by
  intro z h0
  unfold execBmeSet at h0
  cases h0
  simp

theorem execBmeClear_latched (fid : Nat) (s : State) : ∀ z, execBmeClear fid s = .next z → z.latched = s.latched := by
  intro z h0
  unfold execBmeClear at h0
  cases h0
  simp

theorem execBmeClearAck_latched (fid : Nat) (s : State) : ∀ z, execBmeClearAck fid s = .next z → z.latched = s.latched := by
  intro z h0
  unfold execBmeClearAck at h0
  cases h0
  simp

theorem execFcReservedOp_latched (fid : Nat) (s : State) : ∀ z, execFcReservedOp fid s = .next z → z.latched = s.latched := by
  intro z h0
  unfold execFcReservedOp at h0
  cases h0
  simp

@[simp] theorem State.writeRecord_latched (s : State) (p g : Nat) (spent again : Bool) (first : Option Nat) : (State.writeRecord s p g spent again first).latched = s.latched := by
  unfold State.writeRecord
  simp

@[simp] theorem State.cutRotation_latched (s : State) (p : Nat) : (State.cutRotation s p).latched = s.latched := by
  unfold State.cutRotation
  (repeat' (first | (simp; done) | split | (dsimp only)))

@[simp] theorem State.startReset_latched (s : State) (p : Nat) (f : Flr) : (State.startReset s p f).latched = s.latched := by
  unfold State.startReset
  simp

@[simp] theorem State.resetPart_latched (s : State) (p : Nat) (ch : Option Nat) (destroy : Bool) : (State.resetPart s p ch destroy).latched = s.latched := by
  unfold State.resetPart
  (repeat' (first | (simp; done) | split | (dsimp only)))

theorem execFlrStart_latched (fid : Nat) (s : State) : ∀ z, execFlrStart fid s = .next z → z.latched = s.latched := by
  intro z h0
  unfold execFlrStart at h0
  cases h0
  first
  | with_reducible rfl
  | (simp; done)
  | (repeat' (first | with_reducible rfl | (simp; done) | (with_reducible refine (latched_foldl _ ?_ _ _).trans ?_; intros) | (with_reducible refine (latched_foldl1 _ ?_ _ _).trans ?_; intros) | (with_reducible refine (latched_foldlD _ ?_ _ _).trans ?_; intros) | (with_reducible refine (latched_foldlD1 _ ?_ _ _).trans ?_; intros) | (with_reducible refine State.doorbell_latched _ _ _ _ _ _ ?_; intros) | (with_reducible refine State.mailWrite_latched _ _ _ _ _ ?_; intros) | (with_reducible refine State.dbDown_latched _ _ _ _ ?_; intros) | (with_reducible refine (latched_foldlG _ ?_ _ _).trans ?_; intros) | (with_reducible refine (latched_foldlG1 _ ?_ _ _).trans ?_; intros) | (with_reducible refine State.fcTake_latched _ _ _ ?_; intros) | split | (dsimp only) | simp))

theorem execFlrWriteLate_latched (fid : Nat) (s : State) : ∀ z, execFlrWriteLate fid s = .next z → z.latched = s.latched := by
  intro z h0
  unfold execFlrWriteLate at h0
  cases h0
  simp

@[simp] theorem State.resetBoundary_latched (s : State) (p : Nat) : (State.resetBoundary s p).latched = s.latched := by
  unfold State.resetBoundary
  (repeat' (first | (simp; done) | (with_reducible refine (latched_foldl _ ?_ _ _).trans ?_; intros) | split | (dsimp only) | simp))

@[simp] theorem State.endReset_latched (s : State) (p : Nat) (f : Flr) : (State.endReset s p f).latched = s.latched := by
  unfold State.endReset
  (repeat' (first | (simp; done) | (with_reducible refine (latched_foldl _ ?_ _ _).trans ?_; intros) | split | (dsimp only) | simp))

@[simp] theorem State.flrAcks_latched (s : State) (fid : Nat) : (State.flrAcks s fid).latched = s.latched := by
  unfold State.flrAcks
  simp

@[simp] theorem State.destroyWrite_latched (s : State) (p : Nat) : (State.destroyWrite s p).latched = s.latched := by
  unfold State.destroyWrite
  (repeat' (first | (simp; done) | split | (dsimp only)))

theorem execFlrAck_latched (fid duration : Nat) (s : State) : ∀ z, execFlrAck fid duration s = .next z → z.latched = s.latched := by
  intro z h0
  unfold execFlrAck at h0
  cases h0
  (repeat' (first | (simp; done) | split | (dsimp only)))

@[simp] theorem State.bmeBoundary_latched (s : State) : (State.bmeBoundary s).latched = s.latched := by
  unfold State.bmeBoundary
  (repeat' (first | (simp; done) | (with_reducible refine (latched_foldl _ ?_ _ _).trans ?_; intros) | split | (dsimp only) | simp))

@[simp] theorem State.fcBoundary_latched (s : State) : (State.fcBoundary s).latched = s.latched := by
  unfold State.fcBoundary
  (repeat' (first | (simp; done) | (with_reducible refine (latched_foldl _ ?_ _ _).trans ?_; intros) | split | (dsimp only) | simp))

@[simp] theorem State.onDma_latched (s : State) (n : Nat) (f : Sdma → Sdma) : (State.onDma s n f).latched = s.latched := by
  unfold State.onDma
  simp

@[simp] theorem State.shWrite_latched (s : State) (a : Nat) (b : Bytes) : (State.shWrite s a b).latched = s.latched := by
  unfold State.shWrite
  simp

@[simp] theorem State.dmaBack_latched (s : State) (n : Nat) (d : Desc) (o : Nat) (b : Bytes) : (State.dmaBack s n d o b).latched = s.latched := by
  unfold State.dmaBack
  simp

@[simp] theorem State.dmaFail_latched (s : State) (n : Nat) (d : Desc) (cause done : Nat) : (State.dmaFail s n d cause done).latched = s.latched := by
  unfold State.dmaFail
  simp

@[simp] theorem State.dmaGood_latched (s : State) (n k : Nat) : (State.dmaGood s n k).latched = s.latched := by
  unfold State.dmaGood
  (repeat' (first | (simp; done) | split | (dsimp only)))

@[simp] theorem State.dmaOver_latched (s : State) (n : Nat) (d : Desc) : (State.dmaOver s n d).latched = s.latched := by
  unfold State.dmaOver
  simp

@[simp] theorem State.dmaPut_latched (s : State) (n : Nat) (d : Desc) (b : Bytes) : (State.dmaPut s n d b).latched = s.latched := by
  unfold State.dmaPut
  simp

@[simp] theorem State.dmaArrived_latched (s : State) (n : Nat) : (State.dmaArrived s n).latched = s.latched := by
  unfold State.dmaArrived
  (repeat' (first | (simp; done) | split | (dsimp only)))

@[simp] theorem State.dmaStart_latched (s : State) (n : Nat) (d : Desc) : (State.dmaStart s n d).latched = s.latched := by
  unfold State.dmaStart
  (repeat' (first | (simp; done) | split | (dsimp only)))

@[simp] theorem State.dmaRun_latched (s : State) (n k : Nat) : (s.dmaRun n k).latched = s.latched := by
  induction k generalizing s with
  | zero => rfl
  | succ k ih => unfold State.dmaRun; (repeat' (first | with_reducible rfl | (simp [ih]; done) | split | (dsimp only)))
@[simp] theorem State.dmaRead_latched (s : State) (n off : Nat) (data : Option Bytes) (cause : Nat) : (State.dmaRead s n off data cause).latched = s.latched := by
  unfold State.dmaRead
  (repeat' (first | (simp; done) | split | (dsimp only)))

@[simp] theorem State.dmaWritten_latched (s : State) (n k addr : Nat) (okay : Bool) : (State.dmaWritten s n k addr okay).latched = s.latched := by
  unfold State.dmaWritten
  (repeat' (first | (simp; done) | split | (dsimp only)))

theorem execSdmaStart_latched (n : Nat) (c : SdmaSetup) (list : ReadAnswer) (s : State) : ∀ z, execSdmaStart n c list s = .next z → z.latched = s.latched := by
  intro z h0
  unfold execSdmaStart at h0
  cases h0
  (repeat' (first | (simp; done) | split | (dsimp only)))

theorem execSdmaAbort_latched (n : Nat) (s : State) : ∀ z, execSdmaAbort n s = .next z → z.latched = s.latched := by
  intro z h0
  unfold execSdmaAbort at h0
  cases h0
  simp

theorem execSdmaDone_latched (n : Nat) (s : State) : ∀ z, execSdmaDone n s = .next z → z.latched = s.latched := by
  intro z h0
  unfold execSdmaDone at h0
  cases h0
  simp

@[simp] theorem State.sourcePoisoned_latched (s : State) (id : LinkId) (off : Nat) (b : Bytes) (bad : List (Nat × Nat)) : (State.sourcePoisoned s id off b bad).latched = s.latched := by
  unfold State.sourcePoisoned
  (repeat' (first | (simp; done) | split | (dsimp only)))

@[simp] theorem State.restored_latched (s : State) (id : LinkId) : (State.restored s id).latched = s.latched := by
  unfold State.restored
  simp

@[simp] theorem State.readAnswered_latched (s : State) (r : FRead) (a : ReadAnswer) (bs : List ReadBeat) : (State.readAnswered s r a bs).latched = s.latched := by
  unfold State.readAnswered
  (repeat' (first | (simp; done) | split | (dsimp only)))

@[simp] theorem State.late_latched (s : State) (n index gen : Nat) : (State.late s n index gen).latched = s.latched := by
  unfold State.late
  simp

@[simp] theorem State.takeRead_latched (s : State) (n index : Nat) : (State.takeRead s n index).latched = s.latched := by
  unfold State.takeRead
  simp

theorem execReadCompletion_latched (n index gen : Nat) (bs : List ReadBeat) (s : State) : ∀ z, execReadCompletion n index gen bs s = .next z → z.latched = s.latched := by
  intro z h0
  unfold execReadCompletion at h0
  cases h0
  (repeat' (first | (simp; done) | split | (dsimp only)))

theorem execReadTimeout_latched (n index : Nat) (s : State) : ∀ z, execReadTimeout n index s = .next z → z.latched = s.latched := by
  intro z h0
  unfold execReadTimeout at h0
  cases h0
  (repeat' (first | (simp; done) | split | (dsimp only)))

theorem execTagQuarantineEnd_latched (n index : Nat) (s : State) : ∀ z, execTagQuarantineEnd n index s = .next z → z.latched = s.latched := by
  intro z h0
  unfold execTagQuarantineEnd at h0
  cases h0
  simp

@[simp] theorem State.restoreQuad_latched (s : State) (q : Nat) : (s.restoreQuad q).latched = s.latched := by
  unfold State.restoreQuad
  dsimp only
  rw [State.pump_latched]
  refine latched_foldl _ (fun s x => ?_) _ s
  rw [apply_ite State.latched, State.onMov_latched, State.spill_latched, ite_self]

@[simp] theorem State.restoreAll_latched (s : State) : (State.restoreAll s).latched = s.latched := by
  unfold State.restoreAll
  (repeat' (first | (simp; done) | (with_reducible refine (latched_foldl _ ?_ _ _).trans ?_; intros) | split | (dsimp only) | simp))

@[simp] theorem State.stampLink_latched (s : State) (id : LinkId) : (State.stampLink s id).latched = s.latched := by
  unfold State.stampLink
  simp

@[simp] theorem State.recordDone_latched (s : State) (id : LinkId) (irq : Bool) : (State.recordDone s id irq).latched = s.latched := by
  unfold State.recordDone
  simp

@[simp] theorem State.recordFailed_latched (s : State) (n : Nat) (w : FWrite) (id : LinkId) : (State.recordFailed s n w id).latched = s.latched := by
  unfold State.recordFailed
  simp

@[simp] theorem State.partRecFailed_latched (s : State) (p : Nat) : (State.partRecFailed s p).latched = s.latched := by
  unfold State.partRecFailed
  (repeat' (first | (simp; done) | split | (dsimp only)))

@[simp] theorem State.messageWritten_latched (s : State) (c : Nat) (okay : Bool) : (State.messageWritten s c okay).latched = s.latched := by
  unfold State.messageWritten
  (repeat' (first | (simp; done) | split | (dsimp only)))

@[simp] theorem State.writeError_latched (s : State) (n : Nat) (w : FWrite) : (State.writeError s n w).latched = s.latched := by
  unfold State.writeError
  (repeat' (first | (simp; done) | split | (dsimp only)))

@[simp] theorem State.writeAnswered_latched (s : State) (n : Nat) (w : FWrite) (okay : Bool) : (State.writeAnswered s n w okay).latched = s.latched := by
  unfold State.writeAnswered
  (repeat' (first | (simp; done) | split | (dsimp only)))

theorem execWriteResponse_latched (n index gen : Nat) (okay : Bool) (s : State) : ∀ z, execWriteResponse n index gen okay s = .next z → z.latched = s.latched := by
  intro z h0
  unfold execWriteResponse at h0
  cases h0
  (repeat' (first | (simp; done) | split | (dsimp only)))

@[simp] theorem State.onStream_latched (s : State) (n : Nat) (f : Stream → Stream) : (State.onStream s n f).latched = s.latched := by
  unfold State.onStream
  simp

@[simp] theorem State.frameForeign_latched (s : State) (n r : Nat) : (State.frameForeign s n r).latched = s.latched := by
  unfold State.frameForeign
  simp

@[simp] theorem State.addUnrun_latched (s : State) (r idx : Nat) (l : Link) (st : Stat) : (State.addUnrun s r idx l st).latched = s.latched := by
  unfold State.addUnrun
  simp

@[simp] theorem State.takeFrame_latched (s : State) (n : Nat) (f : InFrame) (how : FrameEnd) : (State.takeFrame s n f how).latched = s.latched := by
  unfold State.takeFrame
  simp

@[simp] theorem State.beat_latched (s : State) (n : Nat) (sop : Bool) (r : Nat) (data : Bytes) (eop : Bool) : (State.beat s n sop r data eop).latched = s.latched := by
  unfold State.beat
  (repeat' (first | (simp; done) | split | (dsimp only)))

theorem execStreamInputFrame_latched (n : Nat) (sop : Bool) (r : Nat) (data : Bytes) (s : State) : ∀ z, execStreamInputFrame n sop r data s = .next z → z.latched = s.latched := by
  intro z h0
  unfold execStreamInputFrame at h0
  cases h0
  simp

theorem execStreamInputBeat_latched (n : Nat) (sop : Bool) (r : Nat) (data : Bytes) (s : State) : ∀ z, execStreamInputBeat n sop r data s = .next z → z.latched = s.latched := by
  intro z h0
  unfold execStreamInputBeat at h0
  cases h0
  simp

theorem execStreamOutputFrame_latched (n : Nat) (s : State) : ∀ z, execStreamOutputFrame n s = .next z → z.latched = s.latched := by
  intro z h0
  unfold execStreamOutputFrame at h0
  cases h0
  (repeat' (first | (simp; done) | split | (dsimp only)))

theorem execStreamOutputPause_latched (n : Nat) (s : State) : ∀ z, execStreamOutputPause n s = .next z → z.latched = s.latched := by
  intro z h0
  unfold execStreamOutputPause at h0
  cases h0
  simp

theorem execStreamLongPause_latched (n : Nat) (s : State) : ∀ z, execStreamLongPause n s = .next z → z.latched = s.latched := by
  intro z h0
  unfold execStreamLongPause at h0
  cases h0
  simp

theorem execStreamPauseEnd_latched (n : Nat) (s : State) : ∀ z, execStreamPauseEnd n s = .next z → z.latched = s.latched := by
  intro z h0
  unfold execStreamPauseEnd at h0
  cases h0
  simp

@[simp] theorem State.exerAnswer_latched (s : State) (pass : Bool) (begun : Bool) : (State.exerAnswer s pass begun).latched = s.latched := by
  unfold State.exerAnswer
  (repeat' (first | (simp; done) | (with_reducible refine (latched_foldl _ ?_ _ _).trans ?_; intros) | split | (dsimp only) | simp))

@[simp] theorem State.winBegin_latched (s : State) : (State.winBegin s).latched = s.latched := by
  unfold State.winBegin
  simp

@[simp] theorem State.testFailed_latched (s : State) (t : HealthTest) (osc tick : Nat) : (State.testFailed s t osc tick).latched = s.latched := by
  unfold State.testFailed
  (repeat' (first | (simp; done) | split | (dsimp only)))

theorem execWindowEnd_latched (samples : List W64) (s : State) : ∀ z, execWindowEnd samples s = .next z → z.latched = s.latched := by
  intro z h0
  unfold execWindowEnd at h0
  cases h0
  (repeat' (first | (simp; done) | split | (dsimp only)))

theorem execHealthTestFailure_latched (t : HealthTest) (osc : OscCounts) (s : State) : ∀ z, execHealthTestFailure t osc s = .next z → z.latched = s.latched := by
  intro z h0
  unfold execHealthTestFailure at h0
  cases h0
  simp

theorem execRetestStart_latched (s : State) : ∀ z, execRetestStart s = .next z → z.latched = s.latched := by
  intro z h0
  unfold execRetestStart at h0
  cases h0
  simp

theorem execRetestVerdict_latched (pass : Bool) (samples : List W64) (s : State) : ∀ z, execRetestVerdict pass samples s = .next z → z.latched = s.latched := by
  intro z h0
  unfold execRetestVerdict at h0
  cases h0
  (repeat' (first | (simp; done) | split | (dsimp only)))

@[simp] theorem State.flushEntropy_latched (s : State) : (State.flushEntropy s).latched = s.latched := by
  unfold State.flushEntropy
  simp

@[simp] theorem State.testCtl_latched (s : State) (who : Accessor) (go : State → State) (h : ∀ s, (go s).latched = s.latched) : (State.testCtl s who go).latched = s.latched := by
  unfold State.testCtl
  first
  | with_reducible rfl
  | (simp [h]; done)
  | (repeat' (first | with_reducible rfl | (simp [h]; done) | (with_reducible refine (latched_foldl _ ?_ _ _).trans ?_; intros) | (with_reducible refine (latched_foldl1 _ ?_ _ _).trans ?_; intros) | (with_reducible refine (latched_foldlD _ ?_ _ _).trans ?_; intros) | (with_reducible refine (latched_foldlD1 _ ?_ _ _).trans ?_; intros) | (with_reducible refine State.doorbell_latched _ _ _ _ _ _ ?_; intros) | (with_reducible refine State.mailWrite_latched _ _ _ _ _ ?_; intros) | (with_reducible refine State.dbDown_latched _ _ _ _ ?_; intros) | (with_reducible refine (latched_foldlG _ ?_ _ _).trans ?_; intros) | (with_reducible refine (latched_foldlG1 _ ?_ _ _).trans ?_; intros) | (with_reducible refine State.fcTake_latched _ _ _ ?_; intros) | split | (dsimp only) | simp))

theorem execTestPatternEnable_latched (who : Accessor) (s : State) : ∀ z, execTestPatternEnable who s = .next z → z.latched = s.latched := by
  intro z h0
  unfold execTestPatternEnable at h0
  cases h0
  simp

theorem execTestPatternDisable_latched (who : Accessor) (s : State) : ∀ z, execTestPatternDisable who s = .next z → z.latched = s.latched := by
  intro z h0
  unfold execTestPatternDisable at h0
  cases h0
  simp

theorem execKnownAnswerTestDone_latched (core0 core1 cond : Bool) (s : State) : ∀ z, execKnownAnswerTestDone core0 core1 cond s = .next z → z.latched = s.latched := by
  intro z h0
  unfold execKnownAnswerTestDone at h0
  cases h0
  (repeat' (first | (simp; done) | (with_reducible refine (latched_foldl _ ?_ _ _).trans ?_; intros) | split | (dsimp only) | simp))

theorem nextOf_latched (o : Out) (s : State) (h : ∀ z, o = .next z → z.latched = s.latched) : (nextOf o s).latched = s.latched := by
  cases o <;> simp [nextOf] at *; assumption

@[simp] theorem State.regAct_latched (s : State) (who : Accessor) (a : Nat) (go : State → State) (h : ∀ s, (go s).latched = s.latched) : (State.regAct s who a go).latched = s.latched := by
  unfold State.regAct
  first
  | with_reducible rfl
  | (simp [h]; done)
  | (repeat' (first | with_reducible rfl | (simp [h]; done) | (with_reducible refine (latched_foldl _ ?_ _ _).trans ?_; intros) | (with_reducible refine (latched_foldl1 _ ?_ _ _).trans ?_; intros) | (with_reducible refine (latched_foldlD _ ?_ _ _).trans ?_; intros) | (with_reducible refine (latched_foldlD1 _ ?_ _ _).trans ?_; intros) | (with_reducible refine State.doorbell_latched _ _ _ _ _ _ ?_; intros) | (with_reducible refine State.mailWrite_latched _ _ _ _ _ ?_; intros) | (with_reducible refine State.dbDown_latched _ _ _ _ ?_; intros) | (with_reducible refine (latched_foldlG _ ?_ _ _).trans ?_; intros) | (with_reducible refine (latched_foldlG1 _ ?_ _ _).trans ?_; intros) | (with_reducible refine State.fcTake_latched _ _ _ ?_; intros) | (with_reducible refine State.testCtl_latched _ _ _ ?_; intros) | split | (dsimp only) | simp))

@[simp] theorem State.glogFreeze_latched (s : State) : (State.glogFreeze s).latched = s.latched := by
  unfold State.glogFreeze
  simp

@[simp] theorem State.glogThaw_latched (s : State) : (State.glogThaw s).latched = s.latched := by
  unfold State.glogThaw
  simp

@[simp] theorem State.glogWrite_latched (s : State) (v : W32) : (State.glogWrite s v).latched = s.latched := by
  unfold State.glogWrite
  simp

@[simp] theorem State.pendClear_latched (s : State) (w : Nat) (v : W32) (p : Option Nat) : (State.pendClear s w v p).latched = s.latched := by
  unfold State.pendClear
  (repeat' (first | (simp; done) | (with_reducible refine (latched_foldl _ ?_ _ _).trans ?_; intros) | split | (dsimp only) | simp))

@[simp] theorem State.irqTestMsg_latched (s : State) (v : W32) : (State.irqTestMsg s v).latched = s.latched := by
  unfold State.irqTestMsg
  (repeat' (first | (simp; done) | split | (dsimp only)))

@[simp] theorem State.ringStatusWrite_latched (s : State) (r : Nat) (v : W32) : (State.ringStatusWrite s r v).latched = s.latched := by
  unfold State.ringStatusWrite
  simp

@[simp] theorem State.chanWrite_latched (s : State) (who : Accessor) (c off : Nat) (v : W32) : (State.chanWrite s who c off v).latched = s.latched := by
  unfold State.chanWrite
  first
  | with_reducible rfl
  | (simp; done)
  | (repeat' (first | with_reducible rfl | (simp; done) | (with_reducible refine (latched_foldl _ ?_ _ _).trans ?_; intros) | (with_reducible refine (latched_foldl1 _ ?_ _ _).trans ?_; intros) | (with_reducible refine (latched_foldlD _ ?_ _ _).trans ?_; intros) | (with_reducible refine (latched_foldlD1 _ ?_ _ _).trans ?_; intros) | (with_reducible refine State.doorbell_latched _ _ _ _ _ _ ?_; intros) | (with_reducible refine State.mailWrite_latched _ _ _ _ _ ?_; intros) | (with_reducible refine State.dbDown_latched _ _ _ _ ?_; intros) | (with_reducible refine (latched_foldlG _ ?_ _ _).trans ?_; intros) | (with_reducible refine (latched_foldlG1 _ ?_ _ _).trans ?_; intros) | (with_reducible refine State.fcTake_latched _ _ _ ?_; intros) | (with_reducible refine State.testCtl_latched _ _ _ ?_; intros) | (with_reducible refine State.regAct_latched _ _ _ _ ?_; intros) | (exact nextOf_latched _ _ (by first | exact execMbDbMaskClear_latched _ _ _ _ | exact execProducerWrite_latched _ _ _ _ | exact execConsumerWrite_latched _ _ _ _ | exact execAbortWrite_latched _ _ _ _ | exact execTestPatternEnable_latched _ _ | exact execTestPatternDisable_latched _ _)) | split | (dsimp only) | simp))

@[simp] theorem State.blockWrite_latched (s : State) (who : Accessor) (a : Nat) (v : W32) : (State.blockWrite s who a v).latched = s.latched := by
  unfold State.blockWrite
  first
  | with_reducible rfl
  | (simp; done)
  | (repeat' (first | with_reducible rfl | (simp; done) | (with_reducible refine (latched_foldl _ ?_ _ _).trans ?_; intros) | (with_reducible refine (latched_foldl1 _ ?_ _ _).trans ?_; intros) | (with_reducible refine (latched_foldlD _ ?_ _ _).trans ?_; intros) | (with_reducible refine (latched_foldlD1 _ ?_ _ _).trans ?_; intros) | (with_reducible refine State.doorbell_latched _ _ _ _ _ _ ?_; intros) | (with_reducible refine State.mailWrite_latched _ _ _ _ _ ?_; intros) | (with_reducible refine State.dbDown_latched _ _ _ _ ?_; intros) | (with_reducible refine (latched_foldlG _ ?_ _ _).trans ?_; intros) | (with_reducible refine (latched_foldlG1 _ ?_ _ _).trans ?_; intros) | (with_reducible refine State.fcTake_latched _ _ _ ?_; intros) | (with_reducible refine State.testCtl_latched _ _ _ ?_; intros) | (with_reducible refine State.regAct_latched _ _ _ _ ?_; intros) | (exact nextOf_latched _ _ (by first | exact execMbDbMaskClear_latched _ _ _ _ | exact execProducerWrite_latched _ _ _ _ | exact execConsumerWrite_latched _ _ _ _ | exact execAbortWrite_latched _ _ _ _ | exact execTestPatternEnable_latched _ _ | exact execTestPatternDisable_latched _ _)) | split | (dsimp only) | simp))

theorem execRegisterWrite_latched (who : Accessor) (addr : Nat) (v : W32) (s : State) : ∀ z, execRegisterWrite who addr v s = .next z → z.latched = s.latched := by
  intro z h0
  unfold execRegisterWrite at h0
  cases h0
  first
  | with_reducible rfl
  | (simp; done)
  | (repeat' (first | with_reducible rfl | (simp; done) | (with_reducible refine (latched_foldl _ ?_ _ _).trans ?_; intros) | (with_reducible refine (latched_foldl1 _ ?_ _ _).trans ?_; intros) | (with_reducible refine (latched_foldlD _ ?_ _ _).trans ?_; intros) | (with_reducible refine (latched_foldlD1 _ ?_ _ _).trans ?_; intros) | (with_reducible refine State.doorbell_latched _ _ _ _ _ _ ?_; intros) | (with_reducible refine State.mailWrite_latched _ _ _ _ _ ?_; intros) | (with_reducible refine State.dbDown_latched _ _ _ _ ?_; intros) | (with_reducible refine (latched_foldlG _ ?_ _ _).trans ?_; intros) | (with_reducible refine (latched_foldlG1 _ ?_ _ _).trans ?_; intros) | (with_reducible refine State.fcTake_latched _ _ _ ?_; intros) | (with_reducible refine State.testCtl_latched _ _ _ ?_; intros) | (with_reducible refine State.regAct_latched _ _ _ _ ?_; intros) | (exact nextOf_latched _ _ (by first | exact execMbDbMaskClear_latched _ _ _ _ | exact execProducerWrite_latched _ _ _ _ | exact execConsumerWrite_latched _ _ _ _ | exact execAbortWrite_latched _ _ _ _ | exact execTestPatternEnable_latched _ _ | exact execTestPatternDisable_latched _ _)) | split | (dsimp only) | simp))

@[simp] theorem State.clearRc_latched (s : State) (a : Nat) : (State.clearRc s a).latched = s.latched := by
  unfold State.clearRc
  (repeat' (first | (simp; done) | split | (dsimp only)))

theorem execReadClears_latched (who : Accessor) (addr : Nat) (s : State) : ∀ z, execReadClears who addr s = .next z → z.latched = s.latched := by
  intro z h0
  unfold execReadClears at h0
  cases h0
  simp

theorem execReadRefused_latched (who : Accessor) (addr : Nat) (s : State) : ∀ z, execReadRefused who addr s = .next z → z.latched = s.latched := by
  intro z h0
  unfold execReadRefused at h0
  cases h0
  simp

theorem execIrqPendClear_latched (who : Accessor) (w : Nat) (v : W32) (s : State) : ∀ z, execIrqPendClear who w v s = .next z → z.latched = s.latched := by
  intro z h0
  unfold execIrqPendClear at h0
  cases h0
  simp

theorem execIrqTest_latched (who : Accessor) (v : W32) (s : State) : ∀ z, execIrqTest who v s = .next z → z.latched = s.latched := by
  intro z h0
  unfold execIrqTest at h0
  cases h0
  simp

theorem execFreezeNow_latched (who : Accessor) (s : State) : ∀ z, execFreezeNow who s = .next z → z.latched = s.latched := by
  intro z h0
  unfold execFreezeNow at h0
  cases h0
  simp

theorem execFrozenClear_latched (who : Accessor) (s : State) : ∀ z, execFrozenClear who s = .next z → z.latched = s.latched := by
  intro z h0
  unfold execFrozenClear at h0
  cases h0
  simp

@[simp] theorem State.setInactive_latched (s : State) (i : Option Image) : (State.setInactive s i).latched = s.latched := by
  unfold State.setInactive
  simp

@[simp] theorem State.stageEnd_latched (s : State) (c t code : Nat) (i : Option Image) : (State.stageEnd s c t code i).latched = s.latched := by
  unfold State.stageEnd
  simp

@[simp] theorem State.stageTaken_latched (s : State) (c t fid addr len : Nat) (read : ReadAnswer) : (State.stageTaken s c t fid addr len read).latched = s.latched := by
  unfold State.stageTaken
  (repeat' (first | (simp; done) | split | (dsimp only)))

theorem execFwVerifyVerdict_latched (s : State) : ∀ z, execFwVerifyVerdict s = .next z → z.latched = s.latched := by
  intro z h0
  unfold execFwVerifyVerdict at h0
  cases h0
  (repeat' (first | (simp; done) | split | (dsimp only)))

@[simp] theorem State.swapBoundary_latched (s : State) : (State.swapBoundary s).latched = s.latched := by
  unfold State.swapBoundary
  simp

@[simp] theorem State.setSwap_latched (s : State) (n : Nat) : (State.setSwap s n).latched = s.latched := by
  unfold State.setSwap
  simp

theorem execSwapEnter_latched (s : State) : ∀ z, execSwapEnter s = .next z → z.latched = s.latched := by
  intro z h0
  unfold execSwapEnter at h0
  cases h0
  simp

theorem execQuiesceTimeout_latched (t : Nat) (s : State) : ∀ z, execQuiesceTimeout t s = .next z → z.latched = s.latched := by
  intro z h0
  unfold execQuiesceTimeout at h0
  cases h0
  simp

@[simp] theorem State.initRuns_latched (s : State) : (State.initRuns s).latched = s.latched := by
  unfold State.initRuns
  simp

@[simp] theorem State.initOver_latched (s : State) : (State.initOver s).latched = s.latched := by
  unfold State.initOver
  simp

theorem execFlip_latched (s : State) : ∀ z, execFlip s = .next z → z.latched = s.latched := by
  intro z h0
  unfold execFlip at h0
  cases h0
  (repeat' (first | (simp; done) | split | (dsimp only)))

theorem execInitDone_latched (s : State) : ∀ z, execInitDone s = .next z → z.latched = s.latched := by
  intro z h0
  unfold execInitDone at h0
  cases h0
  simp

theorem execInitTimeout_latched (s : State) : ∀ z, execInitTimeout s = .next z → z.latched = s.latched := by
  intro z h0
  unfold execInitTimeout at h0
  cases h0
  (repeat' (first | (simp; done) | split | (dsimp only)))

theorem execSwapExit_latched (s : State) : ∀ z, execSwapExit s = .next z → z.latched = s.latched := by
  intro z h0
  unfold execSwapExit at h0
  cases h0
  (repeat' (first | (simp; done) | split | (dsimp only)))

@[simp] theorem State.hello_latched (s : State) (c : Nat) : (State.hello s c).latched = s.latched := by
  unfold State.hello
  (repeat' (first | (simp; done) | split | (dsimp only)))

@[simp] theorem State.createPart_latched (s : State) (c p : Nat) (read : ReadAnswer) : (State.createPart s c p read).latched = s.latched := by
  unfold State.createPart
  (repeat' (first | (simp; done) | split | (dsimp only)))

@[simp] theorem State.openRing_latched (s : State) (c : Nat) : (State.openRing s c).latched = s.latched := by
  unfold State.openRing
  (repeat' (first | (simp; done) | split | (dsimp only)))

@[simp] theorem State.closeMsg_latched (s : State) (c : Nat) : (State.closeMsg s c).latched = s.latched := by
  unfold State.closeMsg
  simp

@[simp] theorem State.readout_latched (s : State) (c dst : Nat) (data : Bytes) (ws : List Nat) : (State.readout s c dst data ws).latched = s.latched := by
  unfold State.readout
  simp

@[simp] theorem State.ephCopy_latched (s : State) (c first next stop dst : Nat) (failed : Bool) : (State.ephCopy s c first next stop dst failed).latched = s.latched := by
  unfold State.ephCopy
  simp

@[simp] theorem State.ephRead_latched (s : State) (c : Nat) : (State.ephRead s c).latched = s.latched := by
  unfold State.ephRead
  simp

@[simp] theorem State.exerciseMsg_latched (s : State) (c : Nat) (u : UnitId) : (State.exerciseMsg s c u).latched = s.latched := by
  unfold State.exerciseMsg
  (repeat' (first | (simp; done) | split | (dsimp only)))

@[simp] theorem State.eclipseMsg_latched (s : State) (c : Nat) (u : UnitId) : (State.eclipseMsg s c u).latched = s.latched := by
  unfold State.eclipseMsg
  (repeat' (first | (simp; done) | split | (dsimp only)))

@[simp] theorem State.addWork_latched (s : State) (w : Mgmt) : (State.addWork s w).latched = s.latched := by
  unfold State.addWork
  simp

@[simp] theorem State.msgActs_latched (s : State) (c t : Nat) (read : ReadAnswer) : (State.msgActs s c t read).latched = s.latched := by
  unfold State.msgActs
  simp

@[simp] theorem State.waitMsg_latched (s : State) (t c : Nat) : (State.waitMsg s t c).latched = s.latched := by
  unfold State.waitMsg
  simp

theorem execMessageTaken_latched (t : Nat) (read : ReadAnswer) (s : State) : ∀ z, execMessageTaken t read s = .next z → z.latched = s.latched := by
  intro z h0
  unfold execMessageTaken at h0
  cases h0
  (repeat' (first | (simp; done) | split | (dsimp only)))

@[simp] theorem State.commitQuota_latched (s : State) (p k f g rings keys : Nat) (susp : Bool) : (State.commitQuota s p k f g rings keys susp).latched = s.latched := by
  unfold State.commitQuota
  (repeat' (first | (simp; done) | split | (dsimp only)))

@[simp] theorem State.rotateOut_latched (s : State) (p : Nat) : (State.rotateOut s p).latched = s.latched := by
  unfold State.rotateOut
  (repeat' (first | (simp; done) | (with_reducible refine (latched_foldl _ ?_ _ _).trans ?_; intros) | split | (dsimp only) | simp))

@[simp] theorem State.rotWrite_latched (s : State) (p : Nat) : (State.rotWrite s p).latched = s.latched := by
  unfold State.rotWrite
  (repeat' (first | (simp; done) | split | (dsimp only)))

@[simp] theorem State.commitRotate_latched (s : State) (c p : Nat) : (State.commitRotate s c p).latched = s.latched := by
  unfold State.commitRotate
  (repeat' (first | (simp; done) | split | (dsimp only)))

@[simp] theorem State.restoreUnit_latched (s : State) (u : UnitId) : (State.restoreUnit s u).latched = s.latched := by
  unfold State.restoreUnit
  (repeat' (first | (simp; done) | split | (dsimp only)))

@[simp] theorem State.commitWork_latched (s : State) (w : Mgmt) : (State.commitWork s w).latched = s.latched := by
  unfold State.commitWork
  (repeat' (first | (simp; done) | split | (dsimp only)))

@[simp] theorem State.commitsDue_latched (s : State) : (State.commitsDue s).latched = s.latched := by
  unfold State.commitsDue
  (repeat' (first | (simp; done) | (with_reducible refine (latched_foldl _ ?_ _ _).trans ?_; intros) | split | (dsimp only) | simp))

@[simp] theorem State.rotDrain_latched (s : State) (p : Nat) : (State.rotDrain s p).latched = s.latched := by
  unfold State.rotDrain
  (repeat' (first | (simp; done) | split | (dsimp only)))

theorem execPartitionRecordAck_latched (p : Nat) (s : State) : ∀ z, execPartitionRecordAck p s = .next z → z.latched = s.latched := by
  intro z h0
  unfold execPartitionRecordAck at h0
  cases h0
  (repeat' (first | (simp; done) | split | (dsimp only)))

theorem execPartitionRecordRetry_latched (p : Nat) (s : State) : ∀ z, execPartitionRecordRetry p s = .next z → z.latched = s.latched := by
  intro z h0
  unfold execPartitionRecordRetry at h0
  cases h0
  (repeat' (first | (simp; done) | split | (dsimp only)))

@[simp] theorem State.lendTick_latched (s : State) : (State.lendTick s).latched = s.latched := by
  unfold State.lendTick
  simp

@[simp] theorem State.powerTick_latched (s : State) (ev : TickEvents) : (State.powerTick s ev).latched = s.latched := by
  unfold State.powerTick
  simp

@[simp] theorem State.beatsTick_latched (s : State) : (State.beatsTick s).latched = s.latched := by
  unfold State.beatsTick
  simp

@[simp] theorem State.eccTick_latched (s : State) (l : List (UnitId × Nat)) : (State.eccTick s l).latched = s.latched := by
  unfold State.eccTick
  (repeat' (first | (simp; done) | (with_reducible refine (latched_foldl _ ?_ _ _).trans ?_; intros) | split | (dsimp only) | simp))

@[simp] theorem State.unitTick_latched (s : State) : (State.unitTick s).latched = s.latched := by
  unfold State.unitTick
  simp

@[simp] theorem State.ringTick_latched (s : State) : (State.ringTick s).latched = s.latched := by
  unfold State.ringTick
  simp

@[simp] theorem State.publish_latched (s : State) : (State.publish s).latched = s.latched := by
  unfold State.publish
  simp

@[simp] theorem State.recordsLate_latched (s : State) : (State.recordsLate s).latched = s.latched := by
  unfold State.recordsLate
  (repeat' (first | (simp; done) | (with_reducible refine (latched_foldl _ ?_ _ _).trans ?_; intros) | split | (dsimp only) | simp))

@[simp] theorem State.endTick_latched (s : State) (ev : TickEvents) : (State.endTick s ev).latched = s.latched := by
  unfold State.endTick
  simp

@[simp] theorem State.eclipsesDue_latched (s : State) : (State.eclipsesDue s).latched = s.latched := by
  unfold State.eclipsesDue
  (repeat' (first | (simp; done) | (with_reducible refine (latched_foldl _ ?_ _ _).trans ?_; intros) | split | (dsimp only) | simp))

@[simp] theorem State.seedDue_latched (s : State) : (State.seedDue s).latched = s.latched := by
  unfold State.seedDue
  simp

@[simp] theorem State.modeBoundary_latched (s : State) : (State.modeBoundary s).latched = s.latched := by
  unfold State.modeBoundary
  simp

@[simp] theorem State.recomputeNow_latched (s : State) : (State.recomputeNow s).latched = s.latched := by
  unfold State.recomputeNow
  simp

@[simp] theorem State.ungateAcked_latched (s : State) : (State.ungateAcked s).latched = s.latched := by
  unfold State.ungateAcked
  simp

@[simp] theorem State.lastingFailures_latched (s : State) : (State.lastingFailures s).latched = s.latched := by
  unfold State.lastingFailures
  (repeat' (first | (simp; done) | (with_reducible refine (latched_foldl _ ?_ _ _).trans ?_; intros) | split | (dsimp only) | simp))

@[simp] theorem State.createFinished_latched (s : State) : (State.createFinished s).latched = s.latched := by
  unfold State.createFinished
  (repeat' (first | (simp; done) | (with_reducible refine (latched_foldl _ ?_ _ _).trans ?_; intros) | split | (dsimp only) | simp))

@[simp] theorem State.abortRecords_latched (s : State) : (State.abortRecords s).latched = s.latched := by
  unfold State.abortRecords
  (repeat' (first | (simp; done) | (with_reducible refine (latched_foldl _ ?_ _ _).trans ?_; intros) | split | (dsimp only) | simp))

@[simp] theorem State.atBoundary_latched (s : State) : (State.atBoundary s).latched = s.latched := by
  unfold State.atBoundary
  (repeat' (first | (simp; done) | (with_reducible refine (latched_foldl _ ?_ _ _).trans ?_; intros) | split | (dsimp only) | simp))

@[simp] theorem State.bind_latched (s : State) (g : Grant) : (State.bind s g).latched = s.latched := by
  unfold State.bind
  (repeat' (first | (simp; done) | (with_reducible refine (latched_foldl _ ?_ _ _).trans ?_; intros) | split | (dsimp only) | simp))

@[simp] theorem State.readAfter_latched (s : State) (g : Grant) : (State.readAfter s g).latched = s.latched := by
  unfold State.readAfter
  (repeat' (first | (simp; done) | split | (dsimp only)))

@[simp] theorem State.issue_latched (s : State) (g : Grant) : (State.issue s g).latched = s.latched := by
  unfold State.issue
  (repeat' (first | (simp; done) | (with_reducible refine (latched_foldl _ ?_ _ _).trans ?_; intros) | split | (dsimp only) | simp))

@[simp] theorem State.engineTicks_latched (s : State) : (State.engineTicks s).latched = s.latched := by
  unfold State.engineTicks
  simp

@[simp] theorem State.markDual_latched (s : State) : (State.markDual s).latched = s.latched := by
  unfold State.markDual
  simp

@[simp] theorem State.macusBegin_latched (s : State) : (State.macusBegin s).latched = s.latched := by
  unfold State.macusBegin
  simp

@[simp] theorem State.issueAll_latched (s : State) : (State.issueAll s).latched = s.latched := by
  unfold State.issueAll
  (repeat' (first | (simp; done) | (with_reducible refine (latched_foldl _ ?_ _ _).trans ?_; intros) | split | (dsimp only) | simp))

@[simp] theorem State.sealedShares_latched (s : State) : (State.sealedShares s).latched = s.latched := by
  unfold State.sealedShares
  simp

@[simp] theorem State.moveFor_latched (s : State) (u : UnitId) : (State.moveFor s u).latched = s.latched := by
  unfold State.moveFor
  (repeat' (first | (simp; done) | split | (dsimp only)))

theorem execEclipseEffect_latched (u : UnitId) (s : State) : ∀ z, execEclipseEffect u s = .next z → z.latched = s.latched := by
  intro z h0
  unfold execEclipseEffect at h0
  cases h0
  (repeat' (first | (simp; done) | split | (dsimp only)))

@[simp] theorem State.decide1_latched (s : State) : (State.decide1 s).latched = s.latched := by
  unfold State.decide1
  simp

@[simp] theorem State.shapeClear_latched (s : State) (calm : Nat) : (State.shapeClear s calm).latched = s.latched := by
  unfold State.shapeClear
  simp

theorem execSegmentShaping_latched (s : State) : ∀ z, execSegmentShaping s = .next z → z.latched = s.latched := by
  intro z h0
  unfold execSegmentShaping at h0
  cases h0
  (repeat' (first | (simp; done) | split | (dsimp only)))

theorem execQuadrantGating_latched (q : Nat) (s : State) : ∀ z, execQuadrantGating q s = .next z → z.latched = s.latched := by
  intro z h0
  unfold execQuadrantGating at h0
  cases h0
  simp

@[simp] theorem State.setCap_latched (s : State) (n : Nat) : (State.setCap s n).latched = s.latched := by
  unfold State.setCap
  simp

theorem execPowerGovernor_latched (s : State) : ∀ z, execPowerGovernor s = .next z → z.latched = s.latched := by
  intro z h0
  unfold execPowerGovernor at h0
  cases h0
  simp

@[simp] theorem State.nvCommand_latched (s : State) (on : Bool) : (State.nvCommand s on).latched = s.latched := by
  unfold State.nvCommand
  simp

theorem execNvmFirstCommand_latched (r : SfdpRead) (s : State) : ∀ z, execNvmFirstCommand r s = .next z → z.latched = s.latched := by
  intro z h0
  unfold execNvmFirstCommand at h0
  cases h0
  simp

theorem execContainerReadDone_latched (data : ReadAnswer) (s : State) : ∀ z, execContainerReadDone data s = .next z → z.latched = s.latched := by
  intro z h0
  unfold execContainerReadDone at h0
  cases h0
  (repeat' (first | (simp; done) | split | (dsimp only)))

@[simp] theorem State.containerResult_latched (s : State) (k res : Nat) (chk : Check) : (State.containerResult s k res chk).latched = s.latched := by
  unfold State.containerResult
  simp

@[simp] theorem State.loadFailed_latched (s : State) : (State.loadFailed s).latched = s.latched := by
  unfold State.loadFailed
  simp

@[simp] theorem State.charterVerdict_latched (s : State) (k : Nat) (b : Bytes) : (State.charterVerdict s k b).latched = s.latched := by
  unfold State.charterVerdict
  (repeat' (first | (simp; done) | split | (dsimp only)))

@[simp] theorem State.nvNext_latched (s : State) : (State.nvNext s).latched = s.latched := by
  unfold State.nvNext
  simp

theorem execSeedingEnd_latched (elapsed : Nat) (s : State) : ∀ z, execSeedingEnd elapsed s = .next z → z.latched = s.latched := by
  intro z h0
  unfold execSeedingEnd at h0
  cases h0
  simp

/-! ### The commands that set a part of it leave the queue -/

/-- What keeps all that is latched keeps the queue. -/
theorem pending_of_latched {s z : State} (h : z.latched = s.latched) : z.pending = s.pending := congrArg Latched.queue h

theorem execRstCoreAssert_pending (s : State) : ∀ z, execRstCoreAssert s = .next z → z.pending = s.pending := by
  intro z h; cases h; rfl

theorem execRstRpAssert_pending (s : State) : ∀ z, execRstRpAssert s = .next z → z.pending = s.pending := by
  intro z h; cases h; rfl

theorem execRstRpRelease_pending (s : State) : ∀ z, execRstRpRelease s = .next z → z.pending = s.pending := by
  intro z h; cases h; rfl

theorem execTapReset_pending (s : State) : ∀ z, execTapReset s = .next z → z.pending = s.pending := by
  intro z h; cases h; rfl

theorem execIdcode_pending (s : State) : ∀ z, execIdcode s = .next z → z.pending = s.pending := by
  intro z h; cases h; rfl

theorem execBypass_pending (s : State) : ∀ z, execBypass s = .next z → z.pending = s.pending := by
  intro z h; cases h; rfl

theorem execOryState_pending (s : State) : ∀ z, execOryState s = .next z → z.pending = s.pending := by
  intro z h; cases h; rfl

theorem State.tapLoad_pending (s : State) (code : BitVec 8) : (s.tapLoad code).pending = s.pending := rfl

theorem State.oryCtrl_pending (s : State) (w : W32) : (s.oryCtrl w).pending = s.pending := by
  unfold State.oryCtrl
  dsimp only; split
  · rfl
  · split
    · rfl
    · rw [State.onOry_pending]
      refine (pending_of_latched ?_).trans (b := ((s.tapLoad tapCtrl).onIo fun i => { i with tapDr := w }).pending) rfl
      split <;> split <;> simp

theorem execThreadStop_pending (t : Nat) (s : State) : ∀ z, execThreadStop t s = .next z → z.pending = s.pending := by
  intro z h; unfold execThreadStop at h; cases h
  split
  · exact State.oryCtrl_pending ..
  · rfl

theorem execThreadResume_pending (t : Nat) (s : State) : ∀ z, execThreadResume t s = .next z → z.pending = s.pending := by
  intro z h; unfold execThreadResume at h; cases h
  split
  · exact State.oryCtrl_pending ..
  · rfl

theorem execHoldSet_pending (s : State) : ∀ z, execHoldSet s = .next z → z.pending = s.pending := by
  intro z h; cases h; exact State.oryCtrl_pending ..

theorem execHoldClear_pending (s : State) : ∀ z, execHoldClear s = .next z → z.pending = s.pending := by
  intro z h; cases h; exact State.oryCtrl_pending ..

theorem execResetRelease_pending (release : Release) (s : State) :
    ∀ z, execResetRelease release s = .next z → z.pending = s.pending := by
  intro z h; unfold execResetRelease at h; cases h
  split
  · rfl
  · refine Eq.trans (b := ((s.onBlk fun b => { b with lifecycle := release.lifecycle }).sampleTime release.ns).pending) (pending_of_latched ?_) rfl
    dsimp only; split <;> simp

theorem execRootKeyWord_pending (word : W32) (last : Bool) (s : State) :
    ∀ z, execRootKeyWord word last s = .next z → z.pending = s.pending := by
  intro z h; unfold execRootKeyWord at h; cases h
  split
  · rfl
  · dsimp only; repeat' split
    all_goals rfl

theorem State.applyCharter_pending (s : State) (c : Charter) (i : Image) : (s.applyCharter c i).pending = s.pending := rfl

theorem State.beginSeeding_pending (s : State) (e : Nat) : (s.beginSeeding e).pending = s.pending := by
  unfold State.beginSeeding
  exact (pending_of_latched (State.setMode_latched _ _)).trans rfl

theorem State.acceptCopy_pending (s : State) (k : Nat) (c : Charter) (i : Image) (e : Nat) :
    (s.acceptCopy k c i e).pending = s.pending := by
  unfold State.acceptCopy
  rw [State.beginSeeding_pending, State.applyCharter_pending]
  exact pending_of_latched (by simp)

theorem State.firmwareVerdict_pending (s : State) (k : Nat) (b : Bytes) (e : Nat) :
    (s.firmwareVerdict k b e).pending = s.pending := by
  unfold State.firmwareVerdict
  split
  · rfl
  · dsimp only; split
    · rw [State.acceptCopy_pending]; exact pending_of_latched (by simp)
    · exact pending_of_latched (by split <;> simp)

theorem State.loadTime_pending (s : State) (e : Nat) (ns : W64) : (s.loadTime e ns).pending = s.pending := by
  unfold State.loadTime; split <;> rfl

theorem execContainerVerdict_pending (elapsed : Nat) (ns : W64) (s : State) :
    ∀ z, execContainerVerdict elapsed ns s = .next z → z.pending = s.pending := by
  intro z h; unfold execContainerVerdict at h; cases h
  split
  · rfl
  · split
    · rfl
    · dsimp only
      rw [pending_of_latched (State.nvNext_latched _), ← State.loadTime_pending s elapsed ns]
      split
      · exact pending_of_latched (by simp)
      · exact State.firmwareVerdict_pending ..
      · exact pending_of_latched (by simp)
      · exact State.firmwareVerdict_pending ..
      · rfl

theorem execTbLost_pending (s : State) : ∀ z, execTbLost s = .next z → z.pending = s.pending := by
  intro z h; unfold execTbLost at h; cases h
  split
  · rfl
  · refine (pending_of_latched (State.log_latched _ _ _ _ _)).trans ?_
    rfl

theorem execTbRestored_pending (back : TimeBack) (s : State) :
    ∀ z, execTbRestored back s = .next z → z.pending = s.pending := by
  intro z h; unfold execTbRestored at h; cases h
  split
  · rfl
  · exact (pending_of_latched (State.log_latched _ _ _ _ _)).trans rfl

theorem execPowerAck_pending (ory : Bool) (n : Nat) (level : Bool) (s : State) :
    ∀ z, execPowerAck ory n level s = .next z → z.pending = s.pending := by
  intro z h; unfold execPowerAck at h; cases h
  split <;> rfl

theorem State.nextTick_pending (s : State) (ns : W64) : (s.nextTick ns).pending = s.pending := rfl

theorem State.boundary_pending (s : State) (ev : TickEvents) : (s.boundary ev).pending = s.pending := by
  unfold State.boundary
  dsimp only; split
  · rw [pending_of_latched (State.contain_latched _ _ _), State.nextTick_pending]; exact pending_of_latched (by simp)
  · rw [pending_of_latched (State.issueAll_latched _), pending_of_latched (State.atBoundary_latched _), State.nextTick_pending]
    exact pending_of_latched (by simp)

theorem execTickBoundary_pending (ev : TickEvents) (s : State) :
    ∀ z, execTickBoundary ev s = .next z → z.pending = s.pending := by
  intro z h; unfold execTickBoundary at h; cases h
  split
  · rfl
  · exact State.boundary_pending ..

theorem execContainment_pending (s : State) : ∀ z, execContainment s = .next z → z.pending = s.pending := by
  intro z h; unfold execContainment at h; cases h
  split
  · exact pending_of_latched (State.containIfCaused_latched _)
  · split
    · rfl
    · exact State.boundary_pending ..

theorem execEpochBoundary_pending (s : State) : ∀ z, execEpochBoundary s = .next z → z.pending = s.pending := by
  intro z h; unfold execEpochBoundary at h; cases h
  split
  · rfl
  · rw [pending_of_latched (State.markDual_latched _), State.onSch_pending]
    exact pending_of_latched (by simp)

theorem execEligibilityCut_pending (fs : List UnitFault) (s : State) :
    ∀ z, execEligibilityCut fs s = .next z → z.pending = s.pending := by
  intro z h; unfold execEligibilityCut at h; cases h
  split
  · rfl
  · exact (State.onSch_pending _ _).trans (pending_of_latched (by simp))

end Sys2Proof.Machine
end

