-- ==== Sys2Proof/Laws/Maps.lean ====
section
/-! SUPPORT. What a read gives after an update: of a map or a list, and of the rings, partitions, requests, threads and
channels that lie in them. -/

namespace Sys2Proof.Machine

variable {α : Type}

theorem mget_mset (m : Map α) (k j : Nat) (v : α) : mget (mset m k v) j = if k = j then some v else mget m j := by
  induction m with
  | nil => simp [mset, mget]
  | cons y m ih =>
    obtain ⟨a, w⟩ := y
    simp only [mset]
    split
    · simp only [mget, ih]; split <;> split <;> first | rfl | omega
    · split
      · subst_vars; simp only [mget]; split <;> rfl
      · simp [mget]

theorem mget_mupd (m : Map α) (k j : Nat) (f : α → α) :
    mget (mupd m k f) j = if k = j then (mget m j).map f else mget m j := by
  induction m with
  | nil => simp [mupd, mget]
  | cons y m ih =>
    obtain ⟨a, w⟩ := y
    simp only [mupd]
    split
    · subst_vars; simp only [mget]; split <;> rfl
    · simp only [mget, ih]; split <;> split <;> first | rfl | omega

theorem mget_mdel_ne (m : Map α) {k j : Nat} (h : k ≠ j) : mget (mdel m k) j = mget m j := by
  induction m with
  | nil => rfl
  | cons y m ih =>
    obtain ⟨a, w⟩ := y
    simp only [mdel]
    split
    · subst_vars; simp [mget, h]
    · simp [mget, ih]

theorem updAt_getElem? (l : List α) (n k : Nat) (f : α → α) :
    (updAt l n f)[k]? = if n = k then (l[k]?).map f else l[k]? := by
  induction l generalizing n k with
  | nil => simp [updAt]
  | cons a l ih => cases n <;> cases k <;> simp [updAt, ih]

@[simp] theorem updAt_length (l : List α) (n : Nat) (f : α → α) : (updAt l n f).length = l.length := by
  induction l generalizing n with
  | nil => rfl
  | cons a l ih => cases n <;> simp [updAt, ih]

variable (s : State)

theorem State.ring_onRing (r k : Nat) (f : Ring → Ring) :
    (s.onRing r f).ring k = if r = k then f (s.ring r) else s.ring k := by
  simp only [State.ring, State.onRing, State.setRing, State.onRng, mget_mset]; split <;> rfl

@[simp] theorem State.onRing_reqs (r : Nat) (f : Ring → Ring) : (s.onRing r f).rng.reqs = s.rng.reqs := rfl

theorem State.part_onPart (p k : Nat) (f : Part → Part) :
    (s.onPart p f).part k = if p = k then (s.part k).map f else s.part k := by
  simp only [State.part, State.onPart, State.onPrt, mget_mupd]

@[simp] theorem State.ring_onPart (p r : Nat) (f : Part → Part) : (s.onPart p f).ring r = s.ring r := rfl

theorem State.chan_onChan (c k : Nat) (f : Mbx → Mbx) :
    (s.onChan c f).chan k = if c = k then f (s.chan c) else s.chan k := by
  simp only [State.chan, State.onChan, State.onMbx, mget_mset]; split <;> rfl

theorem State.thread_onThread (t k : Nat) (f : Thread → Thread) (h : t < s.ory.threads.length) :
    (s.onThread t f).thread k = if t = k then f (s.thread t) else s.thread k := by
  simp only [State.thread, State.onThread, State.onOry, updAt_getElem?]
  split
  · subst_vars; simp [List.getElem?_eq_getElem h]
  · rfl

/-- The request a link lies in, updated, is found under its numbers where the update keeps them. -/
theorem State.req_onReq (r i : Nat) (f : Req → Req) (h : ∀ q, (f q).ring = q.ring ∧ (f q).idx = q.idx) :
    (s.onReq r i f).req r i = (s.req r i).map f := by
  simp only [State.req, State.onReq, State.onRng]
  induction s.rng.reqs with
  | nil => rfl
  | cons q l ih =>
    simp only [List.map_cons, List.find?_cons]
    cases hq : q.ring == r && q.idx == i
    · simpa [hq] using ih
    · simp [hq, h]

theorem State.link_onLink (id : LinkId) (f : Link → Link) :
    (s.onLink id f).link id
      = (s.link id).map fun x => ({ x.1 with links := updAt x.1.links id.link f }, f x.2) := by
  simp only [State.link, State.onLink]
  rw [State.req_onReq]
  · cases s.req id.ring id.idx with
    | none => rfl
    | some q => simp [updAt_getElem?, Option.map_map]; rfl
  · intro q; exact ⟨rfl, rfl⟩

end Sys2Proof.Machine
end

