-- ==== Sys2Proof/Laws/Memory.lean ====
section
/-! SUPPORT. The addressed memories: every operation on one keeps its canonical form, and reset has it. -/

namespace Sys2Proof.Machine

variable {α : Type}

/-- A set key is listed, and every other entry stood before. -/
theorem mem_mset {m : Map α} {k : Nat} {v : α} {x : Nat × α} (h : x ∈ mset m k v) : x = (k, v) ∨ x ∈ m := by
  induction m with
  | nil => simpa [mset] using h
  | cons y m ih =>
    obtain ⟨a, w⟩ := y
    simp only [mset] at h
    split at h
    · rcases List.mem_cons.1 h with h | h
      · exact .inr (h ▸ List.mem_cons_self)
      · exact (ih h).imp id (List.mem_cons_of_mem _)
    · split at h
      · exact (List.mem_cons.1 h).imp id (List.mem_cons_of_mem _)
      · exact List.mem_cons.1 h

/-- A map without a key is a part of the map. -/
theorem mdel_sublist (m : Map α) (k : Nat) : (mdel m k).Sublist m := by
  induction m with
  | nil => exact .slnil
  | cons y m ih =>
    simp only [mdel]
    split
    · exact List.sublist_cons_self _ _
    · exact ih.cons_cons _

/-- Setting a key keeps the keys rising. -/
theorem mset_rising {m : Map α} (k : Nat) (v : α) (h : m.Pairwise fun x y => x.1 < y.1) :
    (mset m k v).Pairwise fun x y => x.1 < y.1 := by
  induction m with
  | nil => simp [mset]
  | cons y m ih =>
    obtain ⟨a, w⟩ := y
    obtain ⟨h1, h2⟩ := List.pairwise_cons.1 h
    simp only [mset]
    split
    · refine List.pairwise_cons.2 ⟨fun x hx => ?_, ih h2⟩
      rcases mem_mset hx with rfl | hx
      · assumption
      · exact h1 x hx
    · split
      · next e => subst e; exact List.pairwise_cons.2 ⟨h1, h2⟩
      · refine List.pairwise_cons.2 ⟨fun x hx => ?_, h⟩
        rcases List.mem_cons.1 hx with rfl | hx
        · show k < a; omega
        · have := h1 x hx; simp only at this ⊢; omega

variable [DecidableEq α] {z : α}

theorem Memory.wf_iff {m : Map α} : Memory.wf z m = true ↔ (m.Pairwise fun x y => x.1 < y.1) ∧ ∀ x ∈ m, x.2 ≠ z := by
  simp [Memory.wf]

/-- A part of a memory in canonical form is in canonical form. -/
theorem Memory.wf_sublist {m n : Map α} (h : m.Sublist n) (hn : Memory.wf z n = true) : Memory.wf z m = true :=
  let ⟨h1, h2⟩ := Memory.wf_iff.1 hn
  Memory.wf_iff.2 ⟨h1.sublist h, fun x hx => h2 x (h.subset hx)⟩

/-- Writing keeps the canonical form: the value that an unlisted address reads as removes the entry. -/
theorem Memory.wf_write {m : Map α} (k : Nat) (v : α) (h : Memory.wf z m = true) :
    Memory.wf z (if v = z then mdel m k else mset m k v) = true := by
  split
  · exact Memory.wf_sublist (mdel_sublist m k) h
  · next hv =>
    obtain ⟨h1, h2⟩ := Memory.wf_iff.1 h
    exact Memory.wf_iff.2 ⟨mset_rising k v h1, fun x hx => (mem_mset hx).elim (fun e => e ▸ hv) (h2 x)⟩

/-- Storing bytes in shared memory keeps the canonical form. -/
theorem shPut_wf {m : Map Byte} (a : Nat) (b : Bytes) (h : Memory.wf 0 m = true) : Memory.wf 0 (shPut m a b) = true := by
  induction b generalizing m a with
  | nil => exact h
  | cons x b ih => exact ih _ (Memory.wf_write a x h)

theorem State.shWrite_wf (s : State) (a : Nat) (b : Bytes) (h : Memory.wf 0 s.ory.shmem = true) :
    Memory.wf 0 (s.shWrite a b).ory.shmem = true := shPut_wf a b h

/-- Writing an operand word keeps the canonical form. -/
theorem Macu.put_wf (m : Macu) (a : Nat) (w : BitVec 256) (h : Memory.wf 0 m.mem = true) :
    Memory.wf 0 (m.put a w).mem = true := Memory.wf_write a w h

theorem Macu.putLanes_wf (m : Macu) (a : Nat) (f : Nat → Nat) (h : Memory.wf 0 m.mem = true) :
    Memory.wf 0 (m.putLanes a f).mem = true := Macu.put_wf _ _ _ (Macu.put_wf _ _ _ h)

/-- Wiping a job's regions keeps the canonical form. -/
theorem Macu.wipe_wf (m : Macu) (id : LinkId) (h : Memory.wf 0 m.mem = true) : Memory.wf 0 (m.wipe id).mem = true :=
  Memory.wf_sublist (List.filter_sublist) h

/-- The memories are in canonical form at reset. -/
theorem State.reset_memWf : State.reset.memWf = true := by decide

end Sys2Proof.Machine
end

