-- ==== Sys2Proof/WellFormed.lean ====
section
/-! DEFINITION. Which commands can come: operands within the widths that the ports and the spec's numbering give them
(R10 to R17, R19, R29, R35, R230, R236, R253, R289, R326, R374, R382, R387). The meanings are total: they take a command
that is not well-formed too. -/

namespace Sys2Proof

def Accessor.wf (a : Accessor) : Bool := decide (a.fid < 1024)

def LinkId.wf (i : LinkId) : Bool := decide (i.ring < 131072) && decide (i.idx < 2 ^ 21) && decide (i.link < 8)

def UnitId.wf : UnitId → Bool
  | .lane n => decide (n < 16)
  | .engine n => decide (n < 32)
  | .macu n => decide (n < 16)
  | .quad q => decide (q < 4)
  | .oryCore c => decide (c < 4)
  | .drbgCore c => decide (c < 2)
  | .scintilla => true

/-- A fault names a unit of the class that its kind strikes (R306). -/
def UnitFault.wf (f : UnitFault) : Bool :=
  f.link.wf && (match f.kind with
    | .lockstep => UnitId.wf (.lane f.unit)
    | .laneEcc => UnitId.wf (.lane f.unit)
    | .engineEcc => UnitId.wf (.engine f.unit)
    | .dualMismatch => UnitId.wf (.macu f.unit)
    | .macuParity => UnitId.wf (.macu f.unit))

def TickEvents.wf (e : TickEvents) : Bool := e.faults.all (·.wf) && e.corrected.all fun c => c.1.wf

def ReadBeat.wf (b : ReadBeat) : Bool := b.data.length == 64

/-- An operand's address: a register of the 24-bit window (R387). -/
def addrOk (a : Nat) : Bool := decide (a < 2 ^ 24)

def ringOk (r : Nat) : Bool := decide (r < 131072)
def fidOk (f : Nat) : Bool := decide (f < 1024)
def chanOk (c : Nat) : Bool := decide (c < 1040)
def threadOk (t : Nat) : Bool := decide (t < 64)
def partOk (p : Nat) : Bool := decide (p < 1024)

/-- The operands of a command are in range. -/
def Instr.wf : Instr → Bool
  | .rstCoreAssert => true
  | .rstRpAssert => true
  | .resetRelease _ => true
  | .rootKeyWord _ _ => true
  | .nvmFirstCommand _ => true
  | .containerReadDone _ => true
  | .containerVerdict _ _ => true
  | .seedingEnd _ => true
  | .containment => true
  | .blockFault => true
  | .tickBoundary ev => ev.wf
  | .epochBoundary => true
  | .eligibilityCut fs => fs.all (·.wf)
  | .mac u _ _ _ => UnitId.wf (.macu u)
  | .shift u _ _ => UnitId.wf (.macu u)
  | .load u _ => UnitId.wf (.macu u)
  | .store u _ => UnitId.wf (.macu u)
  | .vmac u _ _ _ => UnitId.wf (.macu u)
  | .vshift u _ _ _ => UnitId.wf (.macu u)
  | .macuNop u => UnitId.wf (.macu u)
  | .macuEnd u => UnitId.wf (.macu u)
  | .commandFault u => UnitId.wf (.macu u)
  | .jobPreparation id _ => id.wf
  | .jobWipe id => id.wf
  | .selfTest u _ => u.wf
  | .eclipseEffect u => u.wf
  | .quadrantLoss q => UnitId.wf (.quad q)
  | .orreryCoreLoss c => UnitId.wf (.oryCore c)
  | .cacheUncorrectable _ p i r => partOk p && decide (i < 2 ^ 32) && (r.map (·.wf)).getD true
  | .segmentShaping => true
  | .quadrantGating q => UnitId.wf (.quad q)
  | .powerGovernor => true
  | .powerAck _ n _ => decide (n < 4)
  | .producerWrite who r _ => who.wf && ringOk r
  | .consumerWrite who r _ => who.wf && ringOk r
  | .abortWrite who r _ => who.wf && ringOk r
  | .registerWrite who a _ => who.wf && addrOk a
  | .readClears who a => who.wf && addrOk a
  | .irqPendClear who w _ => who.wf && decide (w < 4096)
  | .irqTest who _ => who.wf
  | .freezeNow who => who.wf
  | .frozenClear who => who.wf
  | .testPatternEnable who => who.wf
  | .testPatternDisable who => who.wf
  | .ringFetch r _ => ringOk r
  | .ringContextMiss r _ => ringOk r
  | .headerReread r _ => ringOk r
  | .chainIncomplete r => ringOk r
  | .cqStall r => ringOk r
  | .gatherListRead id _ _ => id.wf
  | .keyStaging id _ => id.wf
  | .ledgerReservationAck p i => partOk p && decide (i < 2 ^ 32)
  | .ledgerWriteRetry p i => partOk p && decide (i < 2 ^ 32)
  | .nop id => id.wf
  | .fenceRing id => id.wf
  | .fencePartition id => id.wf
  | .aeadSeal id => id.wf
  | .aeadOpen id => id.wf
  | .cipherEnc id => id.wf
  | .cipherDec id => id.wf
  | .gmacGen id => id.wf
  | .gmacVerify id => id.wf
  | .digest id => id.wf
  | .hmacGen id => id.wf
  | .hmacVerify id => id.wf
  | .pkJob id => id.wf
  | .random id => id.wf
  | .reseed id => id.wf
  | .keyGenerate id => id.wf
  | .keyImport id => id.wf
  | .keyDerive id => id.wf
  | .keyRetire id => id.wf
  | .copy id => id.wf
  | .completionRecordWrite r => ringOk r
  | .recordWriteRetry r => ringOk r
  | .irqTicksTrigger r => ringOk r
  | .interruptMessage f => fidOk f
  | .ringDrainComplete r => ringOk r
  | .ringOpenComplete r => ringOk r
  | .streamInputFrame p _ r d => decide (p < 4) && ringOk r && decide (0 < d.length) && decide (d.length ≤ 64)
  | .streamOutputFrame p => decide (p < 4)
  | .streamOutputPause p => decide (p < 4)
  | .streamLongPause p => decide (p < 4)
  | .readCompletion p i g bs => decide (p < 8) && decide (i < 1024) && decide (g < 64) && bs.all (·.wf)
  | .readTimeout p i => decide (p < 8) && decide (i < 1024)
  | .tagQuarantineEnd p i => decide (p < 8) && decide (i < 1024)
  | .writeResponse p i g _ => decide (p < 8) && decide (i < 1024) && decide (g < 64)
  | .bmeSet f => fidOk f
  | .bmeClear f => fidOk f
  | .bmeClearAck f => fidOk f
  | .flrStart f => fidOk f
  | .flrAck f _ => fidOk f
  | .flrWriteLate f => fidOk f
  | .fcReservedOp f => fidOk f
  | .tbLost => true
  | .tbRestored _ => true
  | .tapReset => true
  | .idcode => true
  | .bypass => true
  | .oryState => true
  | .threadStop t => threadOk t
  | .threadResume t => threadOk t
  | .holdSet => true
  | .holdClear => true
  | .fork t _ => threadOk t
  | .join t u => threadOk t && threadOk u
  | .channelWrite t c _ _ => threadOk t && decide (c < 256)
  | .channelRead t c => threadOk t && decide (c < 256)
  | .portRead t _ => threadOk t
  | .timeLimit t => threadOk t
  | .corePowerDown c => UnitId.wf (.oryCore c)
  | .coreWake c => UnitId.wf (.oryCore c)
  | .sdmaStart n _ _ => decide (n < 64)
  | .sdmaAbort n => decide (n < 64)
  | .sdmaDone n => decide (n < 64)
  | .go who c _ => who.wf && chanOk c
  | .ack who c _ => who.wf && chanOk c
  | .compatDoorbellMsg who c => who.wf && chanOk c
  | .compatDoorbellAck who c => who.wf && chanOk c
  | .mbDbMaskClear who c _ => who.wf && chanOk c
  | .messageTaken t _ => threadOk t
  | .mailboxReply c => chanOk c
  | .partitionRecordAck p => partOk p
  | .partitionRecordRetry p => partOk p
  | .fwVerifyVerdict => true
  | .swapEnter => true
  | .quiesceTimeout t => threadOk t
  | .flip => true
  | .initDone => true
  | .initTimeout => true
  | .swapExit => true
  | .windowEnd l => l.length == 1024
  | .healthTestFailure _ o => decide (o.no < 64) && o.counts.length == 4
  | .retestStart => true
  | .retestVerdict _ l => l.length == 1024
  | .drbgItemDone c => UnitId.wf (.drbgCore c)
  | .entropyWaitExpiry id => id.wf
  | .recordCommit => true
  | .readRefused who a => who.wf && addrOk a
  | .streamInputBeat p _ r d => decide (p < 4) && ringOk r && decide (d.length = 64)
  | .streamPauseEnd p => decide (p < 4)
  | .rstRpRelease => true
  | .knownAnswerTestDone _ _ _ => true

end Sys2Proof
end

