-- ==== Sys2Proof/Tests/Slice0.lean ====
section
/-! SUPPORT. Tests: ill-formed commands are refused by `Instr.wf`; single commands on small states, with results written out
from the spec's own examples and rules; for every statement a state and operands that meet its hypotheses. -/

open Sys2Proof Sys2Proof.Machine

namespace Sys2Proof.Tests

/-! ### Well-formedness: one ill-formed operand for each check -/

def host : Accessor := ⟨0, true⟩
def lk : LinkId := ⟨7, 0, 0⟩

theorem test_wf_accessor : (Instr.irqTest ⟨1024, false⟩ 0).wf = false ∧ (Instr.irqTest ⟨1023, false⟩ 0).wf = true := by decide
theorem test_wf_link : (Instr.nop ⟨131072, 0, 0⟩).wf = false ∧ (Instr.nop ⟨0, 2 ^ 21, 0⟩).wf = false
    ∧ (Instr.nop ⟨0, 0, 8⟩).wf = false ∧ (Instr.nop ⟨131071, 2 ^ 21 - 1, 7⟩).wf = true := by decide
theorem test_wf_unit : (Instr.selfTest (.lane 16) true).wf = false ∧ (Instr.selfTest (.engine 32) true).wf = false
    ∧ (Instr.selfTest (.macu 16) true).wf = false ∧ (Instr.selfTest (.quad 4) true).wf = false
    ∧ (Instr.selfTest (.oryCore 4) true).wf = false ∧ (Instr.selfTest (.drbgCore 2) true).wf = false
    ∧ (Instr.selfTest (.engine 31) true).wf = true := by decide
theorem test_wf_fault : (Instr.eligibilityCut [⟨.laneEcc, 16, lk, 0⟩]).wf = false ∧ (Instr.eligibilityCut [⟨.engineEcc, 16, lk, 0⟩]).wf = true
    ∧ (Instr.tickBoundary ⟨0, 0, [], [(.macu 16, 1)], 0⟩).wf = false := by decide
theorem test_wf_ring : (Instr.cqStall 131072).wf = false ∧ (Instr.producerWrite host 131072 0).wf = false
    ∧ (Instr.cqStall 131071).wf = true := by decide
theorem test_wf_addr : (Instr.registerWrite host (2 ^ 24) 0).wf = false ∧ (Instr.readClears host (2 ^ 24)).wf = false
    ∧ (Instr.irqPendClear host 4096 0).wf = false := by decide
theorem test_wf_fid_chan : (Instr.bmeSet 1024).wf = false ∧ (Instr.go host 1040 0).wf = false ∧ (Instr.go host 1039 0).wf = true := by
  decide
theorem test_wf_thread : (Instr.fork 64 0).wf = false ∧ (Instr.join 0 64).wf = false ∧ (Instr.channelRead 0 256).wf = false := by decide
theorem test_wf_part : (Instr.partitionRecordAck 1024).wf = false ∧ (Instr.ledgerReservationAck 0 (2 ^ 32)).wf = false
    ∧ (Instr.cacheUncorrectable .keyCache 0 0 (some ⟨0, 0, 8⟩)).wf = false := by decide
theorem test_wf_fabric : (Instr.readTimeout 8 0).wf = false ∧ (Instr.readTimeout 0 1024).wf = false
    ∧ (Instr.writeResponse 0 0 64 true).wf = false ∧ (Instr.readCompletion 0 0 0 [⟨[], true, false⟩]).wf = false := by decide
theorem test_wf_stream : (Instr.streamInputBeat 4 true 0 [0]).wf = false ∧ (Instr.streamInputBeat 0 true 0 []).wf = false
    ∧ (Instr.streamInputBeat 0 true 0 (List.replicate 65 0)).wf = false := by decide
theorem test_wf_rest : (Instr.powerAck false 4 true).wf = false ∧ (Instr.sdmaAbort 64).wf = false ∧ (Instr.windowEnd []).wf = false
    ∧ (Instr.retestVerdict true []).wf = false ∧ (Instr.healthTestFailure .rct ⟨64, [41, 0, 0, 0]⟩).wf = false ∧ (Instr.healthTestFailure .rct ⟨63, [41]⟩).wf = false
    ∧ (Instr.mac 16 0 0 0).wf = false ∧ (Instr.drbgItemDone 2).wf = false := by decide

/-! ### Small states -/

def base (m : Mode) : State := { State.reset with blk := { mode := m, rpReset := false }, sch := { tick := 5 } }

/-- Partition 1, bound to function 3, with eight context slots and four vectors. -/
def tenantPart : Part := { entry := { num := 1, fid := 3, ctxSlots := 8, vecBase := 16, vecCount := 4 }, st := .active }
def driver : Accessor := ⟨3, false⟩

def tenant : State := { base .service with prt := { parts := [(1, tenantPart)], bme := [3] } }

/-- Ring 7 of partition 1, of depth 256 as in the example of R46. -/
def ring0 : Ring := { st := .active, owner := 1, attr := { log2 := 8, sqBase := 0x10000, cqBase := 0x20000 } }
def withRing (x : Ring) : State := { tenant with rng := { rings := [(7, x)] } }

/-- A request of one link on ring 7. -/
def req0 (l : Link) : Req := { ring := 7, idx := 0, part := 1, links := [l] }
def withLink (l : Link) : State := { tenant with rng := { rings := [(7, ring0)], reqs := [req0 l], order := 1 } }
def withGrant (l : Link) (g : Grant) : State := { withLink l with sch := { tick := 5, running := [g] } }

def bare0 (op : Nat) : Link := { hdr := { opcode := op } }

/-- A job of the Orrery with nothing left to run. -/
def job0 : Job := { thread := 20, built := true }

def setAt {α : Type} (l : List α) (n : Nat) (a : α) : List α := updAt l n fun _ => a

/-- The cores in service and powered. -/
def cores0 : List Core := List.replicate 4 { awake := true }

def withThread (k : Nat) (x : Thread) : State := { tenant with ory := { threads := setAt (List.replicate 64 {}) k x, cores := cores0 } }

/-! ### Single commands -/

/-- The table of R46, steps 1 to 6: N = 0x200. -/
theorem test_producer_check : prodCheck 8 0x0FC 0x0FC 0x0FD = .accept ∧ prodCheck 8 0x102 0x0FD 0x103 = .accept
    ∧ prodCheck 8 0x103 0x103 0x0FF = .backward ∧ prodCheck 8 0x103 0x103 0x103 = .ignore
    ∧ prodCheck 8 0x103 0x103 0x003 = .accept ∧ prodCheck 8 0x103 0x003 0x004 = .beyond := by decide

/-- BYPASS is instruction 0xFF and captures 0 (R403). -/
theorem test_bypass : ∃ t, exec .bypass State.reset = .next t ∧ t.io.tapIr = 0xFF ∧ t.io.tapDr = 0 := ⟨_, rfl, by decide, by decide⟩

theorem test_step_order : ∃ t, step { State.reset with pending := [.rstRpRelease, .tapReset] } = .next t ∧ t.pending = [.tapReset]
    ∧ t.blk.rpReset = false := ⟨_, rfl, by decide, by decide⟩

/-- A MACU with a batch of the job `lk` in progress, which holds region 0. -/
def macu0 : Macu := { batch := some lk, regions := [some lk, none, none, none], mem := [(1, 3), (2, 5)] }
def withMacu (m : Macu) : State := { tenant with dat := { macus := setAt (List.replicate 16 {}) 0 m } }

/-- What a field of the state is after a command. -/
def after {α : Type} (c : Instr) (s : State) (f : State → α) : Option α :=
  match exec c s with
  | .next t => some (f t)
  | _ => none

theorem next_of_after {α : Type} {c : Instr} {s : State} {f : State → α} {a : α} (h : after c s f = some a) :
    ∃ t, exec c s = .next t := by
  unfold after at h
  split at h
  · next t e => exact ⟨t, e⟩
  · cases h

/-- MAC with the modifier's clear bit, then its subtract bit too (R203): 3 × 5 into A, and 0 less 3 × 5 modulo 2^576. -/
theorem test_mac : after (.mac 0 1 1 2) (withMacu macu0) (fun t => t.dat.macus[0]?.map (·.acc)) = some (some 15) := by decide +kernel
theorem test_mac_subtract : after (.mac 0 3 1 2) (withMacu macu0) (fun t => t.dat.macus[0]?.map (·.acc))
    = some (some (0 - 15)) := by decide +kernel

/-- Words written out from R202 and R203, bits 31:28 op, 27:24 modifier, 21:12 a (17:12 s), 9:0 b: MAC with clear and
subtract of addresses 1 and 2, VSHIFT by 63 to address 1023, END; code 0x5 is reserved, and such a command is a fault. -/
theorem test_macu_words : decodeMacu 4 0x13001002 = .mac 4 3 1 2 ∧ decodeMacu 4 0x9103F3FF = .vshift 4 1 63 1023
    ∧ decodeMacu 4 0xF0000000 = .macuEnd 4 ∧ decodeMacu 4 0x50000000 = .commandFault 4 := by decide

/-- Eight samples make a raw string: sample j in bytes 8j to 8j + 7, oscillator k in bit k of them (R247). -/
theorem test_raw_string : rawStrings [1, 0x100, 0, 0, 0, 0, 0, 0x8000000000000000] =
    [(1 : Byte) :: (zeros 8 ++ [1] ++ zeros 53 ++ [0x80])] := by decide

/-! ### Witnesses: a state and operands that meet the hypotheses of each statement -/

theorem witness_StepRunsFrontCommand : { State.reset with pending := [.bypass] }.pending = .bypass :: [] ∧ State.reset.pending = [] := by
  decide +kernel
theorem witness_QueueKept : ∃ t, exec .bypass State.reset = .next t := ⟨_, rfl⟩
theorem witness_LatchedKept : setsLatched .blockFault = false ∧ ∃ t, exec .blockFault tenant = .next t :=
  ⟨rfl, next_of_after (f := fun t => t.blk.cause) (a := some (.blockFault, 0)) (by decide +kernel)⟩
theorem witness_MemoryFormKept : (tenant.onOry fun o => { o with shmem := [(0, 1), (2097151, 2)] }).memWf = true ∧ (withMacu macu0).memWf = true
    ∧ ∃ t, exec (.macuEnd 0) (withMacu macu0) = .next t := ⟨by decide +kernel, by decide +kernel,
  next_of_after (f := fun t => t.blk.mode) (a := .service) (by decide +kernel)⟩

def read0 : FRead := { idx := 895, gen := 63, issued := true, addr := 0x1000, len := 64, fid := 3, cls := 0, purpose := .source lk 0 }
def write0 (g : Bool) : FWrite :=
  { idx := 1023, gen := 63, issued := true, addr := 0x1000, data := zeros 64, fid := 3, cls := 0, purpose := .data lk 0, given := g }

theorem witness_TagsKept :
    let p : Port := { reads := [read0, { read0 with idx := 1023, vault := true }], writes := [write0 false], quar := [0, 896] }
    let s := { tenant with mov := { ports := setAt (List.replicate 8 {}) 7 p } }
    s.tagsOk = true ∧ ∃ t, exec (.tagQuarantineEnd 7 0) s = .next t :=
  ⟨by decide +kernel, next_of_after (f := fun t => t.blk.mode) (a := .service) (by decide +kernel)⟩

def contained : State :=
  { State.reset with
    blk := { mode := .containment, reason := .blockFault, alFatal := true, wiped := true, rpReset := false }
    mov := { streams := List.replicate 4 { inHeld := true } }, eph := { frozen := true }, glog := { frozen := true } }

theorem witness_ContainedUntilReset : Instr.tapReset ≠ .rstCoreAssert ∧ contained.Contained
    ∧ ∃ t, exec .tapReset contained = .next t :=
  ⟨by decide +kernel, ⟨by decide +kernel, by decide +kernel, by decide +kernel, by decide +kernel, by decide +kernel, by decide +kernel⟩,
    next_of_after (f := fun t => t.io.tapIr) (a := 1) (by decide +kernel)⟩
theorem witness_ContainmentQuiet : contained.blk.mode = .containment ∧ actsInContainment (.ringFetch 7 ⟨.timeout 0 [], .timeout 0 []⟩) = false := by
  decide +kernel
theorem witness_ContainmentEntry :
    (let s := (tenant.onBlk fun b => { b with cause := some (.blockFault, 0) }).onSch fun c => { c with cutDone := true }
     s.live = true ∧ s.blk.cause = some (.blockFault, 0) ∧ s.ticking = true ∧ s.sch.cutDone = true)
    ∧ (let s := (base .charterLoad).onBlk fun b => { b with cause := some (.blockFault, 0) }
       s.live = true ∧ s.ticking = false)
    ∧ (tenant.ticking = true ∧ tenant.blk.cause = none)
    ∧ (base .charterLoad).blk.mode = .charterLoad ∧ (base .charterLoad).blk.cause = none := by decide +kernel
theorem witness_ResetReleaseAndRootKey : State.reset.blk.mode = .dormant ∧ State.reset.blk.cause = none ∧ (2 : BitVec 2) ≠ lcDecommissioned := by
  decide +kernel

def loading (l : Ldr) : State := { base .charterLoad with ldr := l, blk := { mode := .charterLoad, rpReset := false, lifecycle := 2 } }

theorem witness_ResetReleaseAndRootKey_words :
    (∀ n ∈ [0, 18, 19], let s := loading { rkWords := List.replicate n 1 }
      s.blk.mode ≠ .dormant ∧ s.rootUsed = true ∧ s.ldr.rkTaken = false ∧ s.ldr.rkWords.length = n)
    ∧ (loading { rkTaken := true }).rootUsed = true := by decide +kernel
/-- What SFDP discovery reads: one parameter header, of a BFPT of 16 words at 16, with word 1, word 3 and word 15 given. -/
def sfdp0 (w1 w3 w15 : Nat) : SfdpRead :=
  { data := ascii "SFDP" ++ [6, 1, 0, 0xFF] ++ [0, 6, 1, 16, 16, 0, 0, 0xFF] ++ natLE w1 4 ++ zeros 4 ++ natLE w3 4 ++ zeros 44 ++ natLE w15 4
            ++ zeros 4
    st05 := 0, st35 := 0, st3F := 0 }

/-- JESD216: bit 21 of word 1 says that 1-4-4 is supported, word 3 gives its instruction 0xEB, 2 mode and 4 dummy clocks; with a
quad-enable requirement that no status meets 1-4-4 is not usable. -/
theorem test_sfdp : readMode (sfdpOf (sfdp0 0x200000 0xEB44 0)) = (0, { instr := 0xEB, modes := 2, dummy := 4 })
    ∧ readMode (sfdpOf (sfdp0 0x200000 0xEB44 0x400000)) = (4, { instr := 0x0B, dummy := 8 })
    ∧ readMode (sfdpOf ⟨zeros 64, 0, 0, 0⟩) = (5, { instr := 0x03 }) := by decide +kernel

theorem witness_LoaderReads :
    (let s := loading { rkTaken := true }
     s.blk.mode = .charterLoad ∧ s.ldr.rkTaken = true ∧ s.ldr.nvmStarted = false)
    ∧ ((sfdpOf (sfdp0 0x200000 0xEB44 0)).valid = true ∧ (sfdpOf (sfdp0 0x200000 0xEB44 0)).quadReq = 0
      ∧ (sfdpOf (sfdp0 0x200000 0xEB44 0)).m144.isSome = true ∧ (sfdpOf (sfdp0 0x400000 0xEB44 0)).m114.isSome = true
      ∧ (sfdpOf (sfdp0 0x100000 0 0)).m122.isSome = true ∧ (sfdpOf (sfdp0 0x10000 0 0)).m112.isSome = true
      ∧ (sfdpOf (sfdp0 0 0 0)).m144 = none ∧ (zeros 64 : Bytes).take 4 ≠ ascii "SFDP")
    ∧ (let s := loading { rkTaken := true, nvmStarted := true }
       s.ldr.nvmStarted = true ∧ s.ldr.container = none ∧ s.ldr.stage ≠ .done ∧ s.reachable 4096 = true)
    ∧ (let s := loading { rkTaken := true, nvmStarted := true, stage := .fwA, tried := some { fwOffset := 2 ^ 32 } }
       s.ldr.container = none ∧ s.ldr.stage ≠ .done ∧ s.reachable 4096 = false) := by decide +kernel
theorem witness_ContainerVerdicts :
    ∀ k ∈ [LoadStage.charterA, .charterB, .fwA, .fwB], let s := loading { stage := k, container := some [], tried := some {} }
      s.blk.mode = .charterLoad ∧ s.ldr.container = some [] ∧ s.ldr.stage = k ∧ s.ldr.tried = some {} ∧ s.blk.cause = none := by decide +kernel
theorem witness_SeedingResults :
    (let s := base .seeding
     s.blk.mode = .seeding ∧ s.ldr.katDone = false ∧ s.blk.cause = none ∧ s.ent.cores.length = 2)
    ∧ (let s := { base .seeding with ldr := { seedEnd := true } }
       s.blk.mode = .seeding ∧ s.ldr.seedEnd = true ∧ s.blk.cause = none) ∧ (base .seeding).ldr.seedEnd = false := by decide +kernel
theorem witness_OutsideInputs : tenant.blk.tbValid = true ∧ (tenant.onBlk fun b => { b with tbValid := false }).blk.tbValid = false
    ∧ State.debugOn { base .service with blk := { mode := .service, lifecycle := 1 } } = true
    ∧ State.debugOn { base .service with blk := { mode := .service, lifecycle := 2 } } = false := by decide +kernel
theorem witness_TickBoundaryResult : let s := tenant.onSch fun c => { c with cutDone := true }
    s.ticking = true ∧ s.sch.cutDone = true ∧ (s.onBlk fun b => { b with cause := some (.blockFault, 0) }).blk.cause = some (.blockFault, 0)
      ∧ (s.endTick ⟨0, 0, [], [], 0⟩).blk.cause = none := by decide +kernel
theorem witness_EpochAndCutResults :
    (let s := tenant.onSch fun c => { c with tick := 1024 }
     s.ticking = true ∧ s.sch.cutDone = false ∧ s.sch.epochDone = false ∧ s.sch.tick % 1024 = 0)
    ∧ (tenant.ticking = true ∧ tenant.sch.cutDone = false ∧ tenant.boundaryDue = false) := by decide +kernel

/-- One partition with all of every class, and a COPY of 64 bytes whose source is held: its grant stands on lane 0. -/
def copyReady : State :=
  let l : Link := { hdr := { opcode := opCopy, srcLen := 64, dst := 0x9000 }, listsDone := true, staged := true, source := zeros 64 }
  { tenant with
    rng := { rings := [(7, { st := .active, owner := 1 })], reqs := [{ ring := 7, idx := 0, part := 1, links := [l] }], order := 1 }
    prt := { parts := [(1, { tenantPart with floor := 65536, ceiling := 65536, feff := [65536, 65536, 65536] })], bme := [3] }
    io := { quadReq := List.replicate 4 true, quadAck := List.replicate 4 true } }

theorem witness_GrantSetRules : (copyReady.makePlan.sch.plan.map fun g => (g.unit, g.win, g.cost, g.pair)) = [(.lane 0, false, 44, false)]
    ∧ (copyReady.rng.reqs.map fun r => (r.ring, r.idx)).Nodup ∧ (copyReady.makePlan.req 7 0).isSome = true := by decide +kernel
theorem witness_GrantSetRules_passes : (∀ x ∈ copyReady.scanAll.2, x.retry = false) ∧ copyReady.scanAll.2.length = 1
    ∧ (copyReady.prt.parts.map (·.1)).Nodup ∧ ∃ x, copyReady.part 1 = some x ∧ 2 < x.dc.length :=
  ⟨by decide +kernel, by decide +kernel, by decide +kernel, _, rfl, by decide +kernel⟩

def shaped (late : Bool) (shift calm : Nat) : State :=
  { tenant with prt := { parts := [(1, { tenantPart with entry := { num := 1, fid := 3, latency := 8 }, shapeDone := 100, shapeLate := b2n late * 20, segShift := shift, shapeSegs := 4, shapeCost := 400 })] }
                sch := { tick := 64, shapeTicks := 64, calmWins := calm } }

theorem witness_PolicyLoopResults :
    (let s := shaped true 3 0
     s.policyOn = true ∧ 64 ≤ s.sch.shapeTicks ∧ s.prt.parts.any (fun y => y.2.lateWindow) = true ∧ s.shapeUp = some 1 ∧ (s.part 1).isSome = true)
    ∧ (let s := shaped false 0 2
       s.policyOn = true ∧ s.prt.parts.any (fun y => y.2.lateWindow) = false ∧ s.sch.calmWins < 3)
    ∧ (let s := shaped false 1 3
       s.prt.parts.any (fun y => y.2.lateWindow) = false ∧ 3 ≤ s.sch.calmWins ∧ s.shapeDown = some 1)
    ∧ (let x : Quad := { idle := 256 }
       let s := { tenant with dat := { quads := [{}, {}, {}, x] } }
       s.policyOn = true ∧ s.dat.quads[3]? = some x ∧ x.gated = false ∧ x.u.ecl = false ∧ x.active = false ∧ s.quadHeld 3 = false
         ∧ s.quadSealed 3 = false ∧ s.quadTests 3 = false)
    ∧ (let s := tenant.onSch fun c => { c with winTicks := 16 }
       s.policyOn = true ∧ 16 ≤ s.sch.winTicks) := by decide +kernel

def testing (m : Mode) (u : UnitSt) : State := { base m with dat := { lanes := setAt (List.replicate 16 {}) 15 { u := u } } }

theorem witness_SelfTestResult : ∀ m ∈ [Mode.service, .seeding], let s := testing m { inTest := true }
    s.live = true ∧ (s.unitSt (.lane 15)).tested = none ∧ (s.unitSt (.lane 15)).inTest = true ∧ s.unpowered (.lane 15) = false := by decide +kernel
theorem witness_SelfTestResult_lit : ∀ b ∈ [false, true], let s := { testing .service { inTest := true } with io := { quadAck := List.replicate 4 b } }
    s.unlit (.lane 15) = !b := by decide +kernel
theorem witness_SelfTestResult_unpowered : (base .seeding).unpowered (.quad 3) = true := by decide +kernel
theorem witness_EclipseResults :
    (let s := testing .service { eclPend := some .threshold, eclDue := true }
     s.live = true ∧ s.sch.cutDone = false ∧ (s.unitSt (.lane 15)).eclPend = some .threshold ∧ (s.unitSt (.lane 15)).eclDue = true
       ∧ .lane 15 ∈ allUnits)
    ∧ (tenant.live = true ∧ 3 < tenant.dat.quads.length ∧ (tenant.unitSt (.quad 3)).ecl = false)
    ∧ (let q := { req0 (bare0 opCopy) with quad := some 3, links := [{ bare0 opCopy with stat := some ⟨0, 0⟩ }, bare0 opCopy, bare0 opCopy] }
       let s := { withLink (bare0 opCopy) with rng := { rings := [(7, ring0)], reqs := [q, { q with idx := 1 }] } }
       (s.rng.reqs.map fun r => (r.ring, r.idx)).Nodup ∧ q ∈ s.rng.reqs ∧ q.quad = some 3
         ∧ s.linkDone (q.linkId 0) { bare0 opCopy with stat := some ⟨0, 0⟩ } = true ∧ s.linkDone (q.linkId 1) (bare0 opCopy) = false)
    ∧ (3 < tenant.ory.cores.length ∧ (tenant.unitSt (.oryCore 3)).ecl = false) := by decide +kernel

def slot0 : KSlot := { part := 1, index := 7, gen := 0, ctx := zeros 248 }
def hslot0 : HSlot := { part := 1, index := 7, gen := 0, hash := 2, inner := [], outer := [] }

theorem witness_CacheUncorrectableResult : let s := { tenant with key := { slots := [slot0], hslots := [hslot0], derived := [(1, ⟨[], [], [], []⟩)] } }
    s.live = true ∧ s.key.slots.find? (fun x => x.part == 1 && x.index == 7) = some slot0
      ∧ s.key.hslots.find? (fun x => x.part == 1 && x.index == 7) = some hslot0 ∧ (mget s.key.derived 1).isSome = true := by decide +kernel

/-- Addresses 0 and 255 are the ends of the region that the batch's job holds. -/
theorem witness_MacuScalarCommands : let s := withMacu macu0
    s.serving = true ∧ s.dat.macus[0]? = some macu0 ∧ macu0.batch = some lk ∧ s.dualOn 0 = none ∧ macu0.holdsAddr 0 = true
      ∧ macu0.holdsAddr 255 = true ∧ macu0.loadQ.find? (fun x => x.1 == lk) = none := by decide +kernel
theorem witness_MacuScalarCommands_load : let m := { macu0 with loadQ := [(⟨7, 1, 0⟩, 8), (lk, 9)] }
    m.loadQ.find? (fun x => x.1 == lk) = some (lk, 9) ∧ m.holdsAddr 255 = true := by decide +kernel
theorem witness_MacuVectorCommands : macu0.vecAddr 0 = true ∧ macu0.vecAddr 254 = true ∧ macu0.batch.isSome = true
    ∧ Memory.wf 0 macu0.mem = true := by decide +kernel
theorem witness_MemoryLaws : Memory.wf 0 macu0.mem = true
    ∧ Memory.wf 0 { tenant with ory := { shmem := [(0, 1), (2097151, 2)] } }.ory.shmem = true ∧ (0 + 4 ≤ 4 ∨ 4 + 1 ≤ 0) := by decide +kernel

/-- A job's batch on MACU 0, its grant running. -/
def jobLink : Link := { hdr := { opcode := opPk, subop := 0x10 }, job := some job0, staged := true, listsDone := true }
def macuGrant : Grant := { unit := .macu 0, part := 1, id := lk, seg := 0, cost := 100 }

theorem witness_CommandFaultResult : let s := { withGrant jobLink macuGrant with dat := { macus := setAt (List.replicate 16 {}) 0 macu0 } }
    s.serving = true ∧ s.dat.macus[0]? = some macu0 ∧ macu0.batch = some lk
      ∧ s.sch.running.find? (fun g => g.id == lk && g.units.contains (.macu 0)) = some macuGrant
      ∧ s.link lk = some (req0 jobLink, jobLink) ∧ jobLink.hdr.opcode = opPk ∧ jobLink.stat = none ∧ jobLink.retryUsed = false
      ∧ jobLink.job.isSome = true ∧ macu0.holdsAddr 256 = false := by decide +kernel

/-- The same job under DUAL on MACUs 0 and 1; MACU 1 follows. -/
def pairGrant : Grant := { macuGrant with pair := true }
def withPair (l : List Compare) : State :=
  { withGrant jobLink pairGrant with dat := { macus := setAt (setAt (List.replicate 16 {}) 0 macu0) 1 macu0, compare := l } }

theorem witness_CommandFaultResult_dual :
    (let s := withPair []
     s.serving = true ∧ s.dat.macus[0]? = some macu0 ∧ s.dualOn 0 = some (lk, true)
       ∧ s.sch.running.find? (fun x => x.id == lk && x.pair) = some pairGrant ∧ pairGrant.units = [.macu 0, .macu (mate 0)]
       ∧ s.link lk = some (req0 jobLink, jobLink) ∧ macu0.holdsAddr 255 = true)
    ∧ ∀ n ∈ [0, 1], let s := withPair [⟨lk, 0, [BitVec.ofNat 256 n], 0⟩]
      s.dat.macus[1]? = some macu0 ∧ s.dualOn 1 = some (lk, false) ∧ pairGrant.units = [.macu (mate 1), .macu 1]
        ∧ s.leaderWord 1 lk = some ⟨lk, 0, [BitVec.ofNat 256 n], 0⟩ ∧ macu0.acc.setWidth 256 = 0 := by decide +kernel

/-! The register port -/

theorem open_owner (x : Ring) (h : (withRing x).mayAct driver ((withRing x).ringOwner 7) = true)
    (hp : (withRing x).partState ((withRing x).ring 7).owner = .active) : (withRing x).doorbellOpen driver 7 :=
  ⟨rfl, h, .inl hp⟩

/-- Each case of the check of R46 in turn; the values are those of the example of R46. -/
theorem witness_ProducerWriteResult : (withRing { ring0 with subHead := 0x103, prod := 0x003 }).doorbellOpen driver 7
    ∧ (let x := (withRing { ring0 with subHead := 0x103, prod := 0x103 }).ring 7
       let n := 2 * 2 ^ x.attr.log2
       x.attr.stream = false ∧ x.st = .active ∧ n ≤ 0x200 ∧ 0x103 < n ∧ 0x103 = x.prod
       ∧ (0x003 ≠ x.prod ∧ modSub 0x003 x.subHead n ≤ n / 2 ∧ modSub x.prod x.subHead n = 0)
       ∧ (n / 2 < modSub 0x0FF x.subHead n ∧ modSub x.prod 0x0FF n ≤ n / 2)
       ∧ (n / 2 < modSub 0x004 x.subHead n ∧ n / 2 < modSub 0x003 0x004 n)) := by
  refine ⟨open_owner _ (by decide +kernel) (by decide +kernel), by decide +kernel⟩
theorem witness_ProducerWriteResult_states : ∀ k ∈ [RState.held, .quarantined, .opening, .draining],
    ((withRing { ring0 with st := k }).ring 7).st = k ∧ ((withRing { ring0 with st := k }).ring 7).owner = 1 := by decide +kernel
theorem witness_ProducerWriteResult_closed : (withRing { ring0 with st := .closed }).doorbellOpen host 7
    ∧ ((withRing { ring0 with st := .closed }).ring 7).st = .closed := ⟨⟨by decide +kernel, by decide +kernel, .inl (by decide +kernel)⟩, by decide +kernel⟩
theorem witness_ConsumerWriteResult : (withRing ring0).doorbellOpen driver 7 ∧ ((withRing ring0).ring 7).attr.stream = false
    ∧ ((withRing ring0).ring 7).st = .active ∧ (withRing { ring0 with st := .opening }).doorbellOpen driver 7
    ∧ (withRing { ring0 with attr := { stream := true } }).doorbellOpen driver 7 :=
  ⟨open_owner _ (by decide +kernel) (by decide +kernel), by decide +kernel, by decide +kernel, open_owner _ (by decide +kernel) (by decide +kernel), open_owner _ (by decide +kernel) (by decide +kernel)⟩
theorem witness_AbortWriteResult :
    (let s := withRing ring0
     s.portActs = true ∧ s.mayAct driver (s.ringOwner 7) = true ∧ (s.ring 7).st ≠ .closed ∧ s.partState (s.ring 7).owner ≠ .resetting)
    ∧ (∀ k ∈ [PState.resetting, .ready], let s := { withRing ring0 with prt := { parts := [(1, { tenantPart with st := k })], bme := [3] } }
       s.portActs = true ∧ s.mayAct driver (s.ringOwner 7) = true ∧ (s.ring 7).st ≠ .closed ∧ s.partState (s.ring 7).owner = k)
    ∧ (let s := withRing ring0
       s.mayAct ⟨4, false⟩ (s.ringOwner 7) = false ∧ s.partOfFid 4 = none) := by decide +kernel
theorem witness_QuarantineRule : (withRing { ring0 with viol := List.replicate 64 5 }).blk.mode ≠ .containment
    ∧ 64 ≤ (((withRing { ring0 with viol := List.replicate 64 5 }).ring 7).viol.filter fun k => decide (modSub 5 k (2 ^ 32) ≤ 1023)).length
    ∧ (withRing { ring0 with st := .quarantined }).doorbellOpen driver 7 ∧ 2 * 2 ^ ring0.attr.log2 ≤ (0x200 : W32).toNat % 2 ^ 21 :=
  ⟨by decide +kernel, by decide +kernel, open_owner _ (by decide +kernel) (by decide +kernel), by decide +kernel⟩
theorem witness_RegisterAccessResults :
    (tenant.portActs = true ∧ host.priv = true ∧ driver.priv = false)
    ∧ ((withRing ring0).portActs = true ∧ ((withRing ring0).ring 7).st ≠ .closed ∧ (withRing ring0).mayAct driver ((withRing ring0).ringOwner 7) = true)
    ∧ (contained.blk.rpReset = false ∧ contained.blk.mode = .containment ∧ contained.mayRead host (wordAddr 0x300030) = true)
    ∧ (tenant.mayRead driver (wordAddr 0x300030) = false ∧ tenant.portActs = true)
    ∧ (contained.mayRead driver (wordAddr 0x300030) = false ∧ contained.portActs = false) := by decide +kernel
/-- The checks of R434 on one register of each class, the ends of the ranges, and of those that a read clears. -/
theorem witness_RegisterAccessResults_map :
    (∀ a ∈ [0x300004, 0x310000, 0x6C0000, 0xFFFFFF], ringAt (wordAddr a) = none ∧ chanAt (wordAddr a) = none)
    ∧ (∀ a ∈ [0x300004, 0x600120, 0x661000], tenant.mayWrite driver (wordAddr a) = false)
    ∧ (∀ a ∈ [0x300004, 0x30002C, 0x300044, 0x307FFC, 0x30C000, 0x310040, 0x6C0000, 0xFFFFFC],
      host.priv = true ∧ ¬ (0x300030 ≤ a ∧ a ≤ 0x300040) ∧ ¬ (0x308000 ≤ a ∧ a < 0x30C000) ∧ a ∉ [0x4A0000, 0x660008, 0x66000C, 0x6C0004])
    ∧ (∀ a ∈ [0x300004, 0x300210, 0x600000, 0x6C0010], tenant.mayRead host (wordAddr a) = true
      ∧ a ∉ [0x300214, 0x300218, 0x600A00, 0x620010, 0x640014, 0x660004, 0x6A000C, 0x6A0010, 0x6C0008, 0x6C000C]
      ∧ ¬ (0x600000 ≤ a ∧ a < 0x600200 ∧ a % 32 = 4) ∧ chanAt a = none) := by decide +kernel
/-- The worked example of R434: the unused words of an own channel read 0 to its function, and a drive that is not its own is refused. -/
theorem witness_RegisterAccessResults_own : tenant.mayRead driver (wordAddr 0x1011A0) = true ∧ tenant.readValue driver 0x1011A0 = 0
    ∧ tenant.mayRead driver (wordAddr 0x600120) = false := by decide +kernel
theorem witness_RegisterCommandResults : (withRing { ring0 with pend := true }).portActs = true ∧ (tenant.partOfFid driver.fid).isSome = true
    ∧ host.priv = true := by decide +kernel
theorem witness_RegisterCommandResults_test : tenant.portActs = true ∧ tenant.partOfFid 3 = some 1 ∧ tenant.part 1 = some tenantPart
    ∧ tenant.partOfFid 4 = none := by decide +kernel

theorem witness_RegisterCommandResults_pattern :
    (let s := { tenant with blk := { mode := .factory, rpReset := false, lifecycle := lcFactory }, ent := { testEn := true } }
     s.portActs = true ∧ s.blk.lifecycle = lcFactory ∧ s.ent.testEn = true)
    ∧ { tenant with blk := { mode := .service, lifecycle := 2 } }.blk.lifecycle ≠ lcFactory := by decide +kernel

/-! Rings and requests -/

theorem witness_FetchResults :
    (let s := withRing { ring0 with prod := 1 }
     s.mayFetch 7 = true ∧ (s.ring 7).hdrFail = none
       ∧ s.canRead (s.ringReader 1 (some (s.fetchId 7))) ((s.ring 7).entryExts 0 1) = true
       ∧ s.canRead (s.ringReader 1 (some (s.fetchId 7))) ((s.ring 7).entryExts 1 0) = true)
    ∧ (let s := withRing { ring0 with subHead := 0x1FF, prod := 0, hdrFail := some 2 }
       s.mayFetch 7 = true ∧ (s.ring 7).hdrFail.isSome = true ∧ (s.ring 7).hdrTick ≠ s.sch.tick
         ∧ s.canRead (s.ringReader 1 (some (s.fetchId 7))) ((s.ring 7).entryExts 0x1FF 1) = true)
    ∧ (let s := withRing { ring0 with cached := false }
       s.serving = true ∧ (s.ring 7).st ≠ .closed ∧ (s.ring 7).cached = false
         ∧ s.canRead (s.vaultReader 1 none) [(s.key.base + ringCtxBase + 256 * 7, 256)] = true) := by decide +kernel
/-- R45: the request that a header at index 5 begins bears that index. -/
theorem test_fetch_index : after (.ringFetch 7 ⟨.ok [], .ok []⟩) (withRing { ring0 with subHead := 5, prod := 6 })
    (fun t => (t.rng.reqs.map (·.idx), (t.ring 7).subHead)) = some ([5], 6) := by decide +kernel
theorem witness_FetchResults_failed : ∀ b, ReadAnswer.timeout 0 [] ≠ .ok b := fun _ h => by cases h

def chain0 : Req := { req0 {} with openSince := some 0 }

theorem witness_RingStageResults_chain :
    let s := { withRing ring0 with rng := { rings := [(7, ring0)], reqs := [chain0] }, sch := { tick := 1024 } }
    s.serving = true ∧ (s.ring 7).hasHeader = false ∧ chain0.ring = 7 ∧ chain0.openSince = some 0
      ∧ s.rng.reqs.find? (fun q => q.ring == 7 && q.openSince.isSome) = some chain0 ∧ s.req 7 chain0.idx = some chain0
      ∧ 1024 ≤ modSub s.sch.tick 0 (2 ^ 32) ∧ chain0.abort = .none := by decide +kernel
theorem witness_RingStageResults_stall : 256 ≤ ((withRing { ring0 with stallTicks := 256 }).ring 7).stallTicks := by decide +kernel

/-- A PK request whose source is a list of one element, 16 bytes at address 0x1000, with its LAST bit set. -/
def gather0 : Link := { hdr := { opcode := opPk, srcLen := 16, srcGather := 1 } }
def elem0 : Bytes := natLE 0x1000 8 ++ natLE (16 + 2 ^ 26) 4 ++ zeros 4

theorem witness_RingStageResults_gather : let s := withLink gather0
    s.serving = true ∧ s.link lk = some (req0 gather0, gather0) ∧ gather0.stat = none ∧ gather0.listsDone = false
      ∧ (req0 gather0).openSince = none ∧ (req0 gather0).abort = .none ∧ s.silentFid (s.fidOf 1) = false
      ∧ isList gather0.hdr.srcGather = true ∧ isList gather0.hdr.dstGather = false
      ∧ listCheck gather0.hdr (readElems 1 (ansBytes (.ok elem0) 16)) [] = none ∧ tagRead gather0.hdr.opcode = false
      ∧ listCheck gather0.hdr (readElems 1 (ansBytes (.ok (zeros 16)) 16)) [] ≠ none ∧ gather0.timedOut = false
      ∧ s.canRead (s.ringReader 1 (some lk)) [(gather0.hdr.src, 16)] = true := by decide +kernel

theorem witness_RingStageResults_gather_dst : let l : Link := { hdr := { opcode := opPk, srcGather := 1, dstGather := 1, src := 0x1000, dst := 0x2000 } }
    let s := withLink l
    s.link lk = some (req0 l, l) ∧ isList l.hdr.srcGather = true ∧ isList l.hdr.dstGather = true ∧ l.timedOut = false
      ∧ s.canRead (s.ringReader 1 (some lk)) ([(0x1000, 16)] ++ [(0x2000, 16)]) = true := by decide +kernel

/-- A link whose result is known. -/
def doneLink : Link := { hdr := { opcode := opCopy }, stat := some ⟨0, 0⟩, written := true, listsDone := true, staged := true }

theorem witness_RecordWriteResult : let s := withLink doneLink
    s.serving = true ∧ s.nextRecord 7 = some (req0 doneLink, 0) ∧ s.link lk = some (req0 doneLink, doneLink)
      ∧ s.silentFid (s.fidOf 1) = false ∧ (s.ring 7).recFail = none ∧ (s.ring 7).attr.stream = false
      ∧ (s.ring 7).attr.cqBase % 32 = 0 ∧ s.writeFree 0x20000 (s.fidOf 1) = true := by decide +kernel
theorem witness_RecordWriteResult_stream :
    let x : Ring := { ring0 with attr := { stream := true, pair := 3 } }
    let s := { withLink doneLink with rng := { rings := [(7, x)], reqs := [req0 doneLink] } }
    s.nextRecord 7 = some (req0 doneLink, 0) ∧ (s.ring 7).attr.stream = true ∧ (s.ring 7).attr.pair < s.mov.streams.length := by
  decide +kernel

theorem witness_RecordRetryAndInterrupts :
    (let s := withRing { ring0 with recFail := some 4, recTick := 4 }
     s.serving = true ∧ (s.ring 7).recFail.isSome = true ∧ (s.ring 7).recTick ≠ s.sch.tick ∧ s.silentFid (s.fidOf (s.ring 7).owner) = false
       ∧ s.writes.filter (fun w => isRecord 7 w.purpose && (w.held || w.again) && !w.given) = [])
    ∧ (∀ h ∈ [false, true], ∀ n ∈ [0, 1],
       let w : FWrite := { addr := 0x20000, data := zeros 32, fid := 3, cls := 0, purpose := .record lk false, held := h, again := !h }
       let e : EphQ := { source := 1, part := 1, code := 0x0809, sev := 2, flags := 1, detail := [], req := some (7, 0) }
       let s := { withRing { ring0 with recFail := some 4, recTick := 4 } with
                    mov := { ports := setAt (List.replicate 8 {}) 0 { writes := [w] } }, eph := { queue := List.replicate n e } }
       minBy (s.ring 7).slotAge (s.writes.filter fun w => isRecord 7 w.purpose && (w.held || w.again) && !w.given) = some w
         ∧ s.recordWaits w = decide (n = 1))
    ∧ (let s := withRing { ring0 with irqAge := some 2, attr := { irqTicks := 2, vector := 16 } }
       s.live = true ∧ (s.ring 7).irqAge = some 2 ∧ (s.ring 7).attr.irqTicks ≠ 0 ∧ (s.ring 7).attr.irqTicks ≤ 2 ∧ (s.ring 7).st ≠ .closed
         ∧ s.flrOn (s.fidOf (s.ring 7).owner) = false)
    ∧ (let s := { tenant with io := { msgs := [⟨3, 16⟩] } }
       s.live = true ∧ s.io.msgs.find? (fun m => m.fid == 3) = some ⟨3, 16⟩ ∧ s.bmeOf 3 = true ∧ s.flrOn 3 = false) := by decide +kernel
theorem witness_RingOpenAndClose :
    (let s := { withRing { ring0 with st := .draining, closeCh := some 17 } with mbx := { chans := [(17, { st := .busy })] } }
     (s.chan 17).st = .busy ∧ s.live = true ∧ s.paused = false ∧ s.carried (.message 17) = true ∧ (s.ring 7).st = .draining ∧ s.ringBusy 7 = false
       ∧ (s.ring 7).closeCh = some 17)
    ∧ (let s := { withRing { ring0 with st := .opening, openCh := some 17, next := some {} } with mbx := { chans := [(17, { st := .busy })] } }
       (s.chan 17).st = .busy ∧ s.carried (.message 17) = true ∧ (s.ring 7).openCh = some 17 ∧ (s.ring 7).next = some {} ∧ s.ringBusy 7 = false) := by decide +kernel

def bare (op sub : Nat) : Link := { hdr := { opcode := op, subop := sub } }
theorem witness_BareRequests : ∀ k ∈ [(opNop, 0), (opFence, 0), (opFence, 1)], let l := bare k.1 k.2
    let s := withLink l
    s.link lk = some (req0 l, l) ∧ s.bareOk (req0 l) l = true ∧ l.err = none ∧ l.retried = false ∧ l.hdr.bufDst = false
      ∧ s.ringClear (req0 l) = true ∧ s.partClear (req0 l) = true := by decide +kernel

def laneGrant : Grant := { unit := .lane 15, part := 1, id := lk, seg := 0, cost := 100, last := true }

theorem witness_GrantRuns : ∀ op ∈ [opSeal, opOpen, opEnc, opDec, opGmacGen, opGmacVer, opDigest, opHmacGen, opHmacVer, opCopy, opPk],
    let s := withGrant (bare op 0) laneGrant
    s.serving = true ∧ s.link lk = some (req0 (bare op 0), bare op 0) ∧ s.runningOf lk = some laneGrant ∧ laneGrant.id = lk
      ∧ laneGrant.follow = false ∧ (bare op 0).stat = none ∧ (bare op 0).retryUsed = false ∧ s.dat.compare = [] := by decide +kernel
theorem witness_GrantRuns_mid :
    (let g := { laneGrant with last := false, len := 64 }
     (withGrant (bare opEnc 0) g).runningOf lk = some g ∧ g.unit = .lane 15 ∧ g.zero = false ∧ g.last = false ∧ isLane opEnc = true)
    ∧ (let g := { laneGrant with unit := .engine 31, last := false, len := 64 }
       (withGrant (bare opDigest 2) g).runningOf lk = some g ∧ g.last = false ∧ (bare opDigest 2).absDone = false
         ∧ isDigest opDigest = true ∧ (bare opDigest 2).job = none)
    ∧ (let j : Job := { job0 with elems := [.batch 100, .batch 100, .batch 100], valid := 2 }
       let l := { jobLink with job := some j }
       (withGrant l macuGrant).runningOf lk = some macuGrant ∧ l.job = some j ∧ j.elemNo + 1 < j.elems.length ∧ j.elemNo + 1 ≠ j.valid) := by
  decide +kernel
theorem witness_LaneOneSegment : ∀ op ∈ [opEnc, opDec, opCopy, opGmacGen, opGmacVer, opOpen, opSeal], let l := bare op 1
    let s := withGrant l laneGrant
    s.serving = true ∧ s.link lk = some (req0 l, l) ∧ s.runningOf lk = some laneGrant ∧ laneGrant.unit = .lane 15 ∧ laneGrant.last = true
      ∧ laneGrant.zero = false ∧ l.hdr.opcode = op ∧ l.pos = 0 ∧ l.stat = none ∧ l.err = none ∧ l.retried = false
      ∧ l.retryUsed = false ∧ l.poisoned = [] ∧ l.hdr.bufDst = false ∧ s.inlineDst l lk = false ∧ s.outIdle lk l = true
      ∧ s.dat.compare = [] := by decide +kernel
theorem witness_LaneOneSegment_inline : let l : Link := { hdr := { opcode := opSeal, subop := 1, tagLen := 16 } }
    let x : Ring := { ring0 with attr := { stream := true, pair := 3 } }
    let s := { withGrant l laneGrant with rng := { rings := [(7, x)], reqs := [{ req0 l with stream := true }] } }
    s.link lk = some ({ req0 l with stream := true }, l) ∧ s.inlineDst l lk = true ∧ s.outIdle lk l = true := by decide +kernel

theorem witness_MessageAndJobEnd :
    (let g := { laneGrant with unit := .engine 31 }
     ∀ op ∈ [opDigest, opHmacGen, opHmacVer], let l := { bare op 2 with hloaded := some ([], []) }
     let s := withGrant l g
     s.serving = true ∧ s.link lk = some (req0 l, l) ∧ s.runningOf lk = some g ∧ g.follow = false ∧ l.stat = none ∧ l.err = none
       ∧ l.retried = false ∧ l.retryUsed = false ∧ l.poisoned = [] ∧ l.hdr.bufDst = false ∧ l.outPos = 0 ∧ l.job = none
       ∧ l.absDone = false ∧ g.last = true ∧ l.hdr.subop < 0x21 ∧ s.outIdle lk l = true)
    ∧ (∀ op ∈ [0x10, 0x20], let j : Job := { job0 with elems := [.batch 100, .batch 100], elemNo := 1, valid := 1 }
       let l := { jobLink with hdr := { opcode := opPk, subop := op }, job := some j }
       let s := withGrant l macuGrant
       s.link lk = some (req0 l, l) ∧ s.runningOf lk = some macuGrant ∧ macuGrant.unit = .macu 0
         ∧ isCreate l.hdr.opcode l.hdr.subop = decide (op = 0x20) ∧ l.outPos = 0 ∧ s.outIdle lk l = true
         ∧ j.elemNo + 1 = j.elems.length ∧ j.elemNo + 1 ≠ j.valid ∧ j.elems[j.elemNo]? = some (.batch 100)) := by decide +kernel

def item0 (k : ItemKind) : Item := { kind := k, inst := 1, who := some lk, n := 32, last := some 5 }
def withItem (op : Nat) (x : Item) : State := { withLink (bare op 0) with ent := { cores := [{ items := [x] }, {}] } }

theorem witness_RandomResults : ∀ k ∈ [(opRandom, ItemKind.generate), (opRandom, .prGenerate), (opReseed, .reseed)],
    let l := bare k.1 0
    let s := withItem k.1 (item0 k.2)
    s.serving = true ∧ s.link lk = some (req0 l, l) ∧ l.hdr.bufDst = false ∧ l.healed = [] ∧ s.ent.cores = [{ items := [item0 k.2] }, {}]
      ∧ ([item0 k.2].find? fun x => x.who == some lk && (match x.last with | some k => k == s.sch.tick | none => false)) = some (item0 k.2)
      ∧ s.ticking = true ∧ s.ent.cores[0]? = some { items := [item0 k.2] }
      ∧ s.outIdle lk l = true ∧ DCore.due { items := [item0 k.2] } s.sch.tick = some (item0 k.2) := by decide +kernel

theorem witness_RandomResults_place : ∀ k ∈ [ItemKind.generate, .prGenerate],
    let p : DPlan := { s := { withItem opRandom (item0 k) with prt := {}, ent := { insts := [(1, { st := .seeded })], buffer := [zeros 32], cores := [{}, {}] } }
                       room := [1024, 1024], win := [] }
    p.core false = 0 ∧ 0 < p.s.ent.cores.length ∧ 0 < p.room.getD 0 0 ∧ (p.s.inst 1).calls < p.s.interval 1
      ∧ p.s.ent.buffer = zeros 32 :: [] := by decide +kernel
theorem witness_RandomResults_done : ∀ k ∈ [ItemKind.instantiate, .uninstantiate, .ahead], let d : DCore := { items := [item0 k] }
    let s := { tenant with ent := { cores := [d, {}] } }
    s.ticking = true ∧ s.ent.cores[0]? = some d ∧ d.due s.sch.tick = some (item0 k) := by decide +kernel
theorem witness_RandomResults_draw : let l := bare opPk 0
    (withItem opPk (item0 .generate)).link lk = some (req0 l, l) ∧ l.stat = none ∧ opPk ≠ opRandom := by decide +kernel

/-! Keys and jobs -/

/-- An AES-128 context (type 1) of partition 1 whose policy allows opening; index 7 is the last of its eight slots. -/
def ctx0 : Bytes := [2, 1] ++ natLE 1 2 ++ natLE 0 2 ++ natLE 2 2 ++ zeros 240
def openLink (part index : Nat) : Link := { hdr := { opcode := opOpen, subop := 1, keyPart := part, keyIndex := index, ivLen := 12 }, listsDone := true }

theorem witness_KeyStaging_foreign : let l := openLink 2 7
    let s := withLink l
    s.serving = true ∧ s.link lk = some (req0 l, l) ∧ s.part 1 = some tenantPart ∧ l.stat = none ∧ l.staged = false ∧ l.keySlot = none
      ∧ l.listsDone = true ∧ (req0 l).openSince = none ∧ (req0 l).abort = .none ∧ l.timedOut = false ∧ s.stageReads (req0 l) l = true ∧ l.hdr.keyPart ≠ 1 := by
  decide +kernel
theorem witness_KeyStaging_generation : let l : Link := { hdr := { opcode := opOpen, subop := 1, keyPart := 1, keyIndex := 7, keyGen := 1 }, listsDone := true }
    (withLink l).link lk = some (req0 l, l) ∧ l.hdr.keyPart = 1 ∧ l.hdr.keyGen ≠ tenantPart.gen ∧ (withLink l).stageReads (req0 l) l = true := by
  decide +kernel

theorem witness_KeyStaging_held : ∀ i ∈ [1, 7], let l := openLink 1 i
    let x : KSlot := { part := 1, index := i, gen := 0, ctx := ctx0 }
    let s := { withLink l with key := { slots := [x] } }
    s.link lk = some (req0 l, l) ∧ l.hdr.keyPart = 1 ∧ l.hdr.f1GenBad = false ∧ l.hdr.keyGen = tenantPart.gen ∧ tenantPart.recWrite = none
      ∧ (tenantPart.rot.any fun r => r.committed && r.stage == 0) = false ∧ s.stageReads (req0 l) l = true ∧ s.mustQueue (req0 l) 0 l.hdr = false ∧ usesKey l.hdr.opcode l.hdr.subop = true ∧ isLane l.hdr.opcode = true
      ∧ l.hdr.keyIndex ≠ 0 ∧ l.hdr.keyIndex < tenantPart.entry.ctxSlots ∧ s.retiring 1 i lk = false ∧ s.key.jobs = []
      ∧ s.slot (1, i, 0) = some x ∧ x.unusable = false ∧ x.write = none ∧ typeFits l.hdr (ctxType x.ctx) (ctxHash x.ctx) = true
      ∧ operatingCheck l.hdr x.ctx x.next l.count.isSome = none := by decide +kernel
theorem witness_Ledger : ∀ k ∈ [LedgerWhy.use, .staging, .evict], let w : LedgerWrite := { why := k, value := 0x10000 }
    let x := { slot0 with write := some w }
    let s := { tenant with key := { slots := [x] } }
    s.live = true ∧ s.writing 1 7 = some (x, w) ∧ w.failed = none ∧ s.ledgerWaits 1 7 = false := by decide +kernel
theorem witness_Ledger_retry : ∀ g ∈ [0, 1], ∀ y ∈ [LedgerWhy.use, .evict], let w : LedgerWrite := { why := y, value := 0x10000, failed := some 4 }
    let x := { slot0 with write := some w, gen := g }
    let s := { tenant with key := { slots := [x] } }
    s.live = true ∧ s.writing 1 7 = some (x, w) ∧ w.failed = some 4 ∧ 4 ≠ s.sch.tick ∧ w.again = false
      ∧ s.part 1 = some tenantPart ∧ (tenantPart.gen == x.gen) = (g == 0) := by decide +kernel

/-- A link whose Orrery work has run, with no draw to come. -/
def madeLink (op : Nat) (e : Option Stat) : Link := { hdr := { opcode := op }, job := some job0, drawn := List.replicate 100 1, err := e }

theorem witness_KeyCreation : ∀ op ∈ [opGenerate, opImport, opDerive, opPk], ∀ e ∈ [none, some (Stat.mk 0x30 5)],
    let l := { madeLink op e with hdr := { opcode := op, subop := if op = opPk then 0x20 else 0 } }
    let s := withLink l
    s.oryServing = true ∧ s.carried (.request lk) = true ∧ l.timedOut = false
      ∧ s.link lk = some (req0 l, l) ∧ l.stat = none ∧ l.jobReady 1 = true ∧ (s.key.jobs.any fun v => v.id == lk) = false
      ∧ (req0 l).abort = .none ∧ isCreate l.hdr.opcode l.hdr.subop = true ∧ s.linkWaits lk = false ∧ l.err = e ∧ s.runningOf lk = none := by
  decide +kernel
theorem witness_KeyCreation_steps : ∀ n ∈ [1, 2, 3, 4, 5], ∀ b ∈ [false, true], let l := madeLink opGenerate none
    let v : VJob := { id := lk, part := 1, index := 7, retire := false, step := n, bad := b }
    let s := { withLink l with key := { jobs := [v] } }
    s.writeWaits (isVaultWrite lk) = false ∧ s.paused = false ∧ s.key.jobs.find? (fun v => v.id == lk) = some v ∧ s.link lk = some (req0 l, l)
      ∧ l.stat = none ∧ l.err = none ∧ l.retried = false ∧ l.hdr.bufDst = false ∧ s.opWaits (.vault lk) = false := by decide +kernel
/-- No link but the KEY_RETIRE itself stands. -/
theorem witness_KeyRetire : ∀ b ∈ [false, true], let l := { madeLink opRetire none with keySlot := some (1, 7, 0) }
    let s := { withLink l with key := { slots := [slot0], pages := [{ part := 1, page := 0, bad := b }] } }
    s.link lk = some (req0 l, l) ∧ l.jobReady 1 = true ∧ l.hdr.opcode = opRetire ∧ l.keySlot = some (1, 7, 0)
      ∧ (s.allLinks.map (·.1) = [lk]) ∧ (s.slot (1, 7, 0)).bind (·.write) = none
      ∧ (s.page 1 0).bad = b := by decide +kernel

theorem witness_JobResults_preparation : let l : Link := { hdr := { opcode := opGenerate }, staged := true, prepAt := some 5 }
    let s := { withLink l with ory := { cores := cores0 } }
    s.oryServing = true ∧ s.link lk = some (req0 l, l) ∧ isOrrery l.hdr.opcode l.hdr.subop = true ∧ l.stat = none ∧ l.job = none
      ∧ s.prepTime l = true ∧ (req0 l).abort = .none ∧ s.prepReads (req0 l) l = true ∧ bufferCount l.hdr ≤ s.freeBuffers.length
      ∧ s.freeThread = some 2 ∧ s.coreRuns 2 = true := by decide +kernel
theorem witness_JobResults_again : let j := { job0 with stale := true, charged := 3, buffers := [5] }
    let l : Link := { hdr := { opcode := opGenerate }, staged := true, prepAt := some 5, job := some j }
    let s := { withLink l with ory := { cores := cores0 } }
    s.oryServing = true ∧ s.link lk = some (req0 l, l) ∧ isOrrery l.hdr.opcode l.hdr.subop = true ∧ l.stat = none ∧ l.staged = true
      ∧ l.job = some j ∧ j.stale = true ∧ s.prepTime l = true ∧ (req0 l).abort = .none ∧ s.prepReads (req0 l) l = true
      ∧ s.stoppedT j.thread = false ∧ s.coreRuns j.thread = true := by decide +kernel
theorem witness_JobResults_wipe : let l : Link := { hdr := { opcode := opPk }, job := some job0, stat := some ⟨0, 0⟩, lastTick := some 4 }
    let s := withLink l
    s.live = true ∧ s.link lk = some (req0 l, l) ∧ l.job = some job0 ∧ job0.wiped = false ∧ l.lastTick ≠ some s.sch.tick
      ∧ (s.key.jobs.any fun v => v.id == lk) = false ∧ (s.sch.running.any fun g => g.id == lk) = false := by decide +kernel

/-! Ports -/

def streamRing : Ring := { ring0 with attr := { stream := true, pair := 3, log2 := 8 }, frameIdx := 0x1FF }
def withStream (x : Stream) : State := { withRing streamRing with mov := { streams := setAt (List.replicate 4 {}) 3 x } }

theorem witness_StreamPortResults_input :
    (let s := withStream { inp := some { ring := 7 } }
     s.serving = true ∧ 3 < s.mov.streams.length ∧ (s.stream 3).inp = some { ring := 7 } ∧ (s.ring 7).st = .active
       ∧ (s.ring 7).attr.stream = true ∧ (s.ring 7).attr.pair = 3 ∧ s.partState (s.ring 7).owner = .active
       ∧ (([] : Bytes).length + ([0] : Bytes).length < frameMax))
    ∧ (let s := withStream {}
       (s.stream 3).inp = none ∧ s.outRoom 3 7 (zeros 64) = true ∧ (s.stream 3).lost = false)
    ∧ (let l : Link := { hdr := { opcode := opCopy, srcLen := 16384 } }
       let s := { withStream {} with rng := { rings := [(7, streamRing)], reqs := List.replicate 16 { req0 l with stream := true } } }
       (s.stream 3).inp = none ∧ s.outRoom 3 7 (zeros 64) = false) := by decide +kernel
theorem witness_StreamPortResults_output :
    (let s := withStream { out := [{ id := lk, data := [] }] }
     s.live = true ∧ (s.stream 3).out = { id := lk, data := [] } :: [] ∧ (s.stream 3).paused = false ∧ 3 < s.mov.streams.length)
    ∧ (let s := { withStream { paused := true, pauseTick := 5 } with sch := { tick := 37 } }
       (s.stream 3).paused = true ∧ (s.stream 3).longDone = false ∧ 32 ≤ modSub s.sch.tick (s.stream 3).pauseTick (2 ^ 32)) := by decide +kernel

theorem witness_FabricAnswers : ∀ g ∈ [false, true], let p : Port := { reads := [read0], writes := [write0 g] }
    let s := { tenant with mov := { ports := setAt (List.replicate 8 {}) 7 p } }
    s.live = true ∧ s.mov.ports[7]? = some p ∧ p.reads.find? (fun r => r.issued && r.idx == 895 && r.gen == 63) = some read0
      ∧ p.reads.find? (fun r => r.issued && r.idx == 895 && r.gen == 0) = none
      ∧ p.reads.find? (fun r => r.issued && r.idx == 895) = some read0 ∧ s.blk.mode ≠ .dormant
      ∧ p.writes.find? (fun w => w.issued && w.idx == 1023 && w.gen == 63) = some (write0 g)
      ∧ p.writes.find? (fun w => w.issued && w.idx == 1023 && w.gen == 0) = none := by decide +kernel
theorem witness_FabricAnswers_source : ∀ op ∈ [opCopy, opDigest, opPk], let p : Port := { reads := [read0] }
    let s := { withLink (bare op 2) with mov := { ports := setAt (List.replicate 8 {}) 7 p } }
    s.live = true ∧ s.mov.ports[7]? = some p ∧ read0 ∈ p.reads ∧ read0.issued = true ∧ read0.discard = false ∧ read0.purpose = .source lk 0
      ∧ ((p.reads.filter (·.issued)).map (·.idx)).Nodup ∧ s.link lk = some (req0 (bare op 2), bare op 2) ∧ (bare op 2).stat = none
      ∧ (bare op 2).err = none ∧ (isLane op || isDigest op) = (op != opPk)
      ∧ read0.answer [⟨zeros 64, false, false⟩] = .busError 0 []
      ∧ (match read0.answer [⟨zeros 64, true, true⟩] with
        | .poisoned _ _ _ => true
        | _ => false) = true := by decide +kernel
theorem witness_PumpKeepsTags : let p : Port := { reads := [read0], writes := [write0 false], quar := [0] }
    ((p.writes.filter (·.issued)).map (·.idx)).Nodup ∧ ((p.reads.filter (·.issued)).map (·.idx)).Nodup
      ∧ ∀ r ∈ p.reads, r.issued = true → r.idx ∉ p.quar := by decide +kernel

theorem witness_BmeResults : tenant.live = true ∧ tenant.io.fc.length < 64 ∧ (∀ x ∈ tenant.io.fc, x.1 ≠ 3) ∧ tenant.partOfFid 1023 = none
    ∧ tenant.partOfFid 3 = some 1 ∧ tenant.part 1 = some tenantPart ∧ tenantPart.st = .active := by decide +kernel

def resetting : Part := { tenantPart with st := .resetting, flr := some { boundary := true } }

theorem witness_FlrResults :
    (let s := { tenant with io := { fc := [(3, .bmeClear)] } }
     s.blk.mode ≠ .dormant ∧ s.io.fc = [(3, .bmeClear)] ∧ s.answered 3 = true)
    ∧ (tenant.live = true ∧ tenant.partOfFid 3 = some 1 ∧ tenant.part 1 = some tenantPart ∧ tenantPart.st ≠ .absent
       ∧ tenantPart.st ≠ .resetting ∧ tenantPart.flr = none)
    ∧ (let s := { tenant with prt := { parts := [(1, resetting)] }, io := { fc := [(3, .flr)] } }
       s.partOfFid 3 = some 1 ∧ s.part 1 = some resetting ∧ resetting.flr = some { boundary := true } ∧ s.answered 3 = true
         ∧ s.io.fc = [(3, .flr)])
    ∧ (let s := { tenant with prt := { parts := [(1, resetting)] }, mov := { ports := setAt (List.replicate 8 {}) 7 { writes := [write0 false] } } }
       s.flrOn 3 = true ∧ s.answered 3 = false) := by decide +kernel

/-! The Orrery -/

def runner : Thread := { st := .running, root := 20, work := .request lk }

theorem witness_ThreadAndDebugResults :
    (let s := { withThread 20 runner with blk := { mode := .service, lifecycle := 1 } }
     s.live = true ∧ s.blk.lifecycle.toNat ≤ 1 ∧ (s.thread 63).stopped = false)
    ∧ ((withThread 20 { runner with stopped := true }).thread 20).stopped = true
    ∧ (let w : Thread := { runner with st := .blocked (.chanRead 64), stopped := true }
       let c : Chan := { reader := 20, writers := [21], msgs := [[1]] }
       let s := { withThread 20 w with ory := { threads := setAt (List.replicate 64 {}) 20 w, chans := [(64, c)] } }
       (s.thread 20).stopped = true ∧ (s.thread 20).st = .blocked (.chanRead 64) ∧ mget s.ory.chans 64 = some c ∧ c.msgs = [1] :: []
         ∧ (∀ w ∈ c.writers, (s.thread w).st ≠ .blocked (.chanWrite 64)) ∧ 20 < s.ory.threads.length)
    ∧ 2 ≤ (2 : BitVec 2).toNat
    ∧ (let s := withThread 20 runner
       s.issues 20 = true ∧ (s.groupOf (s.thread 20).root).length < 8 ∧ (s.forkThread 20).isSome = true)
    ∧ (let s := { tenant with ory := { threads := List.replicate 64 runner, cores := cores0 } }
       s.issues 20 = true ∧ 8 ≤ (s.groupOf (s.thread 20).root).length)
    ∧ (let s := { tenant with ory := { threads := List.replicate 64 runner, cores := cores0 } }
       s.issues 20 = true ∧ s.forkThread 20 = none) := by decide +kernel
theorem witness_ThreadAndDebugResults_join :
    (let s := { tenant with ory := { threads := List.replicate 64 runner, cores := cores0 } }
     s.issues 20 = true ∧ 63 ≠ 20 ∧ (s.thread 63).st ≠ .ended ∧ (s.thread 63).root = (s.thread 20).root)
    ∧ (let s := withThread 20 { runner with st := .blocked (.join 63) }
       s.live = true ∧ (s.thread 20).st = .blocked (.join 63) ∧ (s.thread 20).stopped = false ∧ (s.thread 63).st = .ended)
    ∧ (let s := { tenant with ory := { threads := setAt (List.replicate 64 runner) 20 { runner with st := .blocked (.join 63) }, cores := cores0 } }
       s.live = true ∧ (s.thread 20).st = .blocked (.join 63) ∧ (s.thread 20).stopped = false ∧ s.issues 63 = true ∧ 63 ≠ 20
         ∧ (s.thread 63).root = (s.thread 20).root ∧ 63 ≠ (s.thread 20).root) := by decide +kernel
theorem witness_ThreadAndDebugResults_port :
    (let s := withThread 20 { runner with since := 5 }
     s.issues 20 = true ∧ s.portEvent 20 .tick = false ∧ s.portEvent 20 (.request (some ⟨7, 9, 0⟩)) = true)
    ∧ (let s := { withThread 20 { runner with st := .blocked (.port .macuQueue) } with
         dat := { macus := setAt (List.replicate 16 {}) 0 { macu0 with storeQ := [(lk, 9)] } } }
       s.coreRuns 20 = true ∧ s.oryServing = true ∧ (s.thread 20).st = .blocked (.port .macuQueue) ∧ (s.thread 20).stopped = false ∧ s.portEvent 20 .macuQueue = true) := by decide +kernel

def chan0 (n : Nat) : Chan := { reader := 20, writers := [20], msgs := List.replicate n [1], staged := [(20, List.replicate 15 0)] }

theorem witness_ChannelResults : ∀ n ∈ [0, 3, 4], let s := { withThread 20 runner with ory :=
      { threads := setAt (List.replicate 64 {}) 20 runner, chans := [(64, chan0 n)], cores := cores0 } }
    s.issues 20 = true ∧ s.chanClass 20 64 = true ∧ mget s.ory.chans 64 = some (chan0 n) ∧ (chan0 n).writers.contains 20 = true
      ∧ ((mget (chan0 n).staged 20).getD []).length < 16 ∧ (chan0 n).reader = 20 ∧ (chan0 n).msgs = List.replicate n [1]
      ∧ (s.thread (chan0 n).reader).st ≠ .blocked (.chanRead 64)
      ∧ ∀ w ∈ (chan0 n).writers, (s.thread w).st ≠ .blocked (.chanWrite 64) := by decide +kernel
theorem witness_ChannelResults_waits : let c : Chan := { reader := 21, writers := [20] }
    let w : Thread := { runner with st := .blocked (.chanRead 64) }
    let s := { tenant with ory :=
      { threads := setAt (setAt (List.replicate 64 {}) 20 runner) 21 w, chans := [(64, c)], cores := cores0 } }
    s.issues 20 = true ∧ s.chanClass 20 64 = true ∧ mget s.ory.chans 64 = some c ∧ c.writers.contains 20 = true ∧ c.msgs = []
      ∧ (s.thread c.reader).st = .blocked (.chanRead 64) ∧ (s.thread c.reader).stopped = false ∧ c.reader < s.ory.threads.length := by decide +kernel

theorem witness_LimitAndCorePower :
    (let l := { jobLink with job := some { job0 with limit := 4, charged := 4 } }
     let s := { withLink l with ory := { threads := setAt (List.replicate 64 {}) 20 runner, cores := cores0 } }
     s.live = true ∧ (s.thread 20).st ≠ .ended ∧ (s.thread 20).root = 20 ∧ (s.thread 20).work = .request lk ∧ s.link lk = some (req0 l, l)
       ∧ l.stat = none ∧ l.err = none)
    ∧ (let x : Core := { awake := true, idle := 64 }
       let s := { tenant with ory := { cores := List.replicate 4 x } }
       s.live = true ∧ s.ory.cores[3]? = some x ∧ s.coreIdle 3 = true)
    ∧ (let s := { base .factory with ory := { cores := List.replicate 4 { awake := true, idle := 64 } } }
       s.coreIdle 0 = true ∧ s.blk.mode = .factory)
    ∧ (∀ b ∈ [false, true], let s := { tenant with ory := { threads := setAt (List.replicate 64 {}) 20 runner }, io := { oryReq := List.replicate 4 b, oryAck := List.replicate 4 b } }
       s.live = true ∧ s.ory.cores[1]? = some ({} : Core) ∧ s.coreIdle 1 = false ∧ s.io.oryReq.getD 1 false = b ∧ s.io.oryAck.getD 1 false = b) := by
  decide +kernel

def setup0 : SdmaSetup := ⟨0, shmemSize - 16, 16, false, false, 1, 1, 0, false, 3⟩
def withDma (x : Sdma) : State := { withThread 20 runner with mov := { sdma := [(20, x)] } }

theorem witness_SdmaResults :
    (let s := withDma {}
     s.issues 20 = true ∧ (s.dma 20).busy = false ∧ setup0.list = false ∧ setup0.swap = 0 ∧ setup0.srcSpace = 1 ∧ setup0.dstSpace = 1
       ∧ 0 < setup0.count ∧ setup0.count < 2 ^ 24 ∧ setup0.src + setup0.count ≤ shmemSize ∧ setup0.dst + setup0.count ≤ shmemSize
       ∧ s.silentFid (s.dmaFid { setup := setup0 }) = false ∧ Memory.wf 0 s.ory.shmem = true)
    ∧ (let c : SdmaSetup := { setup0 with srcSpace := 0, src := 0x1000 }
       c.list = false ∧ c.dstSpace = 1 ∧ c.srcSpace = 0 ∧ c.src < 2 ^ 52 ∧ (withDma {}).mov.ports.length = 8)
    ∧ (∀ sp ∈ [1, 3], let c : SdmaSetup := ⟨0x100, 0, 1, true, true, 1, 1, 0, false, 3⟩
       let b := natLE 0x200 8 ++ natLE 0x300 8 ++ natLE 16 4 ++ natLE (1 + 128 * sp + 512) 4 ++ zeros 8
       let s := (withDma {}).shWrite 0x100 b
       let d := readDesc (s.shRead c.src 32) c.src
       c.src + 32 ≤ shmemSize ∧ Memory.wf 0 s.ory.shmem = true ∧ s.dmaWrites 20 = false ∧ s.silentFid (s.dmaFid { setup := c }) = false
         ∧ d.invalid = decide (sp = 3) ∧ d.srcSpace = sp ∧ d.dstSpace = 1 ∧ d.len = 16 ∧ (d.dst + d.len ≤ c.src ∨ c.src + 32 ≤ d.dst))
    ∧ (let d : Desc := { src := 0x1000, dst := 0x2030, len := 32, srcSpace := 0, dstSpace := 0 }
       let s := withDma { busy := true, cur := some d }
       (s.dma 20).cur = some d ∧ d.bad = false ∧ (s.dma 20).got = [] ∧ (s.dma 20).setup.list = false ∧ s.mov.ports.length = 8)
    ∧ ((withDma { busy := true }).issues 20 = true ∧ ((withDma { busy := true }).dma 20).busy = true)
    ∧ (let s := withDma { busy := true, ended := true }
       s.live = true ∧ (s.dma 20).busy = true ∧ s.dmaWrites 20 = false ∧ (s.dma 20).ended = true ∧ (s.dma 20).cur = none)
    ∧ ((withDma { busy := true, abort := true }).dma 20).abort = true := by decide +kernel

/-! Mailboxes -/

def withChan (c : Nat) (m : Mbx) : State := { tenant with mbx := { chans := [(c, m)], mark := 1 } }

theorem witness_ChannelStarts : ∀ c ∈ [0, 17], let s := withChan c {}
    let who := if c = 0 then host else driver
    s.serving = true ∧ s.mailOpen c 0x80 = true ∧ s.mailOpen c 0x84 = true ∧ s.mayMail who c = true ∧ (s.chan c).st ≠ .pending
      ∧ (s.chan c).st ≠ .busy ∧ (c < 16 ∨ s.partState (c - 16) = .active) ∧ (16 ≤ c → s.chanVersion c < 2)
      ∧ (0x80000000 : W32).getLsbD 31 = true ∧ (0x40000000 : W32).getLsbD 31 = false ∧ (0x40000000 : W32).getLsbD 30 = true := by
  decide +kernel
theorem witness_MessageResults_mask : let s := withChan 17 { dbMask := 3, dbUp := 1 }
    s.mailOpen 17 0x8C = true ∧ s.mayMail driver 17 = true ∧ s.part 1 = some tenantPart ∧ tenantPart.st ≠ .resetting ∧ s.flrOn 3 = false
      ∧ (s.chan 17).dbMask &&& ~~~2 &&& (s.chan 17).dbUp.setWidth 32 ≠ 0 ∧ (s.chan 17).dbMask &&& ~~~3 &&& (s.chan 17).dbUp.setWidth 32 = 0 := by
  decide +kernel

def mgmtThread0 : Thread := { st := .blocked (.port .mailbox), root := 1 }

theorem witness_MessageResults_taken : let s := { withChan 0 { st := .pending } with ory := { threads := setAt (List.replicate 64 {}) 1 mgmtThread0, cores := cores0 } }
    s.oryServing = true ∧ s.freeMgmt 1 = true ∧ s.stoppedT 1 = false ∧ s.coreRuns 1 = true ∧ s.nextMsg = some 0
      ∧ ((s.msgCheck 0).isSome = true ∨ s.msgCanRead 0 = true) := by decide +kernel
theorem witness_MessageResults_reply : let s := withChan 0 { st := .busy, reply := some [0] }
    s.live = true ∧ s.paused = false ∧ s.carried (.message 0) = true ∧ (s.chan 0).st = .busy ∧ (s.chan 0).reply = some (0 :: []) := by decide +kernel

theorem witness_PartitionRecordResults :
    (let w : RecWrite := { gen := 1, spent := false }
     let x := { tenantPart with recWrite := some w }
     let s := { tenant with prt := { parts := [(1, x)] } }
     s.live = true ∧ s.paused = false ∧ s.part 1 = some x ∧ x.recWrite = some w ∧ x.flr = none ∧ s.writeWaits (isPartRec 1) = false
       ∧ w.failed = none)
    ∧ (let w : RecWrite := { gen := 1, spent := false }
       let f : Flr := { boundary := true, destroy := true, wrote := true }
       let x := { resetting with recWrite := some w, flr := some f }
       let s := { tenant with prt := { parts := [(1, x)] } }
       s.part 1 = some x ∧ x.recWrite = some w ∧ x.flr = some f ∧ f.destroy = true ∧ f.wrote = true ∧ s.writeWaits (isPartRec 1) = false)
    ∧ (let w : RecWrite := { gen := 1, spent := false, failed := some 3, tick := 4 }
       let x := { tenantPart with recWrite := some w }
       let s := { tenant with prt := { parts := [(1, x)] } }
       s.part 1 = some x ∧ w.failed = some 3 ∧ w.again = false ∧ w.tick ≠ s.sch.tick) := by decide +kernel

/-! The firmware swap, the source of entropy, the Ephemeris -/

def swapping (stage tick : Nat) : State := { base .swap with ory := { swapStage := stage, swapTick := tick, swapCh := some 0 } }

theorem witness_FirmwareSwapResults :
    (let s := { tenant with ory := { staging := some (0, [], 1), cores := cores0, statics := [(0, 0), (1, 1)] }, mbx := { chans := [(0, { st := .busy })] } }
     (s.chan 0).st = .busy ∧ s.oryServing = true ∧ s.mgmtActs = true ∧ s.ory.staging = some (0, [], 1))
    ∧ (let s := { tenant with ory := { swapStage := swapDue } }
       s.ory.swapStage = swapDue ∧ s.swapMode = true)
    ∧ (let s := { swapping swapQuiesce 0 with ory := { swapStage := swapQuiesce, threads := setAt (List.replicate 64 {}) 63 runner }, sch := { tick := 8 } }
       s.blk.mode = .swap ∧ s.ory.swapStage = swapQuiesce ∧ (s.thread 63).st = .running ∧ (s.thread 63).root < 64
         ∧ 32768 / s.tickLen ≤ s.swapAge)
    ∧ ((mget (swapping swapQuiesce 0).ory.statics 0).getD 0 = 0 ∧ 0 < (swapping swapQuiesce 0).ory.threads.length ∧ ∀ k < 64, ((swapping swapQuiesce 0).thread k).st ≠ .running)
    ∧ (let s := { base .swap with ory := { swapStage := swapInit, initSave := some {} }, sch := { tick := 19 } }
       s.blk.mode = .swap ∧ s.ory.swapStage = swapInit ∧ s.ory.initSave = some {} ∧ 0 < s.ory.threads.length ∧ 76800 / s.tickLen ≤ s.swapAge)
    ∧ (swapping swapExitDue 0).ory.swapStage = swapExitDue := by decide +kernel

def scintilla (k : ScnState) : State := { tenant with ent := { scn := k, failTick := 3 }, sch := { tick := 1000 } }

/-- Sixteen samples in which oscillator k shows the parity of j AND 2(k mod 8) + 1 at sample j: runs of at most 2, each value
8 times, and any two oscillators of a group agree on 8. -/
def pattern16 : List W64 := [0x00, 0xFF, 0xAA, 0x55, 0xCC, 0x33, 0x66, 0x99, 0xF0, 0x0F, 0x5A, 0xA5, 0x3C, 0xC3, 0x96, 0x69].map
  fun b => BitVec.ofNat 64 (b * 0x0101010101010101)

/-- A window of 1,024 samples. -/
def steady : List W64 := (List.replicate 64 pattern16).flatten

theorem countP_reps {α : Type} (n : Nat) (l : List α) (f : α → Bool) : countP (List.replicate n l).flatten f = n * countP l f := by
  induction n with
  | zero => simp [countP]
  | succ n ih =>
    rw [List.replicate_succ, List.flatten_cons, Nat.succ_mul, Nat.add_comm, ← ih]
    simp [countP]

theorem bitsOf_reps (k n : Nat) (l : List W64) : bitsOf k (List.replicate n l).flatten = (List.replicate n (bitsOf k l)).flatten := by
  simp [bitsOf, List.map_flatten]

/-- The run after one bit more, none where it fails. -/
def calmStep (a : Option (Bool × Nat)) (b : Bool) : Option (Bool × Nat) :=
  match a with
  | none => none
  | some r => if testFails .rct [if b == r.1 then r.2 + 1 else 1] then none else some (b, if b == r.1 then r.2 + 1 else 1)

def calm (l : List Bool) (r : Bool × Nat) : Option (Bool × Nat) := l.foldl calmStep (some r)

theorem calm_none (l : List Bool) : l.foldl calmStep none = none := by
  induction l with
  | nil => rfl
  | cons b l ih => exact ih

theorem runOf_calm {l : List Bool} {r r' : Bool × Nat} (h : calm l r = some r') (i : Nat) : (runOf l i r none).2 = none := by
  induction l generalizing r i with
  | nil => rfl
  | cons b l ih =>
    rw [calm, List.foldl_cons, calmStep] at h
    simp only [runOf]
    by_cases hf : testFails .rct [if b == r.1 then r.2 + 1 else 1] = true
    · simp only [if_pos hf, calm_none] at h; cases h
    · simp only [if_neg hf] at h ⊢; exact ih h (i + 1)

theorem calm_reps {p : List Bool} {r : Bool × Nat} (h : calm p r = some r) (n : Nat) : calm (List.replicate n p).flatten r = some r := by
  induction n with
  | zero => rfl
  | succ n ih => rw [List.replicate_succ, List.flatten_cons, calm, List.foldl_append]; rw [calm] at h ih; rw [h, ih]

theorem steady_lock : ∀ k < 64, sampleFails [] steady .lock k = none := by
  simp only [sampleFails, lockFails, steady, countP_reps]
  decide +kernel

theorem steady_apt : ∀ k < 64, sampleFails [] steady .apt k = none := by
  simp only [sampleFails, steady, bitsOf_reps, countP_reps]
  decide +kernel

theorem steady_rct (k : Nat) (hk : k < 64) : sampleFails [] steady .rct k = none := by
  have hb : ∀ k < 64, calm (bitsOf k pattern16) ((calm (bitsOf k pattern16) (false, 0)).getD (true, 0)) = calm (bitsOf k pattern16) (false, 0)
      ∧ (calm (bitsOf k pattern16) (false, 0)).isSome = true := by decide +kernel
  obtain ⟨h, hs⟩ := hb k hk
  obtain ⟨r, hr⟩ := Option.isSome_iff_exists.1 hs
  rw [hr] at h
  have := calm_reps h 63
  have hs : calm (List.replicate (63 + 1) (bitsOf k pattern16)).flatten (false, 0) = some r := by
    rw [List.replicate_succ, List.flatten_cons, calm, List.foldl_append, ← calm, hr]; exact this
  simp only [sampleFails, oscRun, steady, bitsOf_reps]
  exact runOf_calm hs 0

theorem witness_EntropyResults_pass : steady.length = 1024 ∧ windowFails [] steady = none := by
  refine ⟨by decide +kernel, ?_⟩
  have h : ([.lock, .rct, .apt] : List HealthTest).flatMap (fun t => (List.range 64).filterMap fun k =>
      (sampleFails [] steady t k).map fun j => (t, k, j)) = [] := by
    simp only [List.flatMap_eq_nil_iff, List.filterMap_eq_nil_iff, List.mem_range, Option.map_eq_none_iff]
    intro t ht k hk
    simp only [List.mem_cons, List.not_mem_nil, or_false] at ht
    rcases ht with rfl | rfl | rfl
    · exact steady_lock k hk
    · exact steady_rct k hk
    · exact steady_apt k hk
  rw [windowFails, h]; rfl

theorem witness_EntropyResults : (∀ k ∈ [ScnState.startup, .running, .retest], let s := scintilla k
      s.ticking = true ∧ s.ent.scn = k ∧ s.winOver = true ∧ s.ent.retestBad = false ∧ s.blk.alEntropy = false)
    ∧ (scintilla .pause).ent.scn = .pause ∧ 2 ≤ modSub (scintilla .pause).sch.tick (scintilla .pause).ent.failTick (2 ^ 32)
    ∧ (scintilla .pause).sch.cutDone = false ∧ 1024 % 1024 = 0
    ∧ ∀ x ∈ [(HealthTest.alive, [15, 241, 0, 255]), (.lock, [335, 0, 0, 0]), (.lock, [689, 0, 0, 0]), (.rct, [41, 0, 0, 0]), (.apt, [795, 0, 0, 0])],
      testFails x.1 x.2 = true ∧ (scintilla .running).testTime x.1 = true := by
  decide +kernel
theorem witness_EntropyResults_wait : ∀ op ∈ [opPk, opRandom], ∀ fb ∈ [true, false],
    let p := { tenantPart with entry := { num := 1, fid := 3, detFallback := fb } }
    let l : Link := { hdr := { opcode := op, subop := 0x10 }, entWait := 9 }
    let s := { withLink l with prt := { parts := [(1, p)] } }
    s.serving = true ∧ s.link lk = some (req0 l, l) ∧ l.stat = none ∧ 8 < l.entWait ∧ s.part 1 = some p ∧ l.err = none
      ∧ p.entry.detFallback = fb := by decide +kernel

def eph0 (n : Nat) : EphQ := { source := n, part := 1, code := 0x0501, sev := 2, flags := 0, detail := [] }

theorem witness_EphemerisRules :
    (∀ n ∈ [0, 255, 256], let s := { tenant with eph := { queue := List.replicate n (eph0 1) } }
      s.blk.mode ≠ .dormant ∧ s.eph.frozen = false ∧ s.eph.queue.length = n ∧ ∀ h ∈ s.eph.heldRecs, h.source ≠ (eph0 1).source)
    ∧ ephNext [eph0 1] = some (eph0 1) ∧ tenant.eph.queue = [] := by decide +kernel

end Sys2Proof.Tests
end

/-! ### PROOFS. Doorbell and abort writes: the checks that stand before a ring, the answers of R46, R49 and R53, and the
ring's quarantine (R32, R46, R49, R53, R58 to R60, R434, R435) -/

namespace Sys2Proof.Machine

variable {s t : State} {who : Accessor} {r : Nat}

/-! #### The response to a write -/

theorem State.rpReset_of_portActs (h : s.portActs = true) : s.blk.rpReset = false := by
  simp only [State.portActs, State.portOpen, Bool.and_eq_true, Bool.not_eq_true'] at h
  exact h.1.1

/-- While the port acts, a write that keeps what is latched is answered with read data 0 (R387). -/
theorem State.wrote_of_portActs (hp : s.portActs = true) (h : t.latched = s.latched) : t.wrote = t.respond 0 := by
  have ht : t.blk.rpReset = s.blk.rpReset := congrArg Latched.rpReset h
  simp [State.wrote, ht, State.rpReset_of_portActs hp]

/-! #### Who may act -/

/-- An access that is not privileged acts only on what its own partition owns (R433). -/
theorem State.mayAct_iff {o : Option Nat} :
    s.mayAct who o = true ↔ who.priv = true ∨ ∃ p, s.partOfFid who.fid = some p ∧ o = some p := by
  simp only [State.mayAct, Bool.or_eq_true]
  cases s.partOfFid who.fid <;> cases o <;> simp [@eq_comm Nat]

theorem State.ringOwner_eq_some {p : Nat} (h : s.ringOwner r = some p) : (s.ring r).owner = p := by
  simp only [State.ringOwner] at h
  split at h
  · cases h
  · exact Option.some.inj h

/-- Where the accessor may act on a ring whose owner is not RESETTING, R32 drops nothing. -/
theorem State.resetDrops_eq_false (hm : s.mayAct who (s.ringOwner r) = true)
    (ho : s.partState (s.ring r).owner ≠ .resetting) : s.resetDrops who r = false := by
  have hown : (s.ringOwner r).map s.partState ≠ some .resetting := by
    cases h : s.ringOwner r with
    | none => simp
    | some p => simpa [State.ringOwner_eq_some h] using ho
  rcases State.mayAct_iff.1 hm with hp | ⟨p, hf, hr⟩
  · simpa [State.resetDrops, hp] using fun _ => hown
  · simp_all [State.resetDrops]

/-! #### What a doorbell write reaches -/

/-- The ring's error counter counts, and nothing else changes. -/
def State.countError (s : State) (r : Nat) : State := s.onRing r fun x => { x with errors := x.errors + 1 }

/-- The drop of a write by a ring: an error of a quarantined ring, a violation of any other (R58, R60). -/
theorem State.dropDoorbell_eq (code value : Nat) : s.dropDoorbell who r code value
    = if (s.ring r).st = .quarantined then s.countError r
      else s.violation code uidRp (s.accPart who) (some r) (!who.priv) value who.fid := by
  simp [State.dropDoorbell, State.countError]

theorem State.dropDoorbell_of_quarantined (h : (s.ring r).st = .quarantined) (code value : Nat) :
    s.dropDoorbell who r code value = s.countError r := by
  rw [State.dropDoorbell_eq, if_pos h]

/-- A doorbell write that passes R434 and R32 is the ring's to check, where the ring is not CLOSED. -/
theorem State.doorbell_of_open (h : s.doorbellOpen who r) (addr value : Nat) (go : State → State) :
    s.doorbell who r addr value go
      = if (s.ring r).st = .closed then s.dropDoorbell who r 0x050A value else go s := by
  obtain ⟨hp, hm, ho⟩ := h
  have hr : s.resetDrops who r = false := by
    apply State.resetDrops_eq_false hm
    rcases ho with ho | ho <;> simp [ho]
  rcases ho with ho | ho <;> simp [State.doorbell, hp, hm, hr, ho]

/-! #### PRODUCER_WRITE (R46) -/

/-- A ring that takes producer values: a memory ring that is ACTIVE, HELD or QUARANTINED (R40, R46). -/
def Ring.takesProducer (x : Ring) : Prop :=
  x.attr.stream = false ∧ (x.st = .active ∨ x.st = .held ∨ x.st = .quarantined)

theorem Ring.not_takesProducer_iff {x : Ring} : ¬ x.takesProducer
    ↔ x.attr.stream = true ∨ x.st = .closed ∨ x.st = .opening ∨ x.st = .draining := by
  cases hst : x.st <;> simp [Ring.takesProducer, hst]

/-- What a ring makes of producer value `v` under an answer of R46. -/
def State.producerActs (s : State) (who : Accessor) (r : Nat) (v : W32) : ProdAns → State
  | .ignore => s
  | .accept => s.onRing r fun x => { x with prod := v.toNat % 2 ^ 21, pubs := x.pubs ++ [(v.toNat % 2 ^ 21, s.sch.tick)] }
  | .backward => s.dropDoorbell who r 0x0502 v.toNat
  | .beyond => s.dropDoorbell who r 0x0501 v.toNat

theorem State.producerActs_latched (v : W32) (a : ProdAns) : (s.producerActs who r v a).latched = s.latched := by
  cases a <;> simp [State.producerActs]

theorem exec_producerWrite_of_takes (h : s.doorbellOpen who r) (hx : (s.ring r).takesProducer) (v : W32) :
    exec (.producerWrite who r v) s = .next ((s.producerActs who r v
      (prodCheck (s.ring r).attr.log2 (s.ring r).subHead (s.ring r).prod (v.toNat % 2 ^ 21))).respond 0) := by
  obtain ⟨hs, hst⟩ := hx
  have hc : (s.ring r).st ≠ .closed := by rcases hst with hst | hst | hst <;> simp [hst]
  rw [← State.wrote_of_portActs h.1 (State.producerActs_latched v _)]
  show execProducerWrite who r v s = _
  rw [execProducerWrite, State.doorbell_of_open h, if_neg hc]
  rcases hst with hst | hst | hst <;> simp only [hs, hst] <;> rfl

theorem exec_producerWrite_of_not_takes (h : s.doorbellOpen who r) (hx : ¬ (s.ring r).takesProducer) (v : W32) :
    exec (.producerWrite who r v) s = .next ((s.dropDoorbell who r 0x050A v.toNat).respond 0) := by
  rw [← State.wrote_of_portActs h.1 (State.dropDoorbell_latched _ _ _ _ _)]
  show execProducerWrite who r v s = _
  rw [execProducerWrite, State.doorbell_of_open h]
  split
  · rfl
  · rw [if_pos]
    rcases Ring.not_takesProducer_iff.1 hx with hx | hx | hx | hx <;> simp [hx]

section ProdCheck

variable {log2 head p0 p : Nat}

theorem prodCheck_of_high (hp : 2 * 2 ^ log2 ≤ p) : prodCheck log2 head p0 p = .beyond := by
  simp [prodCheck, hp]

theorem prodCheck_self (hp : p0 < 2 * 2 ^ log2) : prodCheck log2 head p0 p0 = .ignore := by
  simp [prodCheck, Nat.not_le.2 hp]

theorem eq_of_prodCheck_ignore (h : prodCheck log2 head p0 p = .ignore) : p = p0 := by
  by_contra hne
  simp only [prodCheck, hne, if_false] at h
  split_ifs at h

/-- A new value below N is judged by its distance from sub_head, from P0's own, and from P0 (R46). -/
theorem prodCheck_of_new (hp : p < 2 * 2 ^ log2) (hne : p ≠ p0) :
    prodCheck log2 head p0 p =
      if modSub p head (2 * 2 ^ log2) ≤ 2 ^ log2 then
        if (if modSub p0 head (2 * 2 ^ log2) > 2 ^ log2 then 0 else modSub p0 head (2 * 2 ^ log2)) ≤ modSub p head (2 * 2 ^ log2)
        then .accept else .backward
      else if modSub p0 p (2 * 2 ^ log2) ≤ 2 ^ log2 then .backward else .beyond := by
  simp only [prodCheck, ge_iff_le, Nat.not_le.2 hp, hne, if_false]
  by_cases ha : modSub p head (2 * 2 ^ log2) ≤ 2 ^ log2 <;> simp only [ha, true_and, false_and, if_true, if_false]

end ProdCheck

/-- Only an ACTIVE ring is fetched (R40). -/
theorem State.mayFetch_eq_false (h : (s.ring r).st ≠ .active) : s.mayFetch r = false := by
  simp [State.mayFetch, h]

/-- Settles O27: the write reaches the ring's own check, and each of the conditions names one answer of that check. -/
theorem producerWriteResult : Obligations.ProducerWriteResult := by
  unfold Obligations.ProducerWriteResult
  intro who r v s ho x n p a e memory gives drop
  have hd : n / 2 = 2 ^ x.attr.log2 := Nat.mul_div_cancel_left _ Nat.two_pos
  have hdrop (code : Nat) : s.dropDoorbell who r code v.toNat = drop code := State.dropDoorbell_eq code v.toNat
  have hgives (ans : ProdAns) (hm : memory) (h : prodCheck x.attr.log2 x.subHead x.prod p = ans) :
      gives (s.producerActs who r v ans) := h ▸ exec_producerWrite_of_takes ho hm v
  have hnew : p < n → p ≠ x.prod → prodCheck x.attr.log2 x.subHead x.prod p
      = if a ≤ n / 2 then if e ≤ a then .accept else .backward
        else if modSub x.prod p n ≤ n / 2 then .backward else .beyond := by
    intro hp hne
    simp only [e, hd]
    exact prodCheck_of_new hp hne
  refine ⟨fun hm hp => ?_, fun hm hp hself => ?_, fun hm hp hne ha hea => ?_, fun hm hp hne hback => ?_,
    fun hm hp hne ha hb => ?_, fun hno => ?_, State.mayFetch_eq_false⟩
  · rw [← hdrop]
    exact hgives .beyond hm (prodCheck_of_high hp)
  · exact hgives .ignore hm (hself ▸ prodCheck_self (hself ▸ hp))
  · exact hgives .accept hm (by rw [hnew hp hne, if_pos ha, if_pos hea])
  · rw [← hdrop]
    refine hgives .backward hm ?_
    rw [hnew hp hne]
    rcases hback with ⟨ha, hae⟩ | ⟨ha, hb⟩
    · rw [if_pos ha, if_neg (Nat.not_le.2 hae)]
    · rw [if_neg (Nat.not_le.2 ha), if_pos hb]
  · rw [← hdrop]
    exact hgives .beyond hm (by rw [hnew hp hne, if_neg (Nat.not_le.2 ha), if_neg (Nat.not_le.2 hb)])
  · rw [← hdrop]
    exact exec_producerWrite_of_not_takes ho (Ring.not_takesProducer_iff.2 hno) v

/-! #### CONSUMER_WRITE (R49) -/

/-- What a ring makes of consumer value `v` by the check of R49. -/
def State.consumerActs (s : State) (who : Accessor) (r : Nat) (v : W32) : State :=
  let x := s.ring r
  let c := v.toNat % 2 ^ 21
  if modSub c x.cons x.span ≤ modSub x.wIdx x.cons x.span then s.onRing r fun x => { x with cons := c % x.span }
  else s.dropDoorbell who r 0x050B v.toNat

theorem State.consumerActs_latched (v : W32) : (s.consumerActs who r v).latched = s.latched := by
  simp [State.consumerActs]

theorem exec_consumerWrite_of_takes (h : s.doorbellOpen who r) (hs : (s.ring r).attr.stream = false)
    (hc : (s.ring r).st ≠ .closed) (hop : (s.ring r).st ≠ .opening) (v : W32) :
    exec (.consumerWrite who r v) s = .next ((s.consumerActs who r v).respond 0) := by
  rw [← State.wrote_of_portActs h.1 (State.consumerActs_latched v)]
  show execConsumerWrite who r v s = _
  rw [execConsumerWrite, State.doorbell_of_open h, if_neg hc]
  simp [hs, hop, State.consumerActs]

theorem exec_consumerWrite_of_not_takes (h : s.doorbellOpen who r)
    (hx : (s.ring r).attr.stream = true ∨ (s.ring r).st = .closed ∨ (s.ring r).st = .opening) (v : W32) :
    exec (.consumerWrite who r v) s = .next ((s.dropDoorbell who r 0x050A v.toNat).respond 0) := by
  rw [← State.wrote_of_portActs h.1 (State.dropDoorbell_latched _ _ _ _ _)]
  show execConsumerWrite who r v s = _
  rw [execConsumerWrite, State.doorbell_of_open h]
  split
  · rfl
  · rcases hx with hx | hx | hx <;> simp_all

/-- Settles O28: what R434 and R32 let through is dropped by the ring's kind and state, or judged by R49. -/
theorem consumerWriteResult : Obligations.ConsumerWriteResult := by
  unfold Obligations.ConsumerWriteResult
  intro who r v s ho x n c gives drop
  have hdrop (code : Nat) : s.dropDoorbell who r code v.toNat = drop code := State.dropDoorbell_eq code v.toNat
  constructor
  · intro hs hc hop
    rw [← hdrop]
    exact exec_consumerWrite_of_takes ho hs hc hop v
  · intro hx
    rw [← hdrop]
    exact exec_consumerWrite_of_not_takes ho hx v

/-! #### ABORT_WRITE (R52, R53) -/

/-- An abort at index `i` is held for the coming cut (R315). -/
def State.abortHeld (s : State) (r i : Nat) : State :=
  s.onRing r fun x => { x with abortIdx := i, aborts := x.aborts ++ [(i, if x.attr.stream then x.frameIdx else x.prod)] }

/-- What a ring makes of abort value `v` by the check of R53. -/
def State.abortActs (s : State) (who : Accessor) (r : Nat) (v : W32) : State :=
  if (s.ring r).abortable (v.toNat % 2 ^ 21) then s.abortHeld r (v.toNat % 2 ^ 21)
  else s.dropDoorbell who r 0x050C v.toNat

theorem State.abortActs_latched (v : W32) : (s.abortActs who r v).latched = s.latched := by
  simp [State.abortActs, State.abortHeld]

theorem exec_abortWrite_of_takes (hp : s.portActs = true) (hm : s.mayAct who (s.ringOwner r) = true)
    (hc : (s.ring r).st ≠ .closed) (ho : s.partState (s.ring r).owner ≠ .resetting) (v : W32) :
    exec (.abortWrite who r v) s = .next ((s.abortActs who r v).respond 0) := by
  rw [← State.wrote_of_portActs hp (State.abortActs_latched v)]
  show execAbortWrite who r v s = _
  simp [execAbortWrite, hp, hm, hc, ho, State.abortActs, State.abortHeld]

theorem Ring.abortable_lt {x : Ring} {i : Nat} (h : x.abortable i = true) : i < x.span := by
  simp only [Ring.abortable, Bool.and_eq_true, decide_eq_true_eq] at h
  exact h.1

/-! #### Violations toward a ring (R59, R60) -/

@[simp] theorem State.ephPush_rng (q : EphQ) : (s.ephPush q).rng = s.rng := by
  simp only [State.ephPush]
  split <;> rfl

/-- Outside CONTAINMENT a violation changes the rings by its count toward its ring, and by nothing else (R58, R59, R367). -/
theorem State.violation_rng (h : s.blk.mode ≠ .containment) (code source part value fid : Nat) (toward : Bool) :
    (s.violation code source part (some r) toward value fid).rng
      = if toward then (s.countRing r).rng else s.rng := by
  simp only [State.violation, beq_iff_eq, h, if_false, State.ephPush_rng]
  cases toward <;> rfl

theorem State.ring_congr (h : t.rng = s.rng) (k : Nat) : t.ring k = s.ring k := by
  simp only [State.ring, h]

/-- A ring enters QUARANTINED with the violation that has 64 others in its window of 1,024 ticks (R60). -/
theorem State.ring_countRing_self : ((s.countRing r).ring r) = { s.ring r with
    viol := violWindow s.sch.tick (s.ring r).viol ++ [s.sch.tick]
    violations := (s.ring r).violations + 1
    st := if 64 ≤ (violWindow s.sch.tick (s.ring r).viol).length ∧ ((s.ring r).st = .active ∨ (s.ring r).st = .held)
      then .quarantined else (s.ring r).st } := by
  simp [State.countRing, State.ring_onRing]

theorem State.ring_countRing_of_ne {k : Nat} (h : k ≠ r) : (s.countRing r).ring k = s.ring k := by
  simp [State.countRing, State.ring_onRing, h.symm]

/-- A violation toward a ring leaves the ring as its count does (R59). -/
theorem State.ring_violation (h : s.blk.mode ≠ .containment) (code source part value fid k : Nat) :
    (s.violation code source part (some r) true value fid).ring k = (s.countRing r).ring k :=
  State.ring_congr (State.violation_rng h code source part value fid true) k

/-- The window of R60 takes in the ticks t − 1,023 to t. -/
theorem violWindow_eq (u : Nat) (l : List Nat) :
    violWindow u l = l.filter fun k => decide (modSub u k (2 ^ 32) ≤ 1023) := by
  simp only [violWindow, Nat.lt_succ_iff]

/-! #### Writes to a quarantined ring (R60) -/

section Quarantined

variable (hq : (s.ring r).st = .quarantined)
include hq

theorem exec_producerWrite_of_quarantined (h : s.doorbellOpen who r) (v : W32) :
    exec (.producerWrite who r v) s = .next ((s.countError r).respond 0)
    ∨ (v.toNat % 2 ^ 21 = (s.ring r).prod ∧ exec (.producerWrite who r v) s = .next (s.respond 0))
    ∨ exec (.producerWrite who r v) s = .next ((s.producerActs who r v .accept).respond 0) := by
  by_cases hx : (s.ring r).takesProducer
  · rw [exec_producerWrite_of_takes h hx]
    cases ha : prodCheck (s.ring r).attr.log2 (s.ring r).subHead (s.ring r).prod (v.toNat % 2 ^ 21) with
    | ignore => exact .inr (.inl ⟨eq_of_prodCheck_ignore ha, rfl⟩)
    | accept => exact .inr (.inr rfl)
    | backward | beyond => simp only [State.producerActs, State.dropDoorbell_of_quarantined hq, true_or]
  · rw [exec_producerWrite_of_not_takes h hx, State.dropDoorbell_of_quarantined hq]
    exact .inl rfl

theorem exec_producerWrite_of_quarantined_dropped (h : s.doorbellOpen who r) (v : W32)
    (hv : (s.ring r).attr.stream = true ∨ 2 * 2 ^ (s.ring r).attr.log2 ≤ v.toNat % 2 ^ 21) :
    exec (.producerWrite who r v) s = .next ((s.countError r).respond 0) := by
  by_cases hx : (s.ring r).takesProducer
  · have hhigh := hv.resolve_left (by simp [hx.1])
    rw [exec_producerWrite_of_takes h hx, prodCheck_of_high hhigh, State.producerActs, State.dropDoorbell_of_quarantined hq]
  · rw [exec_producerWrite_of_not_takes h hx, State.dropDoorbell_of_quarantined hq]

theorem exec_consumerWrite_of_quarantined_stream (h : s.doorbellOpen who r) (v : W32) (hs : (s.ring r).attr.stream = true) :
    exec (.consumerWrite who r v) s = .next ((s.countError r).respond 0) := by
  rw [exec_consumerWrite_of_not_takes h (.inl hs), State.dropDoorbell_of_quarantined hq]

theorem exec_consumerWrite_of_quarantined (h : s.doorbellOpen who r) (v : W32) :
    exec (.consumerWrite who r v) s = .next ((s.countError r).respond 0)
    ∨ exec (.consumerWrite who r v) s
      = .next ((s.onRing r fun x => { x with cons := v.toNat % 2 ^ 21 % (s.ring r).span }).respond 0) := by
  cases hs : (s.ring r).attr.stream with
  | true => exact .inl (exec_consumerWrite_of_quarantined_stream hq h v hs)
  | false =>
    rw [exec_consumerWrite_of_takes h hs (by simp [hq]) (by simp [hq]), State.consumerActs,
      State.dropDoorbell_of_quarantined hq]
    split
    · exact .inr rfl
    · exact .inl rfl

theorem exec_abortWrite_of_quarantined_eq (h : s.doorbellOpen who r) (v : W32) :
    exec (.abortWrite who r v) s = .next ((if (s.ring r).abortable (v.toNat % 2 ^ 21) then s.abortHeld r (v.toNat % 2 ^ 21)
      else s.countError r).respond 0) := by
  obtain ⟨hp, hm, ho⟩ := h
  have hres : s.partState (s.ring r).owner ≠ .resetting := by rcases ho with ho | ho <;> simp [ho]
  rw [exec_abortWrite_of_takes hp hm (by simp [hq]) hres, State.abortActs, State.dropDoorbell_of_quarantined hq]

theorem exec_abortWrite_of_quarantined (h : s.doorbellOpen who r) (v : W32) :
    exec (.abortWrite who r v) s = .next ((s.countError r).respond 0)
    ∨ exec (.abortWrite who r v) s = .next ((s.abortHeld r (v.toNat % 2 ^ 21)).respond 0) := by
  rw [exec_abortWrite_of_quarantined_eq hq h]
  split
  · exact .inr rfl
  · exact .inl rfl

theorem exec_abortWrite_of_quarantined_dropped (h : s.doorbellOpen who r) (v : W32)
    (hv : (s.ring r).span ≤ v.toNat % 2 ^ 21) :
    exec (.abortWrite who r v) s = .next ((s.countError r).respond 0) := by
  rw [exec_abortWrite_of_quarantined_eq hq h, if_neg]
  exact fun ha => Nat.not_le.2 (Ring.abortable_lt ha) hv

end Quarantined

/-- Settles O30: a violation changes its ring as the count of R59 and R60 does, and every drop of a quarantined ring is one
error of `dropDoorbell`. -/
theorem quarantineRule : Obligations.QuarantineRule := by
  unfold Obligations.QuarantineRule
  constructor
  · intro s code source part r value fid hmode t near
    have hring (k : Nat) : t.ring k = (s.countRing r).ring k := State.ring_violation hmode code source part value fid k
    have hself := (hring r).trans State.ring_countRing_self
    rw [violWindow_eq] at hself
    refine ⟨by rw [hself], by simp [hself], by rw [hself], fun k hk => ?_, ?_⟩
    · exact (hring k).trans (State.ring_countRing_of_ne hk)
    · exact State.violation_rng hmode code source part value fid false
  · intro who r v s ho hq x n k gives dropped
    exact ⟨exec_producerWrite_of_quarantined hq ho v, exec_consumerWrite_of_quarantined hq ho v,
      exec_abortWrite_of_quarantined hq ho v, exec_producerWrite_of_quarantined_dropped hq ho v,
      exec_consumerWrite_of_quarantined_stream hq ho v, exec_abortWrite_of_quarantined_dropped hq ho v⟩

end Sys2Proof.Machine

/-! ### PROOFS. The queue and what is latched (R99, R100, R116, R347, R355, R356, R371, R400 to R405) -/

namespace Sys2Proof.Machine

/-- Settles O1: the two branches of `step`. -/
theorem stepRunsFrontCommand : Obligations.StepRunsFrontCommand := by
  unfold Obligations.StepRunsFrontCommand
  constructor
  · intro c l s h
    rw [step, h]
  · intro s h
    rw [step, h]

/-- Settles O3: command by command. -/
theorem latchedKept : Obligations.LatchedKept := by
  unfold Obligations.LatchedKept
  intro c s t hc h
  cases c with
  | nvmFirstCommand _ => exact execNvmFirstCommand_latched _ _ _ h
  | containerReadDone _ => exact execContainerReadDone_latched _ _ _ h
  | seedingEnd _ => exact execSeedingEnd_latched _ _ _ h
  | blockFault => exact execBlockFault_latched _ _ h
  | mac _ _ _ _ => exact execMac_latched _ _ _ _ _ _ h
  | shift _ _ _ => exact execShift_latched _ _ _ _ _ h
  | load _ _ => exact execLoad_latched _ _ _ _ h
  | store _ _ => exact execStore_latched _ _ _ _ h
  | vmac _ _ _ _ => exact execVmac_latched _ _ _ _ _ _ h
  | vshift _ _ _ _ => exact execVshift_latched _ _ _ _ _ _ h
  | macuNop _ => exact execMacuNop_latched _ _ _ h
  | macuEnd _ => exact execMacuEnd_latched _ _ _ h
  | commandFault _ => exact execCommandFault_latched _ _ _ h
  | jobPreparation _ _ => exact execJobPreparation_latched _ _ _ _ h
  | jobWipe _ => exact execJobWipe_latched _ _ _ h
  | selfTest _ _ => exact execSelfTest_latched _ _ _ _ h
  | eclipseEffect _ => exact execEclipseEffect_latched _ _ _ h
  | quadrantLoss _ => exact execQuadrantLoss_latched _ _ _ h
  | orreryCoreLoss _ => exact execOrreryCoreLoss_latched _ _ _ h
  | cacheUncorrectable _ _ _ _ => exact execCacheUncorrectable_latched _ _ _ _ _ _ h
  | segmentShaping => exact execSegmentShaping_latched _ _ h
  | quadrantGating _ => exact execQuadrantGating_latched _ _ _ h
  | powerGovernor => exact execPowerGovernor_latched _ _ h
  | producerWrite _ _ _ => exact execProducerWrite_latched _ _ _ _ _ h
  | consumerWrite _ _ _ => exact execConsumerWrite_latched _ _ _ _ _ h
  | abortWrite _ _ _ => exact execAbortWrite_latched _ _ _ _ _ h
  | registerWrite _ _ _ => exact execRegisterWrite_latched _ _ _ _ _ h
  | readClears _ _ => exact execReadClears_latched _ _ _ _ h
  | irqPendClear _ _ _ => exact execIrqPendClear_latched _ _ _ _ _ h
  | irqTest _ _ => exact execIrqTest_latched _ _ _ _ h
  | freezeNow _ => exact execFreezeNow_latched _ _ _ h
  | frozenClear _ => exact execFrozenClear_latched _ _ _ h
  | testPatternEnable _ => exact execTestPatternEnable_latched _ _ _ h
  | testPatternDisable _ => exact execTestPatternDisable_latched _ _ _ h
  | ringFetch _ _ => exact execRingFetch_latched _ _ _ _ h
  | ringContextMiss _ _ => exact execRingContextMiss_latched _ _ _ _ h
  | headerReread _ _ => exact execHeaderReread_latched _ _ _ _ h
  | chainIncomplete _ => exact execChainIncomplete_latched _ _ _ h
  | cqStall _ => exact execCqStall_latched _ _ _ h
  | gatherListRead _ _ _ => exact execGatherListRead_latched _ _ _ _ _ h
  | keyStaging _ _ => exact execKeyStaging_latched _ _ _ _ h
  | ledgerReservationAck _ _ => exact execLedgerReservationAck_latched _ _ _ _ h
  | ledgerWriteRetry _ _ => exact execLedgerWriteRetry_latched _ _ _ _ h
  | nop _ => exact execNop_latched _ _ _ h
  | fenceRing _ => exact execFenceRing_latched _ _ _ h
  | fencePartition _ => exact execFencePartition_latched _ _ _ h
  | aeadSeal _ => exact execAeadSeal_latched _ _ _ h
  | aeadOpen _ => exact execAeadOpen_latched _ _ _ h
  | cipherEnc _ => exact execCipherEnc_latched _ _ _ h
  | cipherDec _ => exact execCipherDec_latched _ _ _ h
  | gmacGen _ => exact execGmacGen_latched _ _ _ h
  | gmacVerify _ => exact execGmacVerify_latched _ _ _ h
  | digest _ => exact execDigest_latched _ _ _ h
  | hmacGen _ => exact execHmacGen_latched _ _ _ h
  | hmacVerify _ => exact execHmacVerify_latched _ _ _ h
  | pkJob _ => exact execPkJob_latched _ _ _ h
  | random _ => exact execRandom_latched _ _ _ h
  | reseed _ => exact execReseed_latched _ _ _ h
  | keyGenerate _ => exact execKeyGenerate_latched _ _ _ h
  | keyImport _ => exact execKeyImport_latched _ _ _ h
  | keyDerive _ => exact execKeyDerive_latched _ _ _ h
  | keyRetire _ => exact execKeyRetire_latched _ _ _ h
  | copy _ => exact execCopy_latched _ _ _ h
  | completionRecordWrite _ => exact execCompletionRecordWrite_latched _ _ _ h
  | recordWriteRetry _ => exact execRecordWriteRetry_latched _ _ _ h
  | irqTicksTrigger _ => exact execIrqTicksTrigger_latched _ _ _ h
  | interruptMessage _ => exact execInterruptMessage_latched _ _ _ h
  | ringDrainComplete _ => exact execRingDrainComplete_latched _ _ _ h
  | ringOpenComplete _ => exact execRingOpenComplete_latched _ _ _ h
  | streamInputFrame _ _ _ _ => exact execStreamInputFrame_latched _ _ _ _ _ _ h
  | streamOutputFrame _ => exact execStreamOutputFrame_latched _ _ _ h
  | streamOutputPause _ => exact execStreamOutputPause_latched _ _ _ h
  | streamLongPause _ => exact execStreamLongPause_latched _ _ _ h
  | readCompletion _ _ _ _ => exact execReadCompletion_latched _ _ _ _ _ _ h
  | readTimeout _ _ => exact execReadTimeout_latched _ _ _ _ h
  | tagQuarantineEnd _ _ => exact execTagQuarantineEnd_latched _ _ _ _ h
  | writeResponse _ _ _ _ => exact execWriteResponse_latched _ _ _ _ _ _ h
  | bmeSet _ => exact execBmeSet_latched _ _ _ h
  | bmeClear _ => exact execBmeClear_latched _ _ _ h
  | bmeClearAck _ => exact execBmeClearAck_latched _ _ _ h
  | flrStart _ => exact execFlrStart_latched _ _ _ h
  | flrAck _ _ => exact execFlrAck_latched _ _ _ _ h
  | flrWriteLate _ => exact execFlrWriteLate_latched _ _ _ h
  | fcReservedOp _ => exact execFcReservedOp_latched _ _ _ h
  | fork _ _ => exact execFork_latched _ _ _ _ h
  | join _ _ => exact execJoin_latched _ _ _ _ h
  | channelWrite _ _ _ _ => exact execChannelWrite_latched _ _ _ _ _ _ h
  | channelRead _ _ => exact execChannelRead_latched _ _ _ _ h
  | portRead _ _ => exact execPortRead_latched _ _ _ _ h
  | timeLimit _ => exact execTimeLimit_latched _ _ _ h
  | corePowerDown _ => exact execCorePowerDown_latched _ _ _ h
  | coreWake _ => exact execCoreWake_latched _ _ _ h
  | sdmaStart _ _ _ => exact execSdmaStart_latched _ _ _ _ _ h
  | sdmaAbort _ => exact execSdmaAbort_latched _ _ _ h
  | sdmaDone _ => exact execSdmaDone_latched _ _ _ h
  | go _ _ _ => exact execGo_latched _ _ _ _ _ h
  | ack _ _ _ => exact execAck_latched _ _ _ _ _ h
  | compatDoorbellMsg _ _ => exact execCompatDoorbellMsg_latched _ _ _ _ h
  | compatDoorbellAck _ _ => exact execCompatDoorbellAck_latched _ _ _ _ h
  | mbDbMaskClear _ _ _ => exact execMbDbMaskClear_latched _ _ _ _ _ h
  | messageTaken _ _ => exact execMessageTaken_latched _ _ _ _ h
  | mailboxReply _ => exact execMailboxReply_latched _ _ _ h
  | partitionRecordAck _ => exact execPartitionRecordAck_latched _ _ _ h
  | partitionRecordRetry _ => exact execPartitionRecordRetry_latched _ _ _ h
  | fwVerifyVerdict => exact execFwVerifyVerdict_latched _ _ h
  | swapEnter => exact execSwapEnter_latched _ _ h
  | quiesceTimeout _ => exact execQuiesceTimeout_latched _ _ _ h
  | flip => exact execFlip_latched _ _ h
  | initDone => exact execInitDone_latched _ _ h
  | initTimeout => exact execInitTimeout_latched _ _ h
  | swapExit => exact execSwapExit_latched _ _ h
  | windowEnd _ => exact execWindowEnd_latched _ _ _ h
  | healthTestFailure _ _ => exact execHealthTestFailure_latched _ _ _ _ h
  | retestStart => exact execRetestStart_latched _ _ h
  | retestVerdict _ _ => exact execRetestVerdict_latched _ _ _ _ h
  | drbgItemDone _ => exact execDrbgItemDone_latched _ _ _ h
  | entropyWaitExpiry _ => exact execEntropyWaitExpiry_latched _ _ _ h
  | recordCommit => exact execRecordCommit_latched _ _ h
  | readRefused _ _ => exact execReadRefused_latched _ _ _ _ h
  | streamInputBeat _ _ _ _ => exact execStreamInputBeat_latched _ _ _ _ _ _ h
  | streamPauseEnd _ => exact execStreamPauseEnd_latched _ _ _ h
  | knownAnswerTestDone _ _ _ => exact execKnownAnswerTestDone_latched _ _ _ _ _ h
  | _ => exact absurd hc.symm Bool.false_ne_true

/-- Settles O2: a command that keeps what is latched keeps the queue; the others one by one. -/
theorem queueKept : Obligations.QueueKept := by
  unfold Obligations.QueueKept
  intro c s t h
  cases hc : setsLatched c with
  | false => exact pending_of_latched (latchedKept c s t hc h)
  | true =>
    cases c with
    | rstCoreAssert => exact execRstCoreAssert_pending _ _ h
    | rstRpAssert => exact execRstRpAssert_pending _ _ h
    | resetRelease _ => exact execResetRelease_pending _ _ _ h
    | rootKeyWord _ _ => exact execRootKeyWord_pending _ _ _ _ h
    | containerVerdict _ _ => exact execContainerVerdict_pending _ _ _ _ h
    | containment => exact execContainment_pending _ _ h
    | tickBoundary _ => exact execTickBoundary_pending _ _ _ h
    | epochBoundary => exact execEpochBoundary_pending _ _ h
    | eligibilityCut _ => exact execEligibilityCut_pending _ _ _ h
    | powerAck _ _ _ => exact execPowerAck_pending _ _ _ _ _ h
    | tbLost => exact execTbLost_pending _ _ h
    | tbRestored _ => exact execTbRestored_pending _ _ _ h
    | tapReset => exact execTapReset_pending _ _ h
    | idcode => exact execIdcode_pending _ _ h
    | bypass => exact execBypass_pending _ _ h
    | oryState => exact execOryState_pending _ _ h
    | threadStop _ => exact execThreadStop_pending _ _ _ h
    | threadResume _ => exact execThreadResume_pending _ _ _ h
    | holdSet => exact execHoldSet_pending _ _ h
    | holdClear => exact execHoldClear_pending _ _ h
    | rstRpRelease => exact execRstRpRelease_pending _ _ h
    | _ => exact absurd hc Bool.false_ne_true

/-- Settles O9: the reset state and the three resets, as the model writes them. -/
theorem resetResults : Obligations.ResetResults := by
  unfold Obligations.ResetResults
  refine ⟨?_, fun s => rfl, fun s => ⟨rfl, rfl⟩⟩
  exact ⟨rfl, rfl, rfl, rfl, rfl, rfl, rfl, rfl, rfl, rfl, rfl, rfl, rfl, rfl, rfl, rfl, rfl, rfl, rfl, rfl, rfl, rfl, rfl,
    rfl, State.reset_memWf, rfl⟩

end Sys2Proof.Machine

/-! ### PROOFS. MACU words (R202, R203), the addressed memories as memories (R201, R231), and the inputs from outside
(R246, R401 to R405) -/

namespace Sys2Proof.Machine

/-! #### MACU words -/

/-- The field of a word is the word shifted down. -/
theorem macuField_eq (w : BitVec 32) (lo n : Nat) : macuField w lo n = BitVec.ofNat n (w.toNat / 2 ^ lo) := by
  apply BitVec.eq_of_toNat_eq
  simp [macuField, BitVec.extractLsb'_toNat, Nat.shiftRight_eq_div_pow]

section MacuWord

variable (op mod : BitVec 4) (a b : BitVec 10)

/-! The word of a command holds its fields where `decodeMacu` reads them. -/

theorem macuField_macuWord_op : macuField (macuWord op mod a b) 28 4 = op := by
  ext i hi; simp [macuField, macuWord]; grind

theorem macuField_macuWord_mod : macuField (macuWord op mod a b) 24 4 = mod := by
  ext i hi; simp [macuField, macuWord]; grind

theorem macuField_macuWord_a : macuField (macuWord op mod a b) 12 10 = a := by
  ext i hi; simp [macuField, macuWord]; grind

theorem macuField_macuWord_b : macuField (macuWord op mod a b) 0 10 = b := by
  ext i hi; simp [macuField, macuWord]; grind

theorem macuField_macuWord_shift (sh : BitVec 6) : macuField (macuWord op mod (sh.setWidth 10) b) 12 6 = sh := by
  have h := macuField_macuWord_a op mod (sh.setWidth 10) b
  have h6 : macuField (macuWord op mod (sh.setWidth 10) b) 12 6 = (macuField (macuWord op mod (sh.setWidth 10) b) 12 10).setWidth 6 := by
    ext i hi; simp [macuField]; omega
  rw [h6, h, BitVec.setWidth_setWidth_of_le _ (by decide), BitVec.setWidth_eq]

end MacuWord

/-- The operation code of a word is its top four bits. -/
theorem macuField_op_toNat (w : BitVec 32) : (macuField w 28 4).toNat = w.toNat / 2 ^ 28 := by
  have := w.isLt
  rw [macuField_eq, BitVec.toNat_ofNat]
  omega

/-- Settles O22: each field is read back from the word that holds it, and the codes of R203 are told apart one by one. -/
theorem macuWords : Obligations.MacuWords := by
  unfold Obligations.MacuWords
  intro u mod a b sh
  constructor
  · intro i hi
    simp only [List.mem_cons, List.not_mem_nil, or_false] at hi
    rcases hi with rfl | rfl | rfl | rfl | rfl | rfl | rfl | rfl <;>
      exact ⟨_, rfl, by simp [decodeMacu, macuField_macuWord_op, macuField_macuWord_mod, macuField_macuWord_a,
        macuField_macuWord_b, macuField_macuWord_shift]⟩
  · intro w
    simp only [decodeMacu, macuField_op_toNat]
    generalize w.toNat / 2 ^ 28 = op
    split <;> simp_all [macuField_eq]

/-! #### Memories -/

section Maps

variable {α : Type}

theorem mget_eq_none_of_lt {m : Map α} {k : Nat} (h : ∀ x ∈ m, k < x.1) : mget m k = none := by
  induction m with
  | nil => rfl
  | cons y m ih =>
    obtain ⟨a, v⟩ := y
    have ha : k < a := h (a, v) List.mem_cons_self
    rw [mget, if_neg (by omega), ih fun x hx => h x (List.mem_cons_of_mem _ hx)]

/-- Where keys rise, a removed key is not found. -/
theorem mget_mdel_self {m : Map α} (k : Nat) (h : m.Pairwise fun x y => x.1 < y.1) : mget (mdel m k) k = none := by
  induction m with
  | nil => rfl
  | cons y m ih =>
    obtain ⟨a, v⟩ := y
    obtain ⟨h1, h2⟩ := List.pairwise_cons.1 h
    simp only [mdel]
    split
    · next e => subst e; exact mget_eq_none_of_lt h1
    · next e => rw [mget, if_neg e, ih h2]

/-- What a memory in canonical form reads after a write: the value written, and elsewhere what it read before. -/
theorem mget_write [DecidableEq α] {z : α} {m : Map α} (k j : Nat) (v : α) (h : Memory.wf z m = true) :
    (mget (if v = z then mdel m k else mset m k v) j).getD z = if j = k then v else (mget m j).getD z := by
  obtain ⟨h1, -⟩ := Memory.wf_iff.1 h
  by_cases hj : j = k
  · subst hj
    rw [if_pos rfl]
    split
    · next hv => simp [mget_mdel_self j h1, hv]
    · simp [mget_mset]
  · rw [if_neg hj]
    split
    · rw [mget_mdel_ne m (Ne.symm hj)]
    · rw [mget_mset, if_neg (Ne.symm hj)]

end Maps

theorem Macu.word_put {m : Macu} (a b : Nat) (w : BitVec 256) (h : Memory.wf 0 m.mem = true) :
    (m.put a w).word b = if b = a then w else m.word b := mget_write a b w h

/-- What shared memory reads after a store of bytes. -/
theorem mget_shPut {m : Map Byte} (a j : Nat) (b : Bytes) (h : Memory.wf 0 m = true) :
    (mget (shPut m a b) j).getD 0 = if a ≤ j then b.getD (j - a) ((mget m j).getD 0) else (mget m j).getD 0 := by
  induction b generalizing m a with
  | nil => simp [shPut]
  | cons x b ih =>
    rw [shPut, ih _ (Memory.wf_write a x h), mget_write a j x h]
    rcases Nat.lt_trichotomy j a with hj | rfl | hj
    · rw [if_neg (by omega), if_neg (by omega), if_neg (by omega)]
    · simp
    · obtain ⟨n, rfl⟩ : ∃ n, j = a + 1 + n := ⟨j - (a + 1), by omega⟩
      rw [if_pos (by omega), if_neg (by omega), if_pos (by omega)]
      simp [show a + 1 + n - (a + 1) = n by omega, show a + 1 + n - a = n + 1 by omega]

/-- Settles O25: the two memories read what was written last. -/
theorem memoryLaws : Obligations.MemoryLaws := by
  unfold Obligations.MemoryLaws
  refine ⟨fun m a b w h => Macu.word_put a b w h, fun s a b h => ⟨?_, fun k n hk => ?_⟩⟩
  · apply List.ext_getElem
    · simp [State.shRead]
    · intro i h1 h2
      have h3 := mget_shPut a (a + i) b h
      rw [if_pos (Nat.le_add_right a i), Nat.add_sub_cancel_left, List.getD_eq_getElem _ _ h2] at h3
      simpa [State.shRead, State.shWrite] using h3
  · apply List.map_congr_left
    intro i hi
    have hi := List.mem_range.1 hi
    simp only [State.shWrite, State.onOry_ory, mget_shPut _ _ _ h]
    split
    · rw [List.getD_eq_default _ _ (by omega)]
    · rfl

/-! #### A record changes the Ephemeris alone -/

section Records

variable (s : State)

theorem State.ephPush_eq (q : EphQ) : s.ephPush q = { s with eph := (s.ephPush q).eph } := by
  unfold State.ephPush
  dsimp only; split <;> rfl

section Log

variable (code source part : Nat) (d : Bytes)

theorem State.log_eq : s.log code source part d = { s with eph := (s.log code source part d).eph } := State.ephPush_eq _ _
@[simp] theorem State.log_pending : (s.log code source part d).pending = s.pending := by rw [State.log_eq]
@[simp] theorem State.log_free : (s.log code source part d).free = s.free := by rw [State.log_eq]
@[simp] theorem State.log_blk : (s.log code source part d).blk = s.blk := by rw [State.log_eq]
@[simp] theorem State.log_ldr : (s.log code source part d).ldr = s.ldr := by rw [State.log_eq]
@[simp] theorem State.log_sch : (s.log code source part d).sch = s.sch := by rw [State.log_eq]
@[simp] theorem State.log_dat : (s.log code source part d).dat = s.dat := by rw [State.log_eq]
@[simp] theorem State.log_prt : (s.log code source part d).prt = s.prt := by rw [State.log_eq]
@[simp] theorem State.log_rng : (s.log code source part d).rng = s.rng := by rw [State.log_eq]
@[simp] theorem State.log_key : (s.log code source part d).key = s.key := by rw [State.log_eq]
@[simp] theorem State.log_ory : (s.log code source part d).ory = s.ory := by rw [State.log_eq]
@[simp] theorem State.log_ent : (s.log code source part d).ent = s.ent := by rw [State.log_eq]
@[simp] theorem State.log_mov : (s.log code source part d).mov = s.mov := by rw [State.log_eq]
@[simp] theorem State.log_mbx : (s.log code source part d).mbx = s.mbx := by rw [State.log_eq]
@[simp] theorem State.log_io : (s.log code source part d).io = s.io := by rw [State.log_eq]
@[simp] theorem State.log_glog : (s.log code source part d).glog = s.glog := by rw [State.log_eq]

end Log

section LogReq

variable (code source part ring idx link word : Nat)

theorem State.logReq_eq : s.logReq code source part ring idx link word
    = { s with eph := (s.logReq code source part ring idx link word).eph } := State.ephPush_eq _ _
@[simp] theorem State.logReq_pending : (s.logReq code source part ring idx link word).pending = s.pending := by rw [State.logReq_eq]
@[simp] theorem State.logReq_free : (s.logReq code source part ring idx link word).free = s.free := by rw [State.logReq_eq]
@[simp] theorem State.logReq_blk : (s.logReq code source part ring idx link word).blk = s.blk := by rw [State.logReq_eq]
@[simp] theorem State.logReq_ldr : (s.logReq code source part ring idx link word).ldr = s.ldr := by rw [State.logReq_eq]
@[simp] theorem State.logReq_sch : (s.logReq code source part ring idx link word).sch = s.sch := by rw [State.logReq_eq]
@[simp] theorem State.logReq_dat : (s.logReq code source part ring idx link word).dat = s.dat := by rw [State.logReq_eq]
@[simp] theorem State.logReq_prt : (s.logReq code source part ring idx link word).prt = s.prt := by rw [State.logReq_eq]
@[simp] theorem State.logReq_rng : (s.logReq code source part ring idx link word).rng = s.rng := by rw [State.logReq_eq]
@[simp] theorem State.logReq_key : (s.logReq code source part ring idx link word).key = s.key := by rw [State.logReq_eq]
@[simp] theorem State.logReq_ory : (s.logReq code source part ring idx link word).ory = s.ory := by rw [State.logReq_eq]
@[simp] theorem State.logReq_ent : (s.logReq code source part ring idx link word).ent = s.ent := by rw [State.logReq_eq]
@[simp] theorem State.logReq_mov : (s.logReq code source part ring idx link word).mov = s.mov := by rw [State.logReq_eq]
@[simp] theorem State.logReq_mbx : (s.logReq code source part ring idx link word).mbx = s.mbx := by rw [State.logReq_eq]
@[simp] theorem State.logReq_io : (s.logReq code source part ring idx link word).io = s.io := by rw [State.logReq_eq]
@[simp] theorem State.logReq_glog : (s.logReq code source part ring idx link word).glog = s.glog := by rw [State.logReq_eq]

end LogReq

end Records

/-! #### Inputs from outside -/

/-- ORY_STATE loads the debug word where debug is on. -/
theorem State.tapLoad_state (s : State) : s.tapLoad tapState = s.onIo fun i => { i with
    tapIr := tapState, tapCap := 0x01, tapDr := if s.debugOn then BitVec.ofNat 32 (s.oryReg 0x18) else 0 } := by
  simp only [State.tapLoad, State.oryReg]
  cases s.debugOn <;> rfl

/-- Settles O14: each of the commands is one update, which is compared with the statement's. -/
theorem outsideInputs : Obligations.OutsideInputs := by
  unfold Obligations.OutsideInputs
  refine ⟨⟨fun s h => ?_, ?_⟩, fun s => ⟨rfl, rfl, rfl, ?_⟩, fun n level s hn => ?_⟩
  · show execTbLost s = _
    simp [execTbLost, h]
  · intro ns clocks s h own
    let t := s.onBlk fun b => { b with tbValid := true, time := if own.toNat ≤ ns.toNat then ns else own }
    refine ⟨t.log 0x0841 uidTb noPart (natLE (ns - own).toNat 8), ?_, ?_, ?_⟩
    · show execTbRestored _ s = _
      simp only [execTbRestored, h]
      rfl
    · rw [State.log_latched]; rfl
    · rw [State.log_blk]
      rfl
  · show execOryState s = _
    rw [execOryState, State.tapLoad_state]
    rfl
  · show execPowerAck _ _ _ s = _ ∧ execPowerAck _ _ _ s = _
    simp [execPowerAck, Nat.not_le_of_lt hn]

end Sys2Proof.Machine

/-! ### PROOFS. The Ephemeris (R412, R415, R420, R431), the loader's reads (R344 to R348, R397, R400) and self-tests (R309,
R360) -/

namespace Sys2Proof.Machine

/-! #### The Ephemeris -/

theorem minBy_mem {α : Type} {f : α → Nat} {l : List α} {a : α} (h : minBy f l = some a) : a ∈ l := by
  induction l generalizing a with
  | nil => cases h
  | cons b l ih =>
    simp only [minBy] at h
    split at h
    · simp_all
    · next c hc =>
      split at h
      · cases h; exact List.mem_cons_of_mem _ (ih hc)
      · cases h; exact List.mem_cons_self

/-- A record that may commit next lies in the queue, behind none of its source. -/
theorem mem_ephReady {before l : List EphQ} {r : EphQ} (h : r ∈ ephReady before l) :
    ∃ pre post, l = pre ++ r :: post ∧ ∀ b ∈ before ++ pre, b.source ≠ r.source := by
  induction l generalizing before with
  | nil => cases h
  | cons x l ih =>
    simp only [ephReady, List.mem_append] at h
    rcases h with h | h
    · split at h
      · next hf =>
        cases List.mem_singleton.1 h
        refine ⟨[], l, rfl, fun b hb => ?_⟩
        have := List.all_eq_true.1 hf b (by simpa using hb)
        simp only [Bool.and_eq_true, bne_iff_ne] at this
        exact this.1
      · cases h
    · obtain ⟨pre, post, rfl, hp⟩ := ih h
      exact ⟨x :: pre, post, rfl, fun b hb => hp b (by simpa using hb)⟩

/-- The next record is the first of its source and tick in the queue. -/
theorem head?_filter_of_ephNext {q : List EphQ} {r : EphQ} (h : ephNext q = some r) :
    (q.filter fun x => x.source == r.source && x.tick == r.tick).head? = some r := by
  cases q with
  | nil => cases h
  | cons y q =>
    simp only [ephNext] at h
    split at h
    · cases h; simp
    · obtain ⟨pre, post, hl, hp⟩ := mem_ephReady (minBy_mem h)
      have hr : r ∈ (y :: q).filter fun x => x.tick == y.tick := by rw [hl]; simp
      have ht : r.tick = y.tick := by simpa using (List.mem_filter.1 hr).2
      have hf : ((y :: q).filter fun x => x.source == r.source && x.tick == r.tick)
          = ((y :: q).filter fun x => x.tick == y.tick).filter fun x => x.source == r.source := by
        rw [List.filter_filter, ht]
      have hpre : pre.filter (fun x => x.source == r.source) = [] :=
        List.filter_eq_nil_iff.2 fun b hb => by simpa using hp b (by simpa using hb)
      rw [hf, hl, List.filter_append, hpre]
      simp

theorem mem_of_ephNext {q : List EphQ} {r : EphQ} (h : ephNext q = some r) : r ∈ q :=
  List.mem_of_mem_filter (List.mem_of_mem_head? (head?_filter_of_ephNext h))

/-- One commit takes one record out of those that wait. -/
theorem length_commit {q held : List EphQ} {r : EphQ} (h : r ∈ q) :
    (q.erase r ++ held.take 1).length + (held.drop 1).length + 1 = q.length + held.length := by
  have := List.length_pos_of_mem h
  simp only [List.length_append, List.length_erase_of_mem h, List.length_take, List.length_drop]
  omega

/-- A record of severity FAULT or FATAL arms the freeze of a grant log that is to freeze on it and does not yet. -/
theorem Glog.onRecord_eq (g : Glog) (sev : Nat) (seq : W32) : g.onRecord sev seq
    = if 3 ≤ sev ∧ g.onFault = true ∧ g.frozen = false ∧ g.counting = none then
        if min 4096 g.post = 0 then { g with trigger := seq, frozen := true }
        else { g with trigger := seq, counting := some (min 4096 g.post) }
      else g := by
  have hc : (sev < 3 || !g.onFault || g.frozen || g.counting.isSome)
      = !decide (3 ≤ sev ∧ g.onFault = true ∧ g.frozen = false ∧ g.counting = none) := by
    rw [Bool.eq_iff_iff]
    cases h : g.counting <;> simp
    grind
  rw [Glog.onRecord, hc]
  by_cases h : 3 ≤ sev ∧ g.onFault = true ∧ g.frozen = false ∧ g.counting = none
  · simp only [h, and_self, decide_true, Bool.not_true, if_true]; rfl
  · simp only [h, decide_false, Bool.not_false, if_true, if_false]

/-- Settles O60: the queue's two ways for a record, and one commit. -/
theorem ephemerisRules : Obligations.EphemerisRules := by
  unfold Obligations.EphemerisRules
  refine ⟨fun s r hm hf => ⟨?_, ?_⟩, fun s r h => ?_, fun s h => ?_⟩
  · rw [State.ephPush_eq]
  · have he (q : EphQ) : s.ephPush q = s.onEph fun e =>
        if s.eph.queue.length ≥ ephQueueMax || s.eph.heldRecs.any fun h => h.source == q.source then
          { e with heldRecs := e.heldRecs ++ [{ q with early := s.blk.mode == .charterLoad, flags := q.flags ||| 8 }]
                   stalls := sat 0xFFFF e.stalls 1 }
        else { e with queue := e.queue ++ [{ q with early := s.blk.mode == .charterLoad }]
                      peak := max e.peak (e.queue.length + 1) } := by
      simp [State.ephPush, hm, hf]
    refine ⟨fun hq hh => ?_, fun hq => ?_⟩
    · have hfull : (s.eph.queue.length ≥ ephQueueMax || s.eph.heldRecs.any fun h => h.source == r.source) = false := by
        simpa [ephQueueMax, hq] using hh
      rw [he, hfull]
      rfl
    · have hfull : (s.eph.queue.length ≥ ephQueueMax || s.eph.heldRecs.any fun h => h.source == r.source) = true := by
        simpa [ephQueueMax] using hq
      rw [he, hfull]
      rfl
  · refine ⟨s.commitOne, rfl, ?_⟩
    simp only [State.commitOne, h]
    refine ⟨by simp [ephDepth], rfl, rfl, by simp [ephDepth], length_commit (mem_of_ephNext h), head?_filter_of_ephNext h, ?_⟩
    simp only [State.onGlog_glog, State.onEph_glog, Glog.onRecord_eq]
    rfl
  · show Host.Outcome.next s.commitOne = _
    simp [State.commitOne, h, ephNext]

/-! #### The loader's reads -/

/-- Sampling the lines leaves chip select. -/
theorem Nvm.sample_csN (m : Nat) (b : Byte) (x : Nvm) : (Nvm.sample m b x).csN = x.csN := by
  unfold Nvm.sample
  split
  · rfl
  · split <;> rfl

/-- Settles O11: the branches of `readMode`, and of a container's read. -/
theorem loaderReads : Obligations.LoaderReads := by
  unfold Obligations.LoaderReads
  refine ⟨?_, ?_⟩
  · intro r s hm hk hn f quad
    have hq : (f.quadReq == 0 || f.quadSet) = decide quad := by simp only [quad, Bool.decide_or, Bool.decide_eq_true]; rfl
    refine ⟨(s.onLdr fun l => { l with
      nvmStarted := true, nvmMode := (readMode f).1, nvmRead := (readMode f).2, nvmSlow := !f.valid, nvmAddr := 0 }).nvCommand true,
      ?_, rfl, rfl, fun h => by simpa [f, sfdpOf] using h, rfl, rfl, ?_⟩
    · show execNvmFirstCommand r s = _
      simp [execNvmFirstCommand, hm, hk, hn, f]
    · show (_ → (readMode f).1 = 5 ∧ (readMode f).2 = _)
        ∧ (_ → ∀ x, _ → _ → (readMode f).1 = 0 ∧ (readMode f).2 = x)
        ∧ (_ → ∀ x, _ → _ → _ → (readMode f).1 = 1 ∧ (readMode f).2 = x)
        ∧ (_ → _ → (∀ x, _ → (readMode f).1 = 2 ∧ (readMode f).2 = x)
          ∧ (∀ x, _ → _ → (readMode f).1 = 3 ∧ (readMode f).2 = x) ∧ (_ → _ → (readMode f).1 = 4 ∧ (readMode f).2 = _))
      simp only [readMode, hq]
      refine ⟨fun hv => by simp [hv], fun hv x h h1 => by simp [hv, h, h1], fun hv x h h1 h2 => by simp [hv, h, h1, h2], fun hv h => ?_⟩
      have h4 : (if decide quad then f.m144 else none) = none ∧ (if decide quad then f.m114 else none) = none := by
        by_cases hq : quad
        · simpa [hq] using h
        · simp [hq]
      rw [h4.1, h4.2]
      refine ⟨fun x h1 => by simp [hv, h1], fun x h1 h2 => by simp [hv, h1, h2], fun h1 h2 => by simp [hv, h1, h2]⟩
  · intro a s hm hn hc hd
    let b := if s.reachable (ansData a).length then ansData a else []
    have hx : execContainerReadDone a s = .next ((match b.getLast? with
        | some x => (s.nvCommand false).onIo fun i => { i with nvm := i.nvm.sample s.ldr.nvmMode x }
        | none => s.nvCommand false).onLdr fun l => { l with container := some b }) := by
      rw [execContainerReadDone, if_neg (by simp [hm, hn, hc, hd])]
      rfl
    have hb : (∀ d, a = .ok d → s.reachable d.length = true → b = d) ∧ (∀ d, a = .ok d → s.reachable d.length = false → b = [])
        ∧ ∀ c l, (a = .busError c l ∨ a = .timeout c l) → b = [] :=
      ⟨fun d ha h => by simp [b, ha, ansData, h], fun d ha h => by simp [b, ha, ansData, h],
        fun c l ha => by rcases ha with rfl | rfl <;> exact ite_self _⟩
    refine ⟨_, b, hx, ?_⟩
    cases b.getLast? with
    | none => exact ⟨rfl, rfl, rfl, hb⟩
    | some x => exact ⟨rfl, rfl, Nvm.sample_csN _ _ _, hb⟩

/-! #### Self-tests -/

/-- Settles O19: the branches of the model's own definition. -/
theorem selfTestResult : Obligations.SelfTestResult := by
  unfold Obligations.SelfTestResult
  intro u pass s hl ht hi
  have hi : ((s.unitSt u).inTest || ((s.unitSt u).ecl && !(s.unitSt u).exer.isEmpty)) = true := by
    simpa using hi
  refine ⟨fun hm hu => ?_, fun hm hu => ?_, fun hm hp hu => ?_, fun hm hp => ?_⟩ <;> show execSelfTest u pass s = _
  · simp [execSelfTest, hl, ht, hi, hm, hu]
  · have hm : (s.blk.mode == .seeding) = false := by simpa using hm
    simp [execSelfTest, hl, ht, hi, hm, hu]
  · simp [execSelfTest, hl, ht, hi, hm, hu, hp]
  · have hpass : (pass && !s.unpowered u) = false := by
      rcases hp with hp | hp <;> simp [hp]
    simp [execSelfTest, hl, ht, hi, hm, hpass]

end Sys2Proof.Machine

/-! ### PROOFS. CONTAINMENT (R314, R361, R365 to R367) -/

namespace Sys2Proof.Machine

/-! #### A command that acts in CONTAINMENT -/

/-- A block in the mode CONTAINMENT with a DUAL batch that its MACUs 0 and 1 still run. -/
def dualInContainment : State :=
  { blk := { mode := .containment }
    dat := { macus := [{ batch := some ⟨0, 0, 0⟩ }, {}] }
    sch := { running := [{ unit := .macu 0, pair := true, part := 0, id := ⟨0, 0, 0⟩, seg := 0, cost := 0 }] } }

/-- The words that wait in the load queues of the MACUs, after a command. -/
def loadQueuesAfter : Out → List Nat
  | .next t => t.dat.macus.map fun m => m.loadQ.length
  | _ => []

/-- Refutes O7: the mode alone does not end a DUAL batch, and LOAD by its leader, whose queue is empty, puts the word that it
takes into the follower's queue before it asks whether the block serves. -/
theorem not_containmentQuiet : ¬ Obligations.ContainmentQuiet := by
  unfold Obligations.ContainmentQuiet
  intro h
  have hl := congrArg loadQueuesAfter (h (.load 0 0) dualInContainment rfl rfl)
  exact absurd hl (by decide)

/-! #### What the mode and the silence of CONTAINMENT end -/

section Containment

variable {s : State} (h : s.blk.mode = .containment)

include h

theorem State.live_of_containment : s.live = false := by simp [State.live, h]

theorem State.serving_of_containment : s.serving = false := by simp [State.serving, h]

theorem State.ticking_of_containment : s.ticking = false := by
  simp [State.ticking, State.serving_of_containment h, h]

theorem State.oryServing_of_containment : s.oryServing = false := by
  simp [State.oryServing, State.serving_of_containment h]

theorem State.policyOn_of_containment : s.policyOn = false := by
  simp [State.policyOn, State.ticking_of_containment h]

theorem State.mayFetch_of_containment (r : Nat) : s.mayFetch r = false := by
  simp [State.mayFetch, State.serving_of_containment h]

theorem State.bareOk_of_containment (q : Req) (l : Link) : s.bareOk q l = false := by
  simp [State.bareOk, State.serving_of_containment h]

theorem State.threadModes_of_containment (k : Nat) : s.threadModes k = false := by
  simp [State.threadModes, State.serving_of_containment h, h]

theorem State.issues_of_containment (k : Nat) : s.issues k = false := by
  simp [State.issues, State.threadModes_of_containment h]

theorem State.swapMode_of_containment : s.swapMode = false := by simp [State.swapMode, h]

theorem State.portActs_of_containment : s.portActs = false := by simp [State.portActs, h]

theorem State.batchOn_of_containment (u : Nat) : s.batchOn u = false := by
  simp [State.batchOn, State.serving_of_containment h]

theorem State.macuCmd_of_containment (u : Nat) (ok : Macu → Bool) (f : Macu → Macu) : s.macuCmd u ok f = .next s := by
  simp only [State.macuCmd, State.serving_of_containment h]
  split <;> simp

theorem State.containIfCaused_of_containment : s.containIfCaused = s := by
  simp only [State.containIfCaused, State.live_of_containment h]
  split <;> rfl

theorem State.runOp_of_containment (op : Nat) (id : LinkId) : s.runOp op id = s := by
  simp only [State.runOp, State.serving_of_containment h]
  split <;> simp

theorem State.createOf_of_containment (op : Nat) (id : LinkId) : s.createOf op id = s := by
  simp only [State.createOf, State.createKey, State.oryServing_of_containment h]
  repeat' split
  all_goals simp_all

theorem State.runItemOf_of_containment (op : Nat) (id : LinkId) : s.runItemOf id op = s := by
  simp only [State.runItemOf, State.serving_of_containment h]
  split <;> simp

theorem State.beat_of_containment (n : Nat) (sop : Bool) (r : Nat) (d : Bytes) (eop : Bool) : s.beat n sop r d eop = s := by
  simp [State.beat, State.serving_of_containment h]

end Containment

section Contained

variable {s : State} (h : s.Contained)

include h

theorem State.Contained.dualOn (u : Nat) : s.dualOn u = none := by
  have hs := h.silent
  simp only [State.silent, Bool.and_eq_true, List.isEmpty_iff] at hs
  obtain ⟨⟨⟨⟨⟨-, hrun⟩, -⟩, -⟩, -⟩, -⟩ := hs
  cases hb : (s.dat.macus[u]?).bind (·.batch) <;> simp [State.dualOn, hrun, hb]

theorem State.Contained.macuOut (u n : Nat) (ok : Macu → Bool) (out : Macu → Nat → List (BitVec 256))
    (f : Macu → Nat → Macu) (g : Dat → Dat) : s.macuOut u n ok out f g = .next s := by
  simp only [State.macuOut, h.dualOn u]
  exact State.macuCmd_of_containment h.mode _ _ _

/-- Where the block is silent, in the mode CONTAINMENT, the commands that do not act in it change nothing. -/
theorem State.Contained.exec_quiet (c : Instr) (ha : actsInContainment c = false) : exec c s = .next s := by
  have hm := h.mode
  have hlive := State.live_of_containment hm
  have hserving := State.serving_of_containment hm
  have hticking := State.ticking_of_containment hm
  have hory := State.oryServing_of_containment hm
  cases c with
  | resetRelease release =>
    show execResetRelease release s = _
    simp [execResetRelease, hm]
  | nvmFirstCommand sfdp =>
    show execNvmFirstCommand sfdp s = _
    simp [execNvmFirstCommand, hm]
  | containerReadDone data =>
    show execContainerReadDone data s = _
    simp [execContainerReadDone, hm]
  | containerVerdict elapsed ns =>
    show execContainerVerdict elapsed ns s = _
    simp [execContainerVerdict, hm]
  | seedingEnd elapsed =>
    show execSeedingEnd elapsed s = _
    simp [execSeedingEnd, hm]
  | containment =>
    show execContainment s = _
    simp [execContainment, hticking, State.containIfCaused_of_containment hm]
  | blockFault =>
    show execBlockFault s = _
    simp [execBlockFault, hlive]
  | tickBoundary ev =>
    show execTickBoundary ev s = _
    simp [execTickBoundary, hticking]
  | epochBoundary =>
    show execEpochBoundary s = _
    simp [execEpochBoundary, hticking]
  | eligibilityCut faults =>
    show execEligibilityCut faults s = _
    simp [execEligibilityCut, hticking]
  | mac u mod a b =>
    show execMac u mod a b s = _
    exact State.macuCmd_of_containment hm _ _ _
  | shift u mod b =>
    show execShift u mod b s = _
    exact h.macuOut _ _ _ _ _ _
  | load u b =>
    show execLoad u b s = _
    simp [execLoad, State.batchOn_of_containment hm, h.dualOn, State.macuCmd_of_containment hm]
  | store u a =>
    show execStore u a s = _
    simp [execStore, h.macuOut]
  | vmac u mod a b =>
    show execVmac u mod a b s = _
    exact State.macuCmd_of_containment hm _ _ _
  | vshift u mod sh b =>
    show execVshift u mod sh b s = _
    simp [execVshift, State.batchOn_of_containment hm, h.macuOut]
  | macuNop u =>
    show execMacuNop u s = _
    exact State.macuCmd_of_containment hm _ _ _
  | macuEnd u =>
    show execMacuEnd u s = _
    exact State.macuCmd_of_containment hm _ _ _
  | commandFault u =>
    show execCommandFault u s = _
    simp [execCommandFault, hserving]
    repeat' split
    all_goals rfl
  | jobPreparation id reads =>
    show execJobPreparation id reads s = _
    simp [execJobPreparation, hserving]
    split <;> rfl
  | jobWipe id =>
    show execJobWipe id s = _
    simp [execJobWipe, hlive]
    repeat' split
    all_goals rfl
  | selfTest u pass =>
    show execSelfTest u pass s = _
    simp [execSelfTest, hlive, hm]
  | eclipseEffect u =>
    show execEclipseEffect u s = _
    simp [execEclipseEffect, hlive]
    split <;> rfl
  | quadrantLoss q =>
    show execQuadrantLoss q s = _
    simp [execQuadrantLoss, hlive]
  | orreryCoreLoss c =>
    show execOrreryCoreLoss c s = _
    simp [execOrreryCoreLoss, hlive]
  | cacheUncorrectable cache part index reader =>
    show execCacheUncorrectable cache part index reader s = _
    simp [execCacheUncorrectable, hlive]
  | segmentShaping =>
    show execSegmentShaping s = _
    simp [execSegmentShaping, State.policyOn_of_containment hm]
  | quadrantGating q =>
    show execQuadrantGating q s = _
    simp [execQuadrantGating, State.policyOn_of_containment hm]
  | powerGovernor =>
    show execPowerGovernor s = _
    simp [execPowerGovernor, State.policyOn_of_containment hm]
  | ringFetch ring reads =>
    show execRingFetch ring reads s = _
    simp [execRingFetch, State.mayFetch_of_containment hm]
  | ringContextMiss ring answer =>
    show execRingContextMiss ring answer s = _
    simp [execRingContextMiss, hserving]
  | headerReread ring reads =>
    show execHeaderReread ring reads s = _
    simp [execHeaderReread, State.mayFetch_of_containment hm]
  | chainIncomplete ring =>
    show execChainIncomplete ring s = _
    simp [execChainIncomplete, hserving]
    split <;> rfl
  | cqStall ring =>
    show execCqStall ring s = _
    simp [execCqStall, hserving]
  | gatherListRead id src dst =>
    show execGatherListRead id src dst s = _
    simp [execGatherListRead, hserving]
    split <;> rfl
  | keyStaging id reads =>
    show execKeyStaging id reads s = _
    simp [execKeyStaging, hserving]
    repeat' split
    all_goals rfl
  | ledgerReservationAck part index =>
    show execLedgerReservationAck part index s = _
    simp [execLedgerReservationAck, hlive]
    split <;> rfl
  | ledgerWriteRetry part index =>
    show execLedgerWriteRetry part index s = _
    simp [execLedgerWriteRetry, hlive]
    split <;> rfl
  | nop id =>
    show execNop id s = _
    simp [execNop, State.bareOk_of_containment hm]
    split <;> rfl
  | fenceRing id =>
    show execFenceRing id s = _
    simp [execFenceRing, State.bareOk_of_containment hm]
    split <;> rfl
  | fencePartition id =>
    show execFencePartition id s = _
    simp [execFencePartition, State.bareOk_of_containment hm]
    split <;> rfl
  | aeadSeal id =>
    show execAeadSeal id s = _
    simp [execAeadSeal, State.runOp_of_containment hm]
  | aeadOpen id =>
    show execAeadOpen id s = _
    simp [execAeadOpen, State.runOp_of_containment hm]
  | cipherEnc id =>
    show execCipherEnc id s = _
    simp [execCipherEnc, State.runOp_of_containment hm]
  | cipherDec id =>
    show execCipherDec id s = _
    simp [execCipherDec, State.runOp_of_containment hm]
  | gmacGen id =>
    show execGmacGen id s = _
    simp [execGmacGen, State.runOp_of_containment hm]
  | gmacVerify id =>
    show execGmacVerify id s = _
    simp [execGmacVerify, State.runOp_of_containment hm]
  | digest id =>
    show execDigest id s = _
    simp [execDigest, State.runOp_of_containment hm]
  | hmacGen id =>
    show execHmacGen id s = _
    simp [execHmacGen, State.runOp_of_containment hm]
  | hmacVerify id =>
    show execHmacVerify id s = _
    simp [execHmacVerify, State.runOp_of_containment hm]
  | pkJob id =>
    show execPkJob id s = _
    simp [execPkJob, State.runOp_of_containment hm, State.createOf_of_containment hm]
  | random id =>
    show execRandom id s = _
    simp [execRandom, State.runItemOf_of_containment hm]
  | reseed id =>
    show execReseed id s = _
    simp [execReseed, State.runItemOf_of_containment hm]
  | keyGenerate id =>
    show execKeyGenerate id s = _
    simp [execKeyGenerate, State.createOf_of_containment hm]
  | keyImport id =>
    show execKeyImport id s = _
    simp [execKeyImport, State.createOf_of_containment hm]
  | keyDerive id =>
    show execKeyDerive id s = _
    simp [execKeyDerive, State.createOf_of_containment hm]
  | keyRetire id =>
    show execKeyRetire id s = _
    simp [execKeyRetire, hory]
    repeat' split
    all_goals rfl
  | copy id =>
    show execCopy id s = _
    simp [execCopy, State.runOp_of_containment hm]
  | completionRecordWrite ring =>
    show execCompletionRecordWrite ring s = _
    simp [execCompletionRecordWrite, hserving]
    repeat' split
    all_goals rfl
  | recordWriteRetry ring =>
    show execRecordWriteRetry ring s = _
    simp [execRecordWriteRetry, hserving]
  | irqTicksTrigger ring =>
    show execIrqTicksTrigger ring s = _
    simp [execIrqTicksTrigger, hlive]
    split <;> rfl
  | interruptMessage fid =>
    show execInterruptMessage fid s = _
    simp [execInterruptMessage, hlive]
    split <;> rfl
  | ringDrainComplete ring =>
    show execRingDrainComplete ring s = _
    simp [execRingDrainComplete, hlive]
  | ringOpenComplete ring =>
    show execRingOpenComplete ring s = _
    simp [execRingOpenComplete, hlive]
  | streamInputFrame port sop ring data =>
    show execStreamInputFrame port sop ring data s = _
    simp [execStreamInputFrame, State.beat_of_containment hm]
  | streamOutputFrame port =>
    show execStreamOutputFrame port s = _
    simp [execStreamOutputFrame, hlive]
    split <;> rfl
  | streamOutputPause port =>
    show execStreamOutputPause port s = _
    simp [execStreamOutputPause, hlive]
  | streamLongPause port =>
    show execStreamLongPause port s = _
    simp [execStreamLongPause, hlive]
  | readTimeout port index =>
    show execReadTimeout port index s = _
    simp [execReadTimeout, hlive]
    split <;> rfl
  | flrAck fid duration =>
    show execFlrAck fid duration s = _
    simp [execFlrAck, hlive]
    repeat' split
    all_goals rfl
  | fork t entry =>
    show execFork t entry s = _
    simp [execFork, State.issues_of_containment hm]
  | join t u =>
    show execJoin t u s = _
    simp [execJoin, hlive, State.issues_of_containment hm]
  | channelWrite t ch word final =>
    show execChannelWrite t ch word final s = _
    simp [execChannelWrite, State.issues_of_containment hm]
  | channelRead t ch =>
    show execChannelRead t ch s = _
    simp [execChannelRead, State.issues_of_containment hm]
  | portRead t port =>
    show execPortRead t port s = _
    simp [execPortRead, State.issues_of_containment hm, State.threadModes_of_containment hm]
  | timeLimit root =>
    show execTimeLimit root s = _
    simp [execTimeLimit, hlive]
  | corePowerDown c =>
    show execCorePowerDown c s = _
    simp [execCorePowerDown, hlive, hm]
  | coreWake c =>
    show execCoreWake c s = _
    simp [execCoreWake, hlive]
  | sdmaStart n setup list =>
    show execSdmaStart n setup list s = _
    simp [execSdmaStart, State.issues_of_containment hm]
  | sdmaAbort n =>
    show execSdmaAbort n s = _
    simp [execSdmaAbort, State.issues_of_containment hm]
  | sdmaDone n =>
    show execSdmaDone n s = _
    simp [execSdmaDone, hlive]
  | messageTaken t read =>
    show execMessageTaken t read s = _
    simp [execMessageTaken, hory]
  | mailboxReply ch =>
    show execMailboxReply ch s = _
    simp [execMailboxReply, hlive]
  | partitionRecordAck part =>
    show execPartitionRecordAck part s = _
    simp [execPartitionRecordAck, hlive]
    repeat' split
    all_goals rfl
  | partitionRecordRetry part =>
    show execPartitionRecordRetry part s = _
    simp [execPartitionRecordRetry, hlive]
    repeat' split
    all_goals rfl
  | fwVerifyVerdict =>
    show execFwVerifyVerdict s = _
    simp [execFwVerifyVerdict, hory]
    split <;> rfl
  | swapEnter =>
    show execSwapEnter s = _
    simp [execSwapEnter, State.swapMode_of_containment hm]
  | quiesceTimeout t =>
    show execQuiesceTimeout t s = _
    simp [execQuiesceTimeout, hm]
  | flip =>
    show execFlip s = _
    simp [execFlip, hm]
  | initDone =>
    show execInitDone s = _
    simp [execInitDone, hm]
  | initTimeout =>
    show execInitTimeout s = _
    simp [execInitTimeout, hm]
  | swapExit =>
    show execSwapExit s = _
    simp [execSwapExit, hm]
  | windowEnd l =>
    show execWindowEnd l s = _
    simp [execWindowEnd, hticking]
  | healthTestFailure test osc =>
    show execHealthTestFailure test osc s = _
    simp [execHealthTestFailure, hticking]
  | retestStart =>
    show execRetestStart s = _
    simp [execRetestStart, hticking]
  | retestVerdict pass l =>
    show execRetestVerdict pass l s = _
    simp [execRetestVerdict, hticking]
  | drbgItemDone core =>
    show execDrbgItemDone core s = _
    simp [execDrbgItemDone, hticking]
  | entropyWaitExpiry id =>
    show execEntropyWaitExpiry id s = _
    simp [execEntropyWaitExpiry, hserving]
    split <;> rfl
  | streamInputBeat port sop ring data =>
    show execStreamInputBeat port sop ring data s = _
    simp [execStreamInputBeat, State.beat_of_containment hm]
  | streamPauseEnd port =>
    show execStreamPauseEnd port s = _
    simp [execStreamPauseEnd, hlive]
  | knownAnswerTestDone core0 core1 cond =>
    show execKnownAnswerTestDone core0 core1 cond s = _
    simp [execKnownAnswerTestDone, hm]
  | _ => exact absurd ha.symm Bool.false_ne_true

/-! #### What still acts keeps the block contained -/

theorem State.Contained.reqs : s.rng.reqs = [] := by
  have hs := h.secrets
  simp only [State.secretsGone, Bool.and_eq_true, List.isEmpty_iff] at hs
  obtain ⟨⟨⟨⟨-, hr⟩, -⟩, -⟩, -⟩ := hs
  exact hr

theorem State.Contained.msgs : s.io.msgs = [] := by
  have hs := h.silent
  simp only [State.silent, Bool.and_eq_true, List.isEmpty_iff] at hs
  exact hs.2

theorem State.Contained.ephQueue : s.eph.queue = [] := by
  have hs := h.logs
  simp only [State.closedLogs, Bool.and_eq_true, List.isEmpty_iff] at hs
  obtain ⟨⟨⟨-, hq⟩, -⟩, -⟩ := hs
  exact hq

/-- The root's secret is gone, with the words that came over the root key port. -/
theorem State.Contained.onLdr (f : Ldr → Ldr) (hr : (f s.ldr).root = s.ldr.root)
    (hw : s.ldr.rkWords.all (· == 0) = true → (f s.ldr).rkWords.all (· == 0) = true) : (s.onLdr f).Contained := by
  refine ⟨h.1, h.2, h.3, ?_, h.5, h.6⟩
  have hs := h.secrets
  simp only [State.secretsGone, State.onLdr, Bool.and_eq_true, hr] at hs ⊢
  simp only [hs, hw, and_self]

/-- The ports, each changed to one whose accesses have all issued and are to be discarded. -/
theorem State.Contained.mapPorts (f : Port → Port) (hf : ∀ p, portsShut [p] = true → portsShut [f p] = true) :
    (s.onMov fun m => { m with ports := m.ports.map f }).Contained := by
  refine h.onPorts (·.map f) ?_
  have hp := h.ports
  simp only [portsShut, List.all_cons, List.all_nil, Bool.and_true, List.all_map, List.all_eq_true, Function.comp] at hp hf ⊢
  exact fun p hp' => hf p (hp p hp')

theorem State.Contained.onPort (n : Nat) (f : Port → Port) (hf : ∀ p, portsShut [p] = true → portsShut [f p] = true) :
    (s.onPort n f).Contained :=
  h.onPorts (fun l => updAt l n f) (portsShut_updAt f hf _ n h.ports)

omit h in
theorem portsShut_singleton {p : Port} : portsShut [p] = true
    ↔ (∀ r ∈ p.reads, r.issued = true ∧ r.discard = true) ∧ ∀ w ∈ p.writes, w.issued = true ∧ w.given = true := by
  simp [portsShut]

theorem State.Contained.onReads (f : FRead → Option FRead)
    (hf : ∀ r r', f r = some r' → r.issued = true → r.discard = true → r'.issued = true ∧ r'.discard = true) :
    (s.onReads f).Contained := by
  refine h.mapPorts _ fun p hp => ?_
  rw [portsShut_singleton] at hp ⊢
  refine ⟨fun r hr => ?_, hp.2⟩
  obtain ⟨r0, hr0, he⟩ := List.mem_filterMap.1 hr
  exact hf r0 r he (hp.1 r0 hr0).1 (hp.1 r0 hr0).2

theorem State.Contained.onWrites (f : FWrite → Option FWrite)
    (hf : ∀ w w', f w = some w' → w.issued = true → w.given = true → w'.issued = true ∧ w'.given = true) :
    (s.onWrites f).Contained := by
  refine h.mapPorts _ fun p hp => ?_
  rw [portsShut_singleton] at hp ⊢
  refine ⟨hp.1, fun w hw => ?_⟩
  obtain ⟨w0, hw0, he⟩ := List.mem_filterMap.1 hw
  exact hf w0 w he (hp.2 w0 hw0).1 (hp.2 w0 hw0).2

theorem State.Contained.tapLoad (code : BitVec 8) : (s.tapLoad code).Contained := by
  unfold State.tapLoad
  exact h.onIo _ fun _ => rfl

theorem State.Contained.oryCtrl (w : W32) : (s.oryCtrl w).Contained := by
  have ht := h.tapLoad tapCtrl
  unfold State.oryCtrl
  dsimp only
  split
  · exact ht
  · rw [State.live_of_containment (s := (s.tapLoad tapCtrl).onIo _) ht.mode]
    exact ht.onIo (fun i => { i with tapDr := w }) fun _ => rfl

theorem State.Contained.rootKeyWord (word : W32) (last : Bool) (t : State) (ht : execRootKeyWord word last s = .next t) :
    t.Contained := by
  have hu : s.rootUsed = false := by simp [State.rootUsed, h.mode]
  unfold execRootKeyWord at ht
  cases ht
  split
  · exact h
  · rw [show (if s.rootUsed = true then word else 0) = 0 by simp [hu]]
    dsimp only
    split
    · unfold State.rootTaken
      refine h.onLdr _ ?_ ?_
      · simp [hu]
      · exact fun _ => rfl
    · refine h.onLdr _ rfl fun hw => ?_
      cases last with
      | true => rfl
      | false => simpa using hw

/-! Function control -/

theorem State.Contained.fcAck (fid op : Nat) : (s.fcAck fid op).Contained := h.onIo _ (by intro _; rfl)

omit h in
theorem State.Contained.fcTake (h : s.Contained) (fid : Nat) (go : State → State) (hgo : ∀ t : State, t.Contained → (go t).Contained) :
    (s.fcTake fid go).Contained := by
  unfold State.fcTake
  split
  · exact h
  · exact hgo _ (h.onIo _ (by intro _; rfl))

theorem State.Contained.silence1 (fid : Nat) (keep : Bool) : (s.silence1 fid keep).Contained := by
  refine (h.onReads _ fun r r' he hi hd => ?_).onWrites _ fun w w' he hi hg => ?_
  · split at he
    · cases he; exact ⟨hi, hd⟩
    · simp only [hi] at he
      cases he; exact ⟨rfl, rfl⟩
  · split at he
    · cases he
    · cases he; exact ⟨hi, hg⟩

theorem State.Contained.silenceVault : s.silenceVault.Contained := by
  refine h.mapPorts _ fun p hp => ?_
  rw [portsShut_singleton] at hp ⊢
  refine ⟨fun r hr => ?_, hp.2⟩
  obtain ⟨r0, hr0, he⟩ := List.mem_flatMap.1 hr
  have hd := hp.1 r0 hr0
  rw [if_neg (by simp [hd.2])] at he
  cases List.mem_singleton.1 he
  exact hd

theorem State.Contained.bmeSetNow (fid : Nat) : (s.bmeSetNow fid).Contained := (h.onPrt _).fcAck _ _

theorem State.Contained.bmeClearNow (fid : Nat) : (s.bmeClearNow fid).Contained := by
  unfold State.bmeClearNow
  dsimp only
  generalize hu : (if fid == State.vaultFid _ then State.silenceVault _ else State.silence1 _ fid true) = u
  have hc : u.Contained := by
    subst hu
    split
    · exact ((h.onPrt _).onPrt _).silenceVault
    · exact ((h.onPrt _).onPrt _).silence1 _ _
  split
  · exact hc.fcAck _ _
  · next p _ =>
    have hk : u.killJobs p = u := by simp [State.killJobs, hc.reqs]
    rw [hk]
    split
    · exact (hc.onPrt _).onIo _ (by intro _; rfl)
    · split
      · exact hc.fcAck _ _
      · exact hc.onIo _ (by intro _; rfl)

omit h in
theorem State.Contained.fcNext (h : s.Contained) (fid n : Nat) : (s.fcNext fid n).Contained := by
  induction n generalizing s with
  | zero => exact h
  | succ n ih =>
    unfold State.fcNext
    split
    · exact h
    · exact h
    · exact ih ((h.onIo _ (by intro _; rfl)).bmeSetNow fid)
    · have hc := (h.onIo (fun i => { i with fc := fcDrop fid .bmeClear i.fc }) fun _ => rfl).bmeClearNow fid
      dsimp only
      split
      · exact ih hc
      · exact hc

theorem State.Contained.flrStart (fid : Nat) (t : State) (ht : execFlrStart fid s = .next t) : t.Contained := by
  unfold execFlrStart at ht
  cases ht
  refine h.fcTake fid _ fun t ht => ?_
  have hc : (t.onIo fun i => { i with msgs := i.msgs.filter fun m => m.fid != fid }).Contained := by
    refine ⟨ht.1, ht.2, ht.3, ht.4, ?_, ht.6⟩
    have hs := ht.silent
    simp only [State.silent, State.onIo, Bool.and_eq_true, ht.msgs] at hs ⊢
    simpa using hs
  dsimp only
  split
  · exact hc.fcAck _ _
  · rw [if_pos (by rw [hc.mode]; rfl)]
    exact hc.fcAck _ _

theorem State.Contained.flrWriteLate (fid : Nat) (t : State) (ht : execFlrWriteLate fid s = .next t) : t.Contained := by
  unfold execFlrWriteLate at ht
  cases ht
  split
  · exact h
  · rw [State.Contained.log]
    all_goals
      refine h.mapPorts _ fun p hp => ?_
      rw [portsShut_singleton] at hp ⊢
      refine ⟨hp.1, fun w hw => ?_⟩
      obtain ⟨w0, hw0, rfl⟩ := List.mem_map.1 hw
      split
      · exact ⟨(hp.2 w0 hw0).1, rfl⟩
      · exact hp.2 w0 hw0

/-! The fabric -/

omit h in
/-- A port with fewer accesses is shut where it was. -/
theorem portsShut_of_subset {p q : Port} (hr : ∀ r ∈ q.reads, r ∈ p.reads) (hw : ∀ w ∈ q.writes, w ∈ p.writes)
    (hp : portsShut [p] = true) : portsShut [q] = true := by
  rw [portsShut_singleton] at hp ⊢
  exact ⟨fun r h => hp.1 r (hr r h), fun w h => hp.2 w (hw w h)⟩

theorem State.Contained.late (n k g : Nat) : s.late n k g = s := by
  simp [State.late, State.live_of_containment h.mode]

theorem State.Contained.readCompletion (n k g : Nat) (bs : List ReadBeat) (t : State)
    (ht : execReadCompletion n k g bs s = .next t) : t.Contained := by
  unfold execReadCompletion at ht
  cases ht
  split
  · exact h
  · have hc := h.onPort n (fun p => { p with beats := p.beats + bs.length }) fun p hp => hp
    dsimp only
    split
    · rw [hc.late]; exact hc
    · have ht : (State.takeRead (s.onPort n fun p => { p with beats := p.beats + bs.length }) n k).Contained :=
        hc.onPort n _ fun p hp => portsShut_of_subset (fun r hr => List.mem_of_mem_filter hr) (fun w hw => hw) hp
      rw [if_pos (by simp [State.live_of_containment ht.mode])]
      exact ht.pump

theorem State.Contained.writeResponse (n k g : Nat) (okay : Bool) (t : State)
    (ht : execWriteResponse n k g okay s = .next t) : t.Contained := by
  unfold execWriteResponse at ht
  cases ht
  split
  · exact h
  · split
    · rw [h.late]; exact h
    · have ht := h.onPort n (fun p => { p with writes := p.writes.filter fun v => !(v.issued && v.idx == k) })
        fun p hp => portsShut_of_subset (p := p) (fun r hr => hr) (fun w hw => List.mem_of_mem_filter hw) hp
      have hl := State.live_of_containment ht.mode
      dsimp only
      rw [if_pos (by rw [hl, Bool.not_false, Bool.or_true])]
      exact ht.pump

/-! The register port -/

theorem State.Contained.respond (v : W32) : (s.respond v).Contained := h.onBlk _ (fun _ => rfl) (fun _ => rfl) fun _ => rfl

theorem State.Contained.wrote : s.wrote.Contained := by
  unfold State.wrote
  split
  · exact h
  · exact h.respond 0

theorem State.Contained.doorbell (who : Accessor) (r addr value : Nat) (go : State → State) :
    s.doorbell who r addr value go = s := by simp [State.doorbell, h.portActs]

theorem State.Contained.regAct (who : Accessor) (a : Nat) (go : State → State) : s.regAct who a go = s := by
  simp [State.regAct, h.portActs]

theorem State.Contained.testCtl (who : Accessor) (go : State → State) : s.testCtl who go = s := by
  simp [State.testCtl, h.portActs]

/-- In CONTAINMENT the mailbox takes nothing but writes to channel 0, up to its control word (R320, R366). -/
theorem State.Contained.mailWrite (who : Accessor) (c off : Nat) (go : State → State)
    (hgo : c = 0 → off ≤ 0x80 → (go s).Contained) : (s.mailWrite who c off go).Contained := by
  unfold State.mailWrite
  dsimp only
  split
  · exact h
  · next ho =>
    split
    · rw [if_pos (by simp [h.mode])]; exact h
    · simp only [Bool.or_eq_true, not_or, Bool.not_eq_true', Bool.not_eq_false] at ho
      obtain ⟨ho, -⟩ := ho
      have ho : c = 0 ∧ off ≤ 128 := by
        simp only [State.mailOpen, h.mode, Bool.and_eq_true] at ho
        simpa using ho.2
      exact hgo ho.1 ho.2

theorem State.Contained.ctrlWrite (v : W32) : (s.ctrlWrite 0 v).Contained := by
  unfold State.ctrlWrite
  dsimp only
  split
  · exact h
  · next hs =>
    have hc := h.onChan 0 fun m => { m with notify := v.getLsbD 29 }
    apply State.Contained.wakeLevel
    split
    · next hv =>
      refine hc.goChan false ?_
      rw [State.chan_onChan_self]
      simpa [h.mode, hv] using hs
    · split
      · exact hc.ackChan 0
      · exact hc

theorem State.Contained.dbDown (who : Accessor) (c : Nat) (act : State → State) : (s.dbDown who c act).Contained :=
  h.mailWrite who c 0x84 _ fun _ ho => absurd ho (by decide)

theorem State.Contained.mbDbMaskClear (who : Accessor) (c : Nat) (v : W32) (t : State)
    (ht : execMbDbMaskClear who c v s = .next t) : t.Contained := by
  unfold execMbDbMaskClear at ht
  cases ht
  exact State.Contained.wrote (h.mailWrite who c 0x8C _ fun _ ho => absurd ho (by decide))

theorem State.Contained.chanWrite (who : Accessor) (c off : Nat) (v : W32) : (s.chanWrite who c off v).Contained := by
  unfold State.chanWrite
  split
  · exact h.mailWrite who c off _ fun _ _ => h.onChan _ _
  · split
    · exact h.mailWrite who c off _ fun hc _ => hc ▸ h.ctrlWrite v
    · split
      · exact h.dbDown who c _
      · split
        · exact h.mailWrite who c off _ fun _ _ => h.onChan _ _
        · split
          · exact h.mbDbMaskClear who c v _ rfl
          · split
            · exact h
            · exact h.mailWrite who c off _ fun _ _ => h

theorem State.Contained.abortWrite (who : Accessor) (r : Nat) (v : W32) : execAbortWrite who r v s = .next s.wrote := by
  simp [execAbortWrite, h.portActs]

theorem State.Contained.registerWrite (who : Accessor) (addr : Nat) (v : W32) (t : State)
    (ht : execRegisterWrite who addr v s = .next t) : t.Contained := by
  unfold execRegisterWrite at ht
  cases ht
  apply State.Contained.wrote
  split
  · simp only [execProducerWrite, execConsumerWrite, h.abortWrite, h.doorbell, h.regAct, nextOf]
    (repeat' split) <;> first | exact h | exact h.wrote
  · exact h.chanWrite _ _ _ _
  · rw [h.regAct]; exact h

theorem State.Contained.readClears (who : Accessor) (addr : Nat) (t : State) (ht : execReadClears who addr s = .next t) :
    t.Contained := by
  unfold execReadClears at ht
  cases ht
  split
  · exact h
  · rw [h.portActs]
    exact h.respond _

theorem State.Contained.readRefused (who : Accessor) (addr : Nat) (t : State) (ht : execReadRefused who addr s = .next t) :
    t.Contained := by
  unfold execReadRefused at ht
  cases ht
  split
  · exact h
  · rw [h.portActs]
    exact h.respond _

end Contained

/-- Settles O6: a command that does not act in CONTAINMENT leaves a silent block as it is; each that acts keeps it contained. -/
theorem containedUntilReset : Obligations.ContainedUntilReset := by
  unfold Obligations.ContainedUntilReset
  intro c s t hne h ht
  cases ha : actsInContainment c with
  | false =>
    rw [h.exec_quiet c ha] at ht
    cases ht
    exact h
  | true =>
    cases c with
    | rstCoreAssert => exact absurd rfl hne
    | rstRpAssert => cases ht; exact h.onBlk _ (fun _ => rfl) (fun _ => rfl) fun _ => rfl
    | rstRpRelease => cases ht; exact h.onBlk _ (fun _ => rfl) (fun _ => rfl) fun _ => rfl
    | rootKeyWord word last => exact h.rootKeyWord word last t ht
    | tbLost =>
      cases ht
      split
      · exact h
      · rw [State.Contained.log] <;> exact h.onBlk _ (fun _ => rfl) (fun _ => rfl) fun _ => rfl
    | tbRestored back =>
      cases ht
      split
      · exact h
      · dsimp only
        rw [State.Contained.log] <;> exact h.onBlk _ (fun _ => rfl) (fun _ => rfl) fun _ => rfl
    | powerAck ory n level =>
      cases ht
      split
      · exact h
      · exact h.onIo _ fun i => by split <;> rfl
    | tapReset => cases ht; exact h.onIo _ (by intro _; rfl)
    | idcode => cases ht; exact h.tapLoad _
    | bypass => cases ht; exact h.tapLoad _
    | oryState => cases ht; exact h.tapLoad _
    | threadStop k => cases ht; split <;> first | exact h.oryCtrl _ | exact h
    | threadResume k => cases ht; split <;> first | exact h.oryCtrl _ | exact h
    | holdSet => cases ht; exact h.oryCtrl _
    | holdClear => cases ht; exact h.oryCtrl _
    | recordCommit =>
      cases ht
      have hq : s.commitOne = s := by simp [State.commitOne, ephNext, h.ephQueue]
      rw [hq]
      exact h
    | bmeSet fid =>
      cases ht
      refine h.fcTake fid _ fun t ht => ?_
      rw [if_pos (by simp [ht.mode])]
      exact ht.fcAck _ _
    | bmeClear fid =>
      cases ht
      refine h.fcTake fid _ fun t ht => ?_
      rw [if_pos (by simp [ht.mode])]
      exact ht.fcAck _ _
    | bmeClearAck fid =>
      cases ht
      split
      · exact h
      · exact (h.onIo _ (by intro _; rfl)).fcNext _ _
    | flrStart fid => exact h.flrStart fid t ht
    | flrWriteLate fid => exact h.flrWriteLate fid t ht
    | fcReservedOp fid => cases ht; exact h.fcTake fid _ fun t ht => ht.fcAck _ _
    | readCompletion n k g bs => exact h.readCompletion n k g bs t ht
    | tagQuarantineEnd n k =>
      cases ht
      split
      · exact h
      · exact (h.onPort n _ (by exact fun p hp => hp)).pump
    | writeResponse n k g okay => exact h.writeResponse n k g okay t ht
    | producerWrite who r v => cases ht; rw [h.doorbell]; exact h.wrote
    | consumerWrite who r v => cases ht; rw [h.doorbell]; exact h.wrote
    | abortWrite who r v => cases (h.abortWrite who r v).symm.trans ht; exact h.wrote
    | irqPendClear who w v => cases ht; rw [h.regAct, ite_self]; exact h.wrote
    | irqTest who v => cases ht; rw [h.regAct]; exact h.wrote
    | freezeNow who => cases ht; rw [h.regAct]; exact h.wrote
    | frozenClear who => cases ht; rw [h.regAct]; exact h.wrote
    | testPatternEnable who => cases ht; rw [h.testCtl]; exact h.wrote
    | testPatternDisable who => cases ht; rw [h.testCtl]; exact h.wrote
    | registerWrite who addr v => exact h.registerWrite who addr v t ht
    | readClears who addr => exact h.readClears who addr t ht
    | readRefused who addr => exact h.readRefused who addr t ht
    | go who c v =>
      cases ht
      exact (h.mailWrite who c 0x80 _ fun hc _ => by subst hc; split <;> first | exact h.ctrlWrite v | exact h).wrote
    | ack who c v =>
      cases ht
      exact (h.mailWrite who c 0x80 _ fun hc _ => by subst hc; split <;> first | exact h.ctrlWrite v | exact h).wrote
    | compatDoorbellMsg who c => cases ht; exact (h.dbDown who c _).wrote
    | compatDoorbellAck who c => cases ht; exact (h.dbDown who c _).wrote
    | mbDbMaskClear who c v => exact h.mbDbMaskClear who c v t ht
    | _ => exact absurd ha Bool.false_ne_true

end Sys2Proof.Machine

/-! ### PROOFS. Entry to CONTAINMENT and the tick's boundaries (R99, R100, R314, R361, R363, R365, R366, R401) -/

namespace Sys2Proof.Machine

/-- What every step of a fold leaves, the fold leaves. -/
theorem foldl_keeps {α β γ : Type} (g : β → γ) {f : β → α → β} (h : ∀ b a, g (f b a) = g b) (l : List α) (b : β) :
    g (l.foldl f b) = g b := by
  induction l generalizing b with
  | nil => rfl
  | cons a l ih => rw [List.foldl_cons, ih, h]

/-- What every step of a fold keeps true, the fold keeps true. -/
theorem foldl_invariant {α β : Type} {P : β → Prop} {f : β → α → β} (h : ∀ b a, P b → P (f b a)) (l : List α) {b : β} (hb : P b) :
    P (l.foldl f b) := by
  induction l generalizing b with
  | nil => exact hb
  | cons a l ih => exact ih (h b a hb)

/-! #### The tick that ends leaves the cause of CONTAINMENT -/

section EndTick

variable (s : State)

@[simp] theorem State.onUnit_blk (u : UnitId) (f : UnitSt → UnitSt) : (s.onUnit u f).blk = s.blk := by cases u <;> rfl
@[simp] theorem State.onUnit_eph (u : UnitId) (f : UnitSt → UnitSt) : (s.onUnit u f).eph = s.eph := by cases u <;> rfl
@[simp] theorem State.onPart_blk (p : Nat) (f : Part → Part) : (s.onPart p f).blk = s.blk := rfl
@[simp] theorem State.onPart_eph (p : Nat) (f : Part → Part) : (s.onPart p f).eph = s.eph := rfl

@[simp] theorem State.lendTick_blk : (s.lendTick).blk = s.blk := rfl
@[simp] theorem State.lendTick_eph : (s.lendTick).eph = s.eph := rfl
@[simp] theorem State.powerTick_blk (ev : TickEvents) : (s.powerTick ev).blk = s.blk := rfl
@[simp] theorem State.powerTick_eph (ev : TickEvents) : (s.powerTick ev).eph = s.eph := rfl
@[simp] theorem State.beatsTick_blk : (s.beatsTick).blk = s.blk := rfl
@[simp] theorem State.beatsTick_eph : (s.beatsTick).eph = s.eph := rfl
@[simp] theorem State.unitTick_blk : (s.unitTick).blk = s.blk := rfl
@[simp] theorem State.unitTick_eph : (s.unitTick).eph = s.eph := rfl
@[simp] theorem State.ringTick_blk : (s.ringTick).blk = s.blk := rfl
@[simp] theorem State.ringTick_eph : (s.ringTick).eph = s.eph := rfl
@[simp] theorem State.publish_blk : (s.publish).blk = s.blk := rfl
@[simp] theorem State.publish_eph : (s.publish).eph = s.eph := rfl

@[simp] theorem State.eccTick_blk (l : List (UnitId × Nat)) : (s.eccTick l).blk = s.blk :=
  foldl_keeps _ (fun t x => by split <;> simp) _ _

@[simp] theorem State.eccTick_eph (l : List (UnitId × Nat)) : (s.eccTick l).eph = s.eph :=
  foldl_keeps _ (fun t x => by split <;> simp) _ _

@[simp] theorem State.recordsLate_blk : s.recordsLate.blk = s.blk := foldl_keeps State.blk (fun t x => by simp) _ _

@[simp] theorem State.chargeTicks_blk : s.chargeTicks.blk = s.blk := by
  unfold State.chargeTicks
  dsimp only
  rw [foldl_keeps State.blk, foldl_keeps State.blk]
  · exact fun _ _ => rfl
  · intro t x
    split
    · split <;> rfl
    · rfl

@[simp] theorem State.chargeTicks_eph : s.chargeTicks.eph = s.eph := by
  unfold State.chargeTicks
  dsimp only
  rw [foldl_keeps State.eph, foldl_keeps State.eph]
  · exact fun _ _ => rfl
  · intro t x
    split
    · split <;> rfl
    · rfl

@[simp] theorem State.coreTicks_blk : s.coreTicks.blk = s.blk := foldl_keeps State.blk (by exact fun _ _ => rfl) _ _

@[simp] theorem State.coreTicks_eph : s.coreTicks.eph = s.eph := foldl_keeps State.eph (by exact fun _ _ => rfl) _ _

/-- The account of a tick, after its faults and its work. -/
def State.accounted (s : State) (ev : TickEvents) : State :=
  ((((s.lendTick.powerTick ev).beatsTick.eccTick ev.corrected).onKey fun k =>
    { k with corrected := k.corrected + ev.keyFixed }).recordsLate.unitTick.ringTick.chargeTicks.coreTicks.publish)

/-- Before CONTAINMENT what is left of a tick is only accounted for. -/
theorem State.endTick_of_cause {s : State} (h : s.blk.cause.isSome = true) (ev : TickEvents) : s.endTick ev = s.accounted ev := by
  simp only [State.endTick, h, if_true, State.accounted]

theorem State.accounted_blk (ev : TickEvents) : (s.accounted ev).blk = s.blk := by
  simp only [State.accounted, State.publish_blk, State.coreTicks_blk, State.chargeTicks_blk, State.ringTick_blk,
    State.unitTick_blk, State.recordsLate_blk, State.onKey_blk, State.eccTick_blk, State.beatsTick_blk, State.powerTick_blk,
    State.lendTick_blk]

/-- The commit queue takes records, and holds none back while it is empty (R415). -/
def State.ephOpen (s : State) : Prop := s.eph.frozen = false ∧ (s.eph.queue = [] → s.eph.heldRecs = [])

variable {s}

theorem State.ephOpen_of_eph {t : State} (he : t.eph = s.eph) (h : s.ephOpen) : t.ephOpen := by
  rwa [State.ephOpen, he]

theorem State.ephOpen.push (h : s.ephOpen) (q : EphQ) : (s.ephPush q).ephOpen := by
  unfold State.ephPush
  dsimp only
  split
  · exact h
  · obtain ⟨hf, hq⟩ := h
    refine ⟨?_, ?_⟩ <;> simp only [State.onEph_eph] <;> split
    · exact hf
    · exact hf
    · next hfull =>
      intro he
      have he : s.eph.queue = [] := he
      simp [ephQueueMax, he, hq he] at hfull
    · simp


theorem State.ephOpen.log (h : s.ephOpen) (code source part : Nat) (d : Bytes) : (s.log code source part d).ephOpen := h.push _

theorem State.ephOpen.logReq (h : s.ephOpen) (code source part ring idx link word : Nat) :
    (s.logReq code source part ring idx link word).ephOpen := h.push _

theorem State.ephOpen.accounted (h : s.ephOpen) (ev : TickEvents) : (s.accounted ev).ephOpen := by
  have hl {t : State} (ht : t.ephOpen) : t.recordsLate.ephOpen := by
    unfold State.recordsLate
    refine foldl_invariant (P := State.ephOpen) (fun t x ht => ?_) _ ht
    exact State.ephOpen.logReq (State.ephOpen_of_eph (by rfl) ht) _ _ _ _ _ _ _
  have h1 : ((((s.lendTick.powerTick ev).beatsTick.eccTick ev.corrected).onKey fun k =>
      { k with corrected := k.corrected + ev.keyFixed })).ephOpen := State.ephOpen_of_eph (by simp) h
  refine State.ephOpen_of_eph ?_ (hl h1)
  simp only [State.accounted, State.publish_eph, State.coreTicks_eph, State.chargeTicks_eph, State.ringTick_eph, State.unitTick_eph]

/-! #### The commit queue is emptied -/

theorem minBy_eq_none {α : Type} {f : α → Nat} {l : List α} (h : minBy f l = none) : l = [] := by
  cases l with
  | nil => rfl
  | cons a l =>
    simp only [minBy] at h
    split at h
    · cases h
    · split at h <;> cases h

/-- A queue that is not empty has a next record. -/
theorem exists_ephNext {q : List EphQ} (h : q ≠ []) : ∃ r, ephNext q = some r := by
  cases q with
  | nil => exact absurd rfl h
  | cons y q =>
    simp only [ephNext]
    split
    · exact ⟨y, rfl⟩
    · refine Option.ne_none_iff_exists'.1 fun hn => ?_
      have := minBy_eq_none hn
      simp [ephReady] at this

theorem State.commitOne_of_some {r : EphQ} (h : ephNext s.eph.queue = some r) :
    s.commitOne.eph.queue = s.eph.queue.erase r ++ s.eph.heldRecs.take 1
    ∧ s.commitOne.eph.heldRecs = s.eph.heldRecs.drop 1 ∧ s.commitOne.eph.frozen = s.eph.frozen := by
  simp only [State.commitOne, h]
  exact ⟨rfl, rfl, rfl⟩

theorem State.commitOne_blk : s.commitOne.blk = s.blk := by
  unfold State.commitOne
  split <;> rfl

theorem State.ephOpen.commitOne (h : s.ephOpen) : s.commitOne.ephOpen := by
  by_cases hq : s.eph.queue = []
  · rw [show s.commitOne = s by simp [State.commitOne, hq, ephNext]]
    exact h
  · obtain ⟨r, hr⟩ := exists_ephNext hq
    obtain ⟨h1, h2, h3⟩ := State.commitOne_of_some hr
    refine ⟨h3.trans h.1, fun he => ?_⟩
    rw [h1, List.append_eq_nil_iff] at he
    rw [h2]
    cases hh : s.eph.heldRecs with
    | nil => rfl
    | cons a l => simp [hh] at he

/-- As many commits as records wait leave none. -/
theorem State.iterate_commitOne (n : Nat) (h : s.ephOpen) (hn : s.eph.queue.length + s.eph.heldRecs.length = n) :
    (State.commitOne^[n] s).eph.queue = [] ∧ (State.commitOne^[n] s).eph.heldRecs = [] ∧ (State.commitOne^[n] s).ephOpen
      ∧ (State.commitOne^[n] s).blk = s.blk := by
  induction n generalizing s with
  | zero =>
    rw [Nat.add_eq_zero_iff, List.length_eq_zero_iff, List.length_eq_zero_iff] at hn
    exact ⟨hn.1, hn.2, h, rfl⟩
  | succ n ih =>
    have hq : s.eph.queue ≠ [] := fun hq => by simp [hq, h.2 hq] at hn
    obtain ⟨r, hr⟩ := exists_ephNext hq
    obtain ⟨h1, h2, -⟩ := State.commitOne_of_some hr
    have hl := length_commit (held := s.eph.heldRecs) (mem_of_ephNext hr)
    rw [← h1, ← h2] at hl
    obtain ⟨k1, k2, k3, k4⟩ := ih h.commitOne (by omega)
    exact ⟨k1, k2, k3, k4.trans State.commitOne_blk⟩

theorem State.commitAll_eq : s.commitAll = State.commitOne^[s.eph.queue.length + s.eph.heldRecs.length] s := by
  simp [State.commitAll, List.foldl_const]

theorem State.commitAll_spec (h : s.ephOpen) : s.commitAll.eph.queue = [] ∧ s.commitAll.eph.heldRecs = [] ∧ s.commitAll.ephOpen
    ∧ s.commitAll.blk = s.blk := by
  rw [State.commitAll_eq]
  exact State.iterate_commitOne _ h rfl

theorem State.commitAll_blk : s.commitAll.blk = s.blk := foldl_keeps State.blk (fun _ _ => State.commitOne_blk) _ _

/-- With none waiting, a record written is the next one committed. -/
theorem State.commitAll_log (h : s.ephOpen) (hq : s.eph.queue = []) (hm : s.blk.mode = .containment) (code source part : Nat)
    (d : Bytes) : ∃ x l, (s.log code source part d).commitAll.eph.recs = x :: l ∧ x.body.code = code
      ∧ x.body.detail = (d ++ zeros 12).take 12 := by
  have hh := h.2 hq
  let r : EphQ := { source := source, part := part, code := code, sev := ephSev code, flags := s.ephFlags part false,
                    detail := (d ++ zeros 12).take 12, tick := s.sch.tick }
  have hr : (s.log code source part d).eph = { s.eph with queue := [r], peak := max s.eph.peak 1 } := by
    simp [State.log, State.logSev, State.ephPush, hm, h.1, hq, hh, ephQueueMax, r]
  have hn : ephNext [r] = some r := by simp [ephNext, ephReady, minBy, r]
  refine ⟨{ time := s.blk.time, seq := s.eph.nextSeq, body := r }, s.eph.recs.take 8191, ?_, rfl, rfl⟩
  rw [State.commitAll_eq, hr, hh]
  show (State.commitOne (s.log code source part d)).eph.recs = _
  simp only [State.commitOne, hr, hn, State.log_blk, State.onGlog_eph, State.onEph_eph, ephDepth, List.take_succ_cons]

end EndTick

/-! #### Entry -/

section MessageEnd

variable (s : State)

@[simp] theorem State.onChan_eph (c : Nat) (f : Mbx → Mbx) : (s.onChan c f).eph = s.eph := rfl

theorem State.mbxIrq_eph (c : Nat) : (s.mbxIrq c).eph = s.eph := by
  unfold State.mbxIrq State.irqMsg
  split
  · rfl
  · split
    · rfl
    · split
      · rfl
      · split <;> rfl

theorem State.dbSet_eph (c b : Nat) : (s.dbSet c b).eph = s.eph := by
  unfold State.dbSet
  dsimp only
  split
  · rw [State.mbxIrq_eph, State.onChan_eph]
  · rfl

theorem State.notifyOut_eph (c b : Nat) : (s.notifyOut c b).eph = s.eph := by
  unfold State.notifyOut State.wakeLevel
  dsimp only
  rw [State.onBlk_eph]
  split
  · exact State.dbSet_eph _ _ _
  · split
    · exact State.mbxIrq_eph _ _
    · rfl

theorem State.freeGroup_eph (root : Nat) : (s.freeGroup root).eph = s.eph := by
  unfold State.freeGroup State.endThreads
  exact foldl_keeps State.eph (by exact fun _ _ => rfl) _ _

theorem State.detach_eph (c : Nat) : (s.detach c).eph = s.eph := by
  unfold State.detach
  dsimp only
  split <;> rfl

theorem State.dropExercise_eph (c : Nat) : (s.dropExercise c).eph = s.eph := by
  unfold State.dropExercise
  rw [State.onEnt_eph]
  exact foldl_keeps State.eph (fun t u => State.onUnit_eph t u _) _ _

variable {s}

theorem State.ephOpen.mbxLog (h : s.ephOpen) (code c a b : Nat) : (s.mbxLog code c a b).ephOpen := h.log _ _ _ _

theorem State.ephOpen.abortMsg (h : s.ephOpen) (c cause : Nat) : (s.abortMsg c cause).ephOpen := by
  unfold State.abortMsg
  dsimp only
  refine foldl_invariant (P := State.ephOpen) (fun t k ht => State.ephOpen_of_eph (State.freeGroup_eph t k) ht) _ ?_
  refine State.ephOpen_of_eph (State.notifyOut_eph _ _ _) (State.ephOpen.mbxLog ?_ _ _ _ _)
  refine State.ephOpen_of_eph ?_ h
  rw [State.dropExercise_eph, State.onMbx_eph, State.onChan_eph, State.detach_eph]

theorem State.modeChanged_eph (s : State) : s.modeChanged.eph = s.eph :=
  foldl_keeps State.eph (fun t _ => State.dbSet_eph t _ _) _ _

theorem State.ephOpen.setMode (h : s.ephOpen) (m : Mode) : (s.setMode m).ephOpen := by
  unfold State.setMode
  dsimp only
  split
  · exact h
  · refine State.ephOpen_of_eph (State.modeChanged_eph _) ?_
    exact State.ephOpen.push (s := s.onBlk fun b => { b with mode := m }) (State.ephOpen_of_eph (State.onBlk_eph _ _) h) _

theorem State.irqMsg_blk (s : State) (f v : Nat) : (s.irqMsg f v).blk = s.blk := by
  unfold State.irqMsg
  split <;> rfl

theorem State.mbxIrq_blk (s : State) (c : Nat) : (s.mbxIrq c).blk = s.blk := by
  unfold State.mbxIrq
  split
  · rfl
  · split
    · rfl
    · split
      · rfl
      · exact State.irqMsg_blk _ _ _

theorem State.dbSet_blk (s : State) (c b : Nat) : (s.dbSet c b).blk = s.blk := by
  unfold State.dbSet
  dsimp only
  split
  · rw [State.mbxIrq_blk]; rfl
  · rfl

theorem State.setMode_blk (s : State) (m : Mode) : (s.setMode m).blk = { s.blk with mode := m } := by
  unfold State.setMode
  dsimp only
  split
  · next h => subst h; rfl
  · rw [State.modeChanged, foldl_keeps State.blk (fun t _ => State.dbSet_blk t _ _), State.logSev, State.ephPush_eq]
    rfl

end MessageEnd

section Entry

variable (s : State) (r : Reason) (code : Nat)

/-- The block on its way to CONTAINMENT, when its messages and its pending operations have ended. -/
def State.messagesEnded (s : State) : State :=
  ((s.reducedAlarm.mbx.chans.foldl
    (fun s c => if c.2.st == .pending || c.2.st == .busy then s.abortMsg c.1 2 else s) s.reducedAlarm).onMbx
      fun m => { m with work := [] }).onIo fun i => { i with acks := i.fc.map (fun x => (x.1, x.2.code)), fc := [] }

/-- The block when its last record is committed. -/
def State.recordsEnded (s : State) (r : Reason) (code : Nat) : State :=
  ((s.messagesEnded.setMode .containment).commitAll.log 0x0106 uidMode noPart (natLE r.code 1 ++ natLE code 2)).commitAll

theorem State.contain_eq : s.contain r code = ((((s.recordsEnded r code).onEph fun e => { e with frozen := true }).onGlog
    fun g => { g with frozen := true, counting := none }).onBlk
      fun b => { b with reason := r, cause := none, alFatal := true, wiped := true }).silence.zeroize := rfl

theorem State.recordsEnded_mode : (s.recordsEnded r code).blk.mode = .containment := by
  rw [State.recordsEnded, State.commitAll_blk, State.log_blk, State.commitAll_blk, State.setMode_blk]

theorem State.zeroize_blk : s.zeroize.blk = s.blk := by
  unfold State.zeroize
  rfl

theorem State.zeroize_eph : s.zeroize.eph = s.eph := by
  unfold State.zeroize
  rfl

theorem State.zeroize_glog : s.zeroize.glog = s.glog := by
  unfold State.zeroize
  rfl

theorem State.silence_blk : s.silence.blk = s.blk := by
  unfold State.silence
  rfl

theorem State.silence_eph : s.silence.eph = s.eph := by
  unfold State.silence
  rfl

theorem State.silence_glog : s.silence.glog = s.glog := by
  unfold State.silence
  rfl

theorem State.contain_blk : (s.contain r code).blk
    = { (s.recordsEnded r code).blk with reason := r, cause := none, alFatal := true, wiped := true } := by
  simp only [State.contain_eq, State.zeroize_blk, State.silence_blk, State.onBlk_blk, State.onGlog_blk, State.onEph_blk]

theorem State.contain_eph : (s.contain r code).eph = { (s.recordsEnded r code).eph with frozen := true } := by
  simp only [State.contain_eq, State.zeroize_eph, State.silence_eph, State.onBlk_eph, State.onGlog_eph, State.onEph_eph]

theorem State.contain_glog : (s.contain r code).glog.frozen = true := by
  simp only [State.contain_eq, State.zeroize_glog, State.silence_glog, State.onBlk_glog, State.onGlog_glog]

/-- Zeroizing leaves none of the secrets (R366 step 3). -/
theorem State.zeroize_secretsGone : s.zeroize.secretsGone = true := by
  simp [State.secretsGone, State.zeroize]

/-- What is silenced, zeroized or not, has nothing to issue (R366 step 1). -/
theorem State.silence_zeroize_silent : s.silence.zeroize.silent = true := by
  simp [State.silent, State.zeroize, State.silence, State.onReads, State.onWrites]
  intro p _
  refine ⟨fun r _ => ?_, fun w _ => ?_⟩
  · by_cases h : r.issued <;> simp [h]
  · by_cases h : w.issued <;> simp [h]

theorem State.ephOpen.messagesEnded {s : State} (h : s.ephOpen) : s.messagesEnded.ephOpen := by
  have hf : (s.reducedAlarm.mbx.chans.foldl
      (fun s c => if c.2.st == .pending || c.2.st == .busy then s.abortMsg c.1 2 else s) s.reducedAlarm).ephOpen := by
    refine foldl_invariant (fun t c ht => ?_) _ h
    split
    · exact ht.abortMsg _ _
    · exact ht
  exact hf

/-- The last record of a block that enters CONTAINMENT gives the reason and the code (R366 step 2). -/
theorem State.ephOpen.contain {s : State} (h : s.ephOpen) : ∃ x l, (s.contain r code).eph.recs = x :: l
    ∧ x.body.code = 0x0106 ∧ x.body.detail.take 3 = natLE r.code 1 ++ natLE code 2 := by
  obtain ⟨hq, -, ho, hb⟩ := State.commitAll_spec (h.messagesEnded.setMode .containment)
  have hm : (s.messagesEnded.setMode .containment).commitAll.blk.mode = .containment := by rw [hb, State.setMode_blk]
  obtain ⟨x, l, hx, hc, hd⟩ := State.commitAll_log ho hq hm 0x0106 uidMode noPart (natLE r.code 1 ++ natLE code 2)
  refine ⟨x, l, ?_, hc, ?_⟩
  · simp only [State.contain_eph, State.recordsEnded, hx]
  · rw [hd]
    simp [natLE]

/-- What entry to CONTAINMENT leaves of the block (R366). -/
theorem State.contain_entered {t : State} (ht : t = s.contain r code) :
    t.blk.mode = .containment ∧ t.blk.reason = r ∧ t.blk.cause = none ∧ t.blk.alFatal = true ∧ t.blk.wiped = true
    ∧ t.secretsGone = true ∧ t.silent = true ∧ t.eph.frozen = true ∧ t.glog.frozen = true := by
  subst ht
  rw [State.contain_blk, State.contain_eph, State.contain_glog, State.contain_eq]
  exact ⟨s.recordsEnded_mode r code, rfl, rfl, rfl, rfl, State.zeroize_secretsGone _, State.silence_zeroize_silent _, rfl, rfl⟩

theorem State.nextTick_latched (ns : W64) : (s.nextTick ns).latched
    = { s.latched with tick := (s.sch.tick + 1) % 2 ^ 32, cutDone := false, epochDone := false, time := (s.nextTick ns).blk.time } :=
  rfl

theorem State.nextTick_eph (ns : W64) : (s.nextTick ns).eph = s.eph := rfl

theorem State.nextTick_cause (ns : W64) : (s.nextTick ns).blk.cause = s.blk.cause := rfl

theorem State.tick_of_latched {s t : State} (h : s.latched = t.latched) : s.sch.tick = t.sch.tick := congrArg Latched.tick h

theorem State.time_of_latched {s t : State} (h : s.latched = t.latched) : s.blk.time = t.blk.time := congrArg Latched.time h

/-- Of what is latched a boundary leaves all but the count, the marks and the time (R99, R401). -/
theorem State.boundary_latched (ev : TickEvents) : (s.boundary ev).latched
    = { s.latched with tick := (s.sch.tick + 1) % 2 ^ 32, cutDone := false, epochDone := false, time := (s.boundary ev).blk.time } := by
  have hn : (s.boundary ev).latched = ((s.endTick ev).nextTick ev.ns).latched := by
    unfold State.boundary
    dsimp only
    split
    · exact State.contain_latched _ _ _
    · exact (State.issueAll_latched _).trans (State.atBoundary_latched _)
  rw [State.time_of_latched hn, hn, State.nextTick_latched, State.endTick_latched, State.tick_of_latched (State.endTick_latched s ev)]

/-- A boundary with a cause noted before it brings CONTAINMENT (R365). -/
theorem State.boundary_of_cause {s : State} {r : Reason} {code : Nat} (h : s.blk.cause = some (r, code)) (ev : TickEvents) :
    s.boundary ev = ((s.accounted ev).nextTick ev.ns).contain r code := by
  have hs : s.blk.cause.isSome = true := by rw [h]; rfl
  have hc : ((s.accounted ev).nextTick ev.ns).blk.cause = some (r, code) := by
    rw [State.nextTick_cause, State.accounted_blk, h]
  simp only [State.boundary, State.endTick_of_cause hs, hc]

theorem State.live_of_ticking {s : State} (h : s.ticking = true) : s.live = true := by
  revert h
  cases hm : s.blk.mode <;> simp [State.ticking, State.serving, State.live, hm]

theorem State.cause_of_none {s : State} {r : Reason} {code : Nat} (h : s.blk.cause = none) :
    s.cause r code = s.onBlk fun b => { b with cause := some (r, code) } := by
  simp [State.cause, State.onBlk, h]

theorem State.cause_of_some {s : State} {r : Reason} {code : Nat} {c : Reason × Nat} (h : s.blk.cause = some c) :
    s.cause r code = s := by
  have hb : { s.blk with cause := some c } = s.blk := by rw [← h]
  simp only [State.cause, State.onBlk, h, hb]

/-- Settles O8: the two ways in share what `contain` leaves; a boundary with a cause keeps the cause until there. -/
theorem containmentEntry : Obligations.ContainmentEntry := by
  refine ⟨fun s r code hl hc hk => ?_, fun s ht => ⟨fun hc => ?_, fun hc => ?_⟩, fun s hm hc => ?_⟩
  · cases ht : s.ticking with
    | false =>
      refine ⟨s.contain r code, ?_, ?_⟩
      · show execContainment s = _
        simp [execContainment, ht, State.containIfCaused, hc, hl]
      · obtain ⟨h1, h2, h3, h4, h5, h6, h7, h8, h9⟩ := s.contain_entered r code rfl
        exact ⟨h1, h2, h3, h4, h5, h6, h7, h8, h9, fun _ => State.contain_latched _ _ _, fun h => absurd h (by decide),
          fun hf hq => State.ephOpen.contain r code ⟨hf, hq⟩⟩
    | true =>
      let ev : TickEvents := ⟨s.blk.time + BitVec.ofNat 64 (s.tickLen / 8 * 5), 0, [], [], 0⟩
      refine ⟨s.boundary ev, ?_, ?_⟩
      · show execContainment s = _
        simp [execContainment, ht, hc, hk ht, ev]
      · obtain ⟨h1, h2, h3, h4, h5, h6, h7, h8, h9⟩ := State.contain_entered _ r code (State.boundary_of_cause hc ev)
        refine ⟨h1, h2, h3, h4, h5, h6, h7, h8, h9, fun h => absurd h (by decide), fun _ => s.boundary_latched ev, fun hf hq => ?_⟩
        rw [State.boundary_of_cause hc ev]
        have ho : s.ephOpen := ⟨hf, hq⟩
        exact State.ephOpen.contain r code (State.ephOpen_of_eph (State.nextTick_eph _ _) (ho.accounted ev))
  · have hm : s.blk.mode ≠ .charterLoad := by rintro hm; simp [State.ticking, State.serving, hm] at ht
    show execBlockFault s = _
    simp [execBlockFault, State.live_of_ticking ht, hm, State.cause_of_none hc]
  · have hm : s.blk.mode ≠ .charterLoad := by rintro hm; simp [State.ticking, State.serving, hm] at ht
    obtain ⟨c, hc⟩ := Option.ne_none_iff_exists'.mp hc
    show execBlockFault s = _
    simp [execBlockFault, State.live_of_ticking ht, hm, State.cause_of_some hc]
  · refine ⟨(s.cause .blockFault 0).contain .blockFault 0, ?_, ?_⟩
    · show execBlockFault s = _
      simp [execBlockFault, State.live, hm, State.containIfCaused, State.cause, hc]
    · obtain ⟨h1, h2, -, h4, -, h6, h7, -, -⟩ := (s.cause .blockFault 0).contain_entered .blockFault 0 rfl
      exact ⟨h1, h2, h4, h6, h7⟩

end Entry

/-! #### What issues, the epoch and the cut -/

section Issue

variable (s : State)

theorem State.onUnit_sch (u : UnitId) (f : UnitSt → UnitSt) : (s.onUnit u f).sch = s.sch := by cases u <;> rfl

theorem State.refund_sch (g : Grant) : (s.refund g).sch = s.sch := by
  unfold State.refund
  split <;> rfl

theorem State.loadKey_sch (id : LinkId) : (s.loadKey id).sch = s.sch := by
  unfold State.loadKey
  split
  · rfl
  · split <;> rfl

theorem State.bind_sch (g : Grant) : (s.bind g).sch = s.sch := by
  unfold State.bind
  split
  · rfl
  · exact foldl_keeps State.sch (fun t u => by split <;> rfl) _ _
  · rfl

theorem State.readAhead_sch (id : LinkId) (want : Nat) : (s.readAhead id want).sch = s.sch := by
  unfold State.readAhead
  split
  · rfl
  · split
    · rfl
    · dsimp only
      split <;> rfl

theorem State.onLink_sch (id : LinkId) (f : Link → Link) : (s.onLink id f).sch = s.sch := rfl

theorem State.readNext_sch (id : LinkId) (e : Nat) : (s.readNext id e).sch = s.sch := by
  unfold State.readNext
  split
  · rfl
  · simp only [apply_ite State.sch, State.readAhead_sch, State.onLink_sch, ite_self]

theorem State.readAfter_sch (g : Grant) : (s.readAfter g).sch = s.sch := by
  unfold State.readAfter
  split
  · rfl
  · split
    · rfl
    · exact State.readNext_sch _ _ _

theorem State.issue_sch (g : Grant) : (s.issue g).sch = s.sch := by
  unfold State.issue
  dsimp only
  rw [State.readAfter_sch, State.onGlog_sch, State.bind_sch]
  split <;> simp only [apply_ite State.sch, State.loadKey_sch, ite_self, State.onLink_sch, State.onDat_sch] <;>
    exact foldl_keeps State.sch (fun t u => State.onUnit_sch _ _ _) _ _

theorem State.engineTicks_sch : s.engineTicks.sch = s.sch := rfl

theorem State.macusBegin_sch : s.macusBegin.sch = s.sch := rfl

/-- What issues at a boundary is what of the plan still may, and no plan is left (R100). -/
theorem State.issueAll_sch : s.issueAll.sch = { s.sch with plan := [], running := s.sch.plan.filter s.mayIssue } := by
  unfold State.issueAll
  dsimp only
  rw [State.macusBegin_sch, State.engineTicks_sch, foldl_keeps State.sch (fun t g => State.issue_sch _ _), State.onSch_sch,
    State.onPrt_sch, foldl_keeps State.sch (fun t g => State.refund_sch _ _)]

end Issue

theorem State.tickLen_of_latched {s t : State} (h : s.latched = t.latched) : s.tickLen = t.tickLen := by
  have hc : s.ldr.chosen = t.ldr.chosen := congrArg Latched.charter h
  simp only [State.tickLen, State.charter, hc]

theorem State.boundary_of_no_cause {s : State} {ev : TickEvents} (h : (s.endTick ev).blk.cause = none) :
    s.boundary ev = ((s.endTick ev).nextTick ev.ns).atBoundary.issueAll := by
  simp only [State.boundary, State.nextTick_cause, h]

/-- The time after a boundary (R99, R401). -/
theorem State.boundary_time (s : State) (ev : TickEvents) : (s.boundary ev).blk.time
    = if s.blk.tbValid then (if s.blk.time.toNat ≤ ev.ns.toNat then ev.ns else s.blk.time)
      else s.blk.time + BitVec.ofNat 64 (s.tickLen / 8 * 5) := by
  have hl : (s.endTick ev).latched = s.latched := State.endTick_latched s ev
  have hv : (s.endTick ev).blk.tbValid = s.blk.tbValid := congrArg Latched.tbValid hl
  have hn : ((s.endTick ev).nextTick ev.ns).blk.time = if s.blk.tbValid then
      (if s.blk.time.toNat ≤ ev.ns.toNat then ev.ns else s.blk.time) else s.blk.time + BitVec.ofNat 64 (s.tickLen / 8 * 5) := by
    rw [← State.tickLen_of_latched hl, ← hv, ← State.time_of_latched hl]
    rfl
  rw [← hn]
  refine State.time_of_latched ?_
  unfold State.boundary
  dsimp only
  split
  · exact State.contain_latched _ _ _
  · exact (State.issueAll_latched _).trans (State.atBoundary_latched _)

/-- Settles O15: a boundary leaves all that is latched but the count, the marks and the time. -/
theorem tickBoundaryResult : Obligations.TickBoundaryResult := by
  intro ev s ht hk u
  refine ⟨s.boundary ev, ?_, ?_, fun r code hc => ?_, fun hn => ?_⟩
  · show execTickBoundary ev s = _
    simp [execTickBoundary, ht, hk]
  · rw [State.boundary_latched, State.boundary_time]
  · have h := State.contain_entered _ r code (State.boundary_of_cause hc ev)
    exact ⟨h.1, h.2.1⟩
  · have hi : (s.boundary ev).sch = { u.sch with plan := [], running := u.sch.plan.filter u.mayIssue } := by
      rw [State.boundary_of_no_cause hn, State.issueAll_sch]
    simp only [hi, and_self]

theorem State.epochDone_latched (s : State) :
    (s.onSch fun c => { c with epochDone := true }).latched = { s.latched with epochDone := true } := rfl

theorem State.cutDone_latched (s : State) :
    (s.onSch fun c => { c with cutDone := true }).latched = { s.latched with cutDone := true } := rfl

theorem State.grantEnd_of_latched {s t : State} (h : s.latched = t.latched) (g : Grant) : s.grantEnd g = t.grantEnd g := by
  have hb : s.budget = t.budget := congrArg (· - 256) (State.tickLen_of_latched h)
  unfold State.grantEnd
  rw [hb]

/-- Settles O16: both are their definitions, and each leaves what is latched but its mark. -/
theorem epochAndCutResults : Obligations.EpochAndCutResults := by
  constructor
  · intro s ht hc he hm
    refine ⟨_, ?_, ?_, rfl⟩
    · show execEpochBoundary s = _
      simp [execEpochBoundary, ht, hc, he, hm]
    · rw [State.markDual_latched, State.epochDone_latched]
      simp
  · intro l s ht hc hb u v
    have hn : ¬ (!s.ticking || s.sch.cutDone || s.boundaryDue) = true := by simp [ht, hc, hb]
    refine ⟨_, ?_, ?_, rfl⟩
    · show execEligibilityCut l s = _
      rw [execEligibilityCut, if_neg hn]
      dsimp only
      rw [State.tickLen_of_latched (State.strikeAll_latched s l), funext (State.grantEnd_of_latched (State.strikeAll_latched s l))]
    · rw [State.cutDone_latched]
      simp [u, v]

end Sys2Proof.Machine

/-! ### PROOFS. Start-up: reset release, the root key, the verdicts on containers and SEEDING (R158, R263, R354 to R361, R400) -/

namespace Sys2Proof.Machine

/-! #### What a change of mode leaves -/

section Frames

variable {α : Type} (s : State)

theorem State.ephPush_field (g : State → α) (hg : ∀ s f, g (State.onEph s f) = g s) (q : EphQ) : g (s.ephPush q) = g s := by
  unfold State.ephPush
  dsimp only
  split
  · rfl
  · exact hg _ _

/-- What a change of the message queue leaves, an interrupt message leaves. -/
theorem State.irqMsg_field (g : State → α) (hi : ∀ s x, g (State.onIo s fun i => { i with msgs := i.msgs ++ [x] }) = g s) (f v : Nat) :
    g (s.irqMsg f v) = g s := by
  unfold State.irqMsg
  split
  · rfl
  · exact hi _ _

theorem State.mbxIrq_field (g : State → α) (hi : ∀ s x, g (State.onIo s fun i => { i with msgs := i.msgs ++ [x] }) = g s) (c : Nat) :
    g (s.mbxIrq c) = g s := by
  unfold State.mbxIrq
  split
  · rfl
  · split
    · rfl
    · split
      · rfl
      · exact State.irqMsg_field _ g hi _ _

theorem State.dbSet_field (g : State → α) (hm : ∀ s f, g (State.onMbx s f) = g s)
    (hi : ∀ s x, g (State.onIo s fun i => { i with msgs := i.msgs ++ [x] }) = g s) (c b : Nat) : g (s.dbSet c b) = g s := by
  unfold State.dbSet
  dsimp only
  split
  · exact (State.mbxIrq_field _ g hi _).trans (hm _ _)
  · exact hm _ _

/-- A change of mode leaves what the mode, its record and the mailbox notification leave. -/
theorem State.setMode_field (g : State → α) (hb : ∀ s m, g (State.onBlk s fun b => { b with mode := m }) = g s)
    (he : ∀ s f, g (State.onEph s f) = g s) (hm : ∀ s f, g (State.onMbx s f) = g s)
    (hi : ∀ s x, g (State.onIo s fun i => { i with msgs := i.msgs ++ [x] }) = g s) (m : Mode) : g (s.setMode m) = g s := by
  unfold State.setMode
  dsimp only
  split
  · rfl
  · refine (foldl_keeps g (fun t x => State.dbSet_field t g hm hi _ _) _ _).trans ?_
    exact (State.ephPush_field _ g he _).trans (hb _ _)

@[simp] theorem State.setMode_ldr (m : Mode) : (s.setMode m).ldr = s.ldr :=
  State.setMode_field s State.ldr (fun _ _ => rfl) (fun _ _ => rfl) (fun _ _ => rfl) (fun _ _ => rfl) m
@[simp] theorem State.setMode_sch (m : Mode) : (s.setMode m).sch = s.sch :=
  State.setMode_field s State.sch (fun _ _ => rfl) (fun _ _ => rfl) (fun _ _ => rfl) (fun _ _ => rfl) m
@[simp] theorem State.setMode_prt (m : Mode) : (s.setMode m).prt = s.prt :=
  State.setMode_field s State.prt (fun _ _ => rfl) (fun _ _ => rfl) (fun _ _ => rfl) (fun _ _ => rfl) m
@[simp] theorem State.setMode_key (m : Mode) : (s.setMode m).key = s.key :=
  State.setMode_field s State.key (fun _ _ => rfl) (fun _ _ => rfl) (fun _ _ => rfl) (fun _ _ => rfl) m
@[simp] theorem State.setMode_ory (m : Mode) : (s.setMode m).ory = s.ory :=
  State.setMode_field s State.ory (fun _ _ => rfl) (fun _ _ => rfl) (fun _ _ => rfl) (fun _ _ => rfl) m
@[simp] theorem State.setMode_ent (m : Mode) : (s.setMode m).ent = s.ent :=
  State.setMode_field s State.ent (fun _ _ => rfl) (fun _ _ => rfl) (fun _ _ => rfl) (fun _ _ => rfl) m
@[simp] theorem State.setMode_mov (m : Mode) : (s.setMode m).mov = s.mov :=
  State.setMode_field s State.mov (fun _ _ => rfl) (fun _ _ => rfl) (fun _ _ => rfl) (fun _ _ => rfl) m
@[simp] theorem State.setMode_quadReq (m : Mode) : (s.setMode m).io.quadReq = s.io.quadReq :=
  State.setMode_field s (·.io.quadReq) (fun _ _ => rfl) (fun _ _ => rfl) (fun _ _ => rfl) (fun _ _ => rfl) m
@[simp] theorem State.setMode_oryReq (m : Mode) : (s.setMode m).io.oryReq = s.io.oryReq :=
  State.setMode_field s (·.io.oryReq) (fun _ _ => rfl) (fun _ _ => rfl) (fun _ _ => rfl) (fun _ _ => rfl) m

end Frames

/-! #### Reset release and the root key -/

/-- The block as RESET_RELEASE leaves it, before a decommissioned one goes on to CONTAINMENT. -/
def State.released (s : State) (lc : BitVec 2) (ns : W64) : State :=
  let s := (s.onBlk fun b => { b with lifecycle := lc }).sampleTime ns
  let s := s.onLdr fun l => { l with began := s.blk.time, root := if lc = lcFactory then testRoot else l.root }
  let s := s.onIo fun i => { i with quadReq := List.replicate 4 true, oryReq := List.replicate 4 true }
  (s.setMode .charterLoad).log 0x0102 uidMode noPart (natLE lc.toNat 1)

theorem State.released_blk (s : State) (lc : BitVec 2) (ns : W64) : (s.released lc ns).blk
    = { s.blk with mode := .charterLoad, lifecycle := lc
                   time := if s.blk.tbValid && decide (s.blk.time.toNat ≤ ns.toNat) then ns else s.blk.time } := by
  simp only [State.released, State.log_blk, State.setMode_blk, State.sampleTime, State.onBlk_blk, State.onIo_blk, State.onLdr_blk]
  rfl

theorem State.released_latched (s : State) (lc : BitVec 2) (ns : W64) : (s.released lc ns).latched
    = { s.latched with lifecycle := lc, time := if s.blk.tbValid = true ∧ s.blk.time.toNat ≤ ns.toNat then ns else s.blk.time } := by
  have ht : (s.released lc ns).blk.time = if s.blk.tbValid = true ∧ s.blk.time.toNat ≤ ns.toNat then ns else s.blk.time := by
    simp [State.released_blk]
  rw [← ht, State.released_blk]
  simp only [State.released, State.log_latched, State.setMode_latched]
  rfl

theorem State.lifecycle_of_latched {s t : State} (h : s.latched = t.latched) : s.blk.lifecycle = t.blk.lifecycle :=
  congrArg Latched.lifecycle h

theorem State.contain_lifecycle (s : State) (r : Reason) (code : Nat) : (s.contain r code).blk.lifecycle = s.blk.lifecycle :=
  State.lifecycle_of_latched (State.contain_latched s r code)

theorem exec_resetRelease {s : State} (h : s.blk.mode = .dormant) (lc : BitVec 2) (ns : W64) : exec (.resetRelease ⟨lc, ns⟩) s
    = .next (if lc = lcDecommissioned then ((s.released lc ns).cause .decommissioned 0x0102).containIfCaused else s.released lc ns) := by
  show execResetRelease ⟨lc, ns⟩ s = _
  simp only [execResetRelease, h, State.released]
  rfl

/-- Settles O10. -/
theorem resetReleaseAndRootKey : Obligations.ResetReleaseAndRootKey := by
  refine ⟨fun lc ns s hm => ⟨fun hl => ?_, fun hl hc => ?_⟩, fun w last s hm hu => ⟨fun ht hn => ?_, fun ht hn => ?_, fun ht => ?_⟩⟩
  · refine ⟨s.released lc ns, by rw [exec_resetRelease hm, if_neg hl], ?_, ?_, ?_, ?_, ?_, s.released_latched lc ns⟩
    · rw [State.released_blk]
    · rw [State.released_blk]
    · simp [State.released]
    · simp [State.released]
    · simp [State.released, State.sampleTime]
  · have hc' : (s.released lc ns).blk.cause = none := by rw [State.released_blk]; exact hc
    have hm' : (s.released lc ns).blk.mode = .charterLoad := by rw [State.released_blk]
    have he : ((s.released lc ns).cause .decommissioned 0x0102).containIfCaused
        = ((s.released lc ns).cause .decommissioned 0x0102).contain .decommissioned 0x0102 := by
      simp [State.containIfCaused, State.cause_of_none hc', State.live, hm']
    obtain ⟨h1, h2, -⟩ := State.contain_entered _ _ _ he
    refine ⟨_, by rw [exec_resetRelease hm, if_pos hl], h1, h2, ?_⟩
    rw [he, State.contain_lifecycle, State.cause_of_none hc', State.onBlk_blk, State.released_blk]
  · show execRootKeyWord w last s = _
    have h20 : ¬ 20 ≤ s.ldr.rkWords.length + 1 := by omega
    simp [execRootKeyWord, hm, ht, hu, h20]
  · show execRootKeyWord w last s = _
    simp [execRootKeyWord, hm, ht, hu, hn, State.rootTaken, List.take_append_of_le_length, List.drop_append_of_le_length]
  · show execRootKeyWord w last s = _
    simp [execRootKeyWord, ht]

/-! #### Verdicts -/

/-- A Charter copy that gives no Charter has another result than OK. -/
theorem judgeCharter_ne_ok {o b : Bytes} (h : (judgeCharter o b).2.2 = none) : (judgeCharter o b).1 ≠ resOk := by
  revert h
  unfold judgeCharter
  split
  · simp [resHeader, resOk]
  · dsimp only
    split
    · exact fun _ => by assumption
    · split <;> simp [resContent, resOk]

section Verdict

variable (s : State) (k res : Nat) (chk : Check)

theorem State.containerResult_blk : (s.containerResult k res chk).blk = s.blk := by
  unfold State.containerResult State.logSev
  rw [State.ephPush_field _ State.blk fun _ _ => rfl]
  rfl

theorem State.containerResult_ldr : (s.containerResult k res chk).ldr
    = { s.ldr with results := updAt s.ldr.results k fun _ => res, container := none } := by
  unfold State.containerResult State.logSev
  rw [State.ephPush_field _ State.ldr fun _ _ => rfl]
  rfl

theorem State.nvNext_blk : s.nvNext.blk = s.blk := by
  unfold State.nvNext
  split <;> rfl

theorem State.nvNext_ldr : ∃ a, s.nvNext.ldr = { s.ldr with nvmAddr := a } := by
  unfold State.nvNext
  split
  · exact ⟨_, rfl⟩
  · exact ⟨s.ldr.nvmAddr, rfl⟩

theorem State.nvNext_of_mode {s : State} (h : s.blk.mode ≠ .charterLoad) : s.nvNext = s := by
  unfold State.nvNext
  simp [h]

theorem State.loadTime_ldr (e : Nat) (ns : W64) : (s.loadTime e ns).ldr = s.ldr := by
  unfold State.loadTime
  split <;> rfl

theorem State.loadTime_mode (e : Nat) (ns : W64) : (s.loadTime e ns).blk.mode = s.blk.mode := by
  unfold State.loadTime
  split <;> rfl

theorem State.loadTime_cause (e : Nat) (ns : W64) : (s.loadTime e ns).blk.cause = s.blk.cause := by
  unfold State.loadTime
  split <;> rfl

/-- A load that fails ends in CONTAINMENT, for the firmware where a Charter copy was good (R354, R365). -/
theorem State.loadFailed_entered {s : State} (hm : s.blk.mode = .charterLoad) (hc : s.blk.cause = none) :
    s.loadFailed.nvNext.blk.mode = .containment
    ∧ ((s.ldr.results.getD 0 0 = resOk ∨ s.ldr.results.getD 2 0 = resOk) → s.loadFailed.nvNext.blk.reason = .firmwareInvalid)
    ∧ (¬ (s.ldr.results.getD 0 0 = resOk ∨ s.ldr.results.getD 2 0 = resOk) → s.loadFailed.nvNext.blk.reason = .charterInvalid) := by
  rw [State.nvNext_blk]
  let t := s.onLdr fun l => { l with stage := .done, tried := none }
  let r : Reason := if s.ldr.results.getD 0 0 == resOk || s.ldr.results.getD 2 0 == resOk then .firmwareInvalid else .charterInvalid
  have he : s.loadFailed = (t.cause r 0x0103).contain r 0x0103 := by
    have ht : t.blk.cause = none := hc
    show (t.cause r 0x0103).containIfCaused = _
    simp [State.containIfCaused, State.cause_of_none ht, State.live, t, hm]
  obtain ⟨h1, h2, -⟩ := State.contain_entered _ _ _ he
  have hr : (s.ldr.results.getD 0 0 == resOk || s.ldr.results.getD 2 0 == resOk) = true
      ↔ s.ldr.results.getD 0 0 = resOk ∨ s.ldr.results.getD 2 0 = resOk := by simp only [Bool.or_eq_true, beq_iff_eq]
  exact ⟨h1, fun h => h2.trans (if_pos (hr.mpr h)), fun h => h2.trans (if_neg fun hn => h (hr.mp hn))⟩

/-- A Charter copy that verifies is tried, and its firmware read next. -/
theorem State.charterVerdict_of_some {s : State} {k : Nat} {b : Bytes} {c : Charter} (h : (judgeCharter s.ldr.owner b).2.2 = some c) :
    (s.charterVerdict k b).nvNext.blk = s.blk ∧ (s.charterVerdict k b).nvNext.ldr.container = none
    ∧ (s.charterVerdict k b).nvNext.ldr.stage = (if k = 0 then .fwA else .fwB)
    ∧ (s.charterVerdict k b).nvNext.ldr.tried = some c := by
  obtain ⟨a, ha⟩ := (s.charterVerdict k b).nvNext_ldr
  rw [State.nvNext_blk, ha]
  unfold State.charterVerdict
  simp only [h, State.onLdr_blk, State.containerResult_blk, State.onLdr_ldr, State.containerResult_ldr, and_self]

/-- Copy A gives way to copy B. -/
theorem State.charterVerdict_of_none {s : State} {b : Bytes} (h : (judgeCharter s.ldr.owner b).2.2 = none) :
    (s.charterVerdict 0 b).nvNext.blk = s.blk ∧ (s.charterVerdict 0 b).nvNext.ldr.container = none
    ∧ (s.charterVerdict 0 b).nvNext.ldr.stage = .charterB := by
  obtain ⟨a, ha⟩ := (s.charterVerdict 0 b).nvNext_ldr
  rw [State.nvNext_blk, ha]
  unfold State.charterVerdict
  simp only [h, if_true, State.onLdr_blk, State.containerResult_blk, State.onLdr_ldr, State.containerResult_ldr, and_self]

/-- After copy B the load has failed. -/
theorem State.charterVerdict_failed {s : State} {b : Bytes} (h : (judgeCharter s.ldr.owner b).2.2 = none) :
    s.charterVerdict 2 b
      = (s.containerResult 2 (judgeCharter s.ldr.owner b).1 (judgeCharter s.ldr.owner b).2.1).loadFailed := by
  unfold State.charterVerdict
  simp only [h]
  rfl

/-- The firmware of copy A that does not verify gives way to Charter copy B. -/
theorem State.firmwareVerdict_of_none {s : State} {b : Bytes} {c : Charter} (e : Nat) (ht : s.ldr.tried = some c)
    (h : (judgeFirmware s.ldr.owner c.fwLength c.fwMinSec b).2 = none) : (s.firmwareVerdict 1 b e).nvNext.blk = s.blk
    ∧ (s.firmwareVerdict 1 b e).nvNext.ldr.stage = .charterB ∧ (s.firmwareVerdict 1 b e).nvNext.ldr.tried = none := by
  obtain ⟨a, ha⟩ := (s.firmwareVerdict 1 b e).nvNext_ldr
  rw [State.nvNext_blk, ha]
  unfold State.firmwareVerdict
  simp only [ht, h, if_true, State.onLdr_blk, State.containerResult_blk, State.onLdr_ldr, and_self]

theorem State.firmwareVerdict_failed {s : State} {b : Bytes} {c : Charter} (e : Nat) (ht : s.ldr.tried = some c)
    (h : (judgeFirmware s.ldr.owner c.fwLength c.fwMinSec b).2 = none) : s.firmwareVerdict 3 b e
      = (s.containerResult 3 (judgeFirmware s.ldr.owner c.fwLength c.fwMinSec b).1 none).loadFailed := by
  unfold State.firmwareVerdict
  simp only [ht, h]
  rfl

theorem State.firmwareVerdict_of_some {s : State} {k : Nat} {b : Bytes} {c : Charter} {i : Image} (e : Nat) (ht : s.ldr.tried = some c)
    (h : (judgeFirmware s.ldr.owner c.fwLength c.fwMinSec b).2 = some i) : s.firmwareVerdict k b e
      = (s.containerResult k (judgeFirmware s.ldr.owner c.fwLength c.fwMinSec b).1 none).acceptCopy (k / 2) c i e := by
  unfold State.firmwareVerdict
  simp only [ht, h]

/-- What acceptance of a copy leaves (R355). -/
theorem State.acceptCopy_accepted (copy : Nat) (c : Charter) (i : Image) (e : Nat) (t : State)
    (ht : t = (s.acceptCopy copy c i e).nvNext) : t.blk.mode = .seeding ∧ t.ldr.chosen = some c ∧ t.sch.tick = 0
      ∧ t.prt.parts = c.parts.foldl (fun m x => mset m x.num (Part.fresh x)) [] ∧ t.ory.bankA = some i ∧ t.ory.bankAct = false
      ∧ t.mov.timeout = c.readTimeout ∧ t.key.base = c.vaultBase ∧ t.ent.scn = .startup := by
  have hm : (s.acceptCopy copy c i e).blk.mode = .seeding := by
    unfold State.acceptCopy State.beginSeeding
    rw [State.setMode_blk]
  rw [State.nvNext_of_mode (by simp [hm])] at ht
  subst ht
  refine ⟨hm, ?_⟩
  simp [State.acceptCopy, State.beginSeeding, State.applyCharter]

end Verdict

theorem exec_containerVerdict {s : State} {b : Bytes} (hm : s.blk.mode = .charterLoad) (hb : s.ldr.container = some b) (e : Nat)
    (ns : W64) : exec (.containerVerdict e ns) s = .next (State.nvNext (match s.ldr.stage with
        | .charterA => (s.loadTime e ns).charterVerdict 0 b
        | .fwA => (s.loadTime e ns).firmwareVerdict 1 b e
        | .charterB => (s.loadTime e ns).charterVerdict 2 b
        | .fwB => (s.loadTime e ns).firmwareVerdict 3 b e
        | .done => s.loadTime e ns)) := by
  show execContainerVerdict e ns s = _
  simp only [execContainerVerdict, hm, hb, State.loadTime_ldr]
  rfl

/-- Settles O12. -/
theorem containerVerdicts : Obligations.ContainerVerdicts := by
  intro e ns s b hm hb good failed accepted
  let u := s.loadTime e ns
  have hu : u.ldr = s.ldr := s.loadTime_ldr e ns
  have hum : u.blk.mode = .charterLoad := (s.loadTime_mode e ns).trans hm
  have huc : u.blk.cause = s.blk.cause := s.loadTime_cause e ns
  have hbad : ∀ k res chk, (u.containerResult k res chk).blk.mode = .charterLoad ∧ (u.containerResult k res chk).blk.cause = s.blk.cause :=
    fun k res chk => by rw [State.containerResult_blk]; exact ⟨hum, huc⟩
  refine ⟨fun hs => ?_, fun hs hc hr => ?_, fun c hs ht => ?_, fun c hs ht hc => ?_⟩
  · refine ⟨_, by rw [exec_containerVerdict hm hb, hs], ?_⟩
    cases hj : (judgeCharter s.ldr.owner b).2.2 with
    | some c =>
      obtain ⟨h1, h2, h3, h4⟩ := State.charterVerdict_of_some (s := u) (k := 0) (hu ▸ hj)
      exact ⟨h2, h1 ▸ hum, h3, h4⟩
    | none =>
      obtain ⟨h1, h2, h3⟩ := State.charterVerdict_of_none (s := u) (hu ▸ hj)
      exact ⟨h2, h1 ▸ hum, h3⟩
  · refine ⟨_, by rw [exec_containerVerdict hm hb, hs], ?_⟩
    cases hj : (judgeCharter s.ldr.owner b).2.2 with
    | some c =>
      obtain ⟨h1, -, h3, h4⟩ := State.charterVerdict_of_some (s := u) (k := 2) (hu ▸ hj)
      exact ⟨h1 ▸ hum, h3, h4⟩
    | none =>
      dsimp only
      rw [State.charterVerdict_failed (s := u) (hu ▸ hj), hu]
      obtain ⟨hm', hc'⟩ := hbad 2 (judgeCharter s.ldr.owner b).1 (judgeCharter s.ldr.owner b).2.1
      obtain ⟨h1, h2, h3⟩ := State.loadFailed_entered hm' (hc'.trans hc)
      have hg : (u.containerResult 2 (judgeCharter s.ldr.owner b).1 (judgeCharter s.ldr.owner b).2.1).ldr.results.getD 0 0 = resOk ∨
          (u.containerResult 2 (judgeCharter s.ldr.owner b).1 (judgeCharter s.ldr.owner b).2.1).ldr.results.getD 2 0 = resOk ↔ good 0 := by
        have h2 : s.ldr.results[2]?.isSome := by simp [hr]
        obtain ⟨x, hx⟩ := Option.isSome_iff_exists.mp h2
        simp only [State.containerResult_ldr, hu, List.getD_eq_getElem?_getD, updAt_getElem?, hx, good]
        simp [judgeCharter_ne_ok hj]
      exact ⟨h1, fun h => h2 (hg.mpr h), fun h => h3 fun hn => h (hg.mp hn)⟩
  · refine ⟨_, by rw [exec_containerVerdict hm hb, hs], ?_⟩
    have ht' : u.ldr.tried = some c := hu ▸ ht
    cases hj : (judgeFirmware s.ldr.owner c.fwLength c.fwMinSec b).2 with
    | some i => exact State.acceptCopy_accepted _ _ _ _ _ _ (congrArg State.nvNext (State.firmwareVerdict_of_some e ht' (hu ▸ hj)))
    | none =>
      obtain ⟨h1, h2, h3⟩ := State.firmwareVerdict_of_none e ht' (hu ▸ hj)
      exact ⟨h1 ▸ hum, h2, h3⟩
  · refine ⟨_, by rw [exec_containerVerdict hm hb, hs], ?_⟩
    have ht' : u.ldr.tried = some c := hu ▸ ht
    cases hj : (judgeFirmware s.ldr.owner c.fwLength c.fwMinSec b).2 with
    | some i => exact State.acceptCopy_accepted _ _ _ _ _ _ (congrArg State.nvNext (State.firmwareVerdict_of_some e ht' (hu ▸ hj)))
    | none =>
      dsimp only
      rw [State.firmwareVerdict_failed (s := u) e ht' (hu ▸ hj), hu]
      obtain ⟨hm', hc'⟩ := hbad 3 (judgeFirmware s.ldr.owner c.fwLength c.fwMinSec b).1 none
      obtain ⟨h1, h2, h3⟩ := State.loadFailed_entered hm' (hc'.trans hc)
      have hg : (u.containerResult 3 (judgeFirmware s.ldr.owner c.fwLength c.fwMinSec b).1 none).ldr.results.getD 0 0 = resOk ∨
          (u.containerResult 3 (judgeFirmware s.ldr.owner c.fwLength c.fwMinSec b).1 none).ldr.results.getD 2 0 = resOk
          ↔ good 0 ∨ good 2 := by
        simp [State.containerResult_ldr, hu, updAt_getElem?, good]
      exact ⟨h1, fun h => h2 (hg.mpr h), fun h => h3 fun hn => h (hg.mp hn)⟩

/-! #### The end of SEEDING -/

/-- A block in SEEDING whose quadrants are eclipsed already. -/
def darkInSeeding : State :=
  let s := State.reset.onBlk fun b => { b with mode := .seeding }
  s.onDat fun d => { d with quads := d.quads.map fun q => { q with u := { q.u with ecl := true } } }

/-- The cause of CONTAINMENT that a command leaves noted. -/
def causeAfter : Out → Option (Reason × Nat)
  | .next t => t.blk.cause
  | _ => none

/-- Refutes O13: with every quadrant eclipsed before it, KNOWN_ANSWER_TEST_DONE without a DRBG core notes NO_CAPACITY, as it
eclipses the first of the cores (R314), and that cause stays. -/
theorem not_seedingResults : ¬ Obligations.SeedingResults := by
  rintro ⟨h, -⟩
  obtain ⟨-, hf⟩ := h darkInSeeding rfl rfl
  obtain ⟨t, ht, hc⟩ := hf false false false (Or.inl rfl) rfl
  have h1 : causeAfter (exec (.knownAnswerTestDone false false false) darkInSeeding) = some (.entropyFailed, 0x0606) := by
    rw [ht, ← hc]
    rfl
  exact absurd h1 (by decide)

end Sys2Proof.Machine

/-! ### PROOFS. The policy loop (R26, R122, R123, R405) -/

namespace Sys2Proof.Machine

/-- A change of the lane cap is counted and recorded, and leaves the rest. -/
theorem State.setCap_sch (s : State) (n : Nat) : (s.setCap n).sch
    = { s.sch with laneCap := n, decisions := s.sch.decisions + (if n = s.sch.laneCap then 0 else 1) } := by
  unfold State.setCap
  dsimp only
  split
  · next h => simp [h]
  · simp [State.decide1]

theorem State.setCap_same (s : State) : s.setCap s.sch.laneCap = s := by simp [State.setCap]

theorem State.setCap_dat (s : State) (n : Nat) : (s.setCap n).dat = s.dat := by
  unfold State.setCap
  dsimp only
  split
  · rfl
  · rw [State.log_dat]; rfl

theorem State.setCap_prt (s : State) (n : Nat) : (s.setCap n).prt = s.prt := by
  unfold State.setCap
  dsimp only
  split
  · rfl
  · rw [State.log_prt]; rfl

/-- The governor at the end of a window, as one change of the cap. -/
theorem exec_powerGovernor {s : State} (hp : s.policyOn = true) (hw : 16 ≤ s.sch.winTicks) :
    let mean := s.sch.winSum / s.sch.winTicks
    let step := if s.binaryOrd then 2 else 1
    let low := if 100 * mean < 90 * s.charter.powerCeil then s.sch.below90 + 1 else 0
    let high := decide (97 * s.charter.powerCeil < 100 * mean)
    let want := if high then s.sch.laneCap - step else if 4 ≤ low then s.sch.laneCap + step else s.sch.laneCap
    exec .powerGovernor s = .next ((s.onSch fun c => { c with
      estimate := mean, winSum := 0, winTicks := 0, below90 := if !high && decide (4 ≤ low) then 0 else low }).setCap
        (min 16 (max s.capFloor want))) := by
  intro mean step low high want
  show execPowerGovernor s = _
  have hw' : ¬ s.sch.winTicks < 16 := by omega
  simp only [execPowerGovernor, hp, hw', Bool.not_true, Bool.false_or, decide_false, Bool.false_eq_true, if_false]
  by_cases h : 97 * s.charter.powerCeil < 100 * mean
  · have hh : high = true := decide_eq_true h
    rw [if_pos h]
    simp only [want, hh]
    rfl
  · have hh : high = false := decide_eq_false h
    rw [if_neg h]
    by_cases h4 : 4 ≤ low
    · rw [if_pos h4]
      simp only [want, hh, h4]
      rfl
    · rw [if_neg h4]
      simp only [want, hh, h4]
      rfl

/-- Settles O18: shaping and gating are their definitions, branch by branch; the governor is one change of the cap. -/
theorem policyLoopResults : Obligations.PolicyLoopResults := by
  refine ⟨fun s hp hw => ⟨fun p x hl hu hx => ?_, fun hl hc => ?_, fun p hl hc hd => ?_⟩, fun q x s hp hq hx hg he ha hi hh hs ht => ?_, fun s hp hw => ?_⟩
  · show execSegmentShaping s = _
    have hw' : ¬ s.sch.shapeTicks < 64 := by omega
    have h3 : 3 ≤ x.segShift ↔ ¬ x.segShift < 3 := by omega
    simp only [execSegmentShaping, hp, hw', hl, hu, hx, h3, Bool.not_true, Bool.false_or, decide_false, Bool.false_eq_true, if_false,
      if_true, Option.map_some, Option.getD_some, ite_not]
  · show execSegmentShaping s = _
    have hw' : ¬ s.sch.shapeTicks < 64 := by omega
    simp [execSegmentShaping, hp, hw', hl, hc]
  · show execSegmentShaping s = _
    have hw' : ¬ s.sch.shapeTicks < 64 := by omega
    have hc' : ¬ s.sch.calmWins < 3 := by omega
    simp [execSegmentShaping, hp, hw', hl, hc', hd]
  · show execQuadrantGating q s = _
    have hq' : ¬ 4 ≤ q := by omega
    have hi' : ¬ x.idle < 256 := by omega
    simp [execQuadrantGating, hp, hq', hx, hg, he, ha, hi', hh, hs, ht, State.decide1]
  · intro mean step low high want cap
    refine ⟨_, exec_powerGovernor hp hw, ?_⟩
    simp only [State.setCap_sch, State.setCap_dat, State.setCap_prt, State.onSch_sch, State.onSch_dat, State.onSch_prt, and_true]
    refine ⟨rfl, trivial, trivial, rfl, rfl, rfl, fun h => ?_⟩
    have hc : min 16 (max s.capFloor want) = s.sch.laneCap := h
    rw [show min 16 (max s.capFloor _) = s.sch.laneCap from hc]
    exact (congrArg State.eph (State.setCap_same (s.onSch _))).trans (s.onSch_eph _)

end Sys2Proof.Machine

/-! ### PROOFS. What the end of a link leaves (R84, R88, R90, R175) -/

namespace Sys2Proof.Machine

/-- A part of the state that a good end of a link of request i of ring r does not touch: it speaks neither of that request, the
records, the grants, the partitions' and the rings' counts and the reads in flight, nor of the engines' binding; of the units it may
speak of their eclipse. -/
structure GoodEndFrame {α : Type} (r i : Nat) (g : State → α) : Prop where
  link    : ∀ s k f, g (State.onLink s ⟨r, i, k⟩ f) = g s
  ring    : ∀ s n, g (State.countRing s n) = g s
  eph     : ∀ s f, g (State.onEph s f) = g s
  sch     : ∀ s f, g (State.onSch s f) = g s
  prt     : ∀ s f, g (State.onPrt s f) = g s
  reads   : ∀ s f, g (State.onReads s f) = g s
  unbind  : ∀ s id, g (State.unbind s id) = g s
  unit    : ∀ s u f, (∀ x, (f x).ecl = x.ecl) → g (State.onUnit s u f) = g s

/-- A part that no end of a link of that request touches: it does not speak either of the work that a link has on a DRBG core or in the
Vault. -/
structure EndFrame {α : Type} (r i : Nat) (g : State → α) : Prop extends GoodEndFrame r i g where
  items   : ∀ s p, g (State.onEnt s fun e => { e with cores := e.cores.map fun c => { c with items := c.items.filter p } }) = g s
  pageOps : ∀ s p, g (State.onKey s fun k => { k with pageOps := k.pageOps.filter p }) = g s
  jobs    : ∀ s p, g (State.onKey s fun k => { k with jobs := k.jobs.filter p }) = g s

/-- Where both branches keep a part, the choice does. -/
theorem keeps_ite {β γ : Type} (g : β → γ) {c : Prop} [Decidable c] {a b : β} {x : γ} (ha : g a = x) (hb : g b = x) :
    g (if c then a else b) = x := by
  split
  · exact ha
  · exact hb

theorem State.req_key {s : State} {r i : Nat} {q : Req} (h : s.req r i = some q) : q.ring = r ∧ q.idx = i := by
  have hp := List.find?_some h
  simpa using hp

namespace GoodEndFrame

variable {α : Type} {r i : Nat} {g : State → α} (h : GoodEndFrame r i g) (s : State)

include h

theorem push (q : EphQ) : g (s.ephPush q) = g s := State.ephPush_field s g h.eph q

theorem part (p : Nat) (f : Part → Part) : g (s.onPart p f) = g s := by
  unfold State.onPart
  exact h.prt _ _

theorem discardReads (p : RPurpose → Bool) : g (s.discardReads p) = g s := h.reads _ _

theorem transient (u : UnitId) : g (s.transient u) = g s := by
  have hu : ∀ s, g (State.onSch (State.onUnit s u fun x => { x with eclPend := some .threshold })
      fun c => { c with decisions := c.decisions + 1 }) = g s := fun s => (h.sch _ _).trans (h.unit _ _ _ fun _ => rfl)
  unfold State.transient
  refine keeps_ite g (h.unit _ _ _ fun _ => rfl) ?_
  · split
    · exact (hu _).trans (h.unit _ _ _ fun _ => rfl)
    · exact (h.sch _ _).trans (h.unit _ _ _ fun _ => rfl)
    · exact h.unit _ _ _ fun _ => rfl

theorem healLink (k : Nat) : g (s.healLink ⟨r, i, k⟩) = g s := by
  unfold State.healLink
  split
  · rfl
  · dsimp only
    refine (foldl_keeps g (fun t us => ?_) _ _).trans (h.link _ _ _)
    refine (foldl_keeps g (fun t u => h.transient t u) _ _).trans ?_
    exact (h.push _ _).trans (h.sch _ _)

theorem countViolation (p : Nat) : g (s.countViolation p) = g s := h.part _ _ _

theorem countRing (r : Nat) : g (s.countRing r) = g s := h.ring s r

theorem packetViolation (code ring idx link : Nat) : g (s.packetViolation code ring idx link) = g s := by
  unfold State.packetViolation
  exact (h.push _ _).trans ((h.countRing _ _).trans (h.countViolation _ _))

theorem endAs_of_abandon (k : Nat) {st : Stat} (hend : ∀ s, g (if st.good then s else State.abandonAfter s ⟨r, i, k⟩) = g s) :
    g (s.endAs ⟨r, i, k⟩ st) = g s := by
  unfold State.endAs
  split
  · rfl
  · split
    · rfl
    · dsimp only
      refine (hend _).trans ?_
      have hviol : ∀ (s t : State), g t = g s → ∀ (c : Option Nat) (b : Bool), g (match c with
          | some c => if b then State.packetViolation s c r i k else State.onLink t ⟨r, i, k⟩ fun l => { l with violDue := true }
          | none => s) = g s := fun s t ht c b => by
        split
        · split
          · exact h.packetViolation _ _ _ _ _
          · exact (h.link _ _ _).trans ht
        · rfl
      refine (hviol _ _ rfl _ _).trans ?_
      exact (h.discardReads _ _).trans ((h.sch _ _).trans ((h.unbind _ _).trans ((h.healLink _ _).trans (h.link _ _ _))))

theorem endAs_good (k : Nat) {st : Stat} (hst : st.good = true) : g (s.endAs ⟨r, i, k⟩ st) = g s :=
  h.endAs_of_abandon s k fun s => by rw [if_pos hst]

end GoodEndFrame

namespace EndFrame

variable {α : Type} {r i : Nat} {g : State → α} (h : EndFrame r i g) (s : State)

include h

theorem dropOps (f : PageOp → Bool) : g (s.dropOps f) = g s := by
  unfold State.dropOps
  dsimp only
  split
  · rfl
  · exact (h.pageOps _ _).trans (h.discardReads _ _)

theorem dropWork (id : LinkId) : g (s.dropWork id) = g s := by
  unfold State.dropWork
  exact (h.sch _ _).trans ((h.jobs _ _).trans ((h.items _ _).trans (h.dropOps _ _)))

theorem forceStat (k : Nat) (st : Stat) : g (s.forceStat ⟨r, i, k⟩ st) = g s := by
  unfold State.forceStat
  split
  · rfl
  · split
    · rfl
    · exact (h.discardReads _ _).trans ((h.dropWork _ _).trans ((h.unbind _ _).trans ((h.healLink _ _).trans (h.link _ _ _))))

theorem forceFrom {q : Req} (hr : q.ring = r) (hi : q.idx = i) (k : Nat) (st : Nat → Stat) : g (s.forceFrom q k st) = g s := by
  subst hr hi
  unfold State.forceFrom
  refine foldl_keeps g (fun t i => ?_) _ _
  split
  · exact h.forceStat _ _ _
  · rfl

theorem abandonAfter (k : Nat) : g (s.abandonAfter ⟨r, i, k⟩) = g s := by
  unfold State.abandonAfter
  split
  · rfl
  · next q hq =>
    obtain ⟨hr, hi⟩ := State.req_key hq
    exact h.forceFrom _ hr hi _ _

theorem endAs (k : Nat) (st : Stat) : g (s.endAs ⟨r, i, k⟩ st) = g s :=
  h.endAs_of_abandon s k fun s => keeps_ite g rfl (h.abandonAfter s k)

theorem handOver (k : Nat) : g (s.handOver ⟨r, i, k⟩) = g s := by
  unfold State.handOver
  split
  · rfl
  · split
    · rfl
    · dsimp only
      split
      · exact h.link _ _ _
      · split
        · exact h.link _ _ _
        · exact (h.endAs _ _ _).trans (h.link _ _ _)

theorem endLink (k : Nat) (st : Stat) : g (s.endLink ⟨r, i, k⟩ st) = g s := by
  unfold State.endLink
  split
  · rfl
  · exact keeps_ite g ((h.handOver _ _).trans (h.endAs _ _ _)) (h.endAs _ _ _)

theorem refund (x : Grant) : g (s.refund x) = g s := by
  unfold State.refund
  split
  · rfl
  · exact h.part _ _ _

theorem withdraw (id : LinkId) : g (s.withdraw id) = g s := by
  unfold State.withdraw
  exact (h.sch _ _).trans (foldl_keeps g (fun t x => h.refund t x) _ _)

theorem dropVJob (id : LinkId) : g (s.dropVJob id) = g s := by
  unfold State.dropVJob
  exact (h.jobs _ _).trans (h.dropOps _ _)

end EndFrame

/-! #### Uncorrectable errors in the caches -/

/-- The caches and their count of errors. -/
def State.caches (s : State) : List KSlot × List HSlot × Nat := (s.key.slots, s.key.hslots, s.key.uncorr)

theorem State.onUnit_key (s : State) (u : UnitId) (f : UnitSt → UnitSt) : (s.onUnit u f).key = s.key := by cases u <;> rfl

theorem endFrame_caches (r i : Nat) : EndFrame r i State.caches where
  link _ _ _ := rfl
  ring _ _ := rfl
  eph _ _ := rfl
  sch _ _ := rfl
  prt _ _ := rfl
  reads _ _ := rfl
  items _ _ := rfl
  pageOps _ _ := rfl
  jobs _ _ := rfl
  unbind _ _ := rfl
  unit s u f _ := by simp only [State.caches, State.onUnit_key]

theorem State.readerFails_caches (s : State) (id : LinkId) : (s.readerFails id).caches = s.caches :=
  ((endFrame_caches id.ring id.idx).endLink _ _ _).trans rfl

theorem State.logKey_caches (s : State) (code part : Nat) (d : Bytes) : (s.logKey code part d).caches = s.caches := by
  unfold State.logKey
  exact ((endFrame_caches 0 0).push _ _).trans rfl

section CacheError

variable (s : State) (state : Bool) (k : Nat × Nat × Nat) (reader : Option LinkId)

/-- The block when the slot is gone and its reader has failed. -/
def State.slotGone : State :=
  let s := s.onKey fun u => if state then { u with hslots := u.hslots.filter fun x => (x.part, x.index, x.gen) != k }
    else { u with slots := u.slots.filter fun x => (x.part, x.index, x.gen) != k }
  match reader with
  | some id => match s.link id with
    | some (_, l) => if l.keySlot == some k then s.readerFails id else s
    | none => s
  | none => s

/-- A link that keeps the slot only where it is not one of those that stage the key again (R175). -/
def Link.losing (l : Link) (state : Bool) (k : Nat × Nat × Nat) : Link :=
  if l.keySlot == some k && l.stat.isNone && !(l.hdr.opcode == opRetire && l.job.isSome) && (!state || isDigest l.hdr.opcode)
  then { l with keySlot := none, staged := false, eligAt := none } else l

theorem State.slotLost_eq : s.slotLost state k reader = (s.slotGone state k reader).onRng fun t =>
    { t with reqs := t.reqs.map fun q => { q with links := q.links.map (·.losing state k) } } := rfl

theorem State.slotGone_caches : (s.slotGone state k reader).caches
    = (if state then s.key.slots else s.key.slots.filter fun x => (x.part, x.index, x.gen) != k,
       if state then s.key.hslots.filter (fun x => (x.part, x.index, x.gen) != k) else s.key.hslots, s.key.uncorr) := by
  have h0 : (s.onKey fun u => if state then { u with hslots := u.hslots.filter fun x => (x.part, x.index, x.gen) != k }
    else { u with slots := u.slots.filter fun x => (x.part, x.index, x.gen) != k }).caches
    = (if state then s.key.slots else s.key.slots.filter fun x => (x.part, x.index, x.gen) != k,
       if state then s.key.hslots.filter (fun x => (x.part, x.index, x.gen) != k) else s.key.hslots, s.key.uncorr) := by
    cases state <;> rfl
  unfold State.slotGone
  dsimp only
  rw [← h0]
  split
  · split
    · split
      · exact State.readerFails_caches _ _
      · rfl
    · rfl
  · rfl

/-- What a lost slot leaves of the links (R175). -/
theorem Link.losing_keySlot {l : Link} (hs : (l.losing state k).stat = none) (ho : (l.losing state k).hdr.opcode ≠ opRetire)
    (hd : state = true → isDigest (l.losing state k).hdr.opcode = true) : (l.losing state k).keySlot ≠ some k := by
  revert hs ho hd
  unfold Link.losing
  split
  · simp
  · next h =>
    intro hs ho hd hk
    exact h (by cases state <;> simp_all)

theorem State.slotLost_links {q : Req} (hq : q ∈ (s.slotLost state k reader).rng.reqs) {l : Link} (hl : l ∈ q.links)
    (hs : l.stat = none) (ho : l.hdr.opcode ≠ opRetire) (hd : state = true → isDigest l.hdr.opcode = true) : l.keySlot ≠ some k := by
  rw [State.slotLost_eq] at hq
  obtain ⟨q', -, rfl⟩ := List.mem_map.mp hq
  obtain ⟨l', -, rfl⟩ := List.mem_map.mp hl
  exact Link.losing_keySlot state k hs ho hd

end CacheError

/-- Settles O21. -/
theorem cacheUncorrectableResult : Obligations.CacheUncorrectableResult := by
  intro p i reader s hl
  let n := (s.onKey fun u => { u with uncorr := sat 0xFF u.uncorr 1 }).logKey 0x0704 p
  have hn : n.caches = (s.key.slots, s.key.hslots, sat 0xFF s.key.uncorr 1) := (State.logKey_caches _ _ _ _).trans rfl
  obtain ⟨hns, hnh, hnu⟩ : n.key.slots = s.key.slots ∧ n.key.hslots = s.key.hslots ∧ n.key.uncorr = sat 0xFF s.key.uncorr 1 := by
    simpa [State.caches] using hn
  have hc : ∀ state k, (n.slotLost state k reader).caches = (n.slotGone state k reader).caches := fun _ _ => rfl
  refine ⟨fun x hx => ?_, fun x hx => ?_, fun hd => ?_⟩
  · have hg := n.slotGone_caches false (x.part, x.index, x.gen) reader
    rw [← hc] at hg
    simp only [State.caches, Prod.mk.injEq] at hg
    obtain ⟨h1, -, h3⟩ := hg
    refine ⟨n.slotLost false (x.part, x.index, x.gen) reader, ?_, h3.trans hnu, fun y hy => ?_, fun q hq l hl' hs ho => ?_⟩
    · show execCacheUncorrectable .keyCache p i reader s = _
      simp only [execCacheUncorrectable, hl, hx]
      rfl
    · rw [h1] at hy
      simpa using (List.mem_filter.mp hy).2
    · exact n.slotLost_links false _ reader hq hl' hs ho (fun h => absurd h (by decide))
  · have hg := n.slotGone_caches true (x.part, x.index, x.gen) reader
    rw [← hc] at hg
    simp only [State.caches, Prod.mk.injEq] at hg
    obtain ⟨-, h2, h3⟩ := hg
    refine ⟨n.slotLost true (x.part, x.index, x.gen) reader, ?_, h3.trans hnu, fun y hy => ?_, fun q hq l hl' hs hd ho => ?_⟩
    · show execCacheUncorrectable .stateCache p i reader s = _
      simp only [execCacheUncorrectable, hl, hx]
      rfl
    · rw [h2] at hy
      simpa using (List.mem_filter.mp hy).2
    · exact n.slotLost_links true _ reader hq hl' hs ho (fun _ => hd)
  · refine ⟨n.storeLost p reader, ?_, ?_⟩
    · have hd' : (mget s.key.derived p).isNone = false := by simpa using hd
      show execCacheUncorrectable .keyStore p i reader s = _
      simp only [execCacheUncorrectable, hl, hd']
      rfl
    · have hk : (n.storeLost p reader).caches = n.caches := by
        unfold State.storeLost
        split
        · rfl
        · split
          · exact keeps_ite _ (State.readerFails_caches _ _) rfl
          · rfl
      simp only [State.caches, Prod.mk.injEq] at hk
      exact hk.2.2.trans hnu

end Sys2Proof.Machine

/-! ### PROOFS. Eclipse, quadrant loss and core loss (R14, R240, R310 to R314) -/

namespace Sys2Proof.Machine

/-! #### The state of a unit -/

/-- The state of a unit, where there is one. -/
def State.unit? (s : State) : UnitId → Option UnitSt
  | .lane n => (s.dat.lanes[n]?).map (·.u)
  | .engine n => (s.dat.engines[n]?).map (·.u)
  | .macu n => (s.dat.macus[n]?).map (·.u)
  | .quad q => (s.dat.quads[q]?).map (·.u)
  | .oryCore c => (s.ory.cores[c]?).map (·.u)
  | .drbgCore c => (s.ent.cores[c]?).map (·.u)
  | .scintilla => none

section Unit

variable (s : State)

theorem State.unitSt_eq (u : UnitId) : s.unitSt u = (s.unit? u).getD {} := by cases u <;> rfl

theorem State.unit?_onUnit (u v : UnitId) (f : UnitSt → UnitSt) :
    (s.onUnit u f).unit? v = if u = v then (s.unit? v).map f else s.unit? v := by
  cases u <;> cases v <;> simp [State.onUnit, State.unit?, updAt_getElem?, apply_ite, Function.comp_def]
  all_goals split <;> simp [*]

theorem State.unit?_of_fields {s t : State} (hd : t.dat = s.dat) (ho : t.ory = s.ory) (he : t.ent = s.ent) : t.unit? = s.unit? := by
  funext u
  cases u <;> simp [State.unit?, hd, ho, he]

theorem State.unit?_log (code source part : Nat) (d : Bytes) : (s.log code source part d).unit? = s.unit? :=
  State.unit?_of_fields (by simp) (by simp) (by simp)

end Unit

/-! #### An eclipse -/

section Eclipse

variable (s : State) (u : UnitId) (code : Nat)

/-- The state of a unit when it is eclipsed. -/
def UnitSt.eclipsed (x : UnitSt) : UnitSt :=
  { x with ecl := true, eclPend := none, eclDue := false, due := false, dueRetry := false, inTest := false, atCut := false
           tested := none, exPass := false }

/-- The items of an eclipsed DRBG core go to the other. -/
def State.moveItems (s : State) (u : UnitId) : State :=
  match u with
  | .drbgCore c => s.onEnt fun e =>
      let items := ((e.cores[c]?).map DCore.items).getD []
      { e with cores := updAt (updAt e.cores c fun (d : DCore) => { d with items := [] }) (1 - c) fun (d : DCore) => { d with items := d.items ++ items } }
  | _ => s

theorem State.moveItems_unit? : (s.moveItems u).unit? = s.unit? := by
  unfold State.moveItems
  split
  · funext v
    cases v <;> simp [State.unit?, updAt_getElem?]
    split <;> split <;> simp [Function.comp_def]
  · rfl

theorem State.eclipse_eq : s.eclipse u code = let t := (((s.onUnit u UnitSt.eclipsed).moveItems u).onSch
      fun c => { c with recompute := true }).log code (uid u) noPart
    if allQuads.all (fun v => (t.unitSt v).ecl) || allCores.all fun v => (t.unitSt v).ecl then t.cause .noCapacity code else t := rfl

/-- What neither the units' state, the DRBG cores' items, the count of decisions, the records nor the cause of CONTAINMENT are, an
eclipse leaves. -/
theorem State.eclipse_field {α : Type} (g : State → α) (hu : ∀ s f, g (State.onUnit s u f) = g s) (hi : ∀ s f, g (State.onEnt s f) = g s)
    (hs : ∀ s f, g (State.onSch s f) = g s) (he : ∀ s f, g (State.onEph s f) = g s) (hb : ∀ s f, g (State.onBlk s f) = g s) :
    g (s.eclipse u code) = g s := by
  have ht : g ((((s.onUnit u UnitSt.eclipsed).moveItems u).onSch fun c => { c with recompute := true }).log code (uid u) noPart)
      = g s := by
    refine (State.ephPush_field _ g he _).trans ((hs _ _).trans (Eq.trans ?_ (hu s UnitSt.eclipsed)))
    unfold State.moveItems
    split
    · exact hi _ _
    · rfl
  rw [State.eclipse_eq]
  exact keeps_ite g ((hb _ _).trans ht) ht

theorem State.eclipse_unit? (v : UnitId) :
    (s.eclipse u code).unit? v = if u = v then (s.unit? v).map UnitSt.eclipsed else s.unit? v := by
  have ht : ((((s.onUnit u UnitSt.eclipsed).moveItems u).onSch fun c => { c with recompute := true }).log code (uid u) noPart).unit?
      = (s.onUnit u UnitSt.eclipsed).unit? := by
    rw [State.unit?_log, State.unit?_of_fields (State.onSch_dat _ _) (State.onSch_ory _ _) (State.onSch_ent _ _),
      State.moveItems_unit?]
  rw [← State.unit?_onUnit, ← ht, State.eclipse_eq]
  dsimp only
  split
  · exact congrFun (State.unit?_of_fields rfl rfl rfl) v
  · rfl

theorem State.eclipse_unitSt {s : State} {u : UnitId} {x : UnitSt} (hx : s.unit? u = some x) :
    (s.eclipse u code).unit? u = some x.eclipsed := by
  rw [State.eclipse_unit?, if_pos rfl, hx]
  rfl

end Eclipse

/-! #### ECLIPSE_EFFECT -/

section EclipseEffect

variable (s : State)

theorem State.moveThread_cores (a b : Nat) : (s.moveThread a b).ory.cores = s.ory.cores := by
  unfold State.moveThread
  dsimp only
  split <;> rfl

theorem State.moveThread_dat (a b : Nat) : (s.moveThread a b).dat = s.dat := by
  unfold State.moveThread
  dsimp only
  split <;> rfl

theorem State.moveThread_ent (a b : Nat) : (s.moveThread a b).ent = s.ent := by
  unfold State.moveThread
  dsimp only
  split <;> rfl

theorem State.unit?_of_cores {s t : State} (hd : t.dat = s.dat) (ho : t.ory.cores = s.ory.cores) (he : t.ent = s.ent) :
    t.unit? = s.unit? := by
  funext u
  cases u <;> simp [State.unit?, hd, ho, he]

theorem State.seat_unit? (h a b : Nat) : (s.seat h a b).unit? = s.unit? := by
  unfold State.seat
  refine keeps_ite State.unit? (State.unit?_of_cores rfl rfl rfl) ?_
  refine (State.unit?_of_cores (State.moveThread_dat _ _ _) (State.moveThread_cores _ _ _) (State.moveThread_ent _ _ _)).trans ?_
  exact State.unit?_of_cores rfl rfl rfl

theorem State.seatStatics_unit? : s.seatStatics.unit? = s.unit? := by
  unfold State.seatStatics
  refine foldl_keeps State.unit? (fun t h => ?_) _ _
  refine keeps_ite State.unit? rfl ?_
  split
  · rfl
  · exact State.seat_unit? _ _ _ _

theorem State.setMode_unit? (m : Mode) : (s.setMode m).unit? = s.unit? :=
  State.setMode_field s State.unit? (fun _ _ => State.unit?_of_fields rfl rfl rfl) (fun _ _ => State.unit?_of_fields rfl rfl rfl)
    (fun _ _ => State.unit?_of_fields rfl rfl rfl) (fun _ _ => State.unit?_of_fields rfl rfl rfl) m

theorem State.modeBoundary_unit? : s.modeBoundary.unit? = s.unit? :=
  (State.unit?_of_fields rfl rfl rfl).trans (keeps_ite State.unit? (State.setMode_unit? _ _) rfl)

/-- The reduced bit and alarm follow the units (R314). -/
theorem State.modeBoundary_reduced : s.modeBoundary.blk.reduced = s.anyEclipsed ∧ s.modeBoundary.blk.alReduced = s.anyEclipsed := by
  let t := if (s.blk.mode == .service || s.blk.mode == .reduced) && !s.swapOn then s.setMode s.normalMode else s
  have ht : t.anyEclipsed = s.anyEclipsed := by
    have hu : t.unit? = s.unit? := keeps_ite State.unit? (State.setMode_unit? _ _) rfl
    simp only [State.anyEclipsed, State.unitSt_eq, hu]
  exact ⟨ht, ht⟩

/-- Windows move by the patterns of the partitions, and a record; a floor likewise. -/
theorem State.moveWindows_field {α : Type} (g : State → α) (hp : ∀ s f, g (State.onPrt s f) = g s) (he : ∀ s f, g (State.onEph s f) = g s)
    (c : Nat) : g (s.moveWindows c) = g s := by
  unfold State.moveWindows
  refine foldl_keeps g (fun t n => ?_) _ _
  refine keeps_ite g rfl ?_
  split
  · rfl
  · dsimp only
    split
    · rfl
    · exact (State.ephPush_field _ g he _).trans (hp _ _)

theorem State.moveFor_field {α : Type} (g : State → α) (hp : ∀ s f, g (State.onPrt s f) = g s) (he : ∀ s f, g (State.onEph s f) = g s)
    (u : UnitId) : g (s.moveFor u) = g s := by
  have hm := fun s c => State.moveWindows_field s g hp he c
  unfold State.moveFor
  split
  · exact hm _ _
  · exact hm _ _
  · exact hm _ _
  · exact (hm _ _).trans ((hm _ _).trans (hm _ _))

theorem State.recomputeNow_field {α : Type} (g : State → α) (hp : ∀ s f, g (State.onPrt s f) = g s) (he : ∀ s f, g (State.onEph s f) = g s)
    (hs : ∀ s f, g (State.onSch s f) = g s) : g s.recomputeNow = g s := by
  unfold State.recomputeNow State.reduceFloors
  exact keeps_ite g rfl ((State.ephPush_field _ g he _).trans ((hs _ _).trans (hp _ _)))

end EclipseEffect

/-- The first clause of O20: ECLIPSE_EFFECT. -/
theorem eclipseEffect_result {u : UnitId} {w : EclWhy} {s : State} (hl : s.live = true) (hk : s.sch.cutDone = false)
    (hp : (s.unitSt u).eclPend = some w) (hd : (s.unitSt u).eclDue = true) :
    ∃ t, exec (.eclipseEffect u) s = .next t ∧ (t.unitSt u).ecl = true ∧ (t.unitSt u).eclPend = none ∧ (t.unitSt u).eclDue = false
      ∧ (u ∈ allUnits → t.blk.reduced = true ∧ t.blk.alReduced = true) := by
  obtain ⟨x, hx⟩ : ∃ x, s.unit? u = some x := by
    rw [State.unitSt_eq] at hp
    cases hu : s.unit? u with
    | some x => exact ⟨x, rfl⟩
    | none => simp [hu] at hp
  let code := match w with
    | .threshold => 0x0401
    | .management => 0x0404
    | .selfTest => 0x0402
  let t := s.eclipse u code
  let t' := match u with
    | .oryCore _ => t.seatStatics
    | _ => t
  have ht' : t'.unit? u = some x.eclipsed := by
    have h : t'.unit? = t.unit? := by
      unfold t'
      split
      · exact State.seatStatics_unit? _
      · rfl
    rw [h]
    exact State.eclipse_unitSt code hx
  let v := (t'.modeBoundary.recomputeNow).moveFor u
  have hunit : v.unit? u = some x.eclipsed := by
    have hf : ∀ (s : State) f, (State.onPrt s f).unit? = s.unit? := fun _ _ => State.unit?_of_fields rfl rfl rfl
    have he : ∀ (s : State) f, (State.onEph s f).unit? = s.unit? := fun _ _ => State.unit?_of_fields rfl rfl rfl
    have hs : ∀ (s : State) f, (State.onSch s f).unit? = s.unit? := fun _ _ => State.unit?_of_fields rfl rfl rfl
    unfold v
    rw [State.moveFor_field _ State.unit? hf he, State.recomputeNow_field _ State.unit? hf he hs, State.modeBoundary_unit?, ht']
  have hblk : v.blk = t'.modeBoundary.blk :=
    (State.moveFor_field _ State.blk (fun _ _ => rfl) (fun _ _ => rfl) _).trans
      (State.recomputeNow_field _ State.blk (fun _ _ => rfl) (fun _ _ => rfl) (fun _ _ => rfl))
  refine ⟨v, ?_, ?_, ?_, ?_, fun hu => ?_⟩
  · show execEclipseEffect u s = _
    simp only [execEclipseEffect, hp, hl, hk, hd]
    rfl
  · rw [State.unitSt_eq, hunit]; rfl
  · rw [State.unitSt_eq, hunit]; rfl
  · rw [State.unitSt_eq, hunit]; rfl
  · have ha : t'.anyEclipsed = true := by
      refine List.any_eq_true.mpr ⟨u, hu, ?_⟩
      rw [State.unitSt_eq, ht']
      rfl
    rw [hblk, ← ha]
    exact State.modeBoundary_reduced t'

end Sys2Proof.Machine

/-! ### PROOFS. The links of a lost quadrant (R14, R84, R88, R279, R312) -/

namespace Sys2Proof.Machine

/-! #### Reading a request back -/

section Request

variable (s : State)

theorem find?_map_key {f : Req → Req} (hr : ∀ q, (f q).ring = q.ring) (hi : ∀ q, (f q).idx = q.idx) (r i : Nat) (l : List Req) :
    (l.map f).find? (fun q => q.ring == r && q.idx == i) = (l.find? fun q => q.ring == r && q.idx == i).map f := by
  rw [List.find?_map]
  simp only [Function.comp_def, hr, hi]

theorem State.req_onReq_other {r i r' i' : Nat} (h : r ≠ r' ∨ i ≠ i') (f : Req → Req) (hr : ∀ q, (f q).ring = q.ring)
    (hi : ∀ q, (f q).idx = q.idx) : (s.onReq r i f).req r' i' = s.req r' i' := by
  let g (q : Req) : Req := if q.ring == r && q.idx == i then f q else q
  have hg : (s.onReq r i f).req r' i' = (s.req r' i').map g :=
    find?_map_key (f := g) (fun q => by unfold g; split <;> simp [hr]) (fun q => by unfold g; split <;> simp [hi]) r' i' s.rng.reqs
  rw [hg]
  cases hq : s.req r' i' with
  | none => rfl
  | some q =>
    obtain ⟨h1, h2⟩ := State.req_key hq
    have hne : ¬ (r' = r ∧ i' = i) := by omega
    simp [g, h1, h2, hne]

/-- A change of one link of a request. -/
def Req.onLink (q : Req) (k : Nat) (f : Link → Link) : Req := { q with links := updAt q.links k f }

theorem State.req_onLink_same (r i k : Nat) (f : Link → Link) : (s.onLink ⟨r, i, k⟩ f).req r i = (s.req r i).map (·.onLink k f) :=
  State.req_onReq s r i (·.onLink k f) fun _ => ⟨rfl, rfl⟩

theorem State.req_onLink_other {r i r' i' : Nat} (h : r ≠ r' ∨ i ≠ i') (k : Nat) (f : Link → Link) :
    (s.onLink ⟨r, i, k⟩ f).req r' i' = s.req r' i' :=
  State.req_onReq_other s h (·.onLink k f) (fun _ => rfl) (fun _ => rfl)

theorem updAt_of_none {α : Type} {l : List α} {k : Nat} (h : l[k]? = none) (f : α → α) : updAt l k f = l := by
  refine List.ext_getElem? fun j => ?_
  rw [updAt_getElem?]
  split
  · next e => rw [← e, h]; rfl
  · rfl

/-- Only what stands at the place counts for an update there. -/
theorem updAt_congr {α : Type} {l : List α} {k : Nat} {a : α} (h : l[k]? = some a) {f g : α → α} (hfg : f a = g a) :
    updAt l k f = updAt l k g := by
  refine List.ext_getElem? fun j => ?_
  rw [updAt_getElem?, updAt_getElem?]
  split
  · next e => rw [← e, h, Option.map_some, Option.map_some, hfg]
  · rfl

theorem updAt_updAt {α : Type} (l : List α) (k : Nat) (f g : α → α) : updAt (updAt l k f) k g = updAt l k fun a => g (f a) := by
  refine List.ext_getElem? fun j => ?_
  simp only [updAt_getElem?]
  split <;> simp [Function.comp_def]

theorem updAt_id {α : Type} (l : List α) (k : Nat) : updAt l k (fun a => a) = l := by
  refine List.ext_getElem? fun j => ?_
  rw [updAt_getElem?]
  split <;> simp

theorem State.link_eq (r i k : Nat) : s.link ⟨r, i, k⟩ = (s.req r i).bind fun q => (q.links[k]?).map fun l => (q, l) := by
  unfold State.link
  cases s.req r i <;> rfl

theorem State.of_link {s : State} {r i k : Nat} {q : Req} {l : Link} (h : s.link ⟨r, i, k⟩ = some (q, l)) :
    s.req r i = some q ∧ q.links[k]? = some l := by
  rw [State.link_eq] at h
  simp only [Option.bind_eq_some_iff, Option.map_eq_some_iff, Prod.mk.injEq] at h
  obtain ⟨q', hq, l', hl, rfl, rfl⟩ := h
  exact ⟨hq, hl⟩

/-- With keys that name one request each, a request is read back by its key. -/
theorem State.req_of_mem {s : State} (hn : (s.rng.reqs.map fun r => (r.ring, r.idx)).Nodup) {q : Req} (hq : q ∈ s.rng.reqs) :
    s.req q.ring q.idx = some q := by
  have h := List.inj_on_of_nodup_map hn
  obtain ⟨x, hx⟩ : ∃ x, s.req q.ring q.idx = some x := by
    rw [← Option.isSome_iff_exists, State.req, List.find?_isSome]
    exact ⟨q, hq, by simp⟩
  obtain ⟨h1, h2⟩ := State.req_key hx
  rw [hx, h (List.mem_of_find?_eq_some hx) hq (by simp [h1, h2])]

end Request

/-! #### A result whatever the link's stage -/

section Force

variable (s : State) (r i : Nat)

/-- The end of a link of one request leaves every other request. -/
theorem endFrame_req {r i r' i' : Nat} (h : r ≠ r' ∨ i ≠ i') : EndFrame r i (fun s => s.req r' i') where
  link s k f := State.req_onLink_other s h k f
  ring _ _ := rfl
  eph _ _ := rfl
  sch _ _ := rfl
  prt _ _ := rfl
  reads _ _ := rfl
  items _ _ := rfl
  pageOps _ _ := rfl
  jobs _ _ := rfl
  unbind _ _ := rfl
  unit s u f _ := by cases u <;> rfl

theorem endFrame_blk (r i : Nat) : EndFrame r i State.blk where
  link _ _ _ := rfl
  ring _ _ := rfl
  eph _ _ := rfl
  sch _ _ := rfl
  prt _ _ := rfl
  reads _ _ := rfl
  items _ _ := rfl
  pageOps _ _ := rfl
  jobs _ _ := rfl
  unbind _ _ := rfl
  unit s u f _ := State.onUnit_blk s u f

theorem State.writes_onReads (f : FRead → Option FRead) : (s.onReads f).writes = s.writes := by
  simp [State.writes, State.onReads, List.flatMap_map]

theorem State.onLink_writes (id : LinkId) (f : Link → Link) : (s.onLink id f).writes = s.writes := rfl

theorem endFrame_writes (r i : Nat) : EndFrame r i State.writes where
  link _ _ _ := rfl
  ring _ _ := rfl
  eph _ _ := rfl
  sch _ _ := rfl
  prt _ _ := rfl
  reads s f := State.writes_onReads s f
  items _ _ := rfl
  pageOps _ _ := rfl
  jobs _ _ := rfl
  unbind _ _ := rfl
  unit s u f _ := by cases u <;> rfl

/-- A link with the result that it is given, whatever stage it had reached. -/
def Link.forced (l : Link) (st : Stat) (now : W64) : Link :=
  { l with stat := some st, violDue := false, bytesOut := 0, ctx := none, retryDue := false, zeroPos := none, output := []
           unitHold := [], tagDue := none, loaded := none, hloaded := none, source := [], chunks := []
           stamp := if l.hdr.ts then some now else none, healed := [] }

/-- What the end of a link does beside its link leaves its request too. -/
theorem endFrame_ownReq : EndFrame (r + 1) i (fun s => s.req r i) := endFrame_req (by omega)

theorem State.healLink_req (k : Nat) : (s.healLink ⟨r, i, k⟩).req r i = (s.req r i).map (·.onLink k fun l => { l with healed := [] }) := by
  have hf := endFrame_ownReq r i
  rw [← State.req_onLink_same]
  cases h : s.link ⟨r, i, k⟩ with
  | none =>
    have hn : ∀ q, s.req r i = some q → q.links[k]? = none := fun q hq => by simpa [State.link_eq, hq] using h
    simp only [State.healLink, h, State.req_onLink_same]
    cases hq : s.req r i with
    | none => rfl
    | some q => exact congrArg some (congrArg (fun x => { q with links := x }) (updAt_of_none (hn q hq) _).symm)
  | some x =>
    simp only [State.healLink, h]
    refine foldl_keeps (fun s : State => s.req r i) (fun t us => ?_) _ _
    refine (foldl_keeps (fun s : State => s.req r i) (fun t u => hf.transient t u) _ _).trans ?_
    exact (hf.push _ _).trans (hf.sch _ _)

theorem Req.onLink_onLink (q : Req) (k : Nat) (f g : Link → Link) : (q.onLink k f).onLink k g = q.onLink k fun l => g (f l) := by
  simp only [Req.onLink, updAt_updAt]

theorem Req.onLink_congr {q : Req} {k : Nat} {l : Link} (hl : q.links[k]? = some l) {f g : Link → Link} (h : f l = g l) :
    q.onLink k f = q.onLink k g := by
  rw [Req.onLink, updAt_congr hl h, Req.onLink]

theorem Req.onLink_id (q : Req) (k : Nat) : (q.onLink k fun l => l) = q := by
  rw [Req.onLink, updAt_id]

theorem State.forceStat_req (k : Nat) (st : Stat) : (s.forceStat ⟨r, i, k⟩ st).req r i
    = (s.req r i).map (·.onLink k fun l => if l.recorded then l else l.forced st s.blk.time) := by
  have hf := endFrame_ownReq r i
  cases h : s.link ⟨r, i, k⟩ with
  | none =>
    have hn : ∀ q, s.req r i = some q → q.links[k]? = none := fun q hq => by simpa [State.link_eq, hq] using h
    simp only [State.forceStat, h]
    cases hq : s.req r i with
    | none => rfl
    | some q => exact congrArg some (congrArg (fun x => { q with links := x }) (updAt_of_none (hn q hq) _).symm)
  | some x =>
    obtain ⟨q, l⟩ := x
    obtain ⟨hq, hl⟩ := State.of_link h
    simp only [State.forceStat, h, hq, Option.map_some]
    cases hr : l.recorded with
    | true =>
      rw [if_pos rfl, hq, Req.onLink_congr hl (g := fun l => l) (by simp [hr]), Req.onLink_id]
    | false =>
      simp only [Bool.false_eq_true, if_false]
      refine (hf.discardReads _ _).trans ((hf.dropWork _ _).trans ((hf.unbind _ _).trans ?_))
      rw [State.healLink_req, State.req_onLink_same, hq]
      simp only [Option.map_some, Req.onLink_onLink]
      rw [Req.onLink_congr hl]
      simp [hr, Link.forced]

/-- A request with a result for every link from number k up to n whose record is not made. -/
def Req.forcedTo (q : Req) (k n : Nat) (st : Nat → Stat) (now : W64) : Req :=
  { q with links := q.links.mapIdx fun j l => if k ≤ j && decide (j < n) && !l.recorded then l.forced (st j) now else l }

theorem Req.forcedTo_succ (q : Req) (k n : Nat) (st : Nat → Stat) (now : W64) : q.forcedTo k (n + 1) st now
    = if k ≤ n then (q.forcedTo k n st now).onLink n fun l => if l.recorded then l else l.forced (st n) now
      else q.forcedTo k n st now := by
  have hl : (q.forcedTo k (n + 1) st now).links = if k ≤ n then updAt (q.forcedTo k n st now).links n
      (fun l => if l.recorded then l else l.forced (st n) now) else (q.forcedTo k n st now).links := by
    refine List.ext_getElem? fun j => ?_
    rw [apply_ite (fun l : List Link => l[j]?), updAt_getElem?]
    simp only [Req.forcedTo, List.getElem?_mapIdx]
    cases q.links[j]? with
    | none => simp
    | some l =>
      by_cases hk : k ≤ n <;> rcases Nat.lt_trichotomy j n with hj | rfl | hj
      · simp [hk, hj, Nat.ne_of_gt hj, Nat.lt_succ_of_lt hj]
      · cases hr : l.recorded <;> simp [hk, hr]
      · simp [hk, Nat.ne_of_lt hj, Nat.not_lt_of_lt hj, show ¬ j < n + 1 by omega]
      · simp [hk, hj, Nat.lt_succ_of_lt hj]
      · simp [hk]
      · simp [hk, Nat.not_lt_of_lt hj, show ¬ j < n + 1 by omega]
  by_cases hk : k ≤ n
  · rw [if_pos hk]
    rw [if_pos hk] at hl
    exact congrArg (fun l => { q with links := l }) hl
  · rw [if_neg hk]
    rw [if_neg hk] at hl
    exact congrArg (fun l => { q with links := l }) hl

theorem State.forceFrom_req {q : Req} (hq : s.req r i = some q) (k : Nat) (st : Nat → Stat) :
    (s.forceFrom q k st).req r i = some (q.forcedTo k q.links.length st s.blk.time) := by
  obtain ⟨rfl, rfl⟩ := State.req_key hq
  let step (s : State) (j : Nat) : State := if k ≤ j then s.forceStat (q.linkId j) (st j) else s
  have hb : ∀ n, ((List.range n).foldl step s).blk = s.blk := fun n =>
    foldl_keeps State.blk (fun t j => keeps_ite State.blk ((endFrame_blk q.ring q.idx).forceStat _ _ _) rfl) _ _
  have hs : ∀ n, ((List.range n).foldl step s).req q.ring q.idx = some (q.forcedTo k n st s.blk.time) := by
    intro n
    induction n with
    | zero =>
      have hl : (q.forcedTo k 0 st s.blk.time).links = q.links :=
        List.ext_getElem? fun j => by simp [Req.forcedTo, List.getElem?_mapIdx]
      have hz : q.forcedTo k 0 st s.blk.time = q := congrArg (fun l => { q with links := l }) hl
      rw [hz]
      exact hq
    | succ n ih =>
      rw [List.range_succ, List.foldl_append, List.foldl_cons, List.foldl_nil, Req.forcedTo_succ]
      by_cases hk : k ≤ n
      · have hf := State.forceStat_req ((List.range n).foldl step s) q.ring q.idx n (st n)
        rw [ih, hb n] at hf
        simp only [step, hk, if_true] at hf ⊢
        exact hf
      · simp only [step, hk, if_false] at ih ⊢
        exact ih
  exact hs _

end Force

/-! #### A link that loses its quadrant -/

section Lose

variable (s : State)

theorem State.writes_onWrites (f : FWrite → Option FWrite) : (s.onWrites f).writes = s.writes.filterMap f := by
  simp [State.writes, State.onWrites, List.flatMap_map, List.filterMap_flatMap]

/-- A write belongs to one link at most. -/
theorem isLinkWrite_unique {a b : LinkId} {p : WPurpose} (ha : isLinkWrite a p = true) (hb : isLinkWrite b p = true) : a = b := by
  revert ha hb
  unfold isLinkWrite
  split <;> simp_all

/-- The links of a request from number k on. -/
def Req.idsFrom (q : Req) (k : Nat) : List LinkId := ((List.range q.links.length).filter (k ≤ ·)).map q.linkId

theorem Req.mem_idsFrom {q : Req} {k j : Nat} {l : Link} (hk : k ≤ j) (hl : q.links[j]? = some l) : q.linkId j ∈ q.idsFrom k := by
  obtain ⟨h, -⟩ := List.getElem?_eq_some_iff.mp hl
  exact List.mem_map.mpr ⟨j, List.mem_filter.mpr ⟨List.mem_range.mpr h, by simpa using hk⟩, rfl⟩

theorem Req.key_of_mem_idsFrom {q : Req} {k : Nat} {id : LinkId} (h : id ∈ q.idsFrom k) : id.ring = q.ring ∧ id.idx = q.idx := by
  obtain ⟨j, -, rfl⟩ := List.mem_map.mp h
  exact ⟨rfl, rfl⟩

/-- A write that stays when links end: one that has issued, or none of theirs. -/
def keptWrite (ids : List LinkId) (w : FWrite) : Option FWrite :=
  if !w.issued && (ids.any fun i => isLinkWrite i w.purpose) then none else some w

/-- The block without the writes of the links that have not issued, and without their grants. -/
def State.taken (s : State) (ids : List LinkId) : State :=
  ids.foldl (fun s i => s.withdraw i)
    (s.onWrites (keptWrite ids))

theorem State.loseLink_eq {r i : Nat} {q : Req} (hq : s.req r i = some q) (k : Nat) : s.loseLink ⟨r, i, k⟩
    = (let t := (s.taken (q.idsFrom k)).forceFrom q k fun j => if j = k then stHwFault 2 else stAbandoned k
       if t.dataWaits ⟨r, i, k⟩ then t.onLink ⟨r, i, k⟩ fun l => { l with stamp := none } else t) := by
  unfold State.loseLink
  simp only [hq]
  rfl

theorem State.taken_writes (ids : List LinkId) : (s.taken ids).writes = s.writes.filterMap (keptWrite ids) := by
  rw [← State.writes_onWrites]
  exact foldl_keeps State.writes (fun t id => (endFrame_writes 0 0).withdraw t id) _ _

theorem State.taken_req (ids : List LinkId) (r i : Nat) : (s.taken ids).req r i = s.req r i :=
  foldl_keeps (fun s : State => s.req r i) (fun t id => (endFrame_ownReq r i).withdraw t id) _ _

variable {s} {r i : Nat} {q : Req} (hq : s.req r i = some q) (k : Nat)

include hq

theorem State.loseLink_writes : (s.loseLink ⟨r, i, k⟩).writes = s.writes.filterMap (keptWrite (q.idsFrom k)) := by
  obtain ⟨rfl, rfl⟩ := State.req_key hq
  rw [State.loseLink_eq s hq, ← State.taken_writes]
  have hf : ∀ st, ((s.taken (q.idsFrom k)).forceFrom q k st).writes = (s.taken (q.idsFrom k)).writes := fun st =>
    (endFrame_writes q.ring q.idx).forceFrom _ rfl rfl k st
  exact keeps_ite State.writes ((State.onLink_writes _ _ _).trans (hf _)) (hf _)

/-- A request that loses its quadrant leaves every other request. -/
theorem State.loseLink_other {r' i' : Nat} (h : r ≠ r' ∨ i ≠ i') : (s.loseLink ⟨r, i, k⟩).req r' i' = s.req r' i' := by
  obtain ⟨rfl, rfl⟩ := State.req_key hq
  rw [State.loseLink_eq s hq, ← State.taken_req s (q.idsFrom k)]
  have he := endFrame_req h
  have hf := fun st => he.forceFrom (s.taken (q.idsFrom k)) (q := q) rfl rfl k st
  exact keeps_ite (fun s : State => s.req r' i') ((he.link _ _ _).trans (hf _)) (hf _)

/-- What a link that loses its quadrant, and every later one, has for a result (R14, R84, R312). -/
theorem State.loseLink_stat {j : Nat} {l : Link} (hj : k ≤ j) (hl : q.links[j]? = some l) (hr : l.recorded = false) :
    ∃ q' l', (s.loseLink ⟨r, i, k⟩).req r i = some q' ∧ q'.links[j]? = some l'
      ∧ l'.stat = some (if j = k then stHwFault 2 else stAbandoned k) := by
  obtain ⟨hjl, -⟩ := List.getElem?_eq_some_iff.mp hl
  let st (j : Nat) : Stat := if j = k then stHwFault 2 else stAbandoned k
  let t := (s.taken (q.idsFrom k)).forceFrom q k st
  let q' := q.forcedTo k q.links.length st (s.taken (q.idsFrom k)).blk.time
  let l' := l.forced (st j) (s.taken (q.idsFrom k)).blk.time
  have ht : t.req r i = some q' := State.forceFrom_req _ r i ((State.taken_req s _ r i).trans hq) k st
  have hl' : q'.links[j]? = some l' := by
    simp only [q', Req.forcedTo, List.getElem?_mapIdx, hl, Option.map_some]
    simp [hj, hjl, hr, l']
  rw [State.loseLink_eq s hq]
  dsimp only
  split
  · refine ⟨q'.onLink k fun l => { l with stamp := none }, if j = k then { l' with stamp := none } else l', ?_, ?_, ?_⟩
    · rw [State.req_onLink_same]
      exact congrArg (Option.map _) ht
    · rw [Req.onLink]
      simp only [updAt_getElem?, hl', eq_comm (a := k)]
      split <;> rfl
    · split <;> simp_all [l', Link.forced, st]
  · exact ⟨q', l', ht, hl', rfl⟩

end Lose

/-! #### Every request of the quadrant -/

section LoseAll

/-- The first link that has not completed. -/
def State.firstOpen (s : State) (r : Req) : Option (Link × Nat) :=
  r.links.zipIdx.find? fun l => !l.1.recorded && !s.linkDone (r.linkId l.2) l.1

/-- A request loses its quadrant. -/
def State.loseReq (s : State) (r : Req) : State :=
  match s.firstOpen r with
  | none => s
  | some l => s.loseLink (r.linkId l.2)

/-- Request r stands as it was, and the writes of its links too. -/
structure State.Untouched (s₀ s : State) (r : Req) : Prop where
  req : s.req r.ring r.idx = some r
  waits : ∀ j, s.linkWaits (r.linkId j) = s₀.linkWaits (r.linkId j)

/-- Request r has lost its quadrant at link k. -/
structure State.Lost (s : State) (r : Req) (k : Nat) : Prop where
  stat : ∀ j l, k ≤ j → r.links[j]? = some l → l.recorded = false →
    ∃ q' l', s.req r.ring r.idx = some q' ∧ q'.links[j]? = some l' ∧ l'.stat = some (if j = k then stHwFault 2 else stAbandoned k)
  writes : ∀ j l, k ≤ j → r.links[j]? = some l → ∀ w ∈ s.writes, isLinkWrite (r.linkId j) w.purpose = true → w.issued = true

variable {s₀ s : State} {r a : Req} {k : Nat}

/-- What a request that loses its quadrant keeps of the writes was there, and is issued where it is of the links that end. -/
theorem kept_write {ids : List LinkId} {w w' : FWrite}
    (h : keptWrite ids w = some w') : w' = w ∧ (w.issued = true ∨ ∀ i ∈ ids, isLinkWrite i w.purpose = false) := by
  unfold keptWrite at h
  split at h
  · exact absurd h (by simp)
  · next hc =>
    refine ⟨(Option.some.inj h).symm, ?_⟩
    simpa [Classical.or_iff_not_imp_left] using hc

/-- The step of another request leaves one that is untouched. -/
theorem State.Untouched.loseReq (h : s₀.Untouched s r) (ha : s.req a.ring a.idx = some a) (hne : a.ring ≠ r.ring ∨ a.idx ≠ r.idx) :
    s₀.Untouched (s.loseReq a) r := by
  unfold State.loseReq
  split
  · exact h
  · refine ⟨(State.loseLink_other ha _ hne).trans h.req, fun j => ?_⟩
    rw [← h.waits]
    unfold State.linkWaits State.writeWaits Req.linkId
    rw [State.loseLink_writes ha, Bool.eq_iff_iff]
    simp only [List.any_eq_true, List.mem_filterMap, Bool.and_eq_true]
    constructor
    · rintro ⟨w', ⟨w, hw, hk⟩, hp⟩
      obtain ⟨rfl, -⟩ := kept_write hk
      exact ⟨_, hw, hp⟩
    · rintro ⟨w, hw, hg, hp⟩
      refine ⟨w, ⟨w, hw, if_neg ?_⟩, hg, hp⟩
      simp only [Bool.and_eq_true, List.any_eq_true, not_and, not_exists]
      rintro - id hid hw'
      obtain ⟨h1, h2⟩ := Req.key_of_mem_idsFrom hid
      rw [isLinkWrite_unique hw' hp] at h1 h2
      exact hne.elim (· h1.symm) (· h2.symm)

theorem State.Lost.loseReq (h : s.Lost r k) (ha : s.req a.ring a.idx = some a) (hne : a.ring ≠ r.ring ∨ a.idx ≠ r.idx) :
    (s.loseReq a).Lost r k := by
  unfold State.loseReq
  split
  · exact h
  · refine ⟨fun j l hj hl hr => ?_, fun j l hj hl w hw hp => ?_⟩
    · obtain ⟨q', l', hq, hl', hs⟩ := h.stat j l hj hl hr
      exact ⟨q', l', (State.loseLink_other ha _ hne).trans hq, hl', hs⟩
    · unfold Req.linkId at hw
      rw [State.loseLink_writes ha] at hw
      obtain ⟨w', hw', hk⟩ := List.mem_filterMap.mp hw
      obtain ⟨rfl, -⟩ := kept_write hk
      exact h.writes j l hj hl _ hw' hp

/-- Its own step loses a request its quadrant, at its first link that has not completed. -/
theorem State.Untouched.lost (h : s₀.Untouched s r) {l : Link} (hl : r.links[k]? = some l)
    (hk : (l.recorded || s₀.linkDone (r.linkId k) l) = false)
    (hb : ∀ j x, j < k → r.links[j]? = some x → (x.recorded || s₀.linkDone (r.linkId j) x) = true) : (s.loseReq r).Lost r k := by
  have hd : ∀ j x, s.linkDone (r.linkId j) x = s₀.linkDone (r.linkId j) x := fun j x => by
    simp only [State.linkDone, h.waits]
  have hf : s.firstOpen r = some (l, k) := by
    obtain ⟨hkl, hkv⟩ := List.getElem?_eq_some_iff.mp hl
    refine List.find?_eq_some_iff_getElem.mpr ⟨?_, k, by simpa using hkl, by simp [hkv], fun j hj => ?_⟩
    · simpa [hd] using hk
    · have hjl : j < r.links.length := Nat.lt_trans hj hkl
      have := hb j r.links[j] hj (List.getElem?_eq_getElem hjl)
      simpa [hd, Classical.or_iff_not_imp_left] using this
  unfold State.loseReq
  rw [hf]
  refine ⟨fun j x hj hx hr => State.loseLink_stat h.req k hj hx hr, fun j x hj hx w hw hp => ?_⟩
  dsimp only at hw
  unfold Req.linkId at hw
  rw [State.loseLink_writes h.req] at hw
  obtain ⟨w', hw', hk⟩ := List.mem_filterMap.mp hw
  obtain ⟨rfl, hc⟩ := kept_write hk
  refine hc.resolve_right fun hn => ?_
  rw [hn _ (Req.mem_idsFrom hj hx)] at hp
  exact absurd hp (by decide)

theorem State.loseReq_other (ha : s.req a.ring a.idx = some a) {r' i' : Nat} (h : a.ring ≠ r' ∨ a.idx ≠ i') :
    (s.loseReq a).req r' i' = s.req r' i' := by
  unfold State.loseReq
  split
  · rfl
  · exact State.loseLink_other ha _ h

/-- The number of a request. -/
def Req.key (r : Req) : Nat × Nat := (r.ring, r.idx)

theorem Req.ne_of_key_ne (h : a.key ≠ r.key) : a.ring ≠ r.ring ∨ a.idx ≠ r.idx := by
  simpa [Req.key, Prod.ext_iff, Classical.or_iff_not_imp_left] using h

theorem State.Lost.foldl {l : List Req} (hn : (l.map Req.key).Nodup) (hl : ∀ a ∈ l, s.req a.ring a.idx = some a)
    (hr : ∀ a ∈ l, a.key ≠ r.key) (h : s.Lost r k) : (l.foldl State.loseReq s).Lost r k := by
  induction l generalizing s with
  | nil => exact h
  | cons a l ih =>
    obtain ⟨ha, hn⟩ := List.nodup_cons.mp hn
    have hs := hl a (List.mem_cons_self ..)
    refine ih hn (fun b hb => ?_) (fun b hb => hr b (List.mem_cons_of_mem _ hb))
      (h.loseReq hs (Req.ne_of_key_ne (hr a (List.mem_cons_self ..))))
    have hab : a.key ≠ b.key := fun he => ha (List.mem_map.mpr ⟨b, hb, he.symm⟩)
    rw [State.loseReq_other hs (Req.ne_of_key_ne hab)]
    exact hl b (List.mem_cons_of_mem _ hb)

/-- Every request of the quadrant loses it, whatever the others do. -/
theorem State.Untouched.foldl {l : List Req} (hn : (l.map Req.key).Nodup) (hl : ∀ a ∈ l, s.req a.ring a.idx = some a) (hr : r ∈ l)
    (h : s₀.Untouched s r) {x : Link} (hx : r.links[k]? = some x) (hk : (x.recorded || s₀.linkDone (r.linkId k) x) = false)
    (hb : ∀ j x, j < k → r.links[j]? = some x → (x.recorded || s₀.linkDone (r.linkId j) x) = true) :
    (l.foldl State.loseReq s).Lost r k := by
  induction l generalizing s with
  | nil => exact absurd hr (by simp)
  | cons a l ih =>
    obtain ⟨ha, hn'⟩ := List.nodup_cons.mp hn
    have hs := hl a (List.mem_cons_self ..)
    have hrest : ∀ b ∈ l, (s.loseReq a).req b.ring b.idx = some b := fun b hb => by
      have hab : a.key ≠ b.key := fun he => ha (List.mem_map.mpr ⟨b, hb, he.symm⟩)
      rw [State.loseReq_other hs (Req.ne_of_key_ne hab)]
      exact hl b (List.mem_cons_of_mem _ hb)
    rcases List.mem_cons.mp hr with rfl | hr
    · rw [List.foldl_cons]
      refine State.Lost.foldl hn' hrest (fun b hb he => ha (List.mem_map.mpr ⟨b, hb, he⟩)) ?_
      exact h.lost hx hk hb
    · have hab : a.key ≠ r.key := fun he => ha (List.mem_map.mpr ⟨r, hr, he.symm⟩)
      exact ih hn' hrest hr (h.loseReq hs (Req.ne_of_key_ne hab))

end LoseAll

/-! #### QUADRANT_LOSS -/

section QuadrantLoss

variable (s : State) (q : Nat)

/-- The eclipse of the units. -/
def State.eclMap (s : State) (u : UnitId) : Option Bool := (s.unit? u).map (·.ecl)

theorem State.eclMap_onUnit (u : UnitId) (f : UnitSt → UnitSt) (h : ∀ x, (f x).ecl = x.ecl) : (s.onUnit u f).eclMap = s.eclMap := by
  funext v
  simp only [State.eclMap, State.unit?_onUnit]
  split
  · simp only [Option.map_map, Function.comp_def, h]
  · rfl

theorem State.eclMap_of_unit? {s t : State} (h : t.unit? = s.unit?) : t.eclMap = s.eclMap := by
  funext v
  simp only [State.eclMap, h]

theorem State.eclMap_unbind (id : LinkId) : (s.unbind id).eclMap = s.eclMap := by
  funext v
  cases v <;> simp [State.eclMap, State.unit?, State.unbind, Function.comp_def, apply_ite]

theorem endFrame_eclMap (r i : Nat) : EndFrame r i State.eclMap where
  link _ _ _ := State.eclMap_of_unit? (State.unit?_of_fields rfl rfl rfl)
  ring _ _ := State.eclMap_of_unit? (State.unit?_of_fields rfl rfl rfl)
  eph _ _ := State.eclMap_of_unit? (State.unit?_of_fields rfl rfl rfl)
  sch _ _ := State.eclMap_of_unit? (State.unit?_of_fields rfl rfl rfl)
  prt _ _ := State.eclMap_of_unit? (State.unit?_of_fields rfl rfl rfl)
  reads _ _ := State.eclMap_of_unit? (State.unit?_of_fields rfl rfl rfl)
  items s p := by
    funext v
    cases v <;> simp [State.eclMap, State.unit?, Function.comp_def]
  pageOps _ _ := State.eclMap_of_unit? (State.unit?_of_fields rfl rfl rfl)
  jobs _ _ := State.eclMap_of_unit? (State.unit?_of_fields rfl rfl rfl)
  unbind s id := State.eclMap_unbind s id
  unit s u f h := State.eclMap_onUnit s u f h

/-- The block when the requests of the quadrant have lost it. -/
def State.linksLost : State :=
  let s := (s.log 0x0206 (uidQuad q) noPart).eclipse (.quad q) 0x0403
  (s.rng.reqs.filter fun r => r.quad == some q).foldl State.loseReq s

/-- A MACU of a lost quadrant holds nothing. -/
def Macu.lost (m : Macu) : Macu :=
  { m with mem := [], loadQ := [], storeQ := [], acc := 0, vec := List.replicate 16 0, batch := none, regions := [none, none, none, none] }

/-- The block when the quadrant is lost. -/
def State.quadrantLost : State :=
  ((s.linksLost q).onDat fun d => { d with
    macus := d.macus.zipIdx.map fun m => if m.2 / 4 == q then m.1.lost else m.1
    compare := d.compare.filter fun w => w.lead / 4 != q }).restage q

theorem State.quadrantLost_rng : (s.quadrantLost q).rng = (s.linksLost q).rng := by
  simp only [State.quadrantLost, State.restage, State.onKey_rng, State.onDat_rng]

theorem State.quadrantLost_mov : (s.quadrantLost q).mov = (s.linksLost q).mov := by
  simp only [State.quadrantLost, State.restage, State.onKey_mov, State.onDat_mov]

theorem State.quadrantLost_macus : (s.quadrantLost q).dat.macus
    = (s.linksLost q).dat.macus.zipIdx.map fun m => if m.2 / 4 == q then m.1.lost else m.1 := by
  simp only [State.quadrantLost, State.restage, State.onKey_dat, State.onDat_dat]

theorem State.quadrantLost_quads : (s.quadrantLost q).dat.quads = (s.linksLost q).dat.quads := by
  simp only [State.quadrantLost, State.restage, State.onKey_dat, State.onDat_dat]

theorem State.link_of_rng {s t : State} (h : t.rng = s.rng) (id : LinkId) : t.link id = s.link id := by
  simp only [State.link, State.req, h]

theorem State.writes_of_mov {s t : State} (h : t.mov = s.mov) : t.writes = s.writes := by
  simp only [State.writes, h]

theorem exec_quadrantLoss {s : State} {q : Nat} (hl : s.live = true) (hq : q < 4) (he : (s.unitSt (.quad q)).ecl = false) :
    exec (.quadrantLoss q) s = .next (s.quadrantLost q) := by
  have hq' : decide (q ≥ 4) = false := by simpa using hq
  show execQuadrantLoss q s = _
  simp only [execQuadrantLoss, hl, he, hq', Bool.not_true, Bool.false_or, Bool.false_eq_true, if_false]
  rfl

theorem State.loseLink_eclMap {s : State} {r i : Nat} (k : Nat) : (s.loseLink ⟨r, i, k⟩).eclMap = s.eclMap := by
  have he := endFrame_eclMap r i
  cases hq : s.req r i with
  | none => simp only [State.loseLink, hq]
  | some q =>
    obtain ⟨rfl, rfl⟩ := State.req_key hq
    have ht : (s.taken (q.idsFrom k)).eclMap = s.eclMap :=
      (foldl_keeps State.eclMap (fun t id => he.withdraw t id) _ _).trans (State.eclMap_of_unit? (State.unit?_of_fields rfl rfl rfl))
    have hf := fun st => (he.forceFrom (s.taken (q.idsFrom k)) (q := q) rfl rfl k st).trans ht
    rw [State.loseLink_eq s hq]
    exact keeps_ite State.eclMap ((he.link _ _ _).trans (hf _)) (hf _)

theorem State.loseReq_eclMap (s : State) (r : Req) : (s.loseReq r).eclMap = s.eclMap := by
  unfold State.loseReq
  split
  · rfl
  · exact State.loseLink_eclMap _

/-- The second clause of O20: QUADRANT_LOSS. -/
theorem quadrantLoss_result {q : Nat} {s : State} (hl : s.live = true) (hq : q < 4) (hn : q < s.dat.quads.length)
    (he : (s.unitSt (.quad q)).ecl = false) :
    ∃ t, exec (.quadrantLoss q) s = .next t ∧ (t.unitSt (.quad q)).ecl = true
      ∧ (∀ u m, u / 4 = q → t.dat.macus[u]? = some m → m.mem = [] ∧ m.loadQ = [] ∧ m.storeQ = [] ∧ m.acc = 0 ∧ m.batch = none)
      ∧ ((s.rng.reqs.map fun r => (r.ring, r.idx)).Nodup → ∀ r ∈ s.rng.reqs, r.quad = some q → ∀ k l, r.links[k]? = some l →
        let ended (j : Nat) (x : Link) : Bool := x.recorded || s.linkDone (r.linkId j) x
        ended k l = false → (∀ j x, j < k → r.links[j]? = some x → ended j x = true) →
        (∃ r' l', t.link (r.linkId k) = some (r', l') ∧ l'.stat = some ⟨0x80, 2⟩)
        ∧ (∀ j x, k < j → r.links[j]? = some x → x.recorded = false →
          ∃ r' l', t.link (r.linkId j) = some (r', l') ∧ l'.stat = some ⟨0x71, k⟩)
        ∧ ∀ j x, k ≤ j → r.links[j]? = some x → ∀ w ∈ t.writes, isLinkWrite (r.linkId j) w.purpose = true → w.issued = true) := by
  have hlen : (s.linksLost q).eclMap = ((s.log 0x0206 (uidQuad q) noPart).eclipse (.quad q) 0x0403).eclMap :=
    foldl_keeps State.eclMap (fun t r => State.loseReq_eclMap t r) _ _
  refine ⟨_, exec_quadrantLoss hl hq he, ?_, fun u m hu hm => ?_, fun hd r hr hrq k l hk => ?_⟩
  · have hq1 : ((s.log 0x0206 (uidQuad q) noPart).unit? (.quad q)) = some s.dat.quads[q].u := by
      rw [State.unit?_log, State.unit?, List.getElem?_eq_getElem hn]
      rfl
    have hq2 : (s.quadrantLost q).eclMap (.quad q) = some true := by
      have hc : (s.quadrantLost q).eclMap (.quad q) = (s.linksLost q).eclMap (.quad q) := by
        simp only [State.eclMap, State.unit?, State.quadrantLost_quads]
      rw [hc, hlen, State.eclMap, State.eclipse_unitSt _ hq1]
      rfl
    obtain ⟨x, hx, hx'⟩ := Option.map_eq_some_iff.mp hq2
    rw [State.unitSt_eq, hx]
    exact hx'
  · rw [State.quadrantLost_macus, List.getElem?_map, List.getElem?_zipIdx, Option.map_map, Option.map_eq_some_iff] at hm
    obtain ⟨m', -, rfl⟩ := hm
    simp [hu, Macu.lost]
  · intro ended hke hb
    let s₁ := (s.log 0x0206 (uidQuad q) noPart).eclipse (.quad q) 0x0403
    have h1 : s₁.rng = s.rng :=
      (State.eclipse_field _ _ _ State.rng (fun _ _ => rfl) (fun _ _ => rfl) (fun _ _ => rfl) (fun _ _ => rfl) (fun _ _ => rfl)).trans
        (State.log_rng _ _ _ _ _)
    have h2 : s₁.mov = s.mov :=
      (State.eclipse_field _ _ _ State.mov (fun _ _ => rfl) (fun _ _ => rfl) (fun _ _ => rfl) (fun _ _ => rfl) (fun _ _ => rfl)).trans
        (State.log_mov _ _ _ _ _)
    have hreq : ∀ a ∈ s.rng.reqs, s₁.req a.ring a.idx = some a := fun a ha => by
      rw [State.req, h1]
      exact State.req_of_mem hd ha
    have hlost : (s.linksLost q).Lost r k := by
      refine State.Untouched.foldl (s₀ := s) ?_ (fun a ha => ?_) ?_ ⟨hreq r hr, fun j => ?_⟩ hk hke hb
      · rw [h1]
        exact hd.sublist (List.Sublist.map _ List.filter_sublist)
      · rw [h1] at ha
        exact hreq a (List.mem_filter.mp ha).1
      · rw [h1]
        exact List.mem_filter.mpr ⟨hr, by simp [hrq]⟩
      · simp only [State.linkWaits, State.writeWaits, State.writes]
        rw [h2]
    have hlink : ∀ j q' l', (s.linksLost q).req r.ring r.idx = some q' → q'.links[j]? = some l' →
        (s.linksLost q).link (r.linkId j) = some (q', l') := fun j q' l' h3 h4 => by
      rw [Req.linkId, State.link_eq, h3]
      simp [h4]
    have hend := (Bool.or_eq_false_iff.mp hke).1
    simp only [State.link_of_rng (s.quadrantLost_rng q), State.writes_of_mov (s.quadrantLost_mov q)]
    refine ⟨?_, fun j x hj hx hr' => ?_, fun j x hj hx w hw hp => ?_⟩
    · obtain ⟨q', l', h3, h4, h5⟩ := hlost.stat k l (Nat.le_refl _) hk hend
      exact ⟨q', l', hlink k q' l' h3 h4, by rw [h5, if_pos rfl]; rfl⟩
    · obtain ⟨q', l', h3, h4, h5⟩ := hlost.stat j x (Nat.le_of_lt hj) hx hr'
      exact ⟨q', l', hlink j q' l' h3 h4, by rw [h5, if_neg (Nat.ne_of_gt hj)]; rfl⟩
    · exact hlost.writes j x hj hx w hw hp

end QuadrantLoss

end Sys2Proof.Machine

/-! ### PROOFS. What the end of a thread group leaves, and core loss (R234, R240, R313) -/

namespace Sys2Proof.Machine

/-- A part of the state that neither the end of a link nor what a message leaves undone touches: of the Orrery it may speak of the
cores, the threads and the count of those that did not quiesce. -/
structure TidyFrame {α : Type} (g : State → α) : Prop where
  ends   : ∀ r i, EndFrame r i g
  rng    : ∀ s f, g (State.onRng s f) = g s
  mbx    : ∀ s f, g (State.onMbx s f) = g s
  msgs   : ∀ s x, g (State.onIo s fun i => { i with msgs := i.msgs ++ [x] }) = g s
  wake   : ∀ s b, g (State.onBlk s fun x => { x with mbxWake := b }) = g s
  exer   : ∀ s f, (∀ e, (f e).cores = e.cores) → g (State.onEnt s f) = g s
  ory    : ∀ s f, (∀ o, (f o).cores = o.cores ∧ (f o).threads = o.threads ∧ (f o).quiesce = o.quiesce) → g (State.onOry s f) = g s

/-- A part that the end of a thread group does not touch either. -/
structure GroupFrame {α : Type} (g : State → α) : Prop extends TidyFrame g where
  writes : ∀ s f, g (State.onWrites s f) = g s
  group  : ∀ s ids, g (State.endThreads s ids) = g s
  thread : ∀ s t, g (State.onThread s t fun x => { stopped := x.stopped }) = g s

/-- The threads that serve a message's channel are freed, one after another. -/
def State.freeAll (s : State) (roots : List Nat) : State := roots.foldl (fun s t => s.freeGroup t) s

/-- A message ended ABORTED, its threads not yet freed. -/
def State.msgAborted (s : State) (c cause : Nat) : State :=
  let m := s.chan c
  let s := (s.detach c).onChan c fun m => { m with st := .aborted, up := List.replicate 16 0, reply := none, aborts := sat 0xFF m.aborts 1 }
  let s := s.onMbx fun b => { b with work := b.work.filter fun w => match w with
    | .quota k _ _ _ _ _ _ _ => k != c
    | .destroy k _ => k != c
    | .reset k _ => k != c
    | .snapshot k _ _ _ => k != c
    | .copying k _ _ _ _ => k != c
    | .reading k _ _ _ _ _ => k != c
    | .rotate k _ => k != c
    | .restore _ => true }
  ((s.dropExercise c).mbxLog 0x0922 c (b2n m.applied) cause).notifyOut c 1

theorem State.abortMsg_eq (s : State) (c cause : Nat) : s.abortMsg c cause = (s.msgAborted c cause).freeAll
    ((List.range 64).filter fun t => (((s.msgAborted c cause).ory.threads[t]?).map (·.work)) == some (.message c)) := by
  unfold State.abortMsg State.msgAborted State.freeAll
  rfl

namespace TidyFrame

variable {α : Type} {g : State → α} (h : TidyFrame g) (s : State)

include h

theorem chan (c : Nat) (f : Mbx → Mbx) : g (s.onChan c f) = g s := h.mbx _ _

theorem mbxIrq (c : Nat) : g (s.mbxIrq c) = g s := State.mbxIrq_field s g h.msgs c

theorem notifyOut (c b : Nat) : g (s.notifyOut c b) = g s := by
  have hw : ∀ t : State, g t.wakeLevel = g t := fun t => h.wake t _
  unfold State.notifyOut
  dsimp only
  refine (hw _).trans (keeps_ite g (State.dbSet_field s g h.mbx h.msgs c b) (keeps_ite g (h.mbxIrq _ _) rfl))

theorem detach (c : Nat) : g (s.detach c) = g s := by
  unfold State.detach
  dsimp only
  refine keeps_ite g ?_ ((h.ory _ _ (by intro _; exact ⟨rfl, rfl, rfl⟩)).trans ?_)
  all_goals exact (h.ory _ _ (by intro _; exact ⟨rfl, rfl, rfl⟩)).trans (((h.ends 0 0).prt _ _).trans (h.rng _ _))

theorem dropExercise (c : Nat) : g (s.dropExercise c) = g s := by
  unfold State.dropExercise
  refine (h.exer _ _ (by intro _; rfl)).trans (foldl_keeps g (fun t u => (h.ends 0 0).unit _ _ _ fun x => ?_) _ _)
  split <;> rfl

theorem msgAborted (c cause : Nat) : g (s.msgAborted c cause) = g s := by
  unfold State.msgAborted
  dsimp only
  refine (h.notifyOut _ _ _).trans ?_
  exact ((h.ends 0 0).push _ _).trans ((h.dropExercise _ _).trans ((h.mbx _ _).trans ((h.chan _ _ _).trans (h.detach _ _))))

end TidyFrame

namespace GroupFrame

variable {α : Type} {g : State → α} (h : GroupFrame g) (s : State)

include h

theorem freeGroup (root : Nat) : g (s.freeGroup root) = g s := h.group _ _

theorem abortMsg (c cause : Nat) : g (s.abortMsg c cause) = g s := by
  rw [State.abortMsg_eq]
  exact (foldl_keeps g (fun t r => h.freeGroup t r) _ _).trans (h.msgAborted s c cause)

theorem endGroup (root det cause : Nat) : g (s.endGroup root det cause) = g s := by
  unfold State.endGroup
  split
  · next id _ =>
    refine (h.freeGroup _ _).trans (((h.ends id.ring id.idx).endLink _ id.link _).trans ?_)
    exact ((h.ends 0 0).dropVJob _ _).trans ((h.ends 0 0).withdraw _ _)
  · exact h.abortMsg _ _ _
  · exact (foldl_keeps g (fun t k => h.thread t k) _ _).trans (h.freeGroup _ _)
  · exact h.freeGroup _ _

end GroupFrame

/-! #### Threads keep their stops -/

section Stops

variable (s : State)

/-- Which threads are stopped. -/
def State.stops : List Bool := s.ory.threads.map (·.stopped)

theorem State.stopped_eq (k : Nat) : (s.thread k).stopped = (s.stops[k]?).getD false := by
  simp only [State.thread, State.stops, List.getElem?_map]
  cases s.ory.threads[k]? <;> rfl

theorem State.restThread_stopped (t : Nat) : (s.restThread t).stopped = (s.thread t).stopped := by
  unfold State.restThread
  dsimp only
  split <;> rfl

theorem State.dmaStop_field {α : Type} (g : State → α) (hm : ∀ s f, g (State.onMov s f) = g s) (n : Nat) : g (s.dmaStop n) = g s := by
  unfold State.dmaStop State.discardReads State.onReads State.onWrites
  exact (hm _ _).trans (hm _ _)

/-- The end of threads changes the Orrery's threads and channels and service DMA alone. -/
theorem State.endThreads_field {α : Type} (g : State → α) (hm : ∀ s f, g (State.onMov s f) = g s) (ids : List Nat) :
    g (s.endThreads ids) = g (s.onOry fun o => { o with
      threads := o.threads.zipIdx.map fun t => if ids.contains t.2 then s.restThread t.2 else t.1
      chans := (o.chans.filter fun c => !ids.contains c.2.reader).map fun c =>
        (c.1, { c.2 with staged := c.2.staged.filter fun w => !ids.contains w.1 }) }) := by
  unfold State.endThreads
  dsimp only
  rw [foldl_keeps g (fun t d => State.dmaStop_field t g hm _), hm]

theorem State.endThreads_stops (ids : List Nat) : (s.endThreads ids).stops = s.stops := by
  rw [State.endThreads_field s State.stops (fun _ _ => rfl)]
  refine List.ext_getElem? fun k => ?_
  simp only [State.stops, State.onOry_ory, List.getElem?_map, List.getElem?_zipIdx]
  cases hk : s.ory.threads[k]? with
  | none => rfl
  | some x =>
    have hs : (s.thread k).stopped = x.stopped := by simp [State.thread, hk]
    simp only [Option.map_some, Nat.zero_add]
    split
    · rw [State.restThread_stopped, hs]
    · rfl

theorem State.stops_onThread (t : Nat) (f : Thread → Thread) (h : ∀ x, (f x).stopped = x.stopped) : (s.onThread t f).stops = s.stops := by
  refine List.ext_getElem? fun k => ?_
  simp only [State.stops, State.onThread, State.onOry_ory, List.getElem?_map, updAt_getElem?]
  split
  · simp [Function.comp_def, h]
  · rfl

theorem State.eclMap_onOry (f : Ory → Ory) (h : ∀ o, (f o).cores = o.cores) : (s.onOry f).eclMap = s.eclMap :=
  State.eclMap_of_unit? (State.unit?_of_cores rfl (h _) rfl)

theorem endFrame_stops (r i : Nat) : EndFrame r i State.stops where
  link _ _ _ := rfl
  ring _ _ := rfl
  eph _ _ := rfl
  sch _ _ := rfl
  prt _ _ := rfl
  reads _ _ := rfl
  items _ _ := rfl
  pageOps _ _ := rfl
  jobs _ _ := rfl
  unbind _ _ := rfl
  unit s u f _ := by cases u <;> rfl

theorem groupFrame_stops : GroupFrame State.stops where
  ends := endFrame_stops
  rng _ _ := rfl
  mbx _ _ := rfl
  msgs _ _ := rfl
  wake _ _ := rfl
  exer _ _ _ := rfl
  writes _ _ := rfl
  ory s f h := by simp only [State.stops, State.onOry_ory, (h s.ory).2.1]
  group s ids := State.endThreads_stops s ids
  thread s t := State.stops_onThread s t _ fun _ => rfl

theorem groupFrame_eclMap : GroupFrame State.eclMap where
  ends := endFrame_eclMap
  rng _ _ := State.eclMap_of_unit? (State.unit?_of_fields rfl rfl rfl)
  mbx _ _ := State.eclMap_of_unit? (State.unit?_of_fields rfl rfl rfl)
  msgs _ _ := State.eclMap_of_unit? (State.unit?_of_fields rfl rfl rfl)
  wake _ _ := State.eclMap_of_unit? (State.unit?_of_fields rfl rfl rfl)
  exer s f h := State.eclMap_of_unit? (by funext v; cases v <;> simp [State.unit?, h])
  writes _ _ := State.eclMap_of_unit? (State.unit?_of_fields rfl rfl rfl)
  ory s f h := State.eclMap_onOry s f fun o => (h o).1
  group s ids := (State.endThreads_field s State.eclMap (fun _ _ => State.eclMap_of_unit? (State.unit?_of_fields rfl rfl rfl)) ids).trans
    (State.eclMap_onOry s _ fun _ => rfl)
  thread s t := State.eclMap_onOry s _ fun _ => rfl

end Stops

/-! #### ORRERY_CORE_LOSS -/

/-- The block when the groups with a thread on the core have ended. -/
def State.groupsLost (s : State) (c : Nat) : State :=
  let roots := ((List.range 64).filter fun t => t / 16 == c && (s.thread t).st != .ended).map fun t => (s.thread t).root
  roots.eraseDups.foldl (fun s r => s.endGroup r 5 causeClosed) (s.eclipse (.oryCore c) 0x0207)

/-- The threads of a core end, stopped or not as they were. -/
def Ory.endCore (c : Nat) (o : Ory) : Ory :=
  { o with threads := o.threads.zipIdx.map fun t => if t.2 / 16 == c then { stopped := t.1.stopped } else t.1 }

theorem exec_orreryCoreLoss {s : State} {c : Nat} (hl : s.live = true) (hc : c < 4) (he : (s.unitSt (.oryCore c)).ecl = false) :
    exec (.orreryCoreLoss c) s = .next ((s.groupsLost c).onOry (Ory.endCore c)) := by
  have hc' : decide (c ≥ 4) = false := by simpa using hc
  show execOrreryCoreLoss c s = _
  simp only [execOrreryCoreLoss, hl, he, hc', Bool.not_true, Bool.false_or, Bool.false_eq_true, if_false]
  rfl

/-- The third clause of O20: ORRERY_CORE_LOSS. -/
theorem orreryCoreLoss_result {c : Nat} {s : State} (hl : s.live = true) (hc : c < 4) (hn : c < s.ory.cores.length)
    (he : (s.unitSt (.oryCore c)).ecl = false) :
    ∃ t, exec (.orreryCoreLoss c) s = .next t ∧ (t.unitSt (.oryCore c)).ecl = true
      ∧ ∀ k, k / 16 = c → t.thread k = { stopped := (s.thread k).stopped } := by
  have hg : ∀ {α : Type} {g : State → α}, GroupFrame g → g (s.groupsLost c) = g (s.eclipse (.oryCore c) 0x0207) := fun h =>
    foldl_keeps _ (fun t r => h.endGroup t r _ _) _ _
  refine ⟨_, exec_orreryCoreLoss hl hc he, ?_, fun k hk => ?_⟩
  · have hu : s.unit? (.oryCore c) = some s.ory.cores[c].u := by
      rw [State.unit?, List.getElem?_eq_getElem hn]
      rfl
    have hq : (s.groupsLost c).eclMap (.oryCore c) = some true := by
      rw [hg groupFrame_eclMap, State.eclMap, State.eclipse_unitSt _ hu]
      rfl
    rw [← State.eclMap_onOry _ (Ory.endCore c) fun _ => rfl] at hq
    obtain ⟨x, hx, hx'⟩ := Option.map_eq_some_iff.mp hq
    rw [State.unitSt_eq, hx]
    exact hx'
  · have hs : (s.groupsLost c).stops = s.stops := by
      rw [hg groupFrame_stops]
      exact State.eclipse_field _ _ _ State.stops (fun _ _ => rfl) (fun _ _ => rfl) (fun _ _ => rfl) (fun _ _ => rfl) (fun _ _ => rfl)
    have ht := State.stopped_eq (s.groupsLost c) k
    rw [hs, ← State.stopped_eq] at ht
    rw [← ht]
    simp only [State.thread, State.onOry_ory, Ory.endCore, List.getElem?_map, List.getElem?_zipIdx]
    cases (s.groupsLost c).ory.threads[k]? with
    | none => rfl
    | some x => simp [hk]

/-- Settles O20. -/
theorem eclipseResults : Obligations.EclipseResults :=
  ⟨fun _ _ _ hl hk hp hd => eclipseEffect_result hl hk hp hd, fun _ _ hl hq hn he => quadrantLoss_result hl hq hn he,
    fun _ _ hl hc hn he => orreryCoreLoss_result hl hc hn he⟩

end Sys2Proof.Machine

/-! ### PROOFS. The MACU commands (R201 to R204, R222, R306, R307) -/

namespace Sys2Proof.Machine

/-! #### One command on one MACU -/

section Command

variable {s : State} {u : Nat} {m : Macu} {id : LinkId}

/-- A command that R204 allows is its function on its MACU. -/
theorem State.macuCmd_ok (hs : s.serving = true) (hm : s.dat.macus[u]? = some m) (hb : m.batch.isSome = true) {ok : Macu → Bool}
    (hok : ok m = true) (f : Macu → Macu) :
    s.macuCmd u ok f = .next (s.onDat fun d => { d with macus := updAt d.macus u fun _ => f m }) := by
  have hb' : m.batch.isNone = false := by simpa [Option.isNone_eq_false_iff] using hb
  simp only [State.macuCmd, hm, hs, hb', hok, Bool.not_true, Bool.or_false, Bool.false_eq_true, if_false, if_true]
  simp only [State.onDat]
  rw [updAt_congr hm (g := fun _ => f m) rfl]

/-- One that breaks it is a command fault (R204). -/
theorem State.macuCmd_fault (hs : s.serving = true) (hm : s.dat.macus[u]? = some m) (hb : m.batch.isSome = true) {ok : Macu → Bool}
    (hok : ok m = false) (f : Macu → Macu) : s.macuCmd u ok f = execCommandFault u s := by
  have hb' : m.batch.isNone = false := by simpa [Option.isNone_eq_false_iff] using hb
  simp [State.macuCmd, hm, hs, hb', hok]

/-- A command that puts out words, without DUAL. -/
theorem State.macuOut_alone (hd : s.dualOn u = none) (n : Nat) (ok : Macu → Bool) (out : Macu → Nat → List (BitVec 256))
    (f : Macu → Nat → Macu) (g : Dat → Dat) : s.macuOut u n ok out f g = s.macuCmd u ok fun m => f m n := by
  simp only [State.macuOut, hd]

theorem State.batchOn_of (hs : s.serving = true) (hm : s.dat.macus[u]? = some m) (hb : m.batch.isSome = true) :
    s.batchOn u = true := by
  simp [State.batchOn, hs, hm, hb]

theorem State.dualOn_onFree (n : Nat) : State.dualOn { s with free := n } u = s.dualOn u := rfl

end Command

/-! #### The scalar commands -/

/-- A product of two words fits the accumulator. -/
theorem mul_setWidth (x y : BitVec 256) : BitVec.ofNat 576 (x.toNat * y.toNat) = x.setWidth 576 * y.setWidth 576 := by
  apply BitVec.eq_of_toNat_eq
  rw [BitVec.toNat_ofNat, BitVec.toNat_mul, BitVec.toNat_setWidth_of_le (by decide), BitVec.toNat_setWidth_of_le (by decide)]

theorem Macu.loadWord_eq {m : Macu} {id : LinkId} (h : m.batch = some id) : m.loadWord = m.loadQ.find? fun x => x.1 == id := by
  unfold Macu.loadWord
  rw [h]
  congr 1

/-- Settles O23. -/
theorem macuScalarCommands : Obligations.MacuScalarCommands := by
  intro u m id s hs hm hb hd answer
  have hb' : m.batch.isSome = true := by rw [hb]; rfl
  refine ⟨fun mod a b ha hb₁ => ?_, fun mod b h => ?_, fun b w h hw => ?_, fun b h hw => ?_, fun a h => ?_, ?_, ?_⟩
  · show execMac u mod a b s = _
    rw [execMac, State.macuCmd_ok hs hm hb' (by simp [ha, hb₁]), ← mul_setWidth]
  · show execShift u mod b s = _
    rw [execShift, State.macuOut_alone hd, State.macuCmd_ok hs hm hb' (by simpa using h)]
    cases mod.getLsbD 0 <;> rfl
  · show execLoad u b s = _
    have hl : m.loadWord = some (id, w) := (Macu.loadWord_eq hb).trans hw
    simp only [execLoad, hm, hd, Option.map_some, hl, Option.isNone_some, show (some false == some true) = false from rfl,
      Bool.and_false, Bool.false_eq_true, if_false]
    refine (State.macuCmd_ok hs hm hb' (ok := fun m => m.holdsAddr b.toNat) h _).trans ?_
    simp only [hl]
    rfl
  · have hl : m.loadWord = none := (Macu.loadWord_eq hb).trans hw
    let w := BitVec.ofNat 256 (s.draw 6).1
    refine ⟨w, (s.draw 6).2.onDat fun d => { d with macus := updAt d.macus u fun _ => m.put b.toNat w }, ?_, rfl⟩
    show execLoad u b s = _
    simp only [execLoad, hm, hd, Option.map_some, hl, State.batchOn_of hs hm hb', Option.isNone_none, beq_self_eq_true, Bool.and_self,
      if_true]
    refine (State.macuCmd_ok (s := (s.draw 6).2) hs hm hb' (ok := fun m => m.holdsAddr b.toNat) h _).trans ?_
    simp only [hl]
    rfl
  · show execStore u a s = _
    rw [execStore, State.macuOut_alone hd, State.macuCmd_ok hs hm hb' h]
    simp [hd, hb]
    rfl
  · show execMacuNop u s = _
    have hn : updAt s.dat.macus u (fun _ => m) = s.dat.macus := by
      rw [updAt_congr hm (g := fun m => m) rfl, updAt_id]
    rw [execMacuNop, State.macuCmd_ok hs hm hb' rfl, State.onDat, hn]
  · show execMacuEnd u s = _
    rw [execMacuEnd, State.macuCmd_ok hs hm hb' rfl]
    simp only [hm]
    rfl

/-! #### The vector commands, lane by lane -/

/-- Digits of 32 bits, the first lowest. -/
def digitSum (d : Nat → Nat) (n : Nat) : Nat := (List.range n).foldl (fun x i => x + (d i % 2 ^ 32) * 2 ^ (32 * i)) 0

theorem digitSum_succ (d : Nat → Nat) (n : Nat) : digitSum d (n + 1) = digitSum d n + (d n % 2 ^ 32) * 2 ^ (32 * n) := by
  simp [digitSum, List.range_succ]

theorem digitSum_lt (d : Nat → Nat) (n : Nat) : digitSum d n < 2 ^ (32 * n) := by
  induction n with
  | zero => simp [digitSum]
  | succ n ih =>
    have hd : d n % 2 ^ 32 + 1 ≤ 2 ^ 32 := Nat.mod_lt _ (by decide)
    calc digitSum d (n + 1) = digitSum d n + (d n % 2 ^ 32) * 2 ^ (32 * n) := digitSum_succ d n
      _ < (d n % 2 ^ 32 + 1) * 2 ^ (32 * n) := by rw [Nat.add_mul, Nat.one_mul]; omega
      _ ≤ 2 ^ 32 * 2 ^ (32 * n) := Nat.mul_le_mul_right _ hd
      _ = 2 ^ (32 * (n + 1)) := by rw [← Nat.pow_add]; congr 1; omega

theorem digitSum_digit (d : Nat → Nat) {n i : Nat} (hi : i < n) : digitSum d n / 2 ^ (32 * i) % 2 ^ 32 = d i % 2 ^ 32 := by
  induction n with
  | zero => omega
  | succ n ih =>
    rw [digitSum_succ]
    rcases Nat.lt_succ_iff_lt_or_eq.mp hi with h | rfl
    · have hp : 2 ^ (32 * n) = 2 ^ (32 * i) * (2 ^ 32 * 2 ^ (32 * (n - i - 1))) := by
        rw [← Nat.pow_add, ← Nat.pow_add]; congr 1; omega
      have hm : (d n % 2 ^ 32) * 2 ^ (32 * n) = 2 ^ (32 * i) * (2 ^ 32 * ((d n % 2 ^ 32) * 2 ^ (32 * (n - i - 1)))) := by
        rw [hp]; ring
      rw [hm, Nat.add_mul_div_left _ _ (Nat.two_pow_pos _), Nat.add_mul_mod_self_left, ih h]
    · rw [Nat.add_mul_div_right _ _ (Nat.two_pow_pos _), Nat.div_eq_of_lt (digitSum_lt d i), Nat.zero_add, Nat.mod_mod]

/-- A lane of a word made of eight. -/
theorem laneWord_lane (f : Nat → Nat) (k : Nat) {i : Nat} (hi : i < 8) :
    ((laneWord f k).toNat >>> (32 * i)) % 2 ^ 32 = f (8 * k + i) % 2 ^ 32 := by
  have hw : (laneWord f k).toNat = digitSum (fun i => f (8 * k + i)) 8 := by
    rw [laneWord, BitVec.toNat_ofNat]
    exact Nat.mod_eq_of_lt (digitSum_lt (fun i => f (8 * k + i)) 8)
  rw [hw, Nat.shiftRight_eq_div_pow, digitSum_digit _ hi]

/-- The sixteen lanes that are written are read back. -/
theorem Macu.vlane_putLanes {m : Macu} (h : Memory.wf 0 m.mem = true) (a : Nat) (f : Nat → Nat) {i : Nat} (hi : i < 16) :
    (m.putLanes a f).vlane a i = f i % 2 ^ 32 := by
  have hw : ∀ b, (m.putLanes a f).word b = if b = a + 1 then laneWord f 1 else if b = a then laneWord f 0 else m.word b := fun b => by
    rw [Macu.putLanes, Macu.word_put _ _ _ (Macu.put_wf _ _ _ h), Macu.word_put _ _ _ h]
  rw [Macu.vlane, hw]
  by_cases h8 : i < 8
  · rw [Nat.div_eq_of_lt h8, if_neg (by omega), if_pos (Nat.add_zero a), Nat.mod_eq_of_lt h8, laneWord_lane f 0 h8]
    simp
  · have hd : i / 8 = 1 := by omega
    rw [hd, if_pos rfl, laneWord_lane f 1 (Nat.mod_lt _ (by decide)), show 8 * 1 + i % 8 = i by omega]

theorem Macu.word_putLanes_of_ne {m : Macu} (h : Memory.wf 0 m.mem = true) {a b : Nat} (f : Nat → Nat) (h0 : b ≠ a) (h1 : b ≠ a + 1) :
    (m.putLanes a f).word b = m.word b := by
  rw [Macu.putLanes, Macu.word_put _ _ _ (Macu.put_wf _ _ _ h), Macu.word_put _ _ _ h, if_neg h1, if_neg h0]

/-- Below bit 64 a lane of VSHIFT is the accumulator's. -/
theorem vshiftLane_mod (m : Macu) {n : Nat} (hn : n < 64) (free i : Nat) :
    vshiftLane m n free i % 2 ^ 32 % 2 ^ min 32 (64 - n) = ((m.vec.getD i 0).toNat >>> n) % 2 ^ min 32 (64 - n) := by
  have hdvd : 2 ^ min 32 (64 - n) ∣ 2 ^ 32 := Nat.pow_dvd_pow 2 (Nat.min_le_left ..)
  rw [Nat.mod_mod_of_dvd _ hdvd, vshiftLane]
  split
  · rw [Nat.add_zero, Nat.mod_mod_of_dvd _ hdvd]
  · have he : min 32 (64 - n) = 32 - (n - 32) := by omega
    rw [he] at hdvd ⊢
    rw [Nat.add_mul_mod_self_right, Nat.mod_mod_of_dvd _ hdvd]

/-- VMAC on the vector accumulators. -/
def Macu.vmac (m : Macu) (mod : BitVec 4) (a b : Nat) : Macu :=
  { m with vec := (List.range 16).map fun i =>
      let v := if mod.getLsbD 0 then 0 else m.vec.getD i 0
      let y := m.vlane b (if mod.getLsbD 2 then 0 else i)
      let p := BitVec.ofNat 64 (m.vlane a i * y)
      if mod.getLsbD 1 then v - p else v + p }

theorem Macu.put_put_eq (m : Macu) (a b : Nat) (w w' : BitVec 256) :
    (m.put a w).put b w' = { m with mem := ((m.put a w).put b w').mem } := rfl

theorem Macu.putLanes_eq (m : Macu) (a : Nat) (f : Nat → Nat) : m.putLanes a f = { m with mem := (m.putLanes a f).mem } := by
  rw [Macu.putLanes]
  exact Macu.put_put_eq _ _ _ _ _

/-- VSHIFT into operand memory. -/
def Macu.vshift (m : Macu) (mod : BitVec 4) (n b free : Nat) : Macu :=
  { m with mem := (m.putLanes b (vshiftLane m n free)).mem, vec := if mod.getLsbD 0 then m.vec else List.replicate 16 0 }

theorem Macu.with_vec {m x : Macu} (h : x = { m with mem := x.mem }) (v : List (BitVec 64) → List (BitVec 64)) :
    { x with vec := v x.vec } = { m with mem := x.mem, vec := v m.vec } := by
  obtain ⟨y, hy⟩ : ∃ y, y = x.mem := ⟨_, rfl⟩
  rw [← hy] at h ⊢
  subst h
  rfl

theorem Macu.vshift_eq (m : Macu) (mod : BitVec 4) (n b free : Nat) : m.vshift mod n b free
    = { m.putLanes b (vshiftLane m n free) with
        vec := if mod.getLsbD 0 then (m.putLanes b (vshiftLane m n free)).vec else List.replicate 16 0 } :=
  (Macu.with_vec (m.putLanes_eq b _) fun v => if mod.getLsbD 0 then v else List.replicate 16 0).symm

theorem exec_vshift {s : State} {u : Nat} {m : Macu} {b : BitVec 10} (hs : s.serving = true) (hm : s.dat.macus[u]? = some m)
    (hb : m.batch.isSome = true) (hd : s.dualOn u = none) (hv : m.vecAddr b.toNat = true) (mod : BitVec 4) (sh : BitVec 6) :
    ∃ d : Nat × State, { d.2 with free := s.free } = s ∧ exec (.vshift u mod sh b) s
      = .next (d.2.onDat fun x => { x with macus := updAt x.macus u fun _ => m.vshift mod sh.toNat b.toNat d.1 }) := by
  let d := if s.batchOn u && 32 < sh.toNat then s.draw 7 else (0, s)
  have hf : d.2 = { s with free := d.2.free } := by
    unfold d
    split <;> rfl
  have hs' : d.2.serving = true := by rw [hf]; exact hs
  have hm' : d.2.dat.macus[u]? = some m := by rw [hf]; exact hm
  have hd' : d.2.dualOn u = none := by rw [hf]; exact hd
  refine ⟨d, by rw [hf], ?_⟩
  show execVshift u mod sh b s = _
  rw [execVshift, State.macuOut_alone hd']
  refine (State.macuCmd_ok hs' hm' hb (ok := fun m => m.vecAddr b.toNat) hv _).trans ?_
  rw [Macu.vshift_eq]

/-- Settles O24. -/
theorem macuVectorCommands : Obligations.MacuVectorCommands := by
  intro u m s b hs hm hb hd hv
  refine ⟨fun mod a ha => ?_, fun mod sh hw => ?_⟩
  · refine ⟨_, m.vmac mod a.toNat b.toNat, ?_, rfl, rfl, by simp [Macu.vmac], fun i hi => ?_⟩
    · show execVmac u mod a b s = _
      rw [execVmac, State.macuCmd_ok hs hm hb (by simp [ha, hv])]
      rfl
    · simp [Macu.vmac, List.getD_eq_getElem?_getD, hi, BitVec.ofNat_mul]
  · obtain ⟨d, hf, he⟩ := exec_vshift hs hm hb hd hv mod sh
    generalize hx : m.vshift mod sh.toNat b.toNat d.1 = x at he
    refine ⟨_, x, he, by rw [← hf]; rfl, ?_, ?_, fun i hi => ?_, fun a h0 h1 => ?_⟩
    · rw [← hx]; simp only [Macu.vshift]
    · rw [← hx]; simp only [Macu.vshift]
    · intro n
      have hl := Macu.vlane_putLanes hw b.toNat (vshiftLane m sh.toNat d.1) hi
      have he : x.vlane b.toNat i = (m.putLanes b.toNat (vshiftLane m sh.toNat d.1)).vlane b.toNat i := by
        rw [← hx]
        simp only [Macu.vlane, Macu.word, Macu.vshift]
      rw [he, hl]
      exact vshiftLane_mod m sh.isLt d.1 i
    · have he : x.word a = (m.putLanes b.toNat (vshiftLane m sh.toNat d.1)).word a := by
        rw [← hx]
        simp only [Macu.word, Macu.vshift]
      rw [he]
      exact Macu.word_putLanes_of_ne hw _ h0 h1

/-! #### The retry of a job -/

section Retry

variable {s : State} {id : LinkId} {q : Req} {l : Link}

theorem State.withdraw_rng (s : State) (id : LinkId) : (s.withdraw id).rng = s.rng := by
  unfold State.withdraw
  exact foldl_keeps State.rng (fun t g => by unfold State.refund; split <;> rfl) _ _

theorem State.withdraw_running (s : State) (id : LinkId) : ∀ g ∈ (s.withdraw id).sch.running, g.id ≠ id := by
  intro g hg
  unfold State.withdraw at hg
  simpa using (List.mem_filter.mp hg).2

theorem State.link_onLink_of_rng {t : State} (h : t.rng = s.rng) (hl : s.link id = some (q, l)) (f : Link → Link) :
    (t.onLink id f).link id = some ({ q with links := updAt q.links id.link f }, f l) := by
  rw [State.link_onLink, State.link_of_rng h, hl]
  rfl

/-- The retry of a job leaves the rest of the schedule. -/
theorem State.rewind_job (hl : s.link id = some (q, l)) (hp : l.hdr.opcode = opPk) (hj : l.job.isSome = true) :
    (s.rewind id).sch = s.sch ∧ ∃ q' l', (s.rewind id).link id = some (q', l') ∧ l'.retryDue = l.retryDue ∧ l'.retryDet = l.retryDet
      ∧ l'.excluded = l.excluded ∧ l'.charged = l.charged := by
  obtain ⟨j, hj⟩ := Option.isSome_iff_exists.mp hj
  have h1 : isLane l.hdr.opcode = false := by rw [hp]; decide
  have h2 : isDigest l.hdr.opcode = false := by rw [hp]; decide
  unfold State.rewind
  simp only [hl, h1, h2, hj, Bool.false_eq_true, if_false]
  exact ⟨rfl, _, _, State.link_onLink_of_rng (by exact rfl) hl _, rfl, rfl, rfl, rfl⟩

/-- Work of a job that is lost for the first time is due a retry (R307). -/
theorem State.enterRetry_job (hl : s.link id = some (q, l)) (hs : l.stat = none) (hu : l.retryUsed = false) (hp : l.hdr.opcode = opPk)
    (hj : l.job.isSome = true) (det : Nat) (units charged : List UnitId) :
    let t := s.enterRetry id det units charged
    (∃ q' l', t.link id = some (q', l') ∧ l'.retryDue = true ∧ l'.retryDet = det ∧ l'.excluded = units ∧ l'.charged = charged)
      ∧ ∀ x ∈ t.sch.running, x.id ≠ id := by
  let f (l : Link) : Link := { l with retryDue := true, retryDet := det, excluded := units, charged := charged }
  have hlink : ((s.withdraw id).onLink id f).link id = some ({ q with links := updAt q.links id.link f }, f l) :=
    State.link_onLink_of_rng (s.withdraw_rng id) hl f
  obtain ⟨hsch, q', l', hl', h1, h2, h3, h4⟩ := State.rewind_job hlink hp hj
  have he : s.enterRetry id det units charged = ((s.withdraw id).onLink id f).rewind id := by
    simp only [State.enterRetry, hl, hs, hu]
    rfl
  rw [he]
  refine ⟨⟨q', l', hl', h1, h2, h3, h4⟩, fun x hx => ?_⟩
  rw [hsch] at hx
  exact s.withdraw_running id x hx

theorem State.onUnit_rng (s : State) (u : UnitId) (f : UnitSt → UnitSt) : (s.onUnit u f).rng = s.rng := by cases u <;> rfl

theorem State.units_firstRun (s : State) (g : Grant) {x : UnitId} (hx : x ∈ g.units) : x ∈ s.firstRun g := by
  unfold State.firstRun
  exact List.mem_eraseDups.mpr (List.mem_append_left _ hx)

theorem State.beatsBefore_zero (s : State) (g : Grant) : s.beatsBefore g 0 = s := by
  unfold State.beatsBefore
  split <;> rfl

/-- What a fault counts and records before it stops the work. -/
theorem State.strike_eq (s : State) {f : UnitFault} (g : Grant) (hf : f.before = 0) : ∃ v : State, v.rng = s.rng ∧ s.strike f g
    = (v.stopBatch g.id).enterRetry g.id (faultCode f.kind) ((v.stopBatch g.id).firstRun g) (chargedUnits f.kind f.unit g) := by
  unfold State.strike
  rw [hf]
  simp only [State.beatsBefore_zero]
  refine ⟨_, ?_, rfl⟩
  rw [State.logReq_rng]
  split
  · exact State.onUnit_rng _ _ _
  · exact State.onUnit_rng _ _ _
  · exact State.onUnit_rng _ _ _
  · exact State.onUnit_rng _ _ _
  · rfl

/-- A fault of the MACUs strikes a job for the first time (R306, R307). -/
theorem State.strike_job {f : UnitFault} {g : Grant} (hl : s.link g.id = some (q, l)) (hs : l.stat = none) (hu : l.retryUsed = false)
    (hp : l.hdr.opcode = opPk) (hj : l.job.isSome = true) (hf : f.before = 0) :
    let t := s.strike f g
    (∃ q' l', t.link g.id = some (q', l') ∧ l'.retryDue = true ∧ l'.retryDet = faultCode f.kind
      ∧ (∀ x ∈ g.units, x ∈ l'.excluded) ∧ l'.charged = chargedUnits f.kind f.unit g) ∧ ∀ x ∈ t.sch.running, x.id ≠ g.id := by
  obtain ⟨v, hv, he⟩ := s.strike_eq g hf
  have hlv : (v.stopBatch g.id).link g.id = some (q, l) := by
    rw [State.link_of_rng (s := s) (by rw [← hv]; rfl), hl]
  obtain ⟨⟨q', l', h1, h2, h3, h4, h5⟩, h6⟩ := State.enterRetry_job hlv hs hu hp hj (faultCode f.kind) ((v.stopBatch g.id).firstRun g)
    (chargedUnits f.kind f.unit g)
  rw [he]
  exact ⟨⟨q', l', h1, h2, h3, fun x hx => h4 ▸ State.units_firstRun _ g hx, h5⟩, h6⟩

end Retry

/-- COMMAND_FAULT strikes the job of the batch (R204). -/
theorem execCommandFault_eq {s : State} {u : Nat} {m : Macu} {id : LinkId} {g : Grant} (hs : s.serving = true)
    (hm : s.dat.macus[u]? = some m) (hb : m.batch = some id)
    (hg : s.sch.running.find? (fun g => g.id == id && g.units.contains (.macu u)) = some g) :
    execCommandFault u s = .next (s.strike ⟨.macuParity, u, id, 0⟩ g) := by
  simp only [execCommandFault, hm, hb, Option.bind_some, hg, hs, if_true]

/-- A SHIFT under DUAL, for the leader and for the follower (R222). -/
theorem execShift_dual {s : State} {u : Nat} {m : Macu} {id : LinkId} {lead : Bool} {mod : BitVec 4} {b : BitVec 10} (hs : s.serving = true)
    (hm : s.dat.macus[u]? = some m) (hb : m.batch = some id) (hd : s.dualOn u = some (id, lead))
    (hok : mod.getLsbD 0 = true ∨ m.holdsAddr b.toNat = true) :
    let word : BitVec 256 := m.acc.setWidth 256
    let acts (s : State) : State := s.onDat fun d => { d with macus := updAt d.macus u fun m =>
      { (if mod.getLsbD 0 then m else m.put b.toNat word) with acc := m.acc >>> 256 } }
    exec (.shift u mod b) s = if lead then .next (acts (s.onDat fun d => { d with compare := d.compare ++ [⟨id, u, [word], 0⟩] }))
      else match s.leaderWord u id with
        | none => .next s
        | some w => if [word] = w.words then .next (acts (s.onDat fun d => { d with compare := d.compare.erase w }))
          else match s.sch.running.find? fun x => x.id == id && x.pair with
            | none => .next s
            | some x => .next (s.strike ⟨.dualMismatch, u, id, 0⟩ x) := by
  intro word acts
  have hb' : m.batch.isSome = true := by rw [hb]; rfl
  have hok' : (mod.getLsbD 0 || m.holdsAddr b.toNat) = true := by simpa using hok
  have hact : ∀ t : State, t.serving = true → t.dat.macus[u]? = some m →
      (t.macuCmd u (fun m => mod.getLsbD 0 || m.holdsAddr b.toNat) fun m =>
        let m := if mod.getLsbD 0 then m else m.put b.toNat (m.acc.setWidth 256)
        { m with acc := m.acc >>> 256 }) = .next (acts t) := fun t hts htm => by
    rw [State.macuCmd_ok hts htm hb' (ok := fun m => mod.getLsbD 0 || m.holdsAddr b.toNat) hok']
    simp only [acts, State.onDat]
    rw [updAt_congr htm]
    cases mod.getLsbD 0 <;> rfl
  show execShift u mod b s = _
  simp only [execShift, State.macuOut, hd, hm, hok', hs, Bool.not_true, Bool.or_self, Bool.false_eq_true, if_false]
  cases lead with
  | true => exact hact _ hs hm
  | false =>
    simp only [Bool.false_eq_true, if_false]
    cases s.leaderWord u id with
    | none => rfl
    | some w =>
      dsimp only
      split
      · exact hact _ hs hm
      · rfl

/-- Settles O26. -/
theorem commandFaultResult : Obligations.CommandFaultResult := by
  refine ⟨fun u m id g q l s hs hm hb hg hl hp hst hu hj => ⟨?_, fun mod a b ha => ?_⟩,
    fun u m id g q l lead mod b s hs hm hb hd hg hun hl hst hu hp hj hok => ?_⟩
  · have hid : g.id = id := by
      have h := List.find?_some hg
      simp only [Bool.and_eq_true, beq_iff_eq] at h
      exact h.1
    subst hid
    obtain ⟨⟨q', l', h1, h2, h3, h4, h5⟩, h6⟩ := State.strike_job (f := ⟨.macuParity, u, g.id, 0⟩) hl hst hu hp hj rfl
    exact ⟨_, q', l', execCommandFault_eq hs hm hb hg, h1, h2, h3, h4, h5, h6⟩
  · show execMac u mod a b s = execCommandFault u s
    exact State.macuCmd_fault hs hm (by rw [hb]; rfl) (by simp [ha]) _
  · intro word acts
    have he := execShift_dual hs hm hb hd hok
    refine ⟨fun h => ?_, fun w h hw => ⟨fun hww => ?_, fun hww => ?_⟩⟩
    · rw [he, if_pos h]
    · simp only [he, h, hw, Bool.false_eq_true, if_false]
      exact if_pos hww.symm
    · have hid : g.id = id := by
        have h := List.find?_some hg
        simp only [Bool.and_eq_true, beq_iff_eq] at h
        exact h.1
      subst hid
      obtain ⟨⟨q', l', h1, h2, h3, h4, h5⟩, h6⟩ := State.strike_job (f := ⟨.dualMismatch, u, g.id, 0⟩) hl hst hu hp hj rfl
      refine ⟨_, q', l', ?_, h1, h2, h3, h4 _ ?_, h4 _ ?_, h5, h6⟩
      · simp only [he, h, hw, hg, Bool.false_eq_true, if_false]
        exact if_neg (Ne.symm hww)
      · rcases hun with hun | hun <;> simp [hun]
      · rcases hun with hun | hun <;> simp [hun]

end Sys2Proof.Machine

/-! ### PROOFS. What issues on a port (R272, R274, R376) -/

namespace Sys2Proof.Machine

/-! #### Issue in order, each with a free index -/

theorem lowestFree_some {used : List Nat} {lo n i : Nat} (h : lowestFree used lo n = some i) : lo ≤ i ∧ i < lo + n ∧ i ∉ used := by
  induction n generalizing lo with
  | zero => simp [lowestFree] at h
  | succ n ih =>
    unfold lowestFree at h
    split at h
    · obtain ⟨h1, h2, h3⟩ := ih h
      exact ⟨by omega, by omega, h3⟩
    · next hc =>
      obtain rfl := Option.some.inj h
      exact ⟨Nat.le_refl _, by omega, by simpa using hc⟩

theorem lowestFree_none {used : List Nat} {lo n i : Nat} (h : lowestFree used lo n = none) (h1 : lo ≤ i) (h2 : i < lo + n) : i ∈ used := by
  induction n generalizing lo with
  | zero => omega
  | succ n ih =>
    unfold lowestFree at h
    split at h
    · next hc =>
      rcases Nat.eq_or_lt_of_le h1 with rfl | hlt
      · simpa using hc
      · exact ih h hlt (by omega)
    · simp at h

section Pumped

variable {α : Type} (iss : α → Bool) (idx : α → Nat) (may : α → Bool) (pool : α → Nat → Prop) (quar : List Nat)

/-- The indices outstanding. -/
def idxs (l : List α) : List Nat := (l.filter iss).map idx

/-- From `done` and what is still to be looked at comes `r`: each in turn stays as it is, where it has issued, may not issue or finds
no index of its pool free, or issues with one. -/
inductive Pumped : List α → List α → List α → Prop
  | nil (done) : Pumped done [] done
  | keep {done w l r} (h : iss w = true ∨ may w = false ∨ ∀ i, pool w i → i ∈ quar ∨ i ∈ idxs iss idx (done ++ w :: l))
      (t : Pumped (done ++ [w]) l r) : Pumped done (w :: l) r
  | issue {done w w' l r} (hw : iss w = false) (hi : iss w' = true) (hp : pool w' (idx w')) (hq : idx w' ∉ quar)
      (hf : idx w' ∉ idxs iss idx (done ++ w :: l)) (t : Pumped (done ++ [w']) l r) : Pumped done (w :: l) r

variable {iss idx may pool quar} {done l r : List α}

theorem idxs_append (a b : List α) : idxs iss idx (a ++ b) = idxs iss idx a ++ idxs iss idx b := by simp [idxs]

theorem idxs_cons_idle {w : α} (h : iss w = false) (l : List α) : idxs iss idx (w :: l) = idxs iss idx l := by simp [idxs, h]

theorem idxs_cons_issued {w : α} (h : iss w = true) (l : List α) : idxs iss idx (w :: l) = idx w :: idxs iss idx l := by simp [idxs, h]

/-- Issue puts one new index among those outstanding. -/
theorem idxs_issue {w w' : α} (hw : iss w = false) (hi : iss w' = true) (done l : List α) :
    (idxs iss idx ((done ++ [w']) ++ l)).Perm (idx w' :: idxs iss idx (done ++ w :: l)) := by
  rw [List.append_assoc, List.singleton_append, idxs_append, idxs_append, idxs_cons_issued hi, idxs_cons_idle hw]
  exact List.perm_middle

/-- Where all have issued, nothing changes. -/
theorem Pumped.of_all (h : ∀ x ∈ l, iss x = true) : Pumped iss idx may pool quar done l (done ++ l) := by
  induction l generalizing done with
  | nil => simpa using Pumped.nil done
  | cons a l ih =>
    refine .keep (Or.inl (h a (List.mem_cons_self ..))) ?_
    rw [show done ++ a :: l = (done ++ [a]) ++ l by simp]
    exact ih fun x hx => h x (List.mem_cons_of_mem _ hx)

theorem Pumped.length (h : Pumped iss idx may pool quar done l r) : r.length = (done ++ l).length := by
  induction h with
  | nil done => simp
  | keep _ _ ih => simpa [Nat.add_assoc, Nat.add_comm 1] using ih
  | issue _ _ _ _ _ _ ih => simpa [Nat.add_assoc, Nat.add_comm 1] using ih

theorem Pumped.subset (h : Pumped iss idx may pool quar done l r) : idxs iss idx (done ++ l) ⊆ idxs iss idx r := by
  induction h with
  | nil done => simp
  | keep _ _ ih => simpa using ih
  | issue hw hi _ _ _ _ ih =>
    refine fun i hm => ih ?_
    exact (idxs_issue hw hi _ _).mem_iff.mpr (List.mem_cons_of_mem _ hm)

theorem Pumped.nodup (h : Pumped iss idx may pool quar done l r) (hn : (idxs iss idx (done ++ l)).Nodup) : (idxs iss idx r).Nodup := by
  induction h with
  | nil done => simpa using hn
  | keep _ _ ih => exact ih (by simpa using hn)
  | issue hw hi _ _ hf _ ih => exact ih ((idxs_issue hw hi _ _).nodup_iff.mpr (List.nodup_cons.mpr ⟨hf, hn⟩))

/-- What has issued in the end had issued, or has an index of its pool, free and in no quarantine. -/
theorem Pumped.issued (h : Pumped iss idx may pool quar done l r) {x : α} (hx : x ∈ r) :
    x ∈ done ++ l ∨ pool x (idx x) ∧ idx x ∉ quar := by
  induction h with
  | nil done => exact Or.inl (by simpa using hx)
  | keep _ _ ih => simpa using ih hx
  | issue _ _ hp hq _ _ ih =>
    rcases ih hx with h | h
    · simp only [List.mem_append, List.mem_cons, List.not_mem_nil, or_false] at h ⊢
      rcases h with (h | rfl) | h
      · exact Or.inl (Or.inl h)
      · exact Or.inr ⟨hp, hq⟩
      · exact Or.inl (Or.inr (Or.inr h))
    · exact Or.inr h

/-- What has not issued in the end may not, or finds every index of its pool taken. -/
theorem Pumped.idle (h : Pumped iss idx may pool quar done l r)
    (hd : ∀ x ∈ done, iss x = false → may x = false ∨ ∀ i, pool x i → i ∈ quar ∨ i ∈ idxs iss idx (done ++ l)) {x : α} (hx : x ∈ r)
    (hi : iss x = false) : may x = false ∨ ∀ i, pool x i → i ∈ quar ∨ i ∈ idxs iss idx r := by
  induction h with
  | nil done => simpa using hd x hx hi
  | keep hk _ ih =>
    refine ih (fun y hy hyi => ?_) hx
    rw [List.append_assoc, List.singleton_append]
    rcases List.mem_append.mp hy with hy | hy
    · exact hd y hy hyi
    · obtain rfl := List.mem_singleton.mp hy
      exact hk.resolve_left (by simp [hyi])
  | issue hw hi' _ _ _ _ ih =>
    refine ih (fun y hy hyi => ?_) hx
    rcases List.mem_append.mp hy with hy | hy
    · refine (hd y hy hyi).imp_right fun h i hp => (h i hp).imp_right fun hm => ?_
      exact (idxs_issue hw hi' _ _).mem_iff.mpr (List.mem_cons_of_mem _ hm)
    · obtain rfl := List.mem_singleton.mp hy
      simp [hi'] at hyi

end Pumped

/-! #### The pump of a port -/

section Pump

variable (silent : Nat → Bool)

/-- A write may issue. -/
def FWrite.may (w : FWrite) : Bool := !w.held && !silent w.fid

/-- The ids of writes. -/
def idPool (_ : FWrite) (i : Nat) : Prop := i < 1024

/-- A read may issue. -/
def FRead.may (r : FRead) : Bool := !silent r.fid

/-- The tags of a read. -/
def tagPool (r : FRead) (i : Nat) : Prop := inPool r i = true

/-- Only what an issue writes, the writes, their generations and the beats, differs. -/
theorem Port.pumpW_pumped (p : Port) (done l : List FWrite) :
    Pumped FWrite.issued FWrite.idx (FWrite.may silent) idPool [] done l (p.pumpW silent done l).writes
    ∧ (p.pumpW silent done l).reads = p.reads ∧ (p.pumpW silent done l).quar = p.quar := by
  induction l generalizing p done with
  | nil => exact ⟨.nil _, rfl, rfl⟩
  | cons w l ih =>
    unfold Port.pumpW
    split
    · next h =>
      obtain ⟨h1, h2⟩ := ih p (done ++ [w])
      refine ⟨.keep ?_ h1, h2⟩
      simp only [Bool.or_eq_true] at h
      rcases h with (h | h) | h <;> simp [FWrite.may, h]
    · next h =>
      have hw : w.issued = false := by simp_all
      have hfil : (done ++ w :: l).filter (·.issued) = (done ++ l).filter (·.issued) := by simp [hw]
      split
      · next hn =>
        obtain ⟨h1, h2⟩ := ih p (done ++ [w])
        refine ⟨.keep (Or.inr (Or.inr fun i hi => Or.inr ?_)) h1, h2⟩
        rw [idxs, hfil]
        exact lowestFree_none hn (Nat.zero_le _) (by simpa [idPool] using hi)
      · next i hs =>
        obtain ⟨-, hlt, hnm⟩ := lowestFree_some hs
        obtain ⟨h1, h2⟩ := ih _ (done ++ [{ w with issued := true, idx := i, gen := (mget p.wrGen i).getD 0 }])
        refine ⟨.issue hw rfl ?_ (by simp) ?_ h1, h2⟩
        · simpa [idPool] using hlt
        · rw [idxs, hfil]
          exact hnm

theorem Port.pumpR_pumped (p : Port) (done l : List FRead) :
    Pumped FRead.issued FRead.idx (FRead.may silent) tagPool p.quar done l (p.pumpR silent done l).reads
    ∧ (p.pumpR silent done l).writes = p.writes ∧ (p.pumpR silent done l).quar = p.quar := by
  induction l generalizing p done with
  | nil => exact ⟨.nil _, rfl, rfl⟩
  | cons w l ih =>
    unfold Port.pumpR
    split
    · next h =>
      obtain ⟨h1, h2⟩ := ih p (done ++ [w])
      refine ⟨.keep ?_ h1, h2⟩
      simp only [Bool.or_eq_true] at h
      rcases h with h | h <;> simp [FRead.may, h]
    · next h =>
      have hw : w.issued = false := by simp_all
      have hfil : (done ++ w :: l).filter (·.issued) = (done ++ l).filter (·.issued) := by simp [hw]
      dsimp only
      split
      · next hn =>
        obtain ⟨h1, h2⟩ := ih p (done ++ [w])
        refine ⟨.keep (Or.inr (Or.inr fun i hi => ?_)) h1, h2⟩
        rw [idxs, hfil]
        refine (List.mem_append.mp (lowestFree_none (i := i) hn ?_ ?_)).symm
        all_goals unfold tagPool inPool at hi; split at hi <;> simp_all
      · next i hs =>
        obtain ⟨hlo, hlt, hnm⟩ := lowestFree_some hs
        obtain ⟨hnm1, hnm2⟩ := (not_or.mp fun h => hnm (List.mem_append.mpr h))
        obtain ⟨h1, h2⟩ := ih _ (done ++ [{ w with issued := true, idx := i, gen := (mget p.rdGen i).getD 0 }])
        refine ⟨.issue hw rfl ?_ hnm2 ?_ h1, h2⟩
        · unfold tagPool inPool
          split <;> simp_all
        · rw [idxs, hfil]
          exact hnm1

/-- The writes, the reads and the quarantine of a port after issue. -/
theorem Port.pump_pumped (p : Port) :
    Pumped FWrite.issued FWrite.idx (FWrite.may silent) idPool [] [] p.writes (p.pump silent).writes
    ∧ Pumped FRead.issued FRead.idx (FRead.may silent) tagPool p.quar [] p.reads (p.pump silent).reads
    ∧ (p.pump silent).quar = p.quar := by
  let q := if p.writes.all fun w => w.issued then p else p.pumpW silent [] p.writes
  have hq : Pumped FWrite.issued FWrite.idx (FWrite.may silent) idPool [] [] p.writes q.writes ∧ q.reads = p.reads ∧ q.quar = p.quar := by
    unfold q
    split
    · next h => exact ⟨.of_all (List.all_eq_true.mp h), rfl, rfl⟩
    · exact p.pumpW_pumped silent [] p.writes
  obtain ⟨hw, hr, hquar⟩ := hq
  have he : p.pump silent = if q.reads.all fun r => r.issued then q else q.pumpR silent [] q.reads := rfl
  rw [he, ← hr, ← hquar]
  split
  · next h => exact ⟨hw, .of_all (List.all_eq_true.mp h), rfl⟩
  · obtain ⟨h1, h2, h3⟩ := q.pumpR_pumped silent [] q.reads
    exact ⟨h2 ▸ hw, h1, h3⟩

end Pump

/-- Settles O48. -/
theorem pumpKeepsTags : Obligations.PumpKeepsTags := by
  intro silent p
  obtain ⟨hw, hr, hq⟩ := Port.pump_pumped silent p
  refine ⟨hw.nodup, fun hn hnq => ⟨hr.nodup hn, fun r hm hi => ?_⟩, hw.length, hr.length, fun w hm hi => ?_, fun w hm hi => ?_,
    fun r hm hi => ?_, fun r hm hi => ?_⟩
  · rw [hq]
    exact (hr.issued hm).elim (fun h => hnq r h hi) (·.2)
  · rcases hw.idle (by simp) hm hi with h | h
    · simp only [FWrite.may, Bool.and_eq_false_iff, Bool.not_eq_false'] at h
      exact h.imp_right Or.inl
    · have hs : List.range 1024 ⊆ idxs FWrite.issued FWrite.idx (p.pump silent).writes := fun i hi =>
        (h i (List.mem_range.mp hi)).resolve_left (by simp)
      have hl := (List.nodup_range.subperm hs).length_le
      rw [List.length_range, idxs, List.length_map] at hl
      exact Or.inr (Or.inr hl)
  · exact (hw.issued hm).imp id (·.1)
  · exact (hr.issued hm).imp id (·.1)
  · rw [hq]
    refine (hr.idle (by simp) hm hi).imp (fun h => by simpa [FRead.may] using h) fun h i hp => (h i hp).imp_right fun hi' => ?_
    obtain ⟨v, hv, rfl⟩ := List.mem_map.mp hi'
    exact ⟨v, (List.mem_filter.mp hv).1, (List.mem_filter.mp hv).2, rfl⟩

end Sys2Proof.Machine

/-! ### PROOFS. What the end of a link makes of it (R84, R87, R88, R90) -/

namespace Sys2Proof.Machine

section EndLink

variable {s : State} {r i k : Nat} {q : Req} {l : Link}

/-- A link with its result (R87, R88). -/
def Link.ended (l : Link) (st : Stat) (stamp : Option W64) (viol : Bool) : Link :=
  { l with stat := some st, bytesOut := if st.good then l.outPos else 0, ctx := none, retryDue := false, zeroPos := none
           output := if st.good then l.output else [], unitHold := [], tagDue := none, loaded := none, hloaded := none
           stamp := stamp, violDue := viol, healed := [] }

theorem State.link_of_req (hq : s.req r i = some q) (hl : q.links[k]? = some l) : s.link ⟨r, i, k⟩ = some (q, l) := by
  rw [State.link_eq, hq]
  simp [hl]

/-- The links that are abandoned lie behind. -/
theorem State.abandonAfter_link (hl : s.link ⟨r, i, k⟩ = some (q, l)) : ∃ q', (s.abandonAfter ⟨r, i, k⟩).link ⟨r, i, k⟩ = some (q', l) := by
  obtain ⟨hq, hk⟩ := State.of_link hl
  refine ⟨_, State.link_of_req (q := q.forcedTo (k + 1) q.links.length (fun _ => stAbandoned k) s.blk.time) ?_ ?_⟩
  · simp only [State.abandonAfter, hq]
    exact State.forceFrom_req s r i hq (k + 1) _
  · simp [Req.forcedTo, List.getElem?_mapIdx, hk]

theorem State.req_packetViolation (s : State) (c a b d : Nat) : (s.packetViolation c a b d).req r i = s.req r i :=
  (endFrame_ownReq r i).packetViolation s c a b d

theorem State.link_onLink_own (hl : s.link ⟨r, i, k⟩ = some (q, l)) (f : Link → Link) :
    (s.onLink ⟨r, i, k⟩ f).link ⟨r, i, k⟩ = some (q.onLink k f, f l) := by
  rw [State.link_onLink, hl]
  rfl

/-- What reads the same of the requests reads the same of a link. -/
theorem State.link_of_req_eq {t : State} (h : t.req r i = s.req r i) (k : Nat) : t.link ⟨r, i, k⟩ = s.link ⟨r, i, k⟩ := by
  rw [State.link_eq, State.link_eq, h]

theorem State.healLink_link (hl : s.link ⟨r, i, k⟩ = some (q, l)) :
    (s.healLink ⟨r, i, k⟩).link ⟨r, i, k⟩ = some (q.onLink k fun l => { l with healed := [] }, { l with healed := [] }) := by
  obtain ⟨hq, hk⟩ := State.of_link hl
  refine State.link_of_req ?_ ?_
  · rw [State.healLink_req, hq]
    rfl
  · simp [Req.onLink, updAt_getElem?, hk]

/-- The link has its result, and its unit, its grants and its reads are free of it. -/
def State.endNow (s : State) (id : LinkId) (st : Stat) : State :=
  let waits := s.dataWaits id
  let now := some s.blk.time
  let s := s.onLink id fun l =>
    { l with stat := some st, bytesOut := if st.good then l.outPos else 0, ctx := none, retryDue := false,
             zeroPos := none, output := if st.good then l.output else [], unitHold := [], tagDue := none,
             loaded := none, hloaded := none, stamp := if l.hdr.ts && !waits then now else l.stamp }
  let s := (s.healLink id).unbind id
  let s := s.onSch fun c => { c with running := c.running.filter fun g => g.id != id }
  s.discardReads fun u => isLinkRead id u || (!st.good && isLaterRead id u)

/-- A result that is a violation is counted, or noted for the link's turn (R59). -/
def State.endViol (s : State) (q : Req) (id : LinkId) (st : Stat) : State :=
  match st.violation with
  | some c =>
    if (q.links.take id.link).all (·.recorded) then s.packetViolation c id.ring id.idx id.link
    else s.onLink id fun l => { l with violDue := true }
  | none => s

theorem State.endAs_eq {id : LinkId} (hl : s.link id = some (q, l)) (hs : l.stat = none) (st : Stat) : s.endAs id st
    = if st.good then (s.endNow id st).endViol q id st else ((s.endNow id st).endViol q id st).abandonAfter id := by
  simp only [State.endAs, hl, hs, Option.isSome_none, Bool.false_eq_true, if_false]
  rfl

theorem State.endNow_link (hl : s.link ⟨r, i, k⟩ = some (q, l)) (st : Stat) :
    ∃ q' stamp, (s.endNow ⟨r, i, k⟩ st).link ⟨r, i, k⟩ = some (q', l.ended st stamp l.violDue) := by
  have hf := endFrame_ownReq r i
  unfold State.endNow
  dsimp only
  rw [State.link_of_req_eq ((hf.discardReads _ _).trans ((hf.sch _ _).trans (hf.unbind _ _))) k,
    State.healLink_link (State.link_onLink_own hl _)]
  exact ⟨_, _, rfl⟩

theorem State.endViol_link {l' : Link} (hl : s.link ⟨r, i, k⟩ = some (q, l')) (q₀ : Req) (st : Stat) :
    ∃ q' viol, (s.endViol q₀ ⟨r, i, k⟩ st).link ⟨r, i, k⟩ = some (q', { l' with violDue := viol }) := by
  unfold State.endViol
  split
  · split
    · exact ⟨q, l'.violDue, (State.link_of_req_eq (State.req_packetViolation ..) k).trans hl⟩
    · exact ⟨_, true, State.link_onLink_own hl _⟩
  · exact ⟨q, l'.violDue, hl⟩

/-- A link without a result has the one that it is given, and keeps all but what a result ends. -/
theorem State.endAs_link (hl : s.link ⟨r, i, k⟩ = some (q, l)) (hs : l.stat = none) (st : Stat) :
    ∃ q' stamp viol, (s.endAs ⟨r, i, k⟩ st).link ⟨r, i, k⟩ = some (q', l.ended st stamp viol) := by
  obtain ⟨q₁, stamp, h₁⟩ := State.endNow_link hl st
  obtain ⟨q₂, viol, h₂⟩ := State.endViol_link h₁ q st
  rw [State.endAs_eq hl hs]
  split
  · exact ⟨q₂, stamp, viol, h₂⟩
  · obtain ⟨q₃, h₃⟩ := State.abandonAfter_link h₂
    exact ⟨q₃, stamp, viol, h₃⟩

/-- One that has a result keeps it. -/
theorem State.endAs_of_stat {id : LinkId} (hl : s.link id = some (q, l)) (hs : l.stat.isSome = true) (st : Stat) : s.endAs id st = s := by
  simp [State.endAs, hl, hs]

/-! An earlier link of the request keeps as it is. -/

section Earlier

variable {j : Nat} {lj : Link} (hj : j < k)

include hj

theorem State.link_onLink_earlier (hl : s.link ⟨r, i, j⟩ = some (q, lj)) (f : Link → Link) :
    (s.onLink ⟨r, i, k⟩ f).link ⟨r, i, j⟩ = some (q.onLink k f, lj) := by
  obtain ⟨hq, hk⟩ := State.of_link hl
  refine State.link_of_req (by rw [State.req_onLink_same, hq]; rfl) ?_
  simp [Req.onLink, updAt_getElem?, hk, Nat.ne_of_gt hj]

theorem State.healLink_earlier (hl : s.link ⟨r, i, j⟩ = some (q, lj)) :
    ∃ q', (s.healLink ⟨r, i, k⟩).link ⟨r, i, j⟩ = some (q', lj) := by
  obtain ⟨hq, hk⟩ := State.of_link hl
  refine ⟨_, State.link_of_req (q := q.onLink k fun l => { l with healed := [] }) (by rw [State.healLink_req, hq]; rfl) ?_⟩
  simp [Req.onLink, updAt_getElem?, hk, Nat.ne_of_gt hj]

theorem State.abandonAfter_earlier (hl : s.link ⟨r, i, j⟩ = some (q, lj)) :
    ∃ q', (s.abandonAfter ⟨r, i, k⟩).link ⟨r, i, j⟩ = some (q', lj) := by
  obtain ⟨hq, hk⟩ := State.of_link hl
  refine ⟨_, State.link_of_req (q := q.forcedTo (k + 1) q.links.length (fun _ => stAbandoned k) s.blk.time) ?_ ?_⟩
  · simp only [State.abandonAfter, hq]
    exact State.forceFrom_req s r i hq (k + 1) _
  · simp [Req.forcedTo, List.getElem?_mapIdx, hk, Nat.not_lt_of_lt hj]

theorem State.endAs_earlier (hl : s.link ⟨r, i, j⟩ = some (q, lj)) (st : Stat) :
    ∃ q', (s.endAs ⟨r, i, k⟩ st).link ⟨r, i, j⟩ = some (q', lj) := by
  have hf := endFrame_ownReq r i
  cases hlk : s.link ⟨r, i, k⟩ with
  | none => exact ⟨q, by simpa [State.endAs, hlk] using hl⟩
  | some x =>
    obtain ⟨q₀, l⟩ := x
    cases hs : l.stat with
    | some _ => exact ⟨q, by rw [State.endAs_of_stat hlk (by rw [hs]; rfl)]; exact hl⟩
    | none =>
      have h₁ : ∃ q', (s.endNow ⟨r, i, k⟩ st).link ⟨r, i, j⟩ = some (q', lj) := by
        unfold State.endNow
        dsimp only
        rw [State.link_of_req_eq ((hf.discardReads _ _).trans ((hf.sch _ _).trans (hf.unbind _ _))) j]
        exact State.healLink_earlier hj (State.link_onLink_earlier hj hl _)
      obtain ⟨q₁, h₁⟩ := h₁
      have h₂ : ∃ q', ((s.endNow ⟨r, i, k⟩ st).endViol q₀ ⟨r, i, k⟩ st).link ⟨r, i, j⟩ = some (q', lj) := by
        unfold State.endViol
        split
        · split
          · exact ⟨q₁, (State.link_of_req_eq (State.req_packetViolation ..) j).trans h₁⟩
          · exact ⟨_, State.link_onLink_earlier hj h₁ _⟩
        · exact ⟨q₁, h₁⟩
      obtain ⟨q₂, h₂⟩ := h₂
      rw [State.endAs_eq hlk hs]
      split
      · exact ⟨q₂, h₂⟩
      · exact State.abandonAfter_earlier hj h₂

end Earlier

/-- The output of a link that ended well goes to the next, which leaves the link as it is. -/
theorem State.handOver_link (hl : s.link ⟨r, i, k⟩ = some (q, l)) : ∃ q', (s.handOver ⟨r, i, k⟩).link ⟨r, i, k⟩ = some (q', l) := by
  have hk : k < k + 1 := Nat.lt_succ_self k
  simp only [State.handOver, hl]
  split
  · exact ⟨q, hl⟩
  · have h₁ := State.link_onLink_earlier hk hl fun n => { n with source := l.output }
    split
    · exact ⟨_, h₁⟩
    · split
      · exact ⟨_, h₁⟩
      · exact State.endAs_earlier hk h₁ _

/-- The result of a link whose work gives `st`: a failure noted before comes first, and a good one after a retry says so (R308). -/
def Link.result (l : Link) (st : Stat) : Stat :=
  let st := l.err.getD st
  if st.code = 0 ∧ l.retried then stRetried l.retryDet else st

/-- The end of a link. -/
theorem State.endLink_link (hl : s.link ⟨r, i, k⟩ = some (q, l)) (hs : l.stat = none) (st : Stat) :
    ∃ q' stamp viol, (s.endLink ⟨r, i, k⟩ st).link ⟨r, i, k⟩ = some (q', l.ended (l.result st) stamp viol) := by
  obtain ⟨q₁, stamp, viol, h₁⟩ := State.endAs_link hl hs (l.result st)
  have he : s.endLink ⟨r, i, k⟩ st = if (l.result st).good then (s.endAs ⟨r, i, k⟩ (l.result st)).handOver ⟨r, i, k⟩
      else s.endAs ⟨r, i, k⟩ (l.result st) := by
    simp only [State.endLink, hl]
    rfl
  rw [he]
  split
  · obtain ⟨q₂, h₂⟩ := State.handOver_link h₁
    exact ⟨q₂, stamp, viol, h₂⟩
  · exact ⟨q₁, stamp, viol, h₁⟩

end EndLink

/-! #### READ_COMPLETION, READ_TIMEOUT, TAG_QUARANTINE_END, WRITE_RESPONSE (R272 to R281, R379) -/

section Answers

variable {s : State} {n k : Nat}

theorem State.onPort_onPort (s : State) (n : Nat) (f g : Port → Port) : (s.onPort n f).onPort n g = s.onPort n fun p => g (f p) := by
  simp only [State.onPort, State.onMov, updAt_updAt]

theorem State.port_onPort {p : Port} (hp : s.mov.ports[n]? = some p) (f : Port → Port) : (s.onPort n f).mov.ports[n]? = some (f p) := by
  simp [State.onPort, updAt_getElem?, hp]

/-- What is late is counted and recorded, and changes nothing else. -/
theorem State.late_eq (hl : s.live = true) (n index gen : Nat) : (s.late n index gen).rng = s.rng ∧ (s.late n index gen).key = s.key
    ∧ (s.late n index gen).ory = s.ory ∧ (s.late n index gen).mov = (s.onPort n fun p => { p with late := sat 0xFF p.late 1 }).mov := by
  simp [State.late, hl, State.onPort]

theorem exec_readCompletion (hl : s.live = true) (hn : n < 8) (k g : Nat) (bs : List ReadBeat) {p : Port}
    (hp : s.mov.ports[n]? = some p) : let u := s.onPort n fun p => { p with beats := p.beats + bs.length }
    let v := u.onPort n fun p => { p with reads := p.reads.filter fun r => !(r.issued && r.idx == k) }
    exec (.readCompletion n k g bs) s = .next (match p.reads.find? (fun r => r.issued && r.idx == k && r.gen == g) with
      | none => u.late n k g
      | some r => if r.discard then v.pump else (v.readAnswered r (r.answer bs) bs).pump) := by
  intro u v
  have hd : (s.blk.mode == .dormant) = false := by
    cases hm : s.blk.mode <;> simp [State.live, hm] at hl ⊢
  have hn' : decide (n ≥ 8) = false := by simpa using hn
  have hu : (u.mov.ports[n]?) = some { p with beats := p.beats + bs.length } := State.port_onPort hp _
  show execReadCompletion n k g bs s = _
  simp only [execReadCompletion, hd, hn', Bool.or_self, Bool.false_eq_true, if_false]
  rw [hu]
  simp only [Option.map_some, Option.bind_some]
  cases p.reads.find? (fun r => r.issued && r.idx == k && r.gen == g) with
  | none => rfl
  | some r =>
    have hv : v.live = true := hl
    show Host.Outcome.next (State.pump (if r.discard || !v.live then v else v.readAnswered r (r.answer bs) bs)) = _
    rw [hv]
    dsimp only
    cases r.discard <;> rfl

theorem exec_readTimeout (hl : s.live = true) {p : Port} (hp : s.mov.ports[n]? = some p) {r : FRead}
    (hr : p.reads.find? (fun r => r.issued && r.idx == k) = some r) :
    exec (.readTimeout n k) s = .next (if r.discard then s else ((s.onPort n fun p => { p with
        reads := p.reads.filter (fun r => !(r.issued && r.idx == k)), quar := p.quar ++ [k] }).readAnswered r (.timeout 0 []) []).pump) := by
  show execReadTimeout n k s = _
  simp only [execReadTimeout, hp, Option.map_some, Option.bind_some, hr, hl, Bool.not_true, Bool.false_or, State.takeRead,
    State.onPort_onPort]

theorem exec_writeResponse (hl : s.live = true) (hn : n < 8) (k g : Nat) (okay : Bool) {p : Port} (hp : s.mov.ports[n]? = some p) :
    let t := s.onPort n fun p => { p with writes := p.writes.filter fun v => !(v.issued && v.idx == k) }
    exec (.writeResponse n k g okay) s = .next (match p.writes.find? (fun w => w.issued && w.idx == k && w.gen == g) with
      | none => s.late n k g
      | some w => if w.given then t.pump else (((if okay then t else t.writeError n w).writeAnswered n w okay).opsNext).pump) := by
  intro t
  have hd : (s.blk.mode == .dormant) = false := by
    cases hm : s.blk.mode <;> simp [State.live, hm] at hl ⊢
  have hn' : decide (n ≥ 8) = false := by simpa using hn
  show execWriteResponse n k g okay s = _
  simp only [execWriteResponse, hd, hn', Bool.or_self, Bool.false_eq_true, if_false, hp, Option.map_some, Option.bind_some]
  cases p.writes.find? (fun w => w.issued && w.idx == k && w.gen == g) with
  | none => rfl
  | some w =>
    have ht : t.live = true := hl
    show Host.Outcome.next (State.pump (if w.given || !t.live then t
      else ((if okay then t else t.writeError n w).writeAnswered n w okay).opsNext)) = _
    rw [ht]
    dsimp only
    cases w.given <;> rfl

end Answers

/-! #### Source reads that fail (R274 to R277) -/

section Source

variable {s : State} {r i k : Nat} {q : Req} {l : Link}

theorem State.readFailed_rng (s : State) (a : ReadAnswer) (addr part : Nat) (about : Option LinkId) :
    (s.readFailed a addr part about).rng = s.rng := by
  unfold State.readFailed
  cases a <;> cases about <;> simp [State.onPort]

theorem State.pump_rng (s : State) : s.pump.rng = s.rng := rfl

/-- A read that times out is noted, and ends its link at the coming cut. -/
theorem State.readTimedOut_link (hl : s.link ⟨r, i, k⟩ = some (q, l)) (st : Stat) : ∃ q', (s.readTimedOut ⟨r, i, k⟩ st).link ⟨r, i, k⟩
    = some (q', { l with err := some (l.err.getD st), timedOut := true }) := by
  unfold State.readTimedOut State.noteErr
  rw [State.link_of_req_eq ((endFrame_ownReq r i).discardReads _ _) k, State.link_onLink_own (State.link_onLink_own hl _)]
  exact ⟨_, rfl⟩

theorem State.write_rng (s : State) (addr : Nat) (data : Bytes) (fid cls : Nat) (p : WPurpose) (poison : List Nat) :
    (s.write addr data fid cls p poison).rng = s.rng := rfl

theorem State.markSourceAt_rng (s : State) (id : LinkId) (off : Nat) : (s.markSourceAt id off).rng = s.rng := by
  unfold State.markSourceAt
  split
  · rfl
  · split
    · unfold State.markBad
      split
      · rfl
      · exact State.write_rng ..
    · rfl

theorem State.markSourceAt_link (hl : s.link ⟨r, i, k⟩ = some (q, l)) (off : Nat) :
    (s.markSourceAt ⟨r, i, k⟩ off).link ⟨r, i, k⟩ = some (q, l) :=
  (State.link_of_rng (s.markSourceAt_rng _ _) _).trans hl

theorem State.sourceBusError_link (hl : s.link ⟨r, i, k⟩ = some (q, l)) (hs : l.stat = none) (he : l.err = none) (off : Nat) :
    ∃ q' l', (s.sourceBusError ⟨r, i, k⟩ off).link ⟨r, i, k⟩ = some (q', l') ∧ l'.stat = some ⟨0x40, 1⟩ := by
  have hr : l.result (stBusError atSource) = ⟨0x40, 1⟩ := by simp [Link.result, he, stBusError, atSource]
  simp only [State.sourceBusError, hl, hs, he, Option.isSome_none, Option.isNone_none, Bool.false_eq_true, if_false, if_true]
  obtain ⟨q', stamp, viol, h⟩ := State.endLink_link (State.markSourceAt_link hl off) hs (stBusError atSource)
  exact ⟨q', _, h, congrArg some hr⟩

theorem State.sourcePoisoned_link (hl : s.link ⟨r, i, k⟩ = some (q, l)) (off : Nat) (b : Bytes) (bad : List (Nat × Nat))
    (ho : (isLane l.hdr.opcode || isDigest l.hdr.opcode) = true) : ∃ q' l', (s.sourcePoisoned ⟨r, i, k⟩ off b bad).link ⟨r, i, k⟩
      = some (q', l') ∧ l'.stat = l.stat ∧ l'.err = some (l.err.getD ⟨0x41, 1⟩) ∧ ∃ m, l'.poisoned = l.poisoned ++ m := by
  simp only [State.sourcePoisoned, hl, ho, Bool.not_true, Bool.false_eq_true, if_false, State.noteErr]
  rw [State.link_onLink_own (State.link_onLink_own hl _)]
  exact ⟨_, _, rfl, rfl, rfl, _, rfl⟩

theorem State.sourcePoisoned_fails (hl : s.link ⟨r, i, k⟩ = some (q, l)) (off : Nat) (b : Bytes) (bad : List (Nat × Nat))
    (ho : (isLane l.hdr.opcode || isDigest l.hdr.opcode) = false) (hs : l.stat = none) (he : l.err = none) :
    ∃ q' l', (s.sourcePoisoned ⟨r, i, k⟩ off b bad).link ⟨r, i, k⟩ = some (q', l') ∧ l'.stat = some ⟨0x41, 1⟩ := by
  have hr : l.result (stPoisoned atSource) = ⟨0x41, 1⟩ := by simp [Link.result, he, stPoisoned, atSource]
  simp only [State.sourcePoisoned, hl, ho, Bool.not_false, if_true, State.failData]
  obtain ⟨q', stamp, viol, h⟩ := State.endLink_link hl hs (stPoisoned atSource)
  exact ⟨q', _, h, congrArg some hr⟩

end Source

/-- What the answer of a source read does to the state in which its failure is counted. -/
def State.answerSource (s : State) (r : FRead) (id : LinkId) (off : Nat) (bs : List ReadBeat) : ReadAnswer → State
  | .ok b => s.onLink id fun l => l.arrive off b
  | .busError _ _ => s.sourceBusError id off
  | .timeout _ _ => s.readTimedOut id (stTimeout atSource)
  | .poisoned _ _ _ => s.sourcePoisoned id off (r.bytes bs) (r.poisonedParts bs)

theorem State.readAnswered_source (s : State) {r : FRead} {id : LinkId} {off : Nat} (h : r.purpose = .source id off) (a : ReadAnswer)
    (bs : List ReadBeat) :
    s.readAnswered r a bs = (s.readFailed a r.addr (s.readPart r) (some id)).answerSource r id off bs a := by
  simp only [State.readAnswered, h, RPurpose.about]
  cases a <;> rfl

/-- The link of a source read after its answer. -/
theorem State.answered_link {t : State} {r : FRead} {id : LinkId} {off : Nat} (hp : r.purpose = .source id off) {a : ReadAnswer}
    {bs : List ReadBeat} {x : Option (Req × Link)}
    (h : ((t.readFailed a r.addr (t.readPart r) (some id)).answerSource r id off bs a).link id = x) :
    (t.readAnswered r a bs).pump.link id = x :=
  (State.link_of_rng (State.pump_rng _) _).trans ((congrArg (State.link · id) (State.readAnswered_source t hp a bs)).trans h)

/-- An issued read is the one that its tag finds. -/
theorem find_issued {p : List FRead} {r : FRead} (hn : ((p.filter (·.issued)).map (·.idx)).Nodup) (hr : r ∈ p) (hi : r.issued = true)
    {f : FRead → Bool} (hf : f r = true) (hk : ∀ x, f x = true → x.issued = true ∧ x.idx = r.idx) : p.find? f = some r := by
  obtain ⟨x, hx⟩ : ∃ x, p.find? f = some x := by
    rw [← Option.isSome_iff_exists, List.find?_isSome]
    exact ⟨r, hr, hf⟩
  obtain ⟨h1, h2⟩ := hk x (List.find?_some hx)
  rw [hx, List.inj_on_of_nodup_map hn (List.mem_filter.mpr ⟨List.mem_of_find?_eq_some hx, h1⟩) (List.mem_filter.mpr ⟨hr, hi⟩) h2]

/-- Settles O47, port by port: an answer that matches an outstanding access frees its index, and a source read that failed is told
to its link. -/
theorem fabricAnswers : Obligations.FabricAnswers := by
  refine ⟨⟨fun n k g bs p s hl hn hp => ?_, fun n k p r s hl hp hr => exec_readTimeout hl hp hr, fun n k s hm => ?_⟩,
    fun n p r id off q l s hl hn hp hr hi hd hpu hnd hlk hst => ?_, fun n k g okay p s hl hn hp => ?_⟩
  · intro u v
    have he := exec_readCompletion hl hn k g bs hp
    refine ⟨fun r hr => ?_, fun hr => ?_⟩
    · rw [he, hr]
    · obtain ⟨h1, h2, h3, h4⟩ := State.late_eq (s := u) hl n k g
      exact ⟨u.late n k g, by rw [he, hr], h1, h4, h2, h3⟩
  · show execTagQuarantineEnd n k s = _
    simp [execTagQuarantineEnd, hm]
  · intro gives
    obtain ⟨a, b, c⟩ := id
    have hmask : ∀ x : FRead, (x.issued && x.idx == r.idx) = true → x.issued = true ∧ x.idx = r.idx := fun x hx => by simpa using hx
    have hft : p.reads.find? (fun x => x.issued && x.idx == r.idx) = some r :=
      find_issued hnd hr hi (by simp [hi]) hmask
    have hfc : p.reads.find? (fun x => x.issued && x.idx == r.idx && x.gen == r.gen) = some r :=
      find_issued hnd hr hi (by simp [hi]) fun x hx => hmask x (by simp only [Bool.and_eq_true] at hx ⊢; exact hx.1)
    have hlink : ∀ (t : State) (a' : ReadAnswer) pt ab, t.rng = s.rng → (t.readFailed a' r.addr pt ab).link ⟨a, b, c⟩ = some (q, l) :=
      fun t a' pt ab ht => (State.link_of_rng ((State.readFailed_rng ..).trans ht) _).trans hlk
    refine ⟨?_, fun bs => ⟨fun c' o ha he => ?_, fun c' b' o ha => ⟨fun ho => ?_, fun h1 h2 he => ?_⟩⟩⟩
    · obtain ⟨v, hv, he⟩ : ∃ v : State, v.rng = s.rng ∧ exec (.readTimeout n r.idx) s = .next (v.readAnswered r (.timeout 0 []) []).pump :=
        ⟨s.onPort n fun p => { p with reads := p.reads.filter (fun x => !(x.issued && x.idx == r.idx)), quar := p.quar ++ [r.idx] },
          rfl, (exec_readTimeout hl hp hft).trans (by rw [if_neg (by simp [hd])])⟩
      obtain ⟨q', h⟩ := State.readTimedOut_link (hlink v (.timeout 0 []) (v.readPart r) (some ⟨a, b, c⟩) hv) (stTimeout atSource)
      exact ⟨_, q', { l with err := some (l.err.getD (stTimeout atSource)), timedOut := true }, he, State.answered_link hpu h, hst,
        rfl, rfl⟩
    all_goals
      obtain ⟨v, hv, he'⟩ : ∃ v : State, v.rng = s.rng
          ∧ exec (.readCompletion n r.idx r.gen bs) s = .next (v.readAnswered r (r.answer bs) bs).pump := by
        refine ⟨(s.onPort n fun p => { p with beats := p.beats + bs.length }).onPort n fun p => { p with
          reads := p.reads.filter fun x => !(x.issued && x.idx == r.idx) }, rfl, (exec_readCompletion hl hn r.idx r.gen bs hp).trans ?_⟩
        rw [hfc]
        simp only [hd]
        rfl
      rw [ha] at he'
    · obtain ⟨q', l', h, h4⟩ := State.sourceBusError_link (hlink v (.busError c' o) (v.readPart r) (some ⟨a, b, c⟩) hv) hst he off
      exact ⟨_, q', l', he', State.answered_link hpu h, h4⟩
    · obtain ⟨q', l', h, h4, h2, h3⟩ := State.sourcePoisoned_link (hlink v (.poisoned c' b' o) (v.readPart r) (some ⟨a, b, c⟩) hv) off
        (r.bytes bs) (r.poisonedParts bs) (by simpa using ho)
      exact ⟨_, q', l', he', State.answered_link hpu h, h4.trans hst, h2, h3⟩
    · obtain ⟨q', l', h, h4⟩ := State.sourcePoisoned_fails (hlink v (.poisoned c' b' o) (v.readPart r) (some ⟨a, b, c⟩) hv) off
        (r.bytes bs) (r.poisonedParts bs) (by simp [h1, h2]) hst he
      exact ⟨_, q', l', he', State.answered_link hpu h, h4⟩
  · have he := exec_writeResponse hl hn k g okay hp
    refine ⟨fun w hw => ?_, fun hw => ?_⟩
    · rw [he, hw]
    · obtain ⟨h1, h2, -, h4⟩ := State.late_eq hl n k g
      exact ⟨s.late n k g, by rw [he, hw], h1, h2, h4⟩

end Sys2Proof.Machine

/-! ### PROOFS. The register port's own results: abort writes and the doorbells of a partition in reset (R32, R52, R53, R315, R435) -/

namespace Sys2Proof.Machine

section Doorbells

variable {s : State} {who : Accessor} {r : Nat}

/-- The check of R53: the index is of the ring's 2D, and at most D and what is published behind the oldest that may be named. -/
theorem Ring.abortable_iff (x : Ring) (i : Nat) : x.abortable i = true ↔ i < 2 * 2 ^ x.attr.log2
    ∧ modSub i (modSub (if x.attr.stream then x.frameIdx else x.subHead) (2 ^ x.attr.log2) (2 * 2 ^ x.attr.log2)) (2 * 2 ^ x.attr.log2)
      ≤ 2 ^ x.attr.log2 + if x.attr.stream ∨ modSub x.prod x.subHead (2 * 2 ^ x.attr.log2) > 2 ^ x.attr.log2 then 0
        else modSub x.prod x.subHead (2 * 2 ^ x.attr.log2) := by
  simp only [Ring.abortable, Bool.and_eq_true, decide_eq_true_eq]
  cases hs : x.attr.stream <;> simp [Ring.published, Ring.span, Ring.depth]

theorem State.priv_of_mayAct_eq_false {o : Option Nat} (h : s.mayAct who o = false) : who.priv = false := by
  by_contra hp
  simp [State.mayAct, hp] at h

/-- R32 drops every doorbell of a ring whose partition is RESETTING. -/
theorem State.resetDrops_of_resetting (hm : s.mayAct who (s.ringOwner r) = true) (hc : (s.ring r).st ≠ .closed)
    (ho : s.partState (s.ring r).owner = .resetting) : s.resetDrops who r = true := by
  have hr : s.ringOwner r = some (s.ring r).owner := by simp [State.ringOwner, hc]
  rw [hr] at hm
  simp [State.resetDrops, hr, hm, ho]

theorem State.doorbell_of_resetDrops (h : s.resetDrops who r = true) (addr value : Nat) (go : State → State) :
    s.doorbell who r addr value go = s := by
  simp [State.doorbell, h]

/-- R434 refuses a doorbell write to a ring of another partition, where R32 does not drop it before. -/
theorem State.doorbell_of_foreign (hp : s.portActs = true) (hm : s.mayAct who (s.ringOwner r) = false)
    (ho : ∀ p, s.partOfFid who.fid = some p → s.partState p ≠ .resetting) (addr value : Nat) (go : State → State) :
    s.doorbell who r addr value go = s.violation 0x0503 uidRp (s.accPart who) (some r) false addr who.fid := by
  have hr : s.resetDrops who r = false := by
    cases hf : s.partOfFid who.fid with
    | none => simp [State.resetDrops, hm, hf]
    | some p => simp [State.resetDrops, hm, hf, ho p hf]
  simp [State.doorbell, hp, hm, hr, State.refuse]

theorem State.doorbell_of_ready (hp : s.portActs = true) (hm : s.mayAct who (s.ringOwner r) = true)
    (ho : s.partState (s.ring r).owner = .ready) (addr value : Nat) (go : State → State) :
    s.doorbell who r addr value go = s.dropDoorbell who r 0x050A value := by
  have hr := State.resetDrops_eq_false hm (by simp [ho])
  simp [State.doorbell, hp, hm, hr, ho]

/-- Settles O29: each of the checks before a ring has one answer, and the ring's own check is R53's. -/
theorem abortWriteResult : Obligations.AbortWriteResult := by
  intro who r v s hp x n i d head ahead gives
  have hgive {a b : State} (h : a = b) (hl : b.latched = s.latched) : (Host.Outcome.next a.wrote : Out) = .next (b.respond 0) :=
    h ▸ congrArg Host.Outcome.next (State.wrote_of_portActs hp (h ▸ hl))
  refine ⟨fun hm hc ho => ?_, fun hm hc ho => ⟨?_, ?_, ?_⟩, fun hm ho => ⟨?_, ?_⟩, fun hm hc ho hq => ?_⟩
  · show exec _ _ = _
    rw [exec_abortWrite_of_takes hp hm hc ho, State.abortActs, State.dropDoorbell_eq]
    simp only [Ring.abortable_iff]
    rfl
  · exact hgive (by simp [show s.partState (s.ring r).owner = .resetting from ho, hp, hm]) rfl
  · exact hgive (State.doorbell_of_resetDrops (State.resetDrops_of_resetting hm hc ho) ..) rfl
  · exact hgive (State.doorbell_of_resetDrops (State.resetDrops_of_resetting hm hc ho) ..) rfl
  · exact hgive (State.doorbell_of_foreign hp hm ho ..) (by simp)
  · exact hgive (State.doorbell_of_foreign hp hm ho ..) (by simp)
  · refine hgive ((State.doorbell_of_ready hp hm ho ..).trans ?_) (by simp)
    rw [State.dropDoorbell_eq, if_neg hq]

end Doorbells

end Sys2Proof.Machine

/-! ### PROOFS. Writes and reads of single registers by their addresses (R6, R7, R52, R265, R387, R420, R431, R434) -/

namespace Sys2Proof.Machine

section Regs

variable {s : State} {who : Accessor} {addr a : Nat}

theorem wordAddr_of_aligned (h : a < 0x1000000) (h4 : a % 4 = 0) : wordAddr a = a := by
  unfold wordAddr
  omega

theorem State.wrote_wrote (s : State) : s.wrote.wrote = s.wrote := by
  by_cases h : s.blk.rpReset
  · simp [State.wrote, h]
  · simp only [State.wrote, h]
    exact (if_neg h).trans rfl

theorem State.mayWrite_of_priv (h : who.priv = true) : s.mayWrite who a = true := by simp [State.mayWrite, h]

theorem State.mode_of_portActs (h : s.portActs = true) : s.blk.mode ≠ .dormant ∧ s.blk.mode ≠ .containment := by
  simp only [State.portActs, State.portOpen, Bool.and_eq_true, bne_iff_ne] at h
  exact ⟨h.1.2, h.2⟩

theorem State.mayRead_of_priv (h : s.portActs = true) (hp : who.priv = true) : s.mayRead who a = true := by
  simp [State.mayRead, hp, (State.mode_of_portActs h).1]

theorem State.regAct_of_mayWrite (h : s.portActs = true) (hm : s.mayWrite who a = true) (go : State → State) :
    s.regAct who a go = go s := by
  simp [State.regAct, h, hm]

/-- A register of no ring and no channel: what the write does, and its answer. -/
theorem exec_registerWrite_block (v : W32) (hp : s.portActs = true) (hm : s.mayWrite who (wordAddr addr) = true)
    (hr : ringAt (wordAddr addr) = none) (hc : chanAt (wordAddr addr) = none) :
    exec (.registerWrite who addr v) s = .next ((s.blockWrite who (wordAddr addr) v).respond 0) := by
  show execRegisterWrite who addr v s = _
  simp only [execRegisterWrite, hr, hc, State.regAct_of_mayWrite hp hm]
  rw [State.wrote_of_portActs hp (State.blockWrite_latched ..)]

/-- The addresses of the block's own registers lie outside the rings and the channels. -/
theorem ringAt_chanAt_of_block (h : 0x300000 ≤ a) : ringAt a = none ∧ chanAt a = none := by
  constructor
  · unfold ringAt
    rw [if_neg (by omega), if_neg (by omega)]
  · unfold chanAt
    rw [if_neg (by omega)]

theorem exec_registerWrite_priv (v : W32) (hp : s.portActs = true) (hw : who.priv = true) (ha : 0x300000 ≤ a) (hb : a < 0x1000000)
    (h4 : a % 4 = 0) : exec (.registerWrite who a v) s = .next ((s.blockWrite who a v).respond 0) := by
  obtain ⟨hr, hc⟩ := ringAt_chanAt_of_block ha
  have hx := wordAddr_of_aligned hb h4
  rw [exec_registerWrite_block v hp (State.mayWrite_of_priv hw) (by rwa [hx]) (by rwa [hx]), hx]

/-- A read that the checks pass: the registers that it clears, and the value before. -/
theorem exec_readClears (hp : s.portActs = true) (hm : s.mayRead who (wordAddr addr) = true) : exec (.readClears who addr) s
    = .next ((s.clearRc (wordAddr addr)).respond (s.readValue who (wordAddr addr))) := by
  show execReadClears who addr s = _
  simp [execReadClears, State.rpReset_of_portActs hp, hm, hp]

theorem exec_readClears_priv (hp : s.portActs = true) (hw : who.priv = true) (hb : a < 0x1000000) (h4 : a % 4 = 0) :
    exec (.readClears who a) s = .next ((s.clearRc a).respond (s.readValue who a)) := by
  have hx := wordAddr_of_aligned hb h4
  rw [exec_readClears hp (State.mayRead_of_priv hp hw), hx]

/-- What is left where the address is none of those with RC fields. -/
theorem State.clearRc_of_none (h : a ∉ [0x300214, 0x300218, 0x600A00, 0x620010, 0x640014, 0x660004, 0x6A000C, 0x6A0010, 0x6C0008, 0x6C000C])
    (h1 : ¬ (0x300300 ≤ a ∧ a < 0x300340 ∧ a % 8 = 4)) (h2 : ¬ (0x300380 ≤ a ∧ a < 0x300390))
    (h3 : ¬ (0x600000 ≤ a ∧ a < 0x600200 ∧ a % 32 = 4)) (h4 : ¬ (0x600400 ≤ a ∧ a < 0x600800 ∧ a % 32 = 8))
    (h5 : ¬ (0x600800 ≤ a ∧ a < 0x600A00 ∧ a % 32 = 4)) (h6 : ∀ c, chanAt a = some c → a % 256 ≠ 0x90) : s.clearRc a = s := by
  simp only [List.mem_cons, List.not_mem_nil, or_false, not_or] at h
  obtain ⟨g1, g2, g3, g4, g5, g6, g7, g8, g9, g10⟩ := h
  cases hc : chanAt a with
  | some c => simp [State.clearRc, hc, h6 c hc]
  | none => simp [State.clearRc, hc, g1, g2, g3, g4, g5, g6, g7, g8, g9, g10, h1, h2, h3, h4, h5]

theorem ite_eq_zero {c : Prop} [Decidable c] {x y : Nat} (hx : c → x = 0) (hy : ¬ c → y = 0) : (if c then x else y) = 0 := by
  split
  · exact hx ‹_›
  · exact hy ‹_›

/-- The addresses that name no register. -/
def unnamed : List (Nat × Nat) :=
  [(0x141000, 0x200000), (0x30E000, 0x310000), (0x320000, 0x400000), (0x480800, 0x490000), (0x490100, 0x4A0000), (0x4A0010, 0x4C0000),
   (0x540000, 0x600000), (0x600200, 0x600400), (0x600A04, 0x620000), (0x620014, 0x640000), (0x64001C, 0x660000), (0x660014, 0x661000),
   (0x663080, 0x680000), (0x680800, 0x6A0000), (0x6A0014, 0x6C0000), (0x6C0010, 0x1000000)]

section Unnamed

variable (h : ∃ p ∈ unnamed, p.1 ≤ a ∧ a < p.2)
include h

theorem State.clearRc_of_unnamed : s.clearRc a = s := by
  simp only [unnamed, List.exists_mem_cons_iff, List.not_mem_nil, false_and, exists_false, or_false] at h
  apply State.clearRc_of_none
  case h =>
    simp only [List.mem_cons, List.not_mem_nil, or_false]
    omega
  case h6 =>
    intro c hc
    simp only [chanAt, Option.ite_none_right_eq_some] at hc
    omega
  all_goals omega

theorem State.regValue_of_unnamed : s.regValue a = 0 := by
  simp only [unnamed, List.exists_mem_cons_iff, List.not_mem_nil, false_and, exists_false, or_false] at h
  unfold State.regValue
  iterate 39 refine ite_eq_zero (fun hc => by omega) fun _ => ?_
  rfl

end Unnamed

theorem State.readValue_of_priv (hw : who.priv = true) : s.readValue who a = BitVec.ofNat 32 (s.regValue a) := by
  unfold State.readValue
  cases s.regClass a <;> simp [hw]

/-- The registers with RC fields outside the rings and channels, one equation each. -/
theorem State.clearRc_block (s : State) :
    s.clearRc 0x300214 = s.onSch (fun c => { c with waitEvents := 0 })
    ∧ s.clearRc 0x300218 = s.onSch (fun c => { c with decisions := 0, discarded := 0 })
    ∧ s.clearRc 0x600A00 = s.onSch (fun c => { c with fallback := 0 })
    ∧ s.clearRc 0x620010 = s.onKey (fun k => { k with ledgerWaits := 0, tagFails := 0, uncorr := 0 })
    ∧ s.clearRc 0x640014 = s.onOry (fun o => { o with closedWait := 0, timeLimit := 0, quiesce := 0, forkFail := 0 })
    ∧ s.clearRc 0x660004 = s.onEnt (fun e => { e with lasting := 0, transient := 0, windows := 0 })
    ∧ s.clearRc 0x6A000C = s.onSch (fun c => { c with retryTrans := 0, retryFail := 0 })
    ∧ s.clearRc 0x6A0010 = s.onSch (fun c => { c with stPassed := 0, stFailed := 0 })
    ∧ s.clearRc 0x6C0008 = s.onEph (fun e => { e with warn := 0, fault := 0 })
    ∧ s.clearRc 0x6C000C = s.onEph (fun e => { e with stalls := 0, peak := 0 }) :=
  ⟨rfl, rfl, rfl, rfl, rfl, rfl, rfl, rfl, rfl, rfl⟩

section Indexed

variable (s : State) (n : Nat)

theorem State.clearRc_port (h : n < 8) :
    s.clearRc (0x300304 + 8 * n) = s.onPort n fun p => { p with late := 0, tmo := 0, pois := 0, bus := 0 } := by
  have hc := (ringAt_chanAt_of_block (a := 0x300304 + 8 * n) (by omega)).2
  have hn : (0x300304 + 8 * n - 0x300300) / 8 = n := by omega
  unfold State.clearRc
  simp only [hc]
  rw [if_neg (by omega), if_neg (by omega), if_pos (by omega), hn]

theorem State.clearRc_stream (h : n < 4) : s.clearRc (0x300380 + 4 * n) = s.onStream n fun p => { p with long := 0 } := by
  have hc := (ringAt_chanAt_of_block (a := 0x300380 + 4 * n) (by omega)).2
  have hn : (0x300380 + 4 * n - 0x300380) / 4 = n := by omega
  unfold State.clearRc
  simp only [hc]
  rw [if_neg (by omega), if_neg (by omega), if_neg (by omega), if_pos (by omega), hn]

theorem State.clearRc_lane (h : n < 16) : s.clearRc (0x600004 + 32 * n) = s.onUnit (.lane n) fun x => { x with ecc1 := 0, ecc2 := 0 } := by
  have hc := (ringAt_chanAt_of_block (a := 0x600004 + 32 * n) (by omega)).2
  have hn : (0x600004 + 32 * n - 0x600000) / 32 = n := by omega
  unfold State.clearRc
  simp only [hc]
  rw [if_neg (by omega), if_neg (by omega), if_neg (by omega), if_neg (by omega), if_pos (by omega), hn]

theorem State.clearRc_engine (h : n < 32) :
    s.clearRc (0x600408 + 32 * n) = s.onUnit (.engine n) fun x => { x with ecc1 := 0, ecc2 := 0 } := by
  have hc := (ringAt_chanAt_of_block (a := 0x600408 + 32 * n) (by omega)).2
  have hn : (0x600408 + 32 * n - 0x600400) / 32 = n := by omega
  unfold State.clearRc
  simp only [hc]
  rw [if_neg (by omega), if_neg (by omega), if_neg (by omega), if_neg (by omega), if_neg (by omega), if_pos (by omega), hn]

theorem State.clearRc_macu (h : n < 16) : s.clearRc (0x600804 + 32 * n) = s.onUnit (.macu n) fun x => { x with ecc1 := 0, ecc2 := 0 } := by
  have hc := (ringAt_chanAt_of_block (a := 0x600804 + 32 * n) (by omega)).2
  have hn : (0x600804 + 32 * n - 0x600800) / 32 = n := by omega
  unfold State.clearRc
  simp only [hc]
  rw [if_neg (by omega), if_neg (by omega), if_neg (by omega), if_neg (by omega), if_neg (by omega), if_neg (by omega), if_pos (by omega), hn]

theorem State.clearRc_chan (h : n < 1040) :
    s.clearRc (0x100090 + 256 * n) = s.onChan n fun m => { m with completed := 0, refused := 0, aborts := 0 } := by
  have hc : chanAt (0x100090 + 256 * n) = some n := by
    unfold chanAt
    rw [if_pos (by omega)]
    exact congrArg some (by omega)
  unfold State.clearRc
  simp only [hc]
  rw [if_pos (by omega)]

end Indexed

/-! #### Writes that are commands of their own -/

theorem ringAt_doorbell {r a : Nat} (h : r < 131072) (ha : a = 8 * r ∨ a = 8 * r + 4) : ringAt a = some r ∧ a < 0x100000 := by
  constructor
  · unfold ringAt
    rw [if_pos (by omega)]
    exact congrArg some (by omega)
  · omega

theorem ringAt_status {r a : Nat} (h : r < 131072) (ha : a = 0x200000 + 8 * r ∨ a = 0x200004 + 8 * r) : ringAt a = some r ∧ ¬ a < 0x100000 := by
  constructor
  · unfold ringAt
    rw [if_neg (by omega), if_pos (by omega)]
    exact congrArg some (by omega)
  · omega

theorem exec_registerWrite_ring (v : W32) {r : Nat} (hr : ringAt (wordAddr addr) = some r) :
    exec (.registerWrite who addr v) s = .next (State.wrote (
      if wordAddr addr < 0x100000 then
        if wordAddr addr % 8 = 0 then nextOf (execProducerWrite who r v s) s else nextOf (execConsumerWrite who r v s) s
      else if wordAddr addr % 8 = 0 then s.regAct who (wordAddr addr) fun s => s.ringStatusWrite r v
      else nextOf (execAbortWrite who r v s) s)) := by
  show execRegisterWrite who addr v s = _
  simp only [execRegisterWrite, hr]

theorem exec_registerWrite_doorbells (v : W32) {r : Nat} (h : r < 131072) :
    exec (.registerWrite who (8 * r) v) s = exec (.producerWrite who r v) s
    ∧ exec (.registerWrite who (8 * r + 4) v) s = exec (.consumerWrite who r v) s
    ∧ exec (.registerWrite who (0x200004 + 8 * r) v) s = exec (.abortWrite who r v) s := by
  have h1 : wordAddr (8 * r) = 8 * r := wordAddr_of_aligned (by omega) (by omega)
  have h2 : wordAddr (8 * r + 4) = 8 * r + 4 := wordAddr_of_aligned (by omega) (by omega)
  have h3 : wordAddr (0x200004 + 8 * r) = 0x200004 + 8 * r := wordAddr_of_aligned (by omega) (by omega)
  obtain ⟨g1, l1⟩ := ringAt_doorbell h (.inl rfl)
  obtain ⟨g2, l2⟩ := ringAt_doorbell h (.inr rfl)
  obtain ⟨g3, l3⟩ := ringAt_status h (.inr rfl)
  refine ⟨?_, ?_, ?_⟩
  · rw [exec_registerWrite_ring v (h1.symm ▸ g1), h1, if_pos l1, if_pos (by omega)]
    exact congrArg Host.Outcome.next (State.wrote_wrote _)
  · rw [exec_registerWrite_ring v (h2.symm ▸ g2), h2, if_pos l2, if_neg (by omega)]
    exact congrArg Host.Outcome.next (State.wrote_wrote _)
  · rw [exec_registerWrite_ring v (h3.symm ▸ g3), h3, if_neg l3, if_neg (by omega)]
    exact congrArg Host.Outcome.next (State.wrote_wrote _)

theorem exec_registerWrite_status (v : W32) {r : Nat} (hp : s.portActs = true) (h : r < 131072) (hc : (s.ring r).st ≠ .closed)
    (hm : s.mayAct who (s.ringOwner r) = true) : exec (.registerWrite who (0x200000 + 8 * r) v) s = .next ((s.onRing r fun x => { x with
      flushed := x.flushed && !v.getLsbD 28, abortLate := x.abortLate && !v.getLsbD 27, cqStall := x.cqStall && !v.getLsbD 26 }).respond 0) := by
  have h1 : wordAddr (0x200000 + 8 * r) = 0x200000 + 8 * r := wordAddr_of_aligned (by omega) (by omega)
  obtain ⟨g1, l1⟩ := ringAt_status h (.inl rfl)
  have hw : s.mayWrite who (0x200000 + 8 * r) = true := by
    simp [State.mayWrite, State.regClass, g1, hm]
  rw [exec_registerWrite_ring v (h1.symm ▸ g1), h1, if_neg l1, if_pos (by omega), State.regAct_of_mayWrite hp hw]
  simp only [State.ringStatusWrite, beq_iff_eq, if_neg hc]
  exact congrArg Host.Outcome.next (State.wrote_of_portActs hp (by exact rfl))

/-- A write that the checks of R434 refuse, outside rings and channels. -/
theorem exec_registerWrite_refused (v : W32) (hp : s.portActs = true) (hm : s.mayWrite who (wordAddr addr) = false)
    (hr : ringAt (wordAddr addr) = none) (hc : chanAt (wordAddr addr) = none) : exec (.registerWrite who addr v) s
      = .next ((s.violation 0x0503 uidRp (s.accPart who) none false (wordAddr addr) who.fid).respond 0) := by
  show execRegisterWrite who addr v s = _
  simp only [execRegisterWrite, hr, hc, State.regAct, hp, hm, State.refuse, Bool.not_true, Bool.not_false, Bool.false_eq_true,
    if_false, if_true]
  rw [State.wrote_of_portActs hp (by simp)]

/-- The writable registers outside rings and channels are the scratch registers and those named. -/
theorem State.blockWrite_of_other (v : W32) (h1 : ¬ (0x300030 ≤ a ∧ a ≤ 0x300040)) (h2 : ¬ (0x308000 ≤ a ∧ a < 0x30C000))
    (h3 : a ∉ [0x4A0000, 0x660008, 0x66000C, 0x6C0004]) : s.blockWrite who a v = s := by
  simp only [List.mem_cons, List.not_mem_nil, or_false, not_or] at h3
  obtain ⟨g1, g2, g3, g4⟩ := h3
  unfold State.blockWrite
  rw [if_neg (by omega), if_neg (by unfold irqTestAddr; omega), if_neg (by unfold irqPendBase; omega), if_neg (show a ≠ glogCtl from g1), if_neg g2, if_neg g3, if_neg g4]

theorem State.blockWrite_scratch (v : W32) {k : Nat} (h : k < 4) :
    s.blockWrite who (0x300030 + 4 * k) v = s.onBlk fun b => { b with scratch := b.scratch.set k v } := by
  unfold State.blockWrite
  have hk : (0x300030 + 4 * k - 0x300030) / 4 = k := by omega
  rw [if_pos (by omega), hk]

theorem State.blockWrite_pending (v : W32) {w : Nat} (h : w < 4096) : s.blockWrite who (0x308000 + 4 * w) v
    = s.pendClear w v (if who.priv then none else s.partOfFid who.fid) := by
  unfold State.blockWrite
  have hw : (0x308000 + 4 * w - irqPendBase) / 4 = w := by
    unfold irqPendBase
    omega
  rw [if_neg (by omega), if_neg (by unfold irqTestAddr; omega), if_pos (by unfold irqPendBase; omega), hw]

theorem State.glogWrite_eq (s : State) (v : W32) : s.glogWrite v = s.onGlog fun g => { g with
    post := v.toNat / 65536, onFault := v.getLsbD 1, enable := v.getLsbD 0, frozen := v.getLsbD 3 || (g.frozen && !v.getLsbD 2)
    counting := if v.getLsbD 3 then none else g.counting } := by
  have hf : fld v.toNat 16 16 = v.toNat / 65536 := by
    have := v.isLt
    simp only [fld, Nat.shiftRight_eq_div_pow]
    omega
  unfold State.glogWrite
  rw [hf]
  cases h2 : v.getLsbD 2 <;> cases h3 : v.getLsbD 3 <;> simp [State.onGlog, State.glogThaw, State.glogFreeze]

theorem exec_registerWrite_pending (v : W32) {w : Nat} (h : w < 4096) :
    exec (.registerWrite who (0x308000 + 4 * w) v) s = exec (.irqPendClear who w v) s := by
  obtain ⟨hr, hc⟩ := ringAt_chanAt_of_block (a := 0x308000 + 4 * w) (by omega)
  show execRegisterWrite who _ v s = execIrqPendClear who w v s
  simp only [execRegisterWrite, execIrqPendClear, wordAddr_of_aligned (a := 0x308000 + 4 * w) (by omega) (by omega), hr, hc, if_pos h,
    irqPendBase]

/-- Settles O31: the address names the register, and the register has its own rule. -/
theorem registerAccessResults : Obligations.RegisterAccessResults := by
  refine ⟨⟨fun who k v s hp hw hk => ?_, fun who r v s hp hr hc hm => exec_registerWrite_status v hp hr hc hm,
      fun who k v s hp hw hk => ?_⟩, fun who addr v s hp => ?_, fun who s hp hw => ?_, fun who addr s hp => ?_,
      fun who n s hp hw hn => ?_, fun who a s hr hm hrd => ?_, fun who a s hr hm => ⟨fun hp => ?_, fun hp => ?_⟩⟩
  · rw [exec_registerWrite_priv v hp hw (by omega) (by omega) (by omega), State.blockWrite_scratch v hk]
  · have ha := wordAddr_of_aligned (a := 0x300030 + 4 * k) (by omega) (by omega)
    obtain ⟨hr, hc⟩ := ringAt_chanAt_of_block (a := 0x300030 + 4 * k) (by omega)
    have hcl : s.regClass (0x300030 + 4 * k) = .priv := by
      have hb : allBlk.contains (0x300030 + 4 * k - 0x300000) = false := by
        interval_cases k <;> decide
      simp only [State.regClass, hr, hc, hb]
      rw [if_pos (by omega)]
      rfl
    have hm : s.mayWrite who (0x300030 + 4 * k) = false := by simp [State.mayWrite, hw, hcl]
    rw [exec_registerWrite_refused v hp (by rwa [ha]) (by rwa [ha]) (by rwa [ha]), ha]
  · intro a
    refine ⟨fun hr hc => ⟨fun hm => exec_registerWrite_refused v hp hm hr hc, fun hw h1 h2 h3 => ?_⟩,
      fun r hr => exec_registerWrite_doorbells v hr, fun w hw => exec_registerWrite_pending v hw, rfl, fun hw => ⟨?_, ?_, ?_, ?_⟩⟩
    · rw [exec_registerWrite_block v hp (State.mayWrite_of_priv hw) hr hc, State.blockWrite_of_other v h1 h2 h3]
    · rw [exec_registerWrite_priv v hp hw (by decide) (by decide) (by decide)]
      show Host.Outcome.next ((if v.getLsbD 0 then nextOf (execTestPatternEnable who s) s
        else nextOf (execTestPatternDisable who s) s : State).respond 0) = _
      cases v.getLsbD 0
      · exact congrArg Host.Outcome.next
          ((State.wrote_of_portActs hp (execTestPatternDisable_latched who s _ rfl)).symm.trans (State.wrote_wrote _))
      · exact congrArg Host.Outcome.next
          ((State.wrote_of_portActs hp (execTestPatternEnable_latched who s _ rfl)).symm.trans (State.wrote_wrote _))
    · rw [exec_registerWrite_priv v hp hw (by decide) (by decide) (by decide), ← State.glogWrite_eq]
      rfl
    · rw [exec_registerWrite_priv v hp hw (by decide) (by decide) (by decide)]
      show Host.Outcome.next ((if s.blk.lifecycle != 0 then s else _ : State).respond 0) = _
      by_cases h : s.blk.lifecycle = lcFactory
      · rw [if_pos h, if_neg (by simpa [lcFactory] using h)]
      · rw [if_neg h, if_pos (by simpa [lcFactory] using h)]
    · rw [exec_registerWrite_priv v hp hw (by decide) (by decide) (by decide)]
      rfl
  · intro clears ecc
    have hclears {a : Nat} {t : State} (hb : a < 0x1000000) (h4 : a % 4 = 0) (h : s.clearRc a = t) : clears a t :=
      h ▸ exec_readClears_priv hp hw hb h4
    obtain ⟨c1, c2, c3, c4, c5, c6, c7, c8, c9, c10⟩ := s.clearRc_block
    refine ⟨hclears (by decide) (by decide) c1, hclears (by decide) (by decide) c2, hclears (by decide) (by decide) c3,
      hclears (by decide) (by decide) c4, hclears (by decide) (by decide) c5, hclears (by decide) (by decide) c6,
      hclears (by decide) (by decide) c7, hclears (by decide) (by decide) c8, hclears (by decide) (by decide) c9,
      hclears (by decide) (by decide) c10, fun n hn => hclears (by omega) (by omega) (s.clearRc_stream n hn),
      fun n hn => ⟨hclears (by omega) (by omega) (s.clearRc_lane n hn), hclears (by omega) (by omega) (s.clearRc_macu n hn)⟩,
      fun n hn => hclears (by omega) (by omega) (s.clearRc_engine n hn),
      fun c hc => hclears (by omega) (by omega) (s.clearRc_chan c hc), fun p hmem a hl hu h4 => ?_⟩
    have hun : ∃ p ∈ unnamed, p.1 ≤ a ∧ a < p.2 := ⟨p, hmem, hl, hu⟩
    have hb : p.2 ≤ 0x1000000 := (by decide : ∀ p ∈ unnamed, p.2 ≤ 0x1000000) p hmem
    rw [exec_readClears_priv hp hw (by omega) h4, State.clearRc_of_unnamed hun, State.readValue_of_priv hw, State.regValue_of_unnamed hun]
    rfl
  · intro a hm h h1 h2 h3 h4 h5 h6
    rw [exec_readClears hp hm, State.clearRc_of_none h h1 h2 h3 h4 h5 h6]
  · rw [exec_readClears_priv hp hw (by omega) (by omega), State.clearRc_port s n hn]
  · show execReadClears who a s = _
    simp [execReadClears, hr, hrd, State.portActs, hm]
  · show execReadRefused who a s = _
    simp [execReadRefused, hr, hm, hp, State.refuse]
  · show execReadRefused who a s = _
    simp [execReadRefused, hr, hm, hp]

end Regs

end Sys2Proof.Machine

/-! ### PROOFS. The pending bits, the grant log's freeze, the interrupt test and the test pattern (R265, R387, R392, R431, R437 to
R439) -/

namespace Sys2Proof.Machine

section RegCommands

variable {s : State} {who : Accessor}

/-! #### Pending bits -/

/-- The ring's pending bit is cleared where its bit of the word is 1 and the accessor may. -/
def Ring.pendCleared (x : Ring) (hit : Bool) : Ring := { x with pend := x.pend && !hit }

theorem Ring.pendCleared_of_not_pend {x : Ring} (h : x.pend = false) (hit : Bool) : x.pendCleared hit = x := by
  cases x
  cases h
  rfl

theorem Ring.pendCleared_false (x : Ring) : x.pendCleared false = x := by
  simp [Ring.pendCleared]

/-- One bit of a word of the pending bits. -/
def State.pendBit (s : State) (w : Nat) (v : W32) (p : Option Nat) (b : Nat) : State :=
  if v.getLsbD b && (s.ring (32 * w + b)).pend && (p.isNone || p == some (s.ring (32 * w + b)).owner) then
    s.onRing (32 * w + b) fun x => { x with pend := false } else s

theorem State.pendClear_eq (s : State) (w : Nat) (v : W32) (p : Option Nat) :
    s.pendClear w v p = (List.range 32).foldl (State.pendBit · w v p) s := rfl

variable {w : Nat} {v : W32} {p : Option Nat}

theorem State.ring_pendBit (s : State) (b r : Nat) : (s.pendBit w v p b).ring r
    = (s.ring r).pendCleared (32 * w + b == r && v.getLsbD b && (p.isNone || p == some (s.ring r).owner)) := by
  unfold State.pendBit
  by_cases hr : 32 * w + b = r
  · subst hr
    split
    · next h =>
      simp only [Bool.and_eq_true] at h
      obtain ⟨⟨h1, h2⟩, h3⟩ := h
      simp [State.ring_onRing, Ring.pendCleared, h1, h3]
    · next h =>
      cases hp : (s.ring (32 * w + b)).pend
      · rw [Ring.pendCleared_of_not_pend hp]
      · rw [hp, Bool.and_true, Bool.not_eq_true] at h
        rw [beq_self_eq_true, Bool.true_and, h, Ring.pendCleared_false]
  · have : (32 * w + b == r) = false := by simpa using hr
    split <;> simp [State.ring_onRing, Ring.pendCleared, hr, this]

theorem State.pendBits_ring (l : List Nat) (s : State) (r : Nat) : (l.foldl (State.pendBit · w v p) s).ring r
    = (s.ring r).pendCleared (l.any (fun b => 32 * w + b == r && v.getLsbD b) && (p.isNone || p == some (s.ring r).owner)) := by
  induction l generalizing s with
  | nil => simp [Ring.pendCleared]
  | cons b l ih =>
    rw [List.foldl_cons, ih, State.ring_pendBit]
    simp only [Ring.pendCleared, List.any_cons, Bool.and_assoc]
    congr 1
    cases (s.ring r).pend <;> cases (32 * w + b == r) <;> cases v.getLsbD b <;> cases (p.isNone || p == some (s.ring r).owner) <;> simp

theorem State.pendBits_rest (l : List Nat) (s : State) :
    { l.foldl (State.pendBit · w v p) s with rng := s.rng } = s ∧ (l.foldl (State.pendBit · w v p) s).rng.reqs = s.rng.reqs := by
  refine foldl_invariant (P := fun t : State => { t with rng := s.rng } = s ∧ t.rng.reqs = s.rng.reqs) ?_ l ⟨rfl, rfl⟩
  intro t b ⟨h1, h2⟩
  unfold State.pendBit
  split
  · exact ⟨h1, h2⟩
  · exact ⟨h1, h2⟩

theorem any_bit_of_word (w r : Nat) (v : W32) :
    ((List.range 32).any fun b => 32 * w + b == r && v.getLsbD b) = (decide (r / 32 = w) && v.getLsbD (r % 32)) := by
  rw [Bool.eq_iff_iff]
  simp only [List.any_eq_true, List.mem_range, Bool.and_eq_true, beq_iff_eq, decide_eq_true_eq]
  constructor
  · rintro ⟨b, hb, rfl, h⟩
    have : (32 * w + b) % 32 = b := by omega
    exact ⟨by omega, by rwa [this]⟩
  · rintro ⟨rfl, h⟩
    exact ⟨r % 32, by omega, by omega, h⟩

theorem State.pendClear_ring (s : State) (r : Nat) : (s.pendClear w v p).ring r
    = (s.ring r).pendCleared (decide (r / 32 = w) && v.getLsbD (r % 32) && (p.isNone || p == some (s.ring r).owner)) := by
  rw [State.pendClear_eq, State.pendBits_ring, any_bit_of_word]

/-! #### The test pattern -/

theorem State.testCtl_of_factory (hp : s.portActs = true) (hw : who.priv = true) (h : s.blk.lifecycle = lcFactory) (go : State → State) :
    s.testCtl who go = go s := by
  obtain ⟨h1, h2⟩ := State.mode_of_portActs hp
  simp [State.testCtl, hp, hw, h, lcFactory, State.live, h1, h2]

theorem State.testCtl_of_other (hp : s.portActs = true) (hw : who.priv = true) (h : s.blk.lifecycle ≠ lcFactory) (go : State → State) :
    s.testCtl who go = s := by
  have : (s.blk.lifecycle != 0) = true := by simpa [lcFactory] using h
  simp only [State.testCtl, hp, hw, this, Bool.not_true, Bool.false_eq_true, if_false, Bool.true_or, if_true]

/-- A record is written about the block and the Ephemeris alone: it is the same with any entropy state. -/
theorem State.log_onEnt (s : State) (f : Ent → Ent) (code source part : Nat) :
    (s.onEnt f).log code source part = (s.log code source part).onEnt f := by
  simp only [State.log, State.logSev, State.ephPush]
  split
  · next h => rw [if_pos (by exact h)]
  · next h =>
    rw [if_neg (by exact h)]
    rfl

theorem State.log_ite {f : Ent → Ent} (b : Bool) (code source part : Nat) :
    (if b then s.onEnt f else (s.onEnt f).log code source part : State) = (if b then s else s.log code source part : State).onEnt f := by
  cases b
  · exact State.log_onEnt ..
  · rfl

theorem State.log_ite_not {f : Ent → Ent} (b : Bool) (code source part : Nat) :
    (if b then (s.onEnt f).log code source part else s.onEnt f : State) = (if b then s.log code source part else s : State).onEnt f := by
  cases b
  · rfl
  · exact State.log_onEnt ..

/-- The entropy state with its buffer empty and no instance seeded. -/
def State.emptied (s : State) (e : Ent) : Ent :=
  { e with flushed := modSub s.sch.tick e.winTick (2 ^ 32) * s.tickBlocks, buffer := [], insts := e.insts.map fun x => (x.1, { st := .waiting })
           cores := e.cores.map fun c => { c with items := [] } }

theorem State.flushEntropy_eq (s : State) : s.flushEntropy = s.onEnt s.emptied := rfl

theorem State.insts_emptied (s : State) (e : Ent) : ∀ x ∈ (s.emptied e).insts, x.2.st ≠ .seeded := by
  simp only [State.emptied, List.mem_map]
  rintro x ⟨y, -, rfl⟩
  simp

/-- The pattern at block 0 of the seed. -/
def State.patternOn (s : State) (e : Ent) : Ent := { s.emptied e with testEn := true, patSeed := e.testSeed, patCount := 0 }

/-- The source again. -/
def State.patternOff (s : State) (e : Ent) : Ent := { s.emptied e with testEn := false }

/-- TEST_PATTERN_ENABLE in FACTORY: the record only where the enable changes. -/
theorem exec_testPatternEnable (hp : s.portActs = true) (hw : who.priv = true) (h : s.blk.lifecycle = lcFactory) :
    exec (.testPatternEnable who) s
      = .next (((if s.ent.testEn then s else s.log 0x0607 uidScn noPart : State).onEnt s.patternOn).respond 0) := by
  show Host.Outcome.next (State.wrote (s.testCtl who _)) = _
  rw [State.testCtl_of_factory hp hw h, State.wrote_of_portActs hp, ← State.log_ite]
  · rfl
  · dsimp only
    split <;> simp

/-- TEST_PATTERN_DISABLE in FACTORY. -/
theorem exec_testPatternDisable (hp : s.portActs = true) (hw : who.priv = true) (h : s.blk.lifecycle = lcFactory) :
    exec (.testPatternDisable who) s
      = .next (((if s.ent.testEn then s.log 0x0607 uidScn noPart else s : State).onEnt s.patternOff).respond 0) := by
  show Host.Outcome.next (State.wrote (s.testCtl who _)) = _
  rw [State.testCtl_of_factory hp hw h, State.wrote_of_portActs hp, ← State.log_ite_not]
  · rfl
  · dsimp only
    split <;> simp

end RegCommands

/-- Settles O32. -/
theorem registerCommandResults : Obligations.RegisterCommandResults := by
  refine ⟨⟨fun who w v s hp hw ha => ?_, fun who s hp hw => ⟨?_, ?_⟩⟩, fun who v s hp hw => ?_, fun who s hp hw => ⟨fun hl => ⟨?_, ?_⟩, fun hl => ⟨?_, ?_⟩⟩⟩
  · refine ⟨s.pendClear w v (if who.priv then none else s.partOfFid who.fid), ?_, (State.pendBits_rest _ s).1, (State.pendBits_rest _ s).2,
      fun r => (State.pendClear_ring s r).trans ?_⟩
    · have hm : s.mayWrite who (0x308000 + 4 * w) = true := by
        obtain ⟨hr, hc⟩ := ringAt_chanAt_of_block (a := 0x308000 + 4 * w) (by omega)
        have hcl : s.regClass (0x308000 + 4 * w) = .filter := by
          simp only [State.regClass, hr, hc]
          rw [if_neg (by omega), if_pos (by omega)]
        rcases ha with ha | ha <;> simp [State.mayWrite, hcl, ha]
      rw [← exec_registerWrite_pending v hw]
      have hx := wordAddr_of_aligned (a := 0x308000 + 4 * w) (by omega) (by omega)
      obtain ⟨hr, hc⟩ := ringAt_chanAt_of_block (a := 0x308000 + 4 * w) (by omega)
      rw [exec_registerWrite_block v hp (by rwa [hx]) (by rwa [hx]) (by rwa [hx]), hx, State.blockWrite_pending v hw]
    · have : ((if who.priv then none else s.partOfFid who.fid : Option Nat).isNone
          || (if who.priv then none else s.partOfFid who.fid) == some (s.ring r).owner)
          = (who.priv || s.partOfFid who.fid == some (s.ring r).owner) := by
        cases hq : who.priv
        · obtain ⟨p, hp⟩ := Option.isSome_iff_exists.1 (ha.resolve_left (by simp [hq]))
          simp [hp]
        · simp
      rw [this]
      rfl
  · show Host.Outcome.next (State.wrote (s.regAct who glogCtl State.glogFreeze)) = _
    rw [State.regAct_of_mayWrite hp (State.mayWrite_of_priv hw), State.wrote_of_portActs hp (by exact rfl)]
    rfl
  · show Host.Outcome.next (State.wrote (s.regAct who glogCtl State.glogThaw)) = _
    rw [State.regAct_of_mayWrite hp (State.mayWrite_of_priv hw), State.wrote_of_portActs hp (by exact rfl)]
    rfl
  · intro fid vec
    have he : exec (.irqTest who v) s = .next ((s.irqTestMsg v).respond 0) := by
      show Host.Outcome.next (State.wrote (s.regAct who irqTestAddr fun s => s.irqTestMsg v)) = _
      rw [State.regAct_of_mayWrite hp (State.mayWrite_of_priv hw), State.wrote_of_portActs hp (State.irqTestMsg_latched ..)]
    have hf : fld v.toNat 0 10 = fid := by simp [fld, fid]
    have hv : fld v.toNat 16 11 = vec := by simp [fld, vec, Nat.shiftRight_eq_div_pow]
    refine ⟨fun p x hpf hx => he.trans (congrArg (fun t => Host.Outcome.next (State.respond t 0)) ?_), fun hpf => he.trans ?_⟩
    · simp only [State.irqTestMsg, hf, hv, hpf, Option.bind_some, hx, State.irqMsg, Bool.or_eq_true, List.contains_iff_mem]
      by_cases hr : x.entry.vecBase ≤ vec ∧ vec < x.entry.vecBase + x.entry.vecCount
      · by_cases hm : s.flrOn fid = true ∨ ⟨fid, vec⟩ ∈ s.io.msgs
        · rw [if_pos hr, if_pos hm, if_neg (by rintro ⟨-, -, h1, h2⟩; exact hm.elim (by simp [h1]) h2)]
        · rw [not_or, Bool.not_eq_true] at hm
          rw [if_pos hr, if_neg (by simp [hm]), if_pos ⟨hr.1, hr.2, hm⟩]
      · rw [if_neg hr, if_neg fun h => hr ⟨h.1, h.2.1⟩]
    · simp [State.irqTestMsg, hf, hpf]
  · have hx : (if s.ent.testEn then s else s.log 0x0607 uidScn noPart : State).ent = s.ent := by
      split
      · rfl
      · exact s.log_ent ..
    have hl' : (if s.ent.testEn then s else s.log 0x0607 uidScn noPart : State).latched = s.latched := by split <;> simp
    exact ⟨_, exec_testPatternEnable hp hw hl, rfl, congrArg Ent.testSeed hx, rfl, rfl, hl', s.insts_emptied _, rfl⟩
  · exact ⟨_, exec_testPatternDisable hp hw hl, rfl, rfl, s.insts_emptied _, rfl⟩
  · show Host.Outcome.next (State.wrote (s.testCtl who _)) = _
    rw [State.testCtl_of_other hp hw hl, State.wrote_of_portActs hp rfl]
  · show Host.Outcome.next (State.wrote (s.testCtl who _)) = _
    rw [State.testCtl_of_other hp hw hl, State.wrote_of_portActs hp rfl]

end Sys2Proof.Machine

/-! ### PROOFS. Ring work that touches one ring: context cache, record retries, interrupts, opening and closing, NOP and FENCE (R40,
R42, R51, R61, R81, R281, R297, R304, R392, R438) -/

namespace Sys2Proof.Machine

section RingWork

variable {s : State}

/-! #### The context cache -/

theorem mem_getD_mod {l : List Nat} (h : l ≠ []) (n d : Nat) : l.getD (n % l.length) d ∈ l := by
  have hl : n % l.length < l.length := Nat.mod_lt _ (List.length_pos_of_ne_nil h)
  rw [List.getD_eq_getElem _ _ hl]
  exact List.getElem_mem hl

/-- The rings whose context a new one may push out. -/
def State.cachedBut (s : State) (r : Nat) : List Nat := (s.rng.rings.filter fun x => x.1 != r && x.2.st != .closed && x.2.cached).map (·.1)

theorem State.ne_of_mem_cachedBut {r v : Nat} (h : v ∈ s.cachedBut r) : v ≠ r := by
  obtain ⟨x, hx, rfl⟩ := List.mem_map.1 h
  have := (List.mem_filter.1 hx).2
  simp only [Bool.and_eq_true, bne_iff_ne] at this
  exact this.1.1

theorem State.ring_cacheRing (s : State) (r : Nat) : (s.cacheRing r).ring r = { s.ring r with cached := true } := by
  unfold State.cacheRing
  dsimp only
  rw [State.ring_onRing, if_pos rfl]
  refine congrArg (fun x : Ring => { x with cached := true }) ?_
  split
  · rfl
  · next h =>
    have hne : s.cachedBut r ≠ [] := by
      intro he
      exact h (by show (s.cachedBut r).length < _; rw [he]; decide)
    have hv := State.ne_of_mem_cachedBut (mem_getD_mod hne (s.draw 1).1 0)
    exact (State.ring_onRing (s := ((s.draw 1).2.draw 2).2) _ r fun x => { x with cached := false }).trans (if_neg hv)

theorem State.cacheRing_chan (s : State) (r c : Nat) : (s.cacheRing r).chan c = s.chan c := by
  unfold State.cacheRing
  dsimp only
  split <;> rfl

/-! #### Record writes that failed -/

/-- A boundary's mark on a ring changes neither its slots nor its writes. -/
theorem State.firstHeld_recTick (r : Nat) : (s.onRing r fun x => { x with recTick := s.sch.tick }).firstHeld r = s.firstHeld r := by
  have : (s.onRing r fun x => { x with recTick := s.sch.tick }).ring r = { s.ring r with recTick := s.sch.tick } := by
    rw [State.ring_onRing, if_pos rfl]
  unfold State.firstHeld
  rw [this]
  rfl

theorem exec_recordWriteRetry {r : Nat} (hs : s.serving = true) (hf : (s.ring r).recFail.isSome = true)
    (ht : (s.ring r).recTick ≠ s.sch.tick) (hq : s.silentFid (s.fidOf (s.ring r).owner) = false) : exec (.recordWriteRetry r) s
      = .next (if (s.firstHeld r).any s.recordWaits then s else (s.onRing r fun x => { x with recTick := s.sch.tick }).nextHeld r) := by
  have hn : (s.ring r).recFail.isNone = false := by simpa using hf
  have hb : ((s.ring r).recTick == s.sch.tick) = false := by simpa using ht
  show execRecordWriteRetry r s = _
  simp [execRecordWriteRetry, hs, hn, hb, hq]

theorem State.nextHeld_recTick {r : Nat} {v : FWrite} (h : s.firstHeld r = some v) (hw : s.recordWaits v = false) :
    (s.onRing r fun x => { x with recTick := s.sch.tick }).nextHeld r = if v.held
      then ((s.onRing r fun x => { x with recTick := s.sch.tick }).onWrites fun w => some (if w == v then w.recordAgain s.sch.tick else w)).pump
      else s.onRing r fun x => { x with recTick := s.sch.tick } := by
  have hw' : (s.onRing r fun x => { x with recTick := s.sch.tick }).recordWaits v = false := hw
  unfold State.nextHeld
  rw [State.firstHeld_recTick, h]
  cases hh : v.held <;> simp only [hh, hw'] <;> rfl

/-! #### Interrupts -/

theorem State.ring_irqMsg (fid vec r : Nat) : (s.irqMsg fid vec).ring r = s.ring r := by
  unfold State.irqMsg
  split <;> rfl

theorem State.mem_irqMsg {fid vec : Nat} (h : s.flrOn fid = false) : ⟨fid, vec⟩ ∈ (s.irqMsg fid vec).io.msgs := by
  unfold State.irqMsg
  split
  · next hc => simpa [h] using hc
  · simp [State.onIo]

/-- Settles O36. -/
theorem recordRetryAndInterrupts : Obligations.RecordRetryAndInterrupts := by
  refine ⟨fun r s hs hf ht hq => ?_, fun r n s hl ha h0 hn hc => ?_, fun fid m s hl hm hb hf => ?_⟩
  · intro t failed
    have he := exec_recordWriteRetry hs hf ht hq
    refine ⟨fun v hv => ⟨fun hw => ?_, fun hw hh => ?_, fun hw hh => ?_⟩, fun h0 => ?_⟩
    · rw [he, if_pos]
      rw [show s.firstHeld r = some v from hv]
      exact hw
    · rw [he, show s.firstHeld r = some v from hv, if_neg (by simp [hw]), State.nextHeld_recTick hv hw, if_neg (by simp [hh])]
    · rw [he, show s.firstHeld r = some v from hv, if_neg (by simp [hw]), State.nextHeld_recTick hv hw, if_pos hh]
    · have hn : s.firstHeld r = none := by
        show minBy _ failed = none
        rw [h0]
        rfl
      rw [he, hn, if_neg (by simp), State.nextHeld, State.firstHeld_recTick, hn]
  · have hc' : ((s.ring r).st != .closed) = true := by simpa using hc
    have he : exec (.irqTicksTrigger r) s = .next (s.ringIrq r) := by
      show execIrqTicksTrigger r s = _
      simp [execIrqTicksTrigger, ha, hl, h0, hn, hc]
    refine ⟨_, he, ?_, fun hf => ?_⟩
    · unfold State.ringIrq
      rw [State.ring_irqMsg, State.ring_onRing, if_pos rfl]
    · exact State.mem_irqMsg hf
  · show execInterruptMessage fid s = _
    simp [execInterruptMessage, hm, hl, hb, hf]

/-! #### Opening and closing -/

theorem State.replyOk_of_busy {c : Nat} (h : (s.chan c).st = .busy) (l : List W32) :
    s.replyOk c l = s.onChan c fun m => { m with reply := some (0 :: l) } := by
  simp [State.replyOk, h]

/-- Settles O37. -/
theorem ringOpenAndClose : Obligations.RingOpenAndClose := by
  refine ⟨fun r c s hl hp hc hd hb hch hst => ?_, fun r c a s hl hp hc hd hch ha hb hst => ?_⟩
  · show execRingDrainComplete r s = _
    simp only [execRingDrainComplete, hl, hp, hch, hc, hd, hb, State.replyOk_of_busy hst, Option.all_some]
    rfl
  · let o : State := s.setRing r { st := .active, owner := (s.ring r).owner, attr := a, pend := (s.ring r).pend }
    have ho : (o.chan c).st = .busy := hst
    have he : exec (.ringOpenComplete r) s
        = .next ((o.onChan c fun m => { m with reply := some [0, BitVec.ofNat 32 r, BitVec.ofNat 32 (s.ring r).lastHead] }).cacheRing r) := by
      rw [← State.replyOk_of_busy ho]
      show execRingOpenComplete r s = _
      simp only [execRingOpenComplete, hl, hp, hch, hc, hd, hb, ha, Option.all_some]
      rfl
    have hr : o.ring r = { st := .active, owner := (s.ring r).owner, attr := a, pend := (s.ring r).pend } := by
      simp [o, State.ring, State.setRing, State.onRng, mget_mset]
    refine ⟨_, he, (State.ring_cacheRing _ _).trans ?_, ?_⟩
    · exact congrArg (fun x : Ring => { x with cached := true }) hr
    · rw [State.cacheRing_chan, State.chan_onChan, if_pos rfl]

/-! #### NOP and FENCE -/

/-- The Vault and the caches are no part of a good end. -/
theorem goodEndFrame_key (r i : Nat) : GoodEndFrame r i State.key where
  link _ _ _ := rfl
  ring _ _ := rfl
  eph _ _ := rfl
  sch _ _ := rfl
  prt _ _ := rfl
  reads _ _ := rfl
  unbind _ _ := rfl
  unit s u f _ := State.onUnit_key s u f

/-- A link that keeps its output to itself ends OK with no byte moved. -/
theorem State.endLink_bare {r i k : Nat} {q : Req} {l : Link} (hl : s.link ⟨r, i, k⟩ = some (q, l)) (hs : l.stat = none) (he : l.err = none)
    (hr : l.retried = false) (hb : l.hdr.bufDst = false) : ∃ q' l', (s.endLink ⟨r, i, k⟩ stOk).link ⟨r, i, k⟩ = some (q', l')
      ∧ l'.stat = some stOk ∧ (s.endLink ⟨r, i, k⟩ stOk).writes = s.writes ∧ (s.endLink ⟨r, i, k⟩ stOk).key = s.key := by
  have hres : l.result stOk = stOk := by simp [Link.result, he, hr]
  obtain ⟨q', stamp, viol, h⟩ := State.endLink_link hl hs stOk
  refine ⟨q', _, h, congrArg some hres, (endFrame_writes r i).endLink s k stOk, ?_⟩
  obtain ⟨q'', stamp', viol', h'⟩ := State.endAs_link hl hs stOk
  have hend : s.endLink ⟨r, i, k⟩ stOk = s.endAs ⟨r, i, k⟩ stOk := by
    unfold State.endLink
    rw [hl]
    simp only [he, hr, Option.getD_none, Bool.false_eq_true, and_false, if_false]
    rw [if_pos (by decide)]
    unfold State.handOver
    rw [h']
    exact if_pos (by simp [Link.ended, hb])
  rw [hend]
  exact (goodEndFrame_key r i).endAs_good s k (by decide)

/-- Settles O38: each of the three ends its link OK. -/
theorem bareRequests : Obligations.BareRequests := by
  rintro ⟨r, i, k⟩ q l s hl hb he hr hd goal
  have hs : l.stat = none := by
    simp only [State.bareOk, Bool.and_eq_true, Option.isNone_iff_eq_none] at hb
    exact hb.2
  obtain ⟨q', l', h1, h2, h3, h4⟩ := State.endLink_bare hl hs he hr hd
  have hgoal {c : Instr} (hc : exec c s = .next (s.endLink ⟨r, i, k⟩ stOk)) : goal c := ⟨_, q', l', hc, h1, h2, h3, h4⟩
  refine ⟨fun ho hf => hgoal ?_, fun ho hsub hc => hgoal ?_, fun ho hsub hc => hgoal ?_⟩
  · show execNop _ s = _
    have hf' : (!l.hdr.fence || s.ringClear q) = true := by simpa [Bool.not_eq_true] using hf
    simp only [execNop, hl, ho, hb, hf', and_self, if_true]
  · show execFenceRing _ s = _
    simp only [execFenceRing, hl, ho, hsub, hb, hc, and_self, if_true]
  · show execFencePartition _ s = _
    simp only [execFencePartition, hl, ho, hsub, hb, hc, and_self, if_true]

end RingWork

end Sys2Proof.Machine

/-! ### PROOFS. The fetch of a packet: what its reads leave, and the link that it makes (R35, R36, R45, R82, R85, R272, R278, R315) -/

namespace Sys2Proof.Machine

/-! #### Strings read whole -/

section Strings

variable {α : Type} (g : State → α) (hm : ∀ s f, g (State.onMov s f) = g s) (he : ∀ s f, g (State.onEph s f) = g s) (s : State)
include hm he

theorem State.readFailed_field (a : ReadAnswer) (addr part : Nat) (about : Option LinkId) : g (s.readFailed a addr part about) = g s := by
  unfold State.readFailed
  dsimp only
  split
  · rfl
  all_goals split <;> exact (State.ephPush_field _ g he _).trans (hm _ _)

theorem State.wholeAnswered_field (x : Reader) (a : ReadAnswer) (fail : Bool) (r : FRead) (bs : List ReadBeat) :
    g (s.wholeAnswered x a fail r bs) = g s := by
  unfold State.wholeAnswered
  split
  · exact (hm _ _).trans (State.readFailed_field g hm he ..)
  · exact (State.readFailed_field g hm he ..).trans (hm _ _)

theorem State.readString_field (x : Reader) (exts : List (Nat × Nat)) (a : ReadAnswer) : g (s.readString x exts a) = g s := by
  unfold State.readString
  exact foldl_keeps (fun u : State × Bytes => g u.1) (fun u c => (State.wholeAnswered_field g hm he ..).trans (hm _ _)) _ (s, _)

omit he in
theorem State.newReads_field : g s.newReads = g s := by
  unfold State.newReads
  exact keeps_ite g rfl (hm _ _)

end Strings

section Fetch

variable {s : State} {r i : Nat}

theorem State.readString_rng (s : State) (x : Reader) (exts : List (Nat × Nat)) (a : ReadAnswer) : (s.readString x exts a).rng = s.rng :=
  State.readString_field State.rng (fun _ _ => rfl) (fun _ _ => rfl) s x exts a

theorem State.readString_tick (s : State) (x : Reader) (exts : List (Nat × Nat)) (a : ReadAnswer) :
    (s.readString x exts a).sch.tick = s.sch.tick :=
  State.readString_field (·.sch.tick) (fun _ _ => rfl) (fun _ _ => rfl) s x exts a

theorem State.newReads_rng (s : State) : s.newReads.rng = s.rng := State.newReads_field State.rng (fun _ _ => rfl) s

theorem State.newReads_tick (s : State) : s.newReads.sch.tick = s.sch.tick := State.newReads_field (·.sch.tick) (fun _ _ => rfl) s

/-! #### What stays of a link from its fetch on -/

/-- A reading of every link of a request. -/
def Req.linksBy {β : Type} (π : Link → β) (q : Req) : List β := q.links.map π

def State.linksBy {β : Type} (π : Link → β) (s : State) (r i : Nat) : Option (List β) := (s.req r i).map (Req.linksBy π)

section LinksBy

variable {β : Type} {π : Link → β}

theorem State.linksBy_of_req {t : State} (h : t.req r i = s.req r i) : t.linksBy π r i = s.linksBy π r i :=
  congrArg (Option.map (Req.linksBy π)) h

theorem Req.linksBy_onLink (q : Req) (k : Nat) {f : Link → Link} (hf : ∀ l, π (f l) = π l) : (q.onLink k f).linksBy π = q.linksBy π := by
  refine List.ext_getElem? fun j => ?_
  simp only [Req.linksBy, Req.onLink, List.getElem?_map, updAt_getElem?]
  split
  · cases q.links[j]? <;> simp [hf _]
  · rfl

theorem State.linksBy_onLink (s : State) (id : LinkId) {f : Link → Link} (hf : ∀ l, π (f l) = π l) :
    (s.onLink id f).linksBy π r i = s.linksBy π r i := by
  obtain ⟨a, b, k⟩ := id
  by_cases h : a = r ∧ b = i
  · obtain ⟨rfl, rfl⟩ := h
    unfold State.linksBy
    rw [State.req_onLink_same]
    cases s.req a b <;> simp [Req.linksBy_onLink _ _ hf]
  · exact State.linksBy_of_req (State.req_onLink_other s (by tauto) k f)

theorem State.linksBy_onReq (s : State) (a b : Nat) {f : Req → Req} (hk : ∀ q, (f q).ring = q.ring ∧ (f q).idx = q.idx)
    (hf : ∀ q, (f q).linksBy π = q.linksBy π) : (s.onReq a b f).linksBy π r i = s.linksBy π r i := by
  by_cases h : a = r ∧ b = i
  · obtain ⟨rfl, rfl⟩ := h
    unfold State.linksBy
    rw [State.req_onReq _ _ _ _ hk]
    cases s.req a b <;> simp [hf]
  · exact State.linksBy_of_req (State.req_onReq_other s (by tauto) f (fun q => (hk q).1) fun q => (hk q).2)

variable (hπ : ∀ l st now, π (l.forced st now) = π l)
include hπ

theorem State.linksBy_forceStat (s : State) (id : LinkId) (st : Stat) : (s.forceStat id st).linksBy π r i = s.linksBy π r i := by
  obtain ⟨a, b, k⟩ := id
  by_cases h : a = r ∧ b = i
  · obtain ⟨rfl, rfl⟩ := h
    unfold State.linksBy
    rw [State.forceStat_req]
    cases s.req a b with
    | none => rfl
    | some q =>
      refine congrArg some (Req.linksBy_onLink q k fun l => ?_)
      split
      · rfl
      · exact hπ ..
  · exact State.linksBy_of_req ((endFrame_req (by tauto)).forceStat s k st)

theorem State.linksBy_forceFrom (s : State) (q : Req) (k : Nat) (st : Nat → Stat) : (s.forceFrom q k st).linksBy π r i = s.linksBy π r i := by
  unfold State.forceFrom
  refine foldl_keeps (State.linksBy π · r i) (fun t j => ?_) _ _
  exact keeps_ite (State.linksBy π · r i) (State.linksBy_forceStat hπ ..) rfl

end LinksBy

/-- A link by its header's index and the tick of its fetch. -/
def Link.mark (l : Link) : Nat × Nat := (l.subIdx, l.fetchTick)

abbrev Req.marks (q : Req) : List (Nat × Nat) := q.linksBy Link.mark

abbrev State.marks (s : State) (r i : Nat) : Option (List (Nat × Nat)) := s.linksBy Link.mark r i

theorem State.marks_forceStat (s : State) (id : LinkId) (st : Stat) : (s.forceStat id st).marks r i = s.marks r i :=
  State.linksBy_forceStat (fun _ _ _ => rfl) s id st

theorem State.marks_forceFrom (s : State) (q : Req) (k : Nat) (st : Nat → Stat) : (s.forceFrom q k st).marks r i = s.marks r i :=
  State.linksBy_forceFrom (fun _ _ _ => rfl) s q k st

theorem State.marks_pump (s : State) : s.pump.marks r i = s.marks r i := rfl

theorem State.marks_readAhead (s : State) (id : LinkId) (want : Nat) : (s.readAhead id want).marks r i = s.marks r i := by
  unfold State.readAhead
  split
  · rfl
  · split
    · rfl
    · dsimp only
      split
      · rfl
      · exact (State.marks_pump _).trans ((State.linksBy_onLink _ _ (by intro; rfl)).trans (by exact rfl))

theorem State.marks_readNext (s : State) (id : LinkId) (e : Nat) : (s.readNext id e).marks r i = s.marks r i := by
  have hw : ∀ (b : Bool) (f : Link → Link), (∀ l, (f l).mark = l.mark) → (if b then s else s.onLink id f : State).marks r i = s.marks r i :=
    fun b f hf => keeps_ite (State.marks · r i) rfl (State.linksBy_onLink _ _ hf)
  unfold State.readNext
  split
  · rfl
  · dsimp only
    refine keeps_ite (State.marks · r i) (hw _ _ fun _ => rfl) ((State.marks_readAhead ..).trans (hw _ _ fun _ => rfl))

theorem State.marks_beginLink (s : State) (id : LinkId) : (s.beginLink id).marks r i = s.marks r i := by
  have ho : ∀ f, (∀ l, (f l).mark = l.mark) → (s.onLink id f).marks r i = s.marks r i := fun f hf => State.linksBy_onLink _ _ hf
  unfold State.beginLink
  split
  · rfl
  · split
    · rfl
    · exact keeps_ite (State.marks · r i) (ho _ fun _ => rfl) ((State.marks_readNext ..).trans (ho _ fun _ => rfl))

theorem State.marks_chainFetched (s : State) (q : Req) (own : List (Option Stat)) : (s.chainFetched q own).marks r i = s.marks r i := by
  unfold State.chainFetched
  refine (foldl_keeps (State.marks · r i) (fun t id => State.marks_beginLink t id) _ _).trans ?_
  dsimp only
  split
  · rfl
  · have hf : ∀ l : List (LinkId × Option Stat), (l.foldl (fun s x => match x.2 with
        | some st => s.forceStat x.1 st
        | none => s) s).marks r i = s.marks r i := fun l => foldl_keeps (State.marks · r i) (fun t x => by
      split
      · exact State.marks_forceStat ..
      · rfl) _ _
    split
    · exact (State.linksBy_of_req (State.req_packetViolation ..)).trans (hf _)
    · exact hf _

theorem State.marks_abortFrom (s : State) (q : Req) (k : Nat) (st : Nat → Stat) : (s.abortFrom q k st).marks r i = s.marks r i := by
  unfold State.abortFrom
  refine (State.linksBy_onReq _ _ _ (by intro; exact ⟨rfl, rfl⟩) (fun q => ?_)).trans (State.marks_forceFrom ..)
  dsimp only
  refine List.ext_getElem? fun j => ?_
  simp only [Req.linksBy, List.getElem?_map, List.getElem?_zipIdx]
  cases q.links[j]? with
  | none => rfl
  | some l =>
    simp only [Option.map_some]
    split <;> rfl

/-! #### Where the ring stands -/

/-- The ring's place, its count of packets and its failed header. -/
def State.fetchPos (s : State) (r : Nat) : Nat × W64 × Option Nat := ((s.ring r).subHead, (s.ring r).submitted, (s.ring r).hdrFail)

theorem State.fetchPos_onRing (s : State) (a r : Nat) {f : Ring → Ring} (hf : ∀ x, (f x).subHead = x.subHead ∧ (f x).submitted = x.submitted
    ∧ (f x).hdrFail = x.hdrFail) : (s.onRing a f).fetchPos r = s.fetchPos r := by
  obtain ⟨h1, h2, h3⟩ := hf (s.ring a)
  unfold State.fetchPos
  rw [State.ring_onRing]
  split
  · next h => rw [h1, h2, h3, h]
  · rfl

theorem State.fetchPos_rings {t : State} (h : t.rng.rings = s.rng.rings) (r : Nat) : t.fetchPos r = s.fetchPos r := by
  unfold State.fetchPos State.ring
  rw [h]

theorem endFrame_fetchPos (a b r : Nat) : EndFrame a b (State.fetchPos · r) where
  link _ _ _ := rfl
  ring s n := State.fetchPos_onRing s n r fun _ => ⟨rfl, rfl, rfl⟩
  eph _ _ := rfl
  sch _ _ := rfl
  prt _ _ := rfl
  reads _ _ := rfl
  items _ _ := rfl
  pageOps _ _ := rfl
  jobs _ _ := rfl
  unbind _ _ := rfl
  unit s u f _ := by cases u <;> rfl

theorem State.fetchPos_readNext (s : State) (id : LinkId) (e r : Nat) : (s.readNext id e).fetchPos r = s.fetchPos r := by
  have ha : ∀ (s : State) want, (s.readAhead id want).fetchPos r = s.fetchPos r := fun s want => by
    unfold State.readAhead
    split
    · rfl
    · dsimp only
      exact keeps_ite (State.fetchPos · r) rfl (keeps_ite (State.fetchPos · r) rfl (by exact rfl))
  unfold State.readNext
  split
  · rfl
  · dsimp only
    exact keeps_ite (State.fetchPos · r) (keeps_ite (State.fetchPos · r) rfl (by exact rfl))
      ((ha ..).trans (keeps_ite (State.fetchPos · r) rfl (by exact rfl)))

theorem State.fetchPos_beginLink (s : State) (id : LinkId) (r : Nat) : (s.beginLink id).fetchPos r = s.fetchPos r := by
  unfold State.beginLink
  split
  · rfl
  · split
    · rfl
    · exact keeps_ite (State.fetchPos · r) (by exact rfl) ((State.fetchPos_readNext ..).trans (by exact rfl))

theorem State.fetchPos_forceFrom (s : State) (q : Req) (k : Nat) (st : Nat → Stat) (r : Nat) : (s.forceFrom q k st).fetchPos r = s.fetchPos r :=
  (endFrame_fetchPos q.ring q.idx r).forceFrom s rfl rfl k st

theorem State.fetchPos_chainFetched (s : State) (q : Req) (own : List (Option Stat)) (r : Nat) :
    (s.chainFetched q own).fetchPos r = s.fetchPos r := by
  unfold State.chainFetched
  refine (foldl_keeps (State.fetchPos · r) (fun t id => State.fetchPos_beginLink t id r) _ _).trans ?_
  dsimp only
  split
  · rfl
  · have hf : ∀ l : List (LinkId × Option Stat), (l.foldl (fun s x => match x.2 with
        | some st => s.forceStat x.1 st
        | none => s) s).fetchPos r = s.fetchPos r := fun l => foldl_keeps (State.fetchPos · r) (fun t x => by
      split
      · exact (endFrame_fetchPos x.1.ring x.1.idx r).forceStat t x.1.link _
      · rfl) _ _
    split
    · exact ((endFrame_fetchPos 0 0 r).packetViolation ..).trans (hf _)
    · exact hf _

/-! #### The packet is taken -/

/-- The request that a new link begins or goes on with. -/
def State.grown (s : State) (r idx arrival : Nat) (l : Link) (more : Bool) : Req :=
  match s.rng.reqs.find? fun q => q.ring == r && q.openSince.isSome with
  | some q => { q with links := q.links ++ [l], openSince := if more then some s.sch.tick else none, arrival := arrival }
  | none => { ring := r, idx := idx, part := (s.ring r).owner, order := s.rng.order, links := [l], arrival := arrival,
              openSince := if more then some s.sch.tick else none, stream := (s.ring r).attr.stream }

/-- The request stands in its place, and no other has its name. -/
def State.putReq (s : State) (q : Req) (n : Nat) : State :=
  s.onRng fun g => { g with order := n, reqs := (g.reqs.filter fun o => !(o.ring == q.ring && o.idx == q.idx)) ++ [q] }

theorem State.req_putReq (s : State) (q : Req) (n : Nat) : (s.putReq q n).req q.ring q.idx = some q := by
  simp only [State.req, State.putReq, State.onRng, List.find?_append, List.find?_cons, beq_self_eq_true, Bool.and_self]
  rw [List.find?_eq_none.2 fun o ho => by simpa [not_and_or, imp_iff_not_or] using (List.mem_filter.1 ho).2]
  rfl

/-- The request is in its place, and the packet counted. -/
def State.linkAdded (s : State) (r : Nat) (q : Req) (n : Nat) : State :=
  (s.onRing r fun x => { x with submitted := x.submitted + 1 }).putReq q n

theorem State.addLink_eq (s : State) (r idx arrival : Nat) (l : Link) (chain : Bool) : ∃ more n,
    s.addLink r idx arrival l chain =
      if (s.ring r).aborted (s.grown r idx arrival l more).idx || (s.grown r idx arrival l more).abort != .none then
        ((s.linkAdded r (s.grown r idx arrival l more) n).onReq r (s.grown r idx arrival l more).idx
          fun q => { q with abort := .stopping, inAbort := true }).abortFrom (s.grown r idx arrival l more) 0 fun _ => stAborted 1
      else if more then s.linkAdded r (s.grown r idx arrival l more) n
      else (s.linkAdded r (s.grown r idx arrival l more) n).chainFetched (s.grown r idx arrival l more)
        ((s.linkAdded r (s.grown r idx arrival l more) n).ownChecks (s.grown r idx arrival l more)) := by
  unfold State.addLink
  cases h : s.rng.reqs.find? fun q => q.ring == r && q.openSince.isSome with
  | none => exact ⟨chain && decide (0 < 7), s.rng.order + 1, by simp only [State.grown, h]; rfl⟩
  | some q => exact ⟨chain && decide (q.links.length < 7), s.rng.order, by simp only [State.grown, h]; rfl⟩

/-- The link stands last in its request, and the ring has counted the packet. -/
theorem State.addLink_keeps {s : State} {r idx : Nat} (arrival : Nat) (l : Link) (chain : Bool)
    (hcur : ∀ q, s.rng.reqs.find? (fun q => q.ring == r && q.openSince.isSome) = some q → q.idx = idx) :
    (s.addLink r idx arrival l chain).fetchPos r = ((s.ring r).subHead, (s.ring r).submitted + 1, (s.ring r).hdrFail)
    ∧ ∃ m, (s.addLink r idx arrival l chain).marks r idx = some (m ++ [(l.subIdx, l.fetchTick)]) := by
  obtain ⟨more, n, h⟩ := s.addLink_eq r idx arrival l chain
  rw [h]
  let q := s.grown r idx arrival l more
  obtain ⟨hr, hi, m, hm⟩ : q.ring = r ∧ q.idx = idx ∧ ∃ m, q.marks = m ++ [(l.subIdx, l.fetchTick)] := by
    simp only [q, State.grown]
    cases hf : s.rng.reqs.find? fun q => q.ring == r && q.openSince.isSome with
    | none => exact ⟨rfl, rfl, [], rfl⟩
    | some c =>
      have hc := List.find?_some hf
      simp only [Bool.and_eq_true, beq_iff_eq] at hc
      exact ⟨hc.1, hcur c hf, c.marks, by simp [Req.linksBy, Link.mark]⟩
  have hp : (s.linkAdded r q n).fetchPos r = ((s.ring r).subHead, (s.ring r).submitted + 1, (s.ring r).hdrFail) := by
    show (s.onRing r fun x => { x with submitted := x.submitted + 1 }).fetchPos r = _
    unfold State.fetchPos
    rw [State.ring_onRing, if_pos rfl]
  have hq : (s.linkAdded r q n).marks r idx = some (m ++ [(l.subIdx, l.fetchTick)]) := by
    have := State.req_putReq (s.onRing r fun x => { x with submitted := x.submitted + 1 }) q n
    rw [hr, hi] at this
    unfold State.marks State.linksBy State.linkAdded
    rw [this]
    exact congrArg some hm
  split
  · refine ⟨(State.fetchPos_forceFrom ..).trans hp, m, (State.marks_abortFrom ..).trans ((State.linksBy_onReq _ _ _ ?_ ?_).trans hq)⟩
    · intro; exact ⟨rfl, rfl⟩
    · intro; rfl
  · split
    · exact ⟨hp, m, hq⟩
    · exact ⟨(State.fetchPos_chainFetched ..).trans hp, m, (State.marks_chainFetched ..).trans hq⟩

theorem State.abortTidy_fetchPos (s : State) (r a : Nat) : (s.abortTidy r).fetchPos a = s.fetchPos a := by
  unfold State.abortTidy
  exact keeps_ite (State.fetchPos · a) rfl (State.fetchPos_onRing _ _ _ (by intro; exact ⟨rfl, rfl, rfl⟩))

theorem State.abortTidy_marks (s : State) (r a i : Nat) : (s.abortTidy r).marks a i = s.marks a i := by
  unfold State.abortTidy
  exact keeps_ite (State.marks · a i) rfl (by exact rfl)

theorem State.fetchId_idx (s : State) {r : Nat} {q : Req} (h : s.rng.reqs.find? (fun q => q.ring == r && q.openSince.isSome) = some q) :
    (s.fetchId r).idx = q.idx := by
  unfold State.fetchId
  rw [h]

theorem State.marks_behind (s : State) (r n a i : Nat) : (s.onRng fun t => { t with reqs := t.reqs.map fun q =>
    if q.ring == r then { q with behind := q.behind + 1 + n } else q }).marks a i = s.marks a i := by
  unfold State.marks State.linksBy State.req
  rw [show (s.onRng fun t => { t with reqs := t.reqs.map fun q => if q.ring == r then { q with behind := q.behind + 1 + n } else q }).rng.reqs
    = s.rng.reqs.map fun q => if q.ring == r then { q with behind := q.behind + 1 + n } else q from rfl,
    find?_map_key (fun q => by split <;> rfl) (fun q => by split <;> rfl)]
  cases s.rng.reqs.find? fun q => q.ring == a && q.idx == i with
  | none => rfl
  | some q =>
    simp only [Option.map_some]
    split <;> rfl

theorem State.fetchPos_behind (s : State) (r n a : Nat) : (s.onRng fun t => { t with reqs := t.reqs.map fun q =>
    if q.ring == r then { q with behind := q.behind + 1 + n } else q }).fetchPos a = s.fetchPos a := rfl

/-- The packet at sub_head is taken (R45). -/
theorem State.takePacket_keeps (s : State) (r : Nat) (hb : Bytes) (inl : ReadAnswer) :
    (s.takePacket r hb inl).fetchPos r = (((s.ring r).subHead + 1 + furtherCount (s.ring r).attr.fmt hb) % (s.ring r).span,
      (s.ring r).submitted + 1, none)
    ∧ ∃ m, (s.takePacket r hb inl).marks r (s.fetchId r).idx = some (m ++ [((s.ring r).subHead, s.sch.tick)]) := by
  unfold State.takePacket
  dsimp only
  rw [State.abortTidy_fetchPos, State.abortTidy_marks, State.marks_behind, State.fetchPos_behind]
  obtain ⟨h1, m, h2⟩ := State.addLink_keeps (s := s.onRing r fun x => { x with
      subHead := ((s.ring r).subHead + 1 + furtherCount (s.ring r).attr.fmt hb) % (s.ring r).span, hdrFail := none
      pubs := x.pubs.filter fun p => 0 < modSub p.1 (((s.ring r).subHead + 1 + furtherCount (s.ring r).attr.fmt hb) % (s.ring r).span)
        (s.ring r).span && modSub p.1 (((s.ring r).subHead + 1 + furtherCount (s.ring r).attr.fmt hb) % (s.ring r).span) (s.ring r).span
          ≤ (s.ring r).depth }) (r := r) (idx := (s.fetchId r).idx) _ _ _ fun q hq => (s.fetchId_idx hq).symm
  refine ⟨h1.trans ?_, m, h2⟩
  rw [State.ring_onRing, if_pos rfl]

/-- What a header that is read leaves. -/
theorem State.fetchAt_ok {f : FetchReads} {b : Bytes} (hf : f.header = .ok b)
    (h1 : s.canRead (s.ringReader (s.ring r).owner (some (s.fetchId r))) ((s.ring r).entryExts (s.ring r).subHead 1) = true)
    (h2 : s.canRead (s.ringReader (s.ring r).owner (some (s.fetchId r))) ((s.ring r).entryExts ((s.ring r).subHead + 1)
      (furtherCount (s.ring r).attr.fmt (ansBytes (.ok b) (entryBytes (s.ring r).attr.fmt)))) = true) :
    (s.fetchAt r f).fetchPos r = (((s.ring r).subHead + 1 + furtherCount (s.ring r).attr.fmt (ansBytes (.ok b)
      (entryBytes (s.ring r).attr.fmt))) % (s.ring r).span, (s.ring r).submitted + 1, none)
    ∧ ∃ m, (s.fetchAt r f).marks r (s.fetchId r).idx = some (m ++ [((s.ring r).subHead, s.sch.tick)]) := by
  obtain ⟨u, hu, ht, he⟩ : ∃ u : State, u.rng = s.rng ∧ u.sch.tick = s.sch.tick
      ∧ s.fetchAt r f = u.takePacket r (ansBytes (.ok b) (entryBytes (s.ring r).attr.fmt)) f.inl := by
    unfold State.fetchAt
    simp only [hf, h1, h2, Bool.not_true, Bool.false_eq_true, if_false]
    refine ⟨_, ?_, ?_, rfl⟩
    · rw [State.readString_rng, State.readString_rng, State.newReads_rng]
    · rw [State.readString_tick, State.readString_tick, State.newReads_tick]
  have hr : u.ring r = s.ring r := by unfold State.ring; rw [hu]
  have hi : u.fetchId r = s.fetchId r := by unfold State.fetchId State.freshIdx State.req State.ring; rw [hu]
  have := u.takePacket_keeps r (ansBytes (.ok b) (entryBytes (s.ring r).attr.fmt)) f.inl
  rwa [hr, hi, ht, ← he] at this

/-- What a header that cannot be read leaves. -/
theorem State.fetchAt_failed {f : FetchReads} (hf : ∀ b, f.header ≠ .ok b)
    (h1 : s.canRead (s.ringReader (s.ring r).owner (some (s.fetchId r))) ((s.ring r).entryExts (s.ring r).subHead 1) = true) :
    (s.fetchAt r f).ring r = { s.ring r with hdrFail := some ((s.ring r).hdrFail.getD s.sch.tick), hdrTick := s.sch.tick }
    ∧ (s.fetchAt r f).rng.reqs = s.rng.reqs := by
  obtain ⟨u, hu, ht, he⟩ : ∃ u : State, u.rng = s.rng ∧ u.sch.tick = s.sch.tick ∧ s.fetchAt r f = u.headerFailed r := by
    unfold State.fetchAt
    simp only [h1, Bool.not_true, Bool.false_eq_true, if_false]
    cases hh : f.header with
    | ok b => exact absurd hh (hf b)
    | _ => exact ⟨_, (State.readString_rng ..).trans (State.newReads_rng _), (State.readString_tick ..).trans (State.newReads_tick _), rfl⟩
  have hr : u.ring r = s.ring r := by unfold State.ring; rw [hu]
  rw [he]
  have hpush : (u.headerFailed r).rng = (u.onRing r fun x => { x with
      hdrFail := some ((u.ring r).hdrFail.getD u.sch.tick), hdrTick := u.sch.tick }).rng := by
    unfold State.headerFailed
    exact keeps_ite State.rng (State.ephPush_field _ State.rng (by intros; rfl) _) rfl
  constructor
  · unfold State.ring
    rw [hpush]
    refine (State.ring_onRing _ _ _ _).trans ?_
    rw [if_pos rfl, hr, ht]
    rfl
  · rw [hpush]
    exact (State.onRing_reqs ..).trans (congrArg Rng.reqs hu)

/-- Settles O33: a header that is read ends in `takePacket`, one that is not in `headerFailed`, whether it is fetched or read again. -/
theorem fetchResults : Obligations.FetchResults := by
  have hexec : ∀ (r : Nat) (f : FetchReads) (s : State), s.mayFetch r = true →
      ((s.ring r).hdrFail = none → exec (.ringFetch r f) s = .next (s.fetchAt r f))
      ∧ ((s.ring r).hdrFail.isSome = true → (s.ring r).hdrTick ≠ s.sch.tick → exec (.headerReread r f) s = .next (s.fetchAt r f)) := by
    refine fun r f s hm => ⟨fun hn => ?_, fun hn ht => ?_⟩
    · show execRingFetch r f s = _
      simp [execRingFetch, hm, hn]
    · have hn' : (s.ring r).hdrFail.isNone = false := by simpa using hn
      show execHeaderReread r f s = _
      simp [execHeaderReread, hm, hn', ht]
  refine ⟨fun r f b s hm hf => ?_, fun r f s hm hf => ?_, fun r a s hs hc hx hr => ?_⟩
  · intro x hb n rd goal h1 h2
    have hgoal : goal (s.fetchAt r f) := by
      obtain ⟨h3, m, h4⟩ := State.fetchAt_ok hf h1 h2
      simp only [State.fetchPos, Prod.mk.injEq] at h3
      obtain ⟨g1, g2, g3⟩ := h3
      refine ⟨g1, g2, g3, ?_⟩
      obtain ⟨q, hq, hl⟩ := Option.map_eq_some_iff.1 h4
      obtain ⟨k1, k2⟩ := State.req_key hq
      have hmem : (x.subHead, s.sch.tick) ∈ q.marks := by simp [hl, x]
      obtain ⟨l, hl, he⟩ := List.mem_map.1 hmem
      simp only [Link.mark, Prod.mk.injEq] at he
      exact ⟨q, List.mem_of_find?_eq_some hq, k1, k2, l, hl, he⟩
    exact ⟨fun hn => ⟨_, (hexec r f s hm).1 hn, hgoal⟩, fun hn ht => ⟨_, (hexec r f s hm).2 hn ht, hgoal⟩⟩
  · intro x rd goal h1
    have hgoal : goal (s.fetchAt r f) := by
      obtain ⟨h3, h4⟩ := State.fetchAt_failed hf h1
      exact ⟨by rw [h3], by rw [h3], by rw [h3], h4⟩
    exact ⟨fun hn => ⟨_, (hexec r f s hm).1 hn, hgoal⟩, fun hn ht => ⟨_, (hexec r f s hm).2 hn ht, hgoal⟩⟩
  · have hu : ∀ a', (s.newReads.readString (s.vaultReader (s.ring r).owner none) [(s.key.base + ringCtxBase + 256 * r, 256)] a').rng = s.rng :=
      fun a' => (State.readString_rng ..).trans (State.newReads_rng _)
    refine ⟨?_, fun hn => ?_⟩
    · rintro ⟨b, rfl⟩
      have he : exec (.ringContextMiss r (.ok b)) s = .next ((s.newReads.readString (s.vaultReader (s.ring r).owner none)
          [(s.key.base + ringCtxBase + 256 * r, 256)] (.ok b)).cacheRing r) := by
        show execRingContextMiss r (.ok b) s = _
        simp [execRingContextMiss, hs, hc, hx, hr]
      refine ⟨_, he, (State.ring_cacheRing ..).trans ?_⟩
      rw [State.ring_congr (hu _)]
    · have he : exec (.ringContextMiss r a) s = .next (s.newReads.readString (s.vaultReader (s.ring r).owner none)
          [(s.key.base + ringCtxBase + 256 * r, 256)] a) := by
        show execRingContextMiss r a s = _
        cases a with
        | ok b => exact absurd rfl (hn b)
        | _ => simp [execRingContextMiss, hs, hc, hx, hr]
      exact ⟨_, he, hu _⟩

end Fetch

end Sys2Proof.Machine

/-! ### PROOFS. The stages of a ring's packets: the incomplete chain, the stalled completion ring, the gather lists (R48, R74, R75, R85,
R90, R91, R274 to R277) -/

namespace Sys2Proof.Machine

section Stages

variable {s : State} {r i k : Nat} {q : Req} {l : Link}

/-! #### Ends by way of the links' results -/

theorem State.forceFrom_congr {q q' : Req} (hr : q.ring = q'.ring) (hi : q.idx = q'.idx) (hl : q.links.length = q'.links.length) (s : State) (k : Nat)
    (st : Nat → Stat) : s.forceFrom q k st = s.forceFrom q' k st := by
  unfold State.forceFrom Req.linkId
  rw [hr, hi, hl]

theorem Req.forcedTo_link {q : Req} {j : Nat} {l : Link} (hl : q.links[j]? = some l) (hr : l.recorded = false) (st : Nat → Stat) (now : W64) :
    (q.forcedTo 0 q.links.length st now).links[j]? = some (l.forced (st j) now) := by
  have hj : j < q.links.length := (List.getElem?_eq_some_iff.1 hl).1
  simp only [Req.forcedTo, List.getElem?_mapIdx, hl, hr, hj, Option.map_some, Nat.zero_le, decide_true, Bool.and_self, Bool.not_false, if_true]

theorem Link.forced_stat (l : Link) (st : Stat) (now : W64) : (l.forced st now).stat = some st := rfl

/-- Every link of a request whose record is not made has the result that the force gives. -/
theorem State.forceFrom_link (hq : s.req r i = some q) (st : Nat → Stat) {j : Nat} {l : Link} (hl : q.links[j]? = some l)
    (hr : l.recorded = false) : ∃ q' l', (s.forceFrom q 0 st).link ⟨r, i, j⟩ = some (q', l') ∧ l'.stat = some (st j) :=
  ⟨_, _, State.link_of_req (State.forceFrom_req s r i hq 0 st) (Req.forcedTo_link hl hr st _), rfl⟩

theorem exec_chainIncomplete {o : Nat} (hs : s.serving = true) (hh : (s.ring r).hasHeader = false ∨ (s.ring r).st ≠ .active)
    (hf : s.rng.reqs.find? (fun q => q.ring == r && q.openSince.isSome) = some q) (ho : q.openSince = some o)
    (ht : 1024 ≤ modSub s.sch.tick o (2 ^ 32)) (ha : q.abort = .none) : exec (.chainIncomplete r) s
      = .next (((s.onReq r q.idx fun q => { q with openSince := none }).forceFrom q 0 fun i => if i = q.links.length - 1
          then stMalformed dChainIncomplete else stAbandoned (q.links.length - 1)).packetViolation 0x0509 r q.idx (q.links.length - 1)) := by
  have hb : ((s.ring r).hasHeader && (s.ring r).st == .active) = false := by
    rcases hh with h | h <;> simp [h]
  show execChainIncomplete r s = _
  simp only [execChainIncomplete, hf, hs, hb, ho, ha, Option.getD_some, Bool.not_true, Bool.or_self, Nat.not_lt.2 ht,
    decide_false, Bool.false_eq_true, if_false]
  rfl

/-! #### Gather lists -/

theorem firstFail_first {n m : Nat} {e e' : List (Nat × Nat)} {a b : ReadAnswer} {st : Stat} (ha : ansFail n a = some st)
    (hb : ansFail m b = none) : firstFail [(n, e, a), (m, e', b)] = some st := by
  simp [firstFail, ha, hb, minBy]

theorem firstFail_second {n m : Nat} {e e' : List (Nat × Nat)} {a b : ReadAnswer} {st : Stat} (ha : ansFail n a = none)
    (hb : ansFail m b = some st) : firstFail [(n, e, a), (m, e', b)] = some st := by
  simp [firstFail, ha, hb, minBy]

theorem firstFail_none {n m : Nat} {e e' : List (Nat × Nat)} {a b : ReadAnswer} (ha : ansFail n a = none) (hb : ansFail m b = none) :
    firstFail [(n, e, a), (m, e', b)] = none := by
  simp [firstFail, ha, hb, minBy]

theorem State.onLink_rings (s : State) (id : LinkId) (f : Link → Link) : (s.onLink id f).rng.rings = s.rng.rings := rfl

/-- The extents of a list, where there is one. -/
def listExts (n a : Nat) : List (Nat × Nat) := if isList n then [(a, 16 * n)] else []

/-- The answer that the list stage takes: none is asked where there is no list. -/
def listAns (n : Nat) (a : ReadAnswer) : ReadAnswer := if isList n then a else .ok []

/-- The elements of a list that was read. -/
def listElems (n : Nat) (b : Bytes) : List (Elem × Bool × Bool) := if isList n then readElems n (ansBytes (.ok b) (16 * n)) else []

theorem ansFail_listAns (n : Nat) (b : Bytes) : ansFail atList (listAns n (.ok b)) = none := by
  unfold listAns
  split <;> rfl

theorem listElems_eq (n : Nat) (b : Bytes) :
    (if isList n then readElems n (ansBytes (if isList n then .ok b else .ok []) (16 * n)) else []) = listElems n b := by
  unfold listElems
  split <;> rfl

/-- The block once both lists are read. -/
def State.listsRead (s : State) (q : Req) (l : Link) (id : LinkId) (a b : ReadAnswer) : State :=
  (s.newReads.readString (s.ringReader q.part (some id)) (listExts l.hdr.srcGather l.hdr.src) a).readString (s.ringReader q.part (some id))
    (listExts l.hdr.dstGather l.hdr.dst) b

theorem State.listsRead_field {α : Type} (g : State → α) (hm : ∀ s f, g (State.onMov s f) = g s) (he : ∀ s f, g (State.onEph s f) = g s)
    (s : State) (q : Req) (l : Link) (id : LinkId) (a b : ReadAnswer) : g (s.listsRead q l id a b) = g s :=
  (State.readString_field g hm he ..).trans ((State.readString_field g hm he ..).trans (State.newReads_field g hm s))

section Lists

variable {id : LinkId} (hs : s.serving = true) (hl : s.link id = some (q, l)) (h0 : l.stat = none) (ht : l.timedOut = false)
  (hd : l.listsDone = false) (ho : q.openSince = none) (ha : q.abort = .none) (hop : tagRead l.hdr.opcode = false)
  (hc : s.canRead (s.ringReader q.part (some id)) (listExts l.hdr.srcGather l.hdr.src ++ listExts l.hdr.dstGather l.hdr.dst) = true)
include hs hl h0 ht hd ho ha hc

theorem exec_gatherListRead_fails {src dst : ReadAnswer} {st : Stat} (hf : firstFail [(atList, listExts l.hdr.srcGather l.hdr.src, listAns
    l.hdr.srcGather src), (atList, listExts l.hdr.dstGather l.hdr.dst, listAns l.hdr.dstGather dst)] = some st) :
    exec (.gatherListRead id src dst) s
      = .next ((s.listsRead q l id (listAns l.hdr.srcGather src) (listAns l.hdr.dstGather dst)).failStage id st) := by
  show execGatherListRead id src dst s = _
  simp only [listExts, listAns] at hf hc
  simp [execGatherListRead, hl, hs, h0, ht, hd, ho, ha, hc, hf, State.listsRead, listAns, listExts]

section Passed

variable {b d : Bytes}

theorem exec_gatherListRead_checked {st : Stat} (hk : listCheck l.hdr (listElems l.hdr.srcGather b) (listElems l.hdr.dstGather d) = some st) :
    exec (.gatherListRead id (.ok b) (.ok d)) s
      = .next ((s.listsRead q l id (listAns l.hdr.srcGather (.ok b)) (listAns l.hdr.dstGather (.ok d))).endAs id st) := by
  have hf := firstFail_none (e := listExts l.hdr.srcGather l.hdr.src) (e' := listExts l.hdr.dstGather l.hdr.dst)
    (ansFail_listAns l.hdr.srcGather b) (ansFail_listAns l.hdr.dstGather d)
  simp only [listExts, listAns] at hf hc
  show execGatherListRead id (.ok b) (.ok d) s = _
  simp only [execGatherListRead, hl, hs, h0, ht, hd, ho, ha, hc, hf, listElems_eq, hk]
  rfl

include hop in
theorem exec_gatherListRead_passed (hk : listCheck l.hdr (listElems l.hdr.srcGather b) (listElems l.hdr.dstGather d) = none) :
    exec (.gatherListRead id (.ok b) (.ok d)) s
      = .next ((s.listsRead q l id (listAns l.hdr.srcGather (.ok b)) (listAns l.hdr.dstGather (.ok d))).onLink id fun l' => { l' with
            srcElems := (listElems l.hdr.srcGather b).map (·.1), dstElems := (listElems l.hdr.dstGather d).map (·.1), listsDone := true }) := by
  have hf := firstFail_none (e := listExts l.hdr.srcGather l.hdr.src) (e' := listExts l.hdr.dstGather l.hdr.dst)
    (ansFail_listAns l.hdr.srcGather b) (ansFail_listAns l.hdr.dstGather d)
  simp only [listExts, listAns] at hf hc
  show execGatherListRead id (.ok b) (.ok d) s = _
  simp only [execGatherListRead, hl, hs, h0, ht, hd, ho, ha, hc, hf, listElems_eq, hk, hop]
  rfl

end Passed

end Lists

theorem State.endAs_ends (hl : s.link ⟨r, i, k⟩ = some (q, l)) (h0 : l.stat = none) (st : Stat) :
    ∃ q' l', (s.endAs ⟨r, i, k⟩ st).link ⟨r, i, k⟩ = some (q', l') ∧ l'.stat = some st := by
  obtain ⟨q', stamp, viol, h⟩ := State.endAs_link hl h0 st
  exact ⟨q', _, h, rfl⟩

theorem State.failStage_ends (hl : s.link ⟨r, i, k⟩ = some (q, l)) (h0 : l.stat = none) {st : Stat} (hst : st.code ≠ 0x42) :
    ∃ q' l', (s.failStage ⟨r, i, k⟩ st).link ⟨r, i, k⟩ = some (q', l') ∧ l'.stat = some st := by
  rw [State.failStage, if_neg hst]
  exact State.endAs_ends hl h0 st

/-- A stage that timed out leaves its link to the coming cut (R90, R274). -/
theorem State.failStage_timeout (hl : s.link ⟨r, i, k⟩ = some (q, l)) {st : Stat} (hst : st.code = 0x42) :
    ∃ q', (s.failStage ⟨r, i, k⟩ st).link ⟨r, i, k⟩ = some (q', { l with err := some (l.err.getD st), timedOut := true }) := by
  rw [State.failStage, if_pos hst]
  exact State.readTimedOut_link hl st

/-- Settles O34. -/
theorem ringStageResults : Obligations.RingStageResults := by
  refine ⟨⟨fun r q o s hs hh hr hf hq ho ht ha => ?_, fun r s hs h => ?_⟩, ?_⟩
  · refine ⟨_, exec_chainIncomplete hs hh hf ho ht ha, fun k l hl hrec => ?_⟩
    have hq' : (s.onReq r q.idx fun q => { q with openSince := none }).req r q.idx = some { q with openSince := none } := by
      rw [State.req_onReq _ _ _ _ (by intro; exact ⟨rfl, rfl⟩), hq]
      rfl
    obtain ⟨q', l', h1, h2⟩ := State.forceFrom_link hq' (fun i => if i = q.links.length - 1 then stMalformed dChainIncomplete
      else stAbandoned (q.links.length - 1)) (show ({ q with openSince := none } : Req).links[k]? = some l from hl) hrec
    refine ⟨q', l', ?_, h2⟩
    rw [State.link_of_req_eq (State.req_packetViolation ..), ← h1]
    rw [State.forceFrom_congr (q' := { q with openSince := none })] <;> rfl
  · show execCqStall r s = _
    rw [execCqStall, if_neg (by simp [hs, h])]
    rfl
  · rintro ⟨r, i, k⟩ src dst q l s hs hl h0 ht hd ho ha hop h exts hc elems ends
    have hread : ∀ a b, (s.listsRead q l ⟨r, i, k⟩ a b).link ⟨r, i, k⟩ = some (q, l) := fun a b =>
      (State.link_of_rng (State.listsRead_field State.rng (fun _ _ => rfl) (fun _ _ => rfl) ..) _).trans hl
    have hends : ∀ {st : Stat}, st.code ≠ 0x42 → firstFail [(atList, listExts h.srcGather h.src, listAns h.srcGather src),
        (atList, listExts h.dstGather h.dst, listAns h.dstGather dst)] = some st → ends src dst st := by
      intro st hst hf
      obtain ⟨q', l', h1, h2⟩ := State.failStage_ends (hread (listAns h.srcGather src) (listAns h.dstGather dst)) h0 hst
      exact ⟨_, q', l', exec_gatherListRead_fails hs hl h0 ht hd ho ha hc hf, h1, h2⟩
    have hlist : ∀ {n : Nat} {a : ReadAnswer}, isList n = true → listAns n a = a := fun h => if_pos h
    have hnone : ∀ {n : Nat} {a : ReadAnswer}, (isList n = false ∨ ∃ b, a = .ok b) → ansFail atList (listAns n a) = none := by
      rintro n a (h | ⟨b, rfl⟩)
      · simp [listAns, h, ansFail]
      · exact ansFail_listAns n b
    refine ⟨?_, ?_, ?_, ?_, ?_⟩
    · rintro h1 ⟨c, o, rfl⟩ h2
      exact hends (by decide) (firstFail_first (by rw [hlist h1]; rfl) (hnone h2))
    · rintro h1 ⟨c, o, rfl⟩ h2
      exact hends (by decide) (firstFail_second (hnone h2) (by rw [hlist h1]; rfl))
    · rintro h1 ⟨c, b, o, rfl⟩ h2
      exact hends (by decide) (firstFail_second (hnone h2) (by rw [hlist h1]; rfl))
    · rintro h1 ⟨c, o, rfl⟩ h2
      obtain ⟨q', h'⟩ := State.failStage_timeout (hread (listAns h.srcGather (.timeout c o)) (listAns h.dstGather dst)) (st := ⟨0x42, 3⟩) rfl
      exact ⟨_, q', { l with err := some (l.err.getD ⟨0x42, 3⟩), timedOut := true },
        exec_gatherListRead_fails hs hl h0 ht hd ho ha hc (firstFail_first (by rw [hlist h1]; rfl) (hnone h2)), h', h0, rfl, rfl⟩
    · rintro b d rfl rfl
      refine ⟨fun st hk => ?_, fun hk => ?_⟩
      · obtain ⟨q', l', h1, h2⟩ := State.endAs_ends (hread (listAns h.srcGather (.ok b)) (listAns h.dstGather (.ok d))) h0 st
        exact ⟨_, q', l', exec_gatherListRead_checked hs hl h0 ht hd ho ha hc hk, h1, h2⟩
      · refine ⟨_, _, exec_gatherListRead_passed hs hl h0 ht hd ho ha hop hc hk, State.link_onLink_own (hread _ _) _, ?_, ?_⟩
        · exact (State.onLink_rings ..).trans <| congrArg Rng.rings (State.listsRead_field State.rng (fun _ _ => rfl) (fun _ _ => rfl) ..)
        · exact State.listsRead_field State.key (fun _ _ => rfl) (fun _ _ => rfl) ..

end Stages

end Sys2Proof.Machine

/-! ### PROOFS. The completion record: its slot, its phase and its write (R41, R47, R50, R86, R96, R302, R303) -/

namespace Sys2Proof.Machine

/-! #### Writes as they are put -/

/-- A write without what its issue gives it. -/
def FWrite.plain (w : FWrite) : FWrite := { w with issued := false, idx := 0, gen := 0 }

theorem Port.pumpW_plain (silent : Nat → Bool) (p : Port) (done l : List FWrite) :
    (p.pumpW silent done l).writes.map FWrite.plain = (done ++ l).map FWrite.plain := by
  induction l generalizing p done with
  | nil => simp [Port.pumpW]
  | cons w l ih =>
    unfold Port.pumpW
    split
    · simp [ih]
    · split
      · simp [ih]
      · rw [ih]
        simp [FWrite.plain]

theorem Port.pumpR_writes (silent : Nat → Bool) (p : Port) (done l : List FRead) : (p.pumpR silent done l).writes = p.writes := by
  induction l generalizing p done with
  | nil => rfl
  | cons r l ih =>
    unfold Port.pumpR
    split
    · exact ih _ _
    · dsimp only
      split
      · exact ih _ _
      · exact (ih _ _).trans rfl

theorem Port.pump_plain (silent : Nat → Bool) (p : Port) : (p.pump silent).writes.map FWrite.plain = p.writes.map FWrite.plain := by
  have hq : (if p.writes.all fun w => w.issued then p else p.pumpW silent [] p.writes).writes.map FWrite.plain = p.writes.map FWrite.plain := by
    split
    · rfl
    · simpa using Port.pumpW_plain silent p [] p.writes
  unfold Port.pump
  dsimp only
  generalize (if p.writes.all fun w => w.issued then p else p.pumpW silent [] p.writes) = q at hq ⊢
  split
  · exact hq
  · rw [Port.pumpR_writes, hq]

theorem State.pump_plain (s : State) : s.pump.writes.map FWrite.plain = s.writes.map FWrite.plain := by
  simp only [State.pump, State.writes, State.onMov, List.flatMap_map, List.map_flatMap, Port.pump_plain]

/-! #### A string of 32 bytes at its own boundary -/

theorem cut_record {a : Nat} (h : a % 32 = 0) : cut a 32 = [(a, 32)] := by
  have hc : cutLen a (a + 32) = 32 := by
    unfold cutLen
    dsimp only
    split
    · omega
    · split <;> omega
  simp [cut, cutF, hc]

theorem natLE_length (n len : Nat) : (natLE n len).length = len := by
  induction len generalizing n with
  | zero => rfl
  | succ len ih => simp [natLE, ih]

theorem Record.encode_length (r : Record) : r.encode.length = 32 := by
  unfold Record.encode
  dsimp only
  split <;> simp [natLE_length]

theorem FWrite.of_plain {w w' : FWrite} (h : w'.plain = w.plain) : w'.addr = w.addr ∧ w'.data = w.data ∧ w'.purpose = w.purpose :=
  ⟨congrArg (·.addr) h, congrArg (·.data) h, congrArg (·.purpose) h⟩

section Record

variable {s : State}

/-- The write of 32 bytes at their own boundary stands among the writes of its port. -/
theorem State.write_record {a : Nat} {data : Bytes} {fid cls : Nat} {p : WPurpose} (ha : a % 32 = 0) (hd : data.length = 32)
    (hp : (s.mov.ports[portOf a]?).isSome = true) : ∃ w ∈ (s.write a data fid cls p).writes, w.addr = a ∧ w.data = data ∧ w.purpose = p := by
  let w : FWrite := { addr := a, data := slice data (a - a) 32, fid := fid, cls := if fid = s.vaultFid then clsVault else cls, purpose := p }
  have hw : s.write a data fid cls p = (s.onMov fun m => m.addWrite w).pump := by
    unfold State.write
    rw [hd, cut_record ha]
    rfl
  have hmem : w ∈ (s.onMov fun m => m.addWrite w).writes := by
    obtain ⟨x, hx⟩ := Option.isSome_iff_exists.1 hp
    refine List.mem_flatMap.2 ⟨{ x with writes := x.writes ++ [w] }, ?_, by simp⟩
    refine List.mem_of_getElem? (i := portOf a) ?_
    show (updAt s.mov.ports (portOf w.addr) _)[portOf a]? = _
    rw [updAt_getElem?, if_pos rfl, hx]
    rfl
  have hpl : w.plain ∈ (s.write a data fid cls p).writes.map FWrite.plain := by
    rw [hw, State.pump_plain]
    exact List.mem_map_of_mem hmem
  obtain ⟨v, hv, he⟩ := List.mem_map.1 hpl
  obtain ⟨h1, h2, h3⟩ := FWrite.of_plain he
  refine ⟨v, hv, h1, h2.trans ?_, h3⟩
  show (data.drop (a - a)).take 32 = data
  rw [Nat.sub_self, List.drop_zero, List.take_of_length_le (Nat.le_of_eq hd)]

/-! #### Around the write -/

/-- A part that a record's making leaves: it knows of the rings their write index and attributes alone, and of the links no more than
whether their record is made. -/
structure RecordFrame {α : Type} (g : State → α) : Prop where
  link  : ∀ s id f, (∀ l, (f l).recorded = l.recorded) → g (State.onLink s id f) = g s
  viol  : ∀ s c r i k, g (State.packetViolation s c r i k) = g s
  force : ∀ s q k st, g (State.forceFrom s q k st) = g s
  prt   : ∀ s f, g (State.onPrt s f) = g s
  ring  : ∀ s r f, (∀ x, (f x).wIdx = x.wIdx ∧ (f x).attr = x.attr) → g (State.onRing s r f) = g s
  req   : ∀ s r i f, (∀ q, (f q).ring = q.ring ∧ (f q).idx = q.idx ∧ (f q).links = q.links) → g (State.onReq s r i f) = g s

namespace RecordFrame

variable {α : Type} {g : State → α}

theorem of_ends (h : ∀ r i, EndFrame r i g)
    (hr : ∀ s r f, (∀ x, (f x).wIdx = x.wIdx ∧ (f x).attr = x.attr) → g (State.onRing s r f) = g s)
    (hq : ∀ s r i f, (∀ q, (f q).ring = q.ring ∧ (f q).idx = q.idx ∧ (f q).links = q.links) → g (State.onReq s r i f) = g s) :
    RecordFrame g where
  link s id f _ := (h id.ring id.idx).link s id.link f
  viol s c r i k := (h 0 0).packetViolation s c r i k
  force s q k st := (h q.ring q.idx).forceFrom s rfl rfl k st
  prt s f := (h 0 0).prt s f
  ring := hr
  req := hq

variable (h : RecordFrame g) (s : State)
include h

theorem violNext (q : Req) (k : Nat) : g (s.violNext q k) = g s := by
  unfold State.violNext
  split
  · rfl
  · split
    · exact keeps_ite g ((h.viol ..).trans (h.link _ _ _ (by intro; rfl))) rfl
    · rfl

theorem countRecord (q : Req) (l : Link) (st : Stat) (last : Bool) : g (s.countRecord q l st last) = g s := by
  have hp : ∀ (s : State) p f, g (s.onPart p f) = g s := fun s p f => h.prt _ _
  unfold State.countRecord
  exact (hp ..).trans ((hp ..).trans (h.ring _ _ _ (by intro; exact ⟨rfl, rfl⟩)))

theorem enterHold (r : Nat) : g (s.enterHold r) = g s := by
  unfold State.enterHold
  refine keeps_ite g rfl ((foldl_keeps g (fun t q => ?_) _ _).trans (h.ring _ _ _ (by intro; exact ⟨rfl, rfl⟩)))
  exact (h.force ..).trans (h.req _ _ _ _ (by intro; exact ⟨rfl, rfl, rfl⟩))

end RecordFrame

/-- The ring's write index and attributes. -/
def State.recPos (s : State) (r : Nat) : Nat × Attr := ((s.ring r).wIdx, (s.ring r).attr)

theorem State.recPos_onRing (s : State) (a r : Nat) {f : Ring → Ring} (hf : ∀ x, (f x).wIdx = x.wIdx ∧ (f x).attr = x.attr) :
    (s.onRing a f).recPos r = s.recPos r := by
  obtain ⟨h1, h2⟩ := hf (s.ring a)
  unfold State.recPos
  rw [State.ring_onRing]
  split
  · next h => rw [h1, h2, h]
  · rfl

theorem recordFrame_recPos (r : Nat) : RecordFrame (State.recPos · r) := by
  refine .of_ends (fun a b => ?_) (fun s a f hf => State.recPos_onRing s a r hf) fun _ _ _ _ _ => rfl
  exact {
    link := fun _ _ _ => rfl
    ring := fun s n => State.recPos_onRing s n r fun _ => ⟨rfl, rfl⟩
    eph := fun _ _ => rfl
    sch := fun _ _ => rfl
    prt := fun _ _ => rfl
    reads := fun _ _ => rfl
    items := fun _ _ => rfl
    pageOps := fun _ _ => rfl
    jobs := fun _ _ => rfl
    unbind := fun _ _ => rfl
    unit := fun s u f _ => by cases u <;> rfl }

theorem recordFrame_writes : RecordFrame State.writes :=
  .of_ends endFrame_writes (fun _ _ _ _ => rfl) fun _ _ _ _ _ => rfl

theorem recordFrame_streams : RecordFrame (·.mov.streams) := by
  refine .of_ends (fun a b => ?_) (fun _ _ _ _ => rfl) fun _ _ _ _ _ => rfl
  exact {
    link := fun _ _ _ => rfl
    ring := fun _ _ => rfl
    eph := fun _ _ => rfl
    sch := fun _ _ => rfl
    prt := fun _ _ => rfl
    reads := fun _ _ => rfl
    items := fun _ _ => rfl
    pageOps := fun _ _ => rfl
    jobs := fun _ _ => rfl
    unbind := fun _ _ => rfl
    unit := fun s u f _ => by cases u <;> rfl }

theorem recordFrame_recorded (r i : Nat) : RecordFrame (State.linksBy Link.recorded · r i) where
  link s id _ hf := State.linksBy_onLink s id hf
  viol _ _ _ _ _ := State.linksBy_of_req (State.req_packetViolation ..)
  force s q k st := State.linksBy_forceFrom (fun _ _ _ => rfl) s q k st
  prt _ _ := rfl
  ring _ _ _ _ := rfl
  req s a b _ hf := State.linksBy_onReq s a b (fun q => ⟨(hf q).1, (hf q).2.1⟩) fun q => congrArg (List.map Link.recorded) (hf q).2.2

theorem recordFrame_ports : RecordFrame (·.mov.ports.length) := by
  refine .of_ends (fun a b => ?_) (fun _ _ _ _ => rfl) fun _ _ _ _ _ => rfl
  exact {
    link := fun _ _ _ => rfl
    ring := fun _ _ => rfl
    eph := fun _ _ => rfl
    sch := fun _ _ => rfl
    prt := fun _ _ => rfl
    reads := fun _ _ => List.length_map _
    items := fun _ _ => rfl
    pageOps := fun _ _ => rfl
    jobs := fun _ _ => rfl
    unbind := fun _ _ => rfl
    unit := fun s u f _ => by cases u <;> rfl }

/-! #### The record is made -/

/-- The block with the record of link k counted and the ring moved on, before its bytes leave. -/
def State.recordMade (s : State) (r : Nat) (q : Req) (k : Nat) (l : Link) (st : Stat) : State :=
  (((s.onLink (q.linkId k) fun l => { l with recorded := true }).violNext q (k + 1)).onRing r fun x =>
    { x with wIdx := (x.wIdx + 1) % x.span }).countRecord q l st (k + 1 == q.links.length && q.openSince.isNone)

/-- The record of link k. -/
def State.recordOf (s : State) (r : Nat) (q : Req) (k : Nat) (l : Link) (st : Stat) : Record :=
  { fmt := (s.ring r).attr.fmt, stat := st, retried := l.retried, link := k
    more := !(k + 1 == q.links.length && q.openSince.isNone), phase := phaseOf (s.ring r).attr.log2 (s.ring r).wIdx, tag := l.hdr.tag
    entry := l.subIdx % (s.ring r).depth, bytes := if st.good then l.bytesOut else 0, w45 := l.w45, tick := s.sch.tick }

/-- An error on a ring that fences on errors holds it. -/
def State.holdOn (s : State) (r : Nat) (st : Stat) : State := if st.error then s.enterHold r else s

section Made

variable {r k : Nat} {q : Req} {l : Link} {st : Stat}

theorem State.recordMade_recPos (s : State) (r : Nat) (q : Req) (k : Nat) (l : Link) (st : Stat) :
    (s.recordMade r q k l st).recPos r = (((s.ring r).wIdx + 1) % (s.ring r).span, (s.ring r).attr) := by
  have hf := recordFrame_recPos r
  have h0 : ((s.onLink (q.linkId k) fun l => { l with recorded := true }).violNext q (k + 1)).recPos r = ((s.ring r).wIdx, (s.ring r).attr) :=
    hf.violNext _ q (k + 1)
  simp only [State.recPos, Prod.mk.injEq] at h0
  obtain ⟨h1, h2⟩ := h0
  refine (hf.countRecord ..).trans ?_
  unfold State.recPos
  rw [State.ring_onRing, if_pos rfl]
  simp only [Ring.span, Ring.depth, h1, h2]

/-- A part that the record frame and the ring's own step leave. -/
theorem State.recordMade_field {α : Type} {g : State → α} (hf : RecordFrame g) (hr : ∀ s r f, g (State.onRing s r f) = g s)
    (s : State) (r : Nat) (q : Req) (k : Nat) (l : Link) (st : Stat) :
    g (s.recordMade r q k l st) = g (s.onLink (q.linkId k) fun l => { l with recorded := true }) :=
  (hf.countRecord ..).trans ((hr ..).trans (hf.violNext ..))

theorem State.recordMade_recorded (hl : s.link (q.linkId k) = some (q, l)) :
    ∃ x, (s.recordMade r q k l st).linksBy Link.recorded q.ring q.idx = some x ∧ x[k]? = some true := by
  obtain ⟨hq, hk⟩ := State.of_link hl
  refine ⟨(q.onLink k fun l => { l with recorded := true }).linksBy Link.recorded,
    (State.recordMade_field (recordFrame_recorded q.ring q.idx) (fun _ _ _ => rfl) ..).trans ?_, ?_⟩
  · unfold State.linksBy
    rw [Req.linkId, State.req_onLink_same, hq]
    rfl
  · simp only [Req.linksBy, Req.onLink, List.getElem?_map, updAt_getElem?, if_true]
    rw [hk]
    rfl

/-- A link whose record is made, read back. -/
theorem State.recorded_of_linksBy {x : List Bool} {r i : Nat} (h : s.linksBy Link.recorded r i = some x) (hk : x[k]? = some true) :
    ∃ q' l', s.link ⟨r, i, k⟩ = some (q', l') ∧ l'.recorded = true := by
  obtain ⟨q', hq, rfl⟩ := Option.map_eq_some_iff.1 h
  simp only [Req.linksBy, List.getElem?_map, Option.map_eq_some_iff] at hk
  obtain ⟨l', hl, hr⟩ := hk
  exact ⟨q', l', State.link_of_req hq hl, hr⟩

/-- After the record, whether or not it holds its ring. -/
theorem State.record_goal (hl : s.link (q.linkId k) = some (q, l)) {u : State} (hp : u.rng = (s.recordMade r q k l st).rng) :
    ((u.holdOn r st).ring r).wIdx = ((s.ring r).wIdx + 1) % (s.ring r).span
    ∧ ∃ q' l', (u.holdOn r st).link (q.linkId k) = some (q', l') ∧ l'.recorded = true := by
  have hhold {α : Type} {g : State → α} (hf : RecordFrame g) : g (u.holdOn r st) = g u := keeps_ite g (hf.enterHold ..) rfl
  constructor
  · have h1 : (u.holdOn r st).recPos r = (s.recordMade r q k l st).recPos r := (hhold (recordFrame_recPos r)).trans (by
      unfold State.recPos State.ring
      rw [hp])
    exact congrArg Prod.fst (h1.trans (State.recordMade_recPos ..))
  · obtain ⟨x, h1, h2⟩ := State.recordMade_recorded (r := r) (st := st) hl
    refine State.recorded_of_linksBy ((hhold (recordFrame_recorded q.ring q.idx)).trans (Eq.trans ?_ h1)) h2
    unfold State.linksBy State.req
    rw [hp]

end Made

/-- COMPLETION_RECORD_WRITE of the next ready record. -/
theorem exec_completionRecordWrite {r k : Nat} {q : Req} {l : Link} {st : Stat} (hs : s.serving = true) (hn : s.nextRecord r = some (q, k))
    (hk : q.links[k]? = some l) (hst : l.stat = some st) (hsil : s.silentFid (s.fidOf q.part) = false) (hf : (s.ring r).recFail = none)
    (hw : (s.ring r).attr.stream = true ∨ s.writeFree ((s.ring r).attr.cqBase + 32 * ((s.ring r).wIdx % (s.ring r).depth)) (s.fidOf q.part) = true) :
    exec (.completionRecordWrite r) s = .next (State.holdOn (if (s.ring r).attr.stream then
        (s.recordMade r q k l st).onMov fun m => { m with streams := updAt m.streams (s.ring r).attr.pair fun p => { p with
          out := p.out ++ [⟨q.linkId k, (s.recordOf r q k l st).encode ++ (if st.good && inlineOut (s.ring r).attr l.hdr then l.output else []),
            l.hdr.irq⟩] } }
      else (s.recordMade r q k l st).write ((s.ring r).attr.cqBase + 32 * ((s.ring r).wIdx % (s.ring r).depth)) (s.recordOf r q k l st).encode
        (s.fidOf q.part) clsOrdered (.record (q.linkId k) l.hdr.irq)) r st) := by
  have hw' : (!(s.ring r).attr.stream
      && !s.writeFree ((s.ring r).attr.cqBase + 32 * ((s.ring r).wIdx % (s.ring r).depth)) (s.fidOf q.part)) = false := by
    rcases hw with h | h <;> simp [h]
  show execCompletionRecordWrite r s = _
  simp only [execCompletionRecordWrite, hn, hk, hs, hsil, hf, hst, hw', Option.getD_some]
  rfl

/-- Settles O35. -/
theorem recordWriteResult : Obligations.RecordWriteResult := by
  intro r k q l st s hs hn hk hst hl hr hsil hf x d rec' goal addr
  have hrec : s.recordOf r q k l st = rec' := by
    have hg : st.good = decide (st.code ≤ 1) := rfl
    have hp : phaseOf x.attr.log2 x.wIdx = (x.wIdx / d % 2 == 0) := by
      rw [phaseOf, bit, Nat.testBit_eq_decide_div_mod_eq]
      rcases Nat.mod_two_eq_zero_or_one (x.wIdx / 2 ^ x.attr.log2) with h | h <;> simp [d, h]
    simp only [State.recordOf, rec', hg, ← hp, decide_eq_true_eq]
    rfl
  refine ⟨fun hstr ha hw => ?_, fun hstr hpair => ?_⟩
  · have he := exec_completionRecordWrite hs hn hk hst hsil hf (.inr hw)
    rw [if_neg (by simp [show (s.ring r).attr.stream = false from hstr]), hrec] at he
    refine ⟨_, he, State.record_goal hl rfl, ?_⟩
    have hport : ((s.recordMade r q k l st).mov.ports[portOf addr]?).isSome = true := by
      have hlen : (s.recordMade r q k l st).mov.ports.length = s.mov.ports.length :=
        State.recordMade_field recordFrame_ports (fun _ _ _ => rfl) ..
      have h : (s.mov.ports[portOf addr]?).isSome = true := by
        simp only [State.writeFree, Bool.and_eq_true] at hw
        cases hx : s.mov.ports[portOf addr]? with
        | none => simp [hx] at hw
        | some x => rfl
      simpa [hlen] using h
    obtain ⟨w, hmem, h1, h2, h3⟩ := State.write_record (s := s.recordMade r q k l st) (a := addr) (data := rec'.encode) (fid := s.fidOf q.part)
      (cls := clsOrdered) (p := .record (q.linkId k) l.hdr.irq) (by omega) (Record.encode_length _) hport
    refine ⟨w, ?_, h1, h2, h3⟩
    have hwr : ∀ u : State, (u.holdOn r st).writes = u.writes := fun u => keeps_ite State.writes (recordFrame_writes.enterHold ..) rfl
    rw [hwr]
    exact hmem
  · have he := exec_completionRecordWrite hs hn hk hst hsil hf (.inl hstr)
    rw [if_pos hstr, hrec] at he
    refine ⟨_, ⟨q.linkId k, rec'.encode ++ (if st.good && inlineOut (s.ring r).attr l.hdr then l.output else []), l.hdr.irq⟩, he,
      State.record_goal hl rfl, ?_, List.take_left' (Record.encode_length rec')⟩
    have hstreams : (s.recordMade r q k l st).mov.streams = s.mov.streams := State.recordMade_field recordFrame_streams (fun _ _ _ => rfl) ..
    have hstr : ∀ u : State, (u.holdOn r st).mov.streams = u.mov.streams :=
      fun u => keeps_ite (fun s : State => s.mov.streams) (recordFrame_streams.enterHold ..) rfl
    obtain ⟨p, hp⟩ : ∃ p, s.mov.streams[x.attr.pair]? = some p := ⟨_, List.getElem?_eq_getElem hpair⟩
    unfold State.stream
    rw [hstr]
    show ((updAt (s.recordMade r q k l st).mov.streams x.attr.pair _)[x.attr.pair]?.getD {}).out = _
    rw [hstreams, updAt_getElem?, if_pos rfl, hp]
    rfl

end Record

end Sys2Proof.Machine

/-! ### PROOFS. The mailbox channels: their starts, their masks, their messages and their replies (R55, R328, R330, R331, R333, R339) -/

namespace Sys2Proof.Machine

section Channels

variable {s : State} {c k : Nat}

/-! #### What leaves a channel -/

/-- A channel without its doorbell's bits, which a notification sets. -/
def State.chanRest (s : State) (c : Nat) : Mbx := { s.chan c with dbUp := 0 }

theorem State.chan_mbxIrq (s : State) (a c : Nat) : (s.mbxIrq a).chan c = s.chan c :=
  State.mbxIrq_field s (State.chan · c) (fun _ _ => rfl) a

theorem State.chanRest_dbSet (s : State) (a b c : Nat) : (s.dbSet a b).chanRest c = s.chanRest c := by
  have h : (s.onChan a fun m => { m with dbUp := m.dbUp ||| (1 <<< b) }).chanRest c = s.chanRest c := by
    unfold State.chanRest
    rw [State.chan_onChan]
    split
    · next h => rw [h]
    · rfl
  unfold State.dbSet
  refine keeps_ite (State.chanRest · c) (Eq.trans ?_ h) h
  unfold State.chanRest
  rw [State.chan_mbxIrq]

theorem State.chanRest_notifyOut (s : State) (a b c : Nat) : (s.notifyOut a b).chanRest c = s.chanRest c := by
  unfold State.notifyOut
  dsimp only
  unfold State.chanRest
  rw [State.chan_wakeLevel]
  refine keeps_ite (State.chanRest · c) (State.chanRest_dbSet ..) (keeps_ite (State.chanRest · c) ?_ rfl)
  unfold State.chanRest
  rw [State.chan_mbxIrq]

theorem State.mbx_violation (s : State) (code source part : Nat) (ring : Option Nat) (toward : Bool) (value fid : Nat) :
    (s.violation code source part ring toward value fid).mbx = s.mbx := by
  unfold State.violation
  split
  · rfl
  · refine (State.ephPush_field _ State.mbx (fun _ _ => rfl) _).trans ?_
    split
    · split <;> rfl
    · rfl

/-! #### GO and ACK -/

theorem State.ackChan_chan (h1 : (s.chan c).st ≠ .pending) (h2 : (s.chan c).st ≠ .busy) :
    s.ackChan c = (s.onChan c fun m => { m with st := .idle, up := List.replicate 16 0 }).wakeLevel := by
  unfold State.ackChan
  cases h : (s.chan c).st <;> first | rfl | exact absurd h h1 | exact absurd h h2

/-- The words of the channel are latched (R330). -/
def Mbx.latch (m : Mbx) (order : Nat) (compat : Bool) : Mbx :=
  { m with msg := m.down, applied := false, reply := none, order := order, compat := compat }

def State.latchMsg (s : State) (c : Nat) (db : Bool) : State :=
  ((s.ackChan c).onChan c fun m => m.latch (s.ackChan c).mbx.order (decide (16 ≤ c) && (s.chanVersion c == 1 || (s.chanVersion c == 0 && db)))).onMbx
    fun b => { b with order := b.order + 1 }

/-- What GO does with the latched words: a mode or a partition that takes no message ends it ABORTED. -/
def State.judgeGo (s : State) (c : Nat) : State :=
  let early := s.blk.mode == .seeding || s.blk.mode == .containment
  if s.blk.mode == .dormant || s.blk.mode == .charterLoad || (early && !(c == 0 && (s.chan c).type == mStatus)) then s.abortMsg c 1
  else if c ≥ 16 && s.partState (c - 16) == .resetting then s.abortMsg c 3
  else if c ≥ 16 && s.partState (c - 16) == .absent then s.abortMsg c 4
  else match msgTypeOf (s.chan c).type with
    | some t =>
      if t.down ≠ fld ((s.chan c).word 0) 24 4 then
        ((s.onChan c fun m => { m with st := .rejected, aborts := sat 0xFF m.aborts 1 }).violation 0x0506 (uidMbx c)
          (if c < 16 then noPart else c - 16) none false 0 (if c < 16 then 0 else s.fidOf (c - 16))).notifyOut c 2
      else if early then s.statusReply c
      else s.onChan c fun m => { m with st := .pending }
    | none => s.onChan c fun m => { m with st := .pending }

/-- What GO does with the latched words, in a block that serves. -/
def State.judged (s : State) (c : Nat) : State :=
  match msgTypeOf (s.chan c).type with
  | some t => if t.down ≠ fld ((s.chan c).word 0) 24 4 then
      ((s.onChan c fun m => { m with st := .rejected, aborts := sat 0xFF m.aborts 1 }).violation 0x0506 (uidMbx c)
        (if c < 16 then noPart else c - 16) none false 0 (if c < 16 then 0 else s.fidOf (c - 16))).notifyOut c 2
    else s.onChan c fun m => { m with st := .pending }
  | none => s.onChan c fun m => { m with st := .pending }

/-- The latched words are of the length of their type. -/
def wordsFit (down : List W32) : Prop :=
  ∀ m, msgTypeOf ((down.getD 0 0).toNat % 4096) = some m → m.down = (down.getD 0 0).toNat / 2 ^ 24 % 16

section Judged

variable (hup : (s.chan c).up = List.replicate 16 0)

theorem Mbx.type_eq (m : Mbx) : m.type = (m.msg.getD 0 0).toNat % 4096 := by simp [Mbx.type, Mbx.word, fld]

theorem Mbx.len_eq (m : Mbx) : fld (m.word 0) 24 4 = (m.msg.getD 0 0).toNat / 2 ^ 24 % 16 := by
  simp [Mbx.word, fld, Nat.shiftRight_eq_div_pow]

theorem State.judged_of_fits (h : wordsFit (s.chan c).msg) : s.judged c = s.onChan c fun m => { m with st := .pending } := by
  unfold State.judged
  rw [Mbx.type_eq, Mbx.len_eq]
  cases ht : msgTypeOf (((s.chan c).msg.getD 0 0).toNat % 4096) with
  | none => rfl
  | some t => exact if_neg (not_not.2 (h t ht))

theorem State.judged_of_not_fits (h : ¬ wordsFit (s.chan c).msg) :
    (s.judged c).chanRest c = { s.chan c with st := .rejected, aborts := sat 0xFF (s.chan c).aborts 1, dbUp := 0 } := by
  unfold wordsFit at h
  push Not at h
  obtain ⟨t, ht, hne⟩ := h
  unfold State.judged
  rw [Mbx.type_eq, Mbx.len_eq, ht]
  dsimp only
  rw [if_pos hne, State.chanRest_notifyOut]
  unfold State.chanRest State.chan
  rw [State.mbx_violation]
  exact congrArg (fun x : Mbx => { x with dbUp := 0 })
    (State.chan_onChan_self s c fun m => { m with st := .rejected, aborts := sat 0xFF m.aborts 1 })

end Judged

section Start

variable (h1 : (s.chan c).st ≠ .pending) (h2 : (s.chan c).st ≠ .busy)
include h1 h2

theorem State.latchMsg_chan (db : Bool) : ((s.latchMsg c db).chan c).msg = (s.chan c).down
    ∧ ((s.latchMsg c db).chan c).up = List.replicate 16 0 := by
  have ha : (s.ackChan c).chan c = { s.chan c with st := .idle, up := List.replicate 16 0 } := by
    rw [State.ackChan_chan h1 h2, State.chan_wakeLevel, State.chan_onChan_self]
  have h := State.chan_onChan_self (s.ackChan c) c fun m => m.latch (s.ackChan c).mbx.order
    (decide (16 ≤ c) && (s.chanVersion c == 1 || (s.chanVersion c == 0 && db)))
  rw [ha] at h
  exact ⟨congrArg Mbx.msg h, congrArg Mbx.up h⟩

theorem State.latchMsg_blk (db : Bool) : (s.latchMsg c db).blk.mode = s.blk.mode ∧ (s.latchMsg c db).prt = s.prt := by
  unfold State.latchMsg
  rw [State.ackChan_chan h1 h2]
  exact ⟨rfl, rfl⟩

theorem State.goChan_eq_judged (hs : s.serving = true)
    (hp : c < 16 ∨ s.partState (c - 16) = .ready ∨ s.partState (c - 16) = .active ∨ s.partState (c - 16) = .suspended) (db : Bool) :
    s.goChan c db = (s.latchMsg c db).judged c := by
  obtain ⟨hb, hpr⟩ := State.latchMsg_blk h1 h2 db
  have hps : ∀ p, (s.latchMsg c db).partState p = s.partState p := fun p => by
    unfold State.partState State.part
    rw [hpr]
  have hmode : s.blk.mode ≠ .seeding ∧ s.blk.mode ≠ .containment ∧ s.blk.mode ≠ .dormant ∧ s.blk.mode ≠ .charterLoad := by
    simp only [State.serving, Bool.or_eq_true, beq_iff_eq] at hs
    rcases hs with ((hs | hs) | hs) | hs <;> simp [hs]
  have hpart : (decide (c ≥ 16) && s.partState (c - 16) == .resetting) = false ∧ (decide (c ≥ 16) && s.partState (c - 16) == .absent) = false := by
    rcases hp with hp | hp | hp | hp
    · simp [Nat.not_le.2 hp]
    all_goals simp [hp]
  have hgo : s.goChan c db = (s.latchMsg c db).judgeGo c := by
    unfold State.goChan
    split
    · exact absurd ‹_› h1
    · exact absurd ‹_› h2
    · rfl
  obtain ⟨m1, m2, m3, m4⟩ := hmode
  rw [hgo]
  unfold State.judgeGo State.judged
  simp only [hb, hps, hpart.1, hpart.2, beq_eq_false_iff_ne.2 m1, beq_eq_false_iff_ne.2 m2, beq_eq_false_iff_ne.2 m3, beq_eq_false_iff_ne.2 m4,
    Bool.or_self, Bool.false_and, Bool.false_eq_true, if_false]

/-- GO in a serving block, of a partition that takes messages, ends in PENDING or, with words that do not fit, REJECTED. -/
theorem State.goChan_started (hs : s.serving = true)
    (hp : c < 16 ∨ s.partState (c - 16) = .ready ∨ s.partState (c - 16) = .active ∨ s.partState (c - 16) = .suspended) (db : Bool) :
    ((s.goChan c db).chan c).msg = (s.chan c).down ∧ ((s.goChan c db).chan c).up = List.replicate 16 0
    ∧ (wordsFit (s.chan c).down → ((s.goChan c db).chan c).st = .pending)
    ∧ (¬ wordsFit (s.chan c).down → ((s.goChan c db).chan c).st = .rejected) := by
  obtain ⟨hm, hu⟩ := State.latchMsg_chan h1 h2 db
  rw [State.goChan_eq_judged h1 h2 hs hp db, ← hm, ← hu]
  by_cases hf : wordsFit ((s.latchMsg c db).chan c).msg
  · rw [State.judged_of_fits hf, State.chan_onChan_self]
    exact ⟨rfl, rfl, fun _ => rfl, fun h => absurd hf h⟩
  · have h := State.judged_of_not_fits hf
    have hx : ∀ x : State, (x.chanRest c).msg = (x.chan c).msg ∧ (x.chanRest c).up = (x.chan c).up ∧ (x.chanRest c).st = (x.chan c).st :=
      fun _ => ⟨rfl, rfl, rfl⟩
    obtain ⟨g1, g2, g3⟩ := hx ((s.latchMsg c db).judged c)
    rw [← g1, ← g2, ← g3, h]
    exact ⟨rfl, rfl, fun h => absurd h hf, fun _ => rfl⟩

theorem State.ackChan_acked : ((s.ackChan c).chan c).st = .idle ∧ ((s.ackChan c).chan c).up = List.replicate 16 0 := by
  rw [State.ackChan_chan h1 h2, State.chan_wakeLevel, State.chan_onChan_self]
  exact ⟨rfl, rfl⟩

end Start

theorem State.mailWrite_of_open {who : Accessor} {off : Nat} (ho : s.mailOpen c off = true) (hm : s.mayMail who c = true) (go : State → State) :
    s.mailWrite who c off go = go s := by
  have hpriv : (who.priv && decide (16 ≤ c)) = false := by
    unfold State.mayMail at hm
    by_cases hc : c < 16
    · simp [Nat.not_le.2 hc]
    · rw [if_neg hc, Bool.and_eq_true] at hm
      simpa using fun h => by simp [h] at hm
  unfold State.mailWrite
  simp [ho, hm, hpriv]

theorem State.chan_wrote (s : State) (c : Nat) : s.wrote.chan c = s.chan c := by
  unfold State.wrote
  split <;> rfl

/-- Settles O55: GO and the doorbell of the compatibility mode end in `goChan`, the acknowledgements in `ackChan`. -/
theorem channelStarts : Obligations.ChannelStarts := by
  intro who c v s hs h80 h84 hm h1 h2 hp down fits started acked
  let u : State := s.onChan c fun m => { m with notify := v.getLsbD 29 }
  have hu : u.chan c = { s.chan c with notify := v.getLsbD 29 } := State.chan_onChan_self ..
  have hu1 : (u.chan c).st ≠ .pending := by rwa [hu]
  have hu2 : (u.chan c).st ≠ .busy := by rwa [hu]
  have hud : (u.chan c).down = down := by rw [hu]
  have hmode : s.blk.mode ≠ .containment := by
    intro h
    simp [State.serving, h] at hs
  have hctrl : s.ctrlWrite c v = (if v.getLsbD 31 then u.goChan c false else if v.getLsbD 30 then u.ackChan c else u : State).wakeLevel := by
    have hb : (s.blk.mode == .containment) = false := beq_eq_false_iff_ne.2 hmode
    unfold State.ctrlWrite
    simp only [hb, Bool.false_and, Bool.false_eq_true, if_false]
    rfl
  refine ⟨fun h31 => ?_, fun h31 h30 => ?_, fun hc hv => ⟨?_, ?_⟩⟩
  · refine ⟨(u.goChan c false).wakeLevel.wrote, ?_, ?_⟩
    · show Host.Outcome.next (State.wrote (s.mailWrite who c 0x80 _)) = _
      rw [State.mailWrite_of_open h80 hm, if_pos h31, hctrl, if_pos h31]
    · rw [State.chan_wrote, State.chan_wakeLevel, ← hud]
      have h := State.goChan_started hu1 hu2 hs hp false
      rw [hud] at h ⊢
      exact h
  · refine ⟨(u.ackChan c).wakeLevel.wrote, ?_, ?_⟩
    · show Host.Outcome.next (State.wrote (s.mailWrite who c 0x80 _)) = _
      rw [State.mailWrite_of_open h80 hm, if_pos (by rw [h30, h31]; rfl), hctrl, if_neg (by rw [h31]; decide), if_pos h30]
    · rw [State.chan_wrote, State.chan_wakeLevel]
      exact State.ackChan_acked hu1 hu2
  · refine ⟨(s.goChan c true).wrote, ?_, ?_⟩
    · show Host.Outcome.next (State.wrote (s.mailWrite who c 0x84 _)) = _
      rw [State.mailWrite_of_open h84 hm, if_pos ⟨hc, hv⟩]
    · rw [State.chan_wrote]
      exact State.goChan_started h1 h2 hs hp true
  · refine ⟨(s.ackChan c).wrote, ?_, ?_⟩
    · show Host.Outcome.next (State.wrote (s.mailWrite who c 0x84 _)) = _
      rw [State.mailWrite_of_open h84 hm, if_pos ⟨hc, hv⟩]
    · rw [State.chan_wrote]
      exact State.ackChan_acked h1 h2

/-! #### Masks, messages and replies -/

theorem State.io_mbxIrq_of_part {p : Part} (h16 : 16 ≤ c) (hp : s.part (c - 16) = some p) (hr : p.st ≠ .resetting)
    (hf : s.flrOn p.entry.fid = false) : ⟨p.entry.fid, p.entry.vecBase⟩ ∈ (s.mbxIrq c).io.msgs := by
  have hr' : (p.st == .resetting) = false := beq_eq_false_iff_ne.2 hr
  unfold State.mbxIrq
  simp only [if_neg (Nat.not_lt.2 h16), hp, hr', Bool.false_eq_true, if_false]
  exact State.mem_irqMsg hf

theorem State.chan_freeGroup (s : State) (t c : Nat) : (s.freeGroup t).chan c = s.chan c :=
  State.endThreads_field s (State.chan · c) (fun _ _ => rfl) _

/-- The channel of a reply, but for its doorbell bits, which its notification sets. -/
theorem State.reply_chanRest {ws : List W32} (h : (s.chan c).reply = some ws) : (s.reply c).chanRest c
    = { s.chan c with up := s.replyWords c ws, st := .done, reply := none, completed := sat 0xFFFF (s.chan c).completed 1
                      refused := sat 0xFF (s.chan c).refused (b2n ((ws.headD 0).toNat % 256 != 0)), dbUp := 0 } := by
  have hl : ∀ (s : State) code a b, (s.mbxLog code c a b).chanRest c = s.chanRest c := fun s code a b =>
    State.ephPush_field s (State.chanRest · c) (fun _ _ => rfl) _
  have hf : ∀ (s : State) (l : List Nat), (l.foldl (fun s t => s.freeGroup t) s : State).chanRest c = s.chanRest c := fun s l =>
    foldl_keeps (State.chanRest · c) (fun t k => congrArg (fun m : Mbx => { m with dbUp := 0 }) (State.chan_freeGroup t k c)) l s
  unfold State.reply
  simp only [h]
  rw [hf, State.chanRest_notifyOut]
  refine (keeps_ite (State.chanRest · c) (hl ..) rfl).trans ?_
  unfold State.chanRest
  rw [State.chan_onChan_self]

/-- Settles O56. -/
theorem messageResults : Obligations.MessageResults := by
  refine ⟨fun who c v s ho hm => ?_, fun k c a s hs hf hst hr hn hc => ?_, fun c w l s hl hp hc hst hr => ?_⟩
  · let u : State := s.onChan c fun m => { m with dbMask := v }
    have he : exec (.mbDbMaskClear who c v) s
        = .next (State.wrote (if (s.chan c).dbMask &&& ~~~v &&& (s.chan c).dbUp.setWidth 32 = 0 then u else u.mbxIrq c)) := by
      show Host.Outcome.next (State.wrote (s.mailWrite who c 0x8C _)) = _
      rw [State.mailWrite_of_open ho hm]
    have hio : ∀ x : State, x.wrote.io = x.io := fun x => by unfold State.wrote; split <;> rfl
    refine ⟨_, he, ?_, fun h0 => ?_, fun p h16 hp hr hf h0 => ?_⟩
    · rw [State.chan_wrote]
      exact keeps_ite (State.chan · c) (State.chan_onChan_self ..) ((State.chan_mbxIrq ..).trans (State.chan_onChan_self ..))
    · rw [hio, if_pos h0]
      rfl
    · rw [hio, if_neg h0]
      exact State.io_mbxIrq_of_part h16 hp hr hf
  · intro u
    have he : exec (.messageTaken k a) s = .next (match u.msgCheck c with
        | some r => u.replyRes c r.1 r.2 []
        | none => (u.msgActs c k a).waitMsg k c) := by
      have hc' : ((s.msgCheck c).isNone && !s.msgCanRead c) = false := by
        rcases hc with h | h
        · obtain ⟨x, hx⟩ := Option.isSome_iff_exists.1 h
          simp [hx]
        · simp [h]
      show execMessageTaken k a s = _
      simp only [execMessageTaken, hs, hf, hst, hr, hn, hc', Bool.not_true, Bool.or_self, Bool.false_eq_true, if_false] <;> rfl
    refine ⟨fun x hx => ?_, fun hx => ?_⟩
    · rw [he, hx]
      have hb : (u.chan c).st = .busy := by
        show ((s.onThread k _).onChan c _ |>.chan c).st = _
        rw [State.chan_onChan_self]
      simp [State.replyRes, hb]
    · rw [he, hx]
  · have he : exec (.mailboxReply c) s = .next (s.reply c) := by
      show execMailboxReply c s = _
      simp [execMailboxReply, hl, hp, hc, hst]
    have h := State.reply_chanRest hr
    have hx : ∀ x : State, (x.chanRest c).st = (x.chan c).st ∧ (x.chanRest c).reply = (x.chan c).reply ∧ (x.chanRest c).up = (x.chan c).up
      ∧ (x.chanRest c).completed = (x.chan c).completed := fun _ => ⟨rfl, rfl, rfl, rfl⟩
    obtain ⟨g1, g2, g3, g4⟩ := hx (s.reply c)
    refine ⟨_, he, ?_⟩
    rw [← g1, ← g2, ← g3, ← g4, h]
    exact ⟨rfl, rfl, rfl, rfl⟩

end Channels

end Sys2Proof.Machine

/-! ### PROOFS. The partition record at the end of a destruction (R27, R161) -/

namespace Sys2Proof.Machine

/-- Partition 1 at the end of its destruction, its record written. -/
def destroyedPart : Part :=
  { entry := { num := 1, fid := 3, ctxSlots := 8, vecBase := 16, vecCount := 4 }, st := .resetting
    recWrite := some { gen := 1, spent := false }, flr := some { boundary := true, destroy := true, wrote := true } }

/-- A block in service whose map of derived keys has two entries for partition 1. -/
def twiceDerived : State :=
  { State.reset with
    blk := { mode := .service, rpReset := false }, sch := { tick := 5 }, prt := { parts := [(1, destroyedPart)], bme := [3] }
    key := { State.reset.key with derived := [(1, ⟨[], [], [], []⟩), (1, ⟨[], [], [], []⟩)] } }

/-- After a command no key is derived for partition 1. -/
def underivedAfter : Out → Bool
  | .next t => (mget t.key.derived 1).isNone
  | _ => true

/-- Refutes O57: the end of a destruction deletes one entry of the partition from the map of derived keys, and the statement does not
ask that the map have one alone. -/
theorem not_partitionRecordResults : ¬ Obligations.PartitionRecordResults := by
  intro h
  obtain ⟨hack, -⟩ := h 1 destroyedPart { gen := 1, spent := false } twiceDerived rfl rfl rfl
  obtain ⟨-, hdestroy⟩ := hack (by decide) (Or.inl rfl)
  obtain ⟨t, y, ht, -, -, -, -, -, hn⟩ := hdestroy { boundary := true, destroy := true, wrote := true } rfl rfl rfl
  have h1 : underivedAfter (exec (.partitionRecordAck 1) twiceDerived) = true := by
    rw [ht]
    exact Option.isNone_iff_eq_none.2 hn
  exact absurd h1 (by decide)

end Sys2Proof.Machine

/-! ### PROOFS. Firmware staging and the swap (R243, R244, R361) -/

namespace Sys2Proof.Machine

section Swap

variable {s : State}

/-! #### Threads that are not running -/

/-- The Orrery's threads are no part of what the end of a message or a link leaves. -/
theorem endFrame_threads (r i : Nat) : EndFrame r i (·.ory.threads) where
  link _ _ _ := rfl
  ring _ _ := rfl
  eph _ _ := rfl
  sch _ _ := rfl
  prt _ _ := rfl
  reads _ _ := rfl
  items _ _ := rfl
  pageOps _ _ := rfl
  jobs _ _ := rfl
  unbind _ _ := rfl
  unit s u f _ := by cases u <;> rfl

theorem tidyFrame_threads : TidyFrame (·.ory.threads) where
  ends := endFrame_threads
  rng _ _ := rfl
  mbx _ _ := rfl
  msgs _ _ := rfl
  wake _ _ := rfl
  exer _ _ _ := rfl
  ory s _ h := (h s.ory).2.1

theorem State.thread_of_threads {t : State} (h : t.ory.threads = s.ory.threads) (k : Nat) : t.thread k = s.thread k := by
  unfold State.thread
  rw [h]

theorem State.restThread_not_running (s : State) (t : Nat) : (s.restThread t).st ≠ .running := by
  unfold State.restThread
  dsimp only
  split <;> simp

theorem State.mem_groupOf {r i : Nat} : i ∈ s.groupOf r ↔ i < 64 ∧ (s.thread i).st ≠ .ended ∧ (s.thread i).root = r := by
  simp only [State.groupOf, State.thread, List.mem_filter, List.mem_range]
  cases s.ory.threads[i]? <;> simp

theorem State.thread_freeGroup (s : State) (r i : Nat) :
    (s.freeGroup r).thread i = if i ∈ s.groupOf r then s.restThread i else s.thread i := by
  have h : (s.freeGroup r).thread i = _ := State.endThreads_field s (State.thread · i) (fun _ _ => rfl) (s.groupOf r)
  rw [h]
  simp only [State.thread, State.onOry_ory, List.getElem?_map, List.getElem?_zipIdx, List.contains_iff_mem, Nat.zero_add]
  cases hx : s.ory.threads[i]? with
  | none =>
    have hn : i ∉ s.groupOf r := by simp [State.mem_groupOf, State.thread, hx]
    rw [if_neg hn]
    rfl
  | some x => rfl

/-- Every thread is as it was, or does not run. -/
def State.Rested (s t : State) : Prop := ∀ i, t.thread i = s.thread i ∨ (t.thread i).st ≠ .running

/-- The threads of a group do not run. -/
def State.GroupRests (s t : State) (r : Nat) : Prop := ∀ i < 64, (s.thread i).root = r → (t.thread i).st ≠ .running

theorem State.Rested.of_threads {t : State} (h : t.ory.threads = s.ory.threads) : s.Rested t := fun i => .inl (State.thread_of_threads h i)

theorem State.thread_freeGroup_cases (t : State) (r i : Nat) :
    (t.freeGroup r).thread i = t.thread i ∨ ((t.freeGroup r).thread i).st ≠ .running := by
  rw [State.thread_freeGroup]
  split
  · exact .inr (State.restThread_not_running t i)
  · exact .inl rfl

theorem State.Rested.freeGroup {t : State} (h : s.Rested t) (r : Nat) : s.Rested (t.freeGroup r) := by
  intro i
  rcases State.thread_freeGroup_cases t r i with he | he
  · rw [he]
    exact h i
  · exact .inr he

theorem State.GroupRests.freeGroup {t : State} {r : Nat} (h : s.GroupRests t r) (r' : Nat) : s.GroupRests (t.freeGroup r') r := by
  intro i hi hr
  rcases State.thread_freeGroup_cases t r' i with he | he
  · rw [he]
    exact h i hi hr
  · exact he

theorem State.Rested.groupRests {t : State} (h : s.Rested t) (r : Nat) : s.GroupRests (t.freeGroup r) r := by
  intro i hi hr
  rw [State.thread_freeGroup]
  split
  · exact State.restThread_not_running t i
  · next hn =>
    rcases h i with he | he
    · simp only [State.mem_groupOf, he, hr, hi, true_and, and_true, ne_eq, not_not] at hn
      rw [he, hn]
      decide
    · exact he

theorem State.Rested.freeAll {t : State} (h : s.Rested t) {r : Nat} {l : List Nat} (hr : r ∈ l) : s.GroupRests (t.freeAll l) r := by
  have hkeep : ∀ (l : List Nat) (u : State), s.GroupRests u r → s.GroupRests (u.freeAll l) r := fun l u hu =>
    foldl_invariant (P := fun u => s.GroupRests u r) (fun u a hu => hu.freeGroup a) l hu
  induction l generalizing t with
  | nil => cases hr
  | cons a l ih =>
    rcases List.mem_cons.1 hr with rfl | hr
    · exact hkeep l _ (h.groupRests r)
    · exact ih (h.freeGroup a) hr

/-- The end of a group leaves none of its threads running. -/
theorem State.endGroup_rests (s : State) {r : Nat} (hr : r < 64) (det cause : Nat) : s.GroupRests (s.endGroup r det cause) r := by
  unfold State.endGroup
  split
  · next id _ =>
    refine (State.Rested.of_threads ?_).groupRests r
    have hf := endFrame_threads
    exact ((hf id.ring id.idx).endLink _ id.link _).trans (((hf 0 0).dropVJob _ _).trans ((hf 0 0).withdraw _ _))
  · next c hw =>
    rw [State.abortMsg_eq]
    have hth := tidyFrame_threads.msgAborted s c cause
    refine (State.Rested.of_threads hth).freeAll (List.mem_filter.2 ⟨List.mem_range.2 hr, ?_⟩)
    rw [hth]
    unfold State.thread at hw
    cases hx : s.ory.threads[r]? with
    | none => simp [hx] at hw
    | some x => simpa [hx] using hw
  · dsimp only
    refine foldl_invariant (P := fun u => s.GroupRests u r) (fun u a hu => ?_) _ ((State.Rested.of_threads rfl).groupRests r)
    intro i hi hr
    unfold State.thread State.onThread
    rw [State.onOry_ory]
    simp only [updAt_getElem?]
    split
    · cases u.ory.threads[i]? <;> simp
    · exact hu i hi hr
  · exact (State.Rested.of_threads rfl).groupRests r

theorem groupFrame_quiesce : GroupFrame (·.ory.quiesce) where
  ends r i := {
    link := fun _ _ _ => rfl
    ring := fun _ _ => rfl
    eph := fun _ _ => rfl
    sch := fun _ _ => rfl
    prt := fun _ _ => rfl
    reads := fun _ _ => rfl
    items := fun _ _ => rfl
    pageOps := fun _ _ => rfl
    jobs := fun _ _ => rfl
    unbind := fun _ _ => rfl
    unit := fun s u f _ => by cases u <;> rfl }
  rng _ _ := rfl
  mbx _ _ := rfl
  msgs _ _ := rfl
  wake _ _ := rfl
  exer _ _ _ := rfl
  ory s _ h := (h s.ory).2.2
  writes _ _ := rfl
  group s ids := State.endThreads_field s (·.ory.quiesce) (fun _ _ => rfl) ids
  thread _ _ := rfl

/-! #### The steps of a swap -/

theorem State.logGroup_ory (s : State) (code root : Nat) : (s.logGroup code root).ory = s.ory := by
  unfold State.logGroup
  split
  · exact State.ephPush_field s State.ory (fun _ _ => rfl) _
  · exact State.ephPush_field s State.ory (fun _ _ => rfl) _

theorem exec_quiesceTimeout {k : Nat} (hm : s.blk.mode = .swap) (hst : s.ory.swapStage = swapQuiesce) (hk : k < 64)
    (hr : (s.thread k).st = .running) (ht : 32768 / s.tickLen ≤ s.swapAge) : exec (.quiesceTimeout k) s
      = .next (((s.onOry fun o => { o with quiesce := sat 0xFF o.quiesce (s.groupOf (s.thread k).root).length }).logGroup 0x0212
        (s.thread k).root).endGroup (s.thread k).root 4 causeQuiesce) := by
  show execQuiesceTimeout k s = _
  simp [execQuiesceTimeout, hm, hst, hk, State.atWait, hr, Nat.not_lt.2 ht]

theorem State.replyRes_field {α : Type} (g : State → α) (hm : ∀ s f, g (State.onMbx s f) = g s) (s : State) (c res det : Nat) (l : List W32) :
    g (s.replyRes c res det l) = g s := by
  unfold State.replyRes
  exact keeps_ite g (hm _ _) rfl

theorem State.commit_field {α : Type} (g : State → α) (hm : ∀ s f, g (State.onMbx s f) = g s) (he : ∀ s f, g (State.onEph s f) = g s)
    (s : State) (c : Nat) : g (s.commit c) = g s := by
  unfold State.commit
  exact keeps_ite g ((State.ephPush_field _ g he _).trans (hm _ _)) (hm _ _)

/-- The control thread runs the image's init. -/
theorem State.initRuns_thread {c : Nat} (hc : (mget s.ory.statics 0).getD 0 = c) (hl : c < s.ory.threads.length) :
    (s.initRuns.thread c).st = .running ∧ (s.initRuns.thread c).entry = s.running.init ∧ s.initRuns.ory.initSave = some (s.thread c)
    ∧ ∀ k, k ≠ c → s.initRuns.thread k = s.thread k := by
  obtain ⟨x, hx⟩ : ∃ x, s.ory.threads[c]? = some x := ⟨_, List.getElem?_eq_getElem hl⟩
  have hth : ∀ k, s.initRuns.thread k
      = ((if c = k then (s.ory.threads[k]?).map (fun t => { t with st := .running, root := c, entry := s.running.init, work := .control })
          else s.ory.threads[k]?) : Option Thread).getD {} := fun k => by
    unfold State.thread State.initRuns
    rw [State.onOry_ory, hc]
    simp only [updAt_getElem?]
  refine ⟨?_, ?_, ?_, fun k hk => ?_⟩
  · rw [hth, if_pos rfl, hx]
    rfl
  · rw [hth, if_pos rfl, hx]
    rfl
  · unfold State.initRuns State.thread
    rw [State.onOry_ory, hc, hx]
    rfl
  · rw [hth, if_neg (Ne.symm hk)]
    rfl

/-- The control thread is as it was before init. -/
theorem State.initOver_eq {x : Thread} (h : s.ory.initSave = some x) : s.initOver = s.onOry fun o => { o with
    initSave := none, threads := updAt o.threads ((mget s.ory.statics 0).getD 0) fun _ => x } := by
  unfold State.initOver State.onOry
  simp only [h]

theorem State.thread_initOver {x : Thread} (h : s.ory.initSave = some x) (hl : (mget s.ory.statics 0).getD 0 < s.ory.threads.length) :
    s.initOver.thread ((mget s.ory.statics 0).getD 0) = x := by
  rw [State.initOver_eq h]
  unfold State.thread
  rw [State.onOry_ory, updAt_getElem?, if_pos rfl, List.getElem?_eq_getElem hl]
  rfl

/-! #### Staging -/

theorem State.setInactive_banks (s : State) (i : Option Image) :
    (if s.ory.bankAct then (s.setInactive i).ory.bankA else (s.setInactive i).ory.bankB) = i
    ∧ (if s.ory.bankAct then (s.setInactive i).ory.bankB else (s.setInactive i).ory.bankA)
      = (if s.ory.bankAct then s.ory.bankB else s.ory.bankA) := by
  unfold State.setInactive
  rw [State.onOry_ory]
  cases s.ory.bankAct <;> exact ⟨rfl, rfl⟩

theorem State.reply_replyRes {c : Nat} (hb : (s.chan c).st = .busy) (res det : Nat) (l : List W32) :
    ((s.replyRes c res det l).chan c).reply = some (BitVec.ofNat 32 (res + 256 * det) :: l) := by
  unfold State.replyRes
  rw [hb, if_pos (by decide), State.chan_onChan_self]

theorem State.st_commit (s : State) (c : Nat) : ((s.commit c).chan c).st = (s.chan c).st := by
  unfold State.commit
  have h : ((s.onChan c fun m => { m with applied := true }).chan c).st = (s.chan c).st := by rw [State.chan_onChan_self]
  exact (keeps_ite (fun s : State => (s.chan c).st) (State.ephPush_field _ (fun s : State => (s.chan c).st) (fun _ _ => rfl) _) rfl).trans h

/-- The reply to a staging is its code. -/
theorem State.stageEnd_reply {c : Nat} (hb : (s.chan c).st = .busy) (t code : Nat) (i : Option Image) :
    ((s.stageEnd c t code i).chan c).reply = some [if code = 1 then 0 else 0x0D, BitVec.ofNat 32 code] := by
  have hl : ∀ q, ((((s.setInactive i).onOry fun o => { o with staging := none, stageRes := code }).ephPush q).chan c).st = .busy := fun q =>
    (State.ephPush_field _ (fun s : State => (s.chan c).st) (fun _ _ => rfl) q).trans hb
  unfold State.stageEnd
  dsimp only
  split
  · exact State.reply_replyRes ((State.st_commit _ c).trans (hl _)) ..
  · exact State.reply_replyRes (hl _) ..

theorem State.stageEnd_ory (s : State) (c t code : Nat) (i : Option Image) :
    (s.stageEnd c t code i).ory = { (s.setInactive i).ory with staging := none, stageRes := code } := by
  unfold State.stageEnd
  refine keeps_ite State.ory ?_ ?_
  · exact (State.replyRes_field State.ory (fun _ _ => rfl) ..).trans ((State.commit_field State.ory (fun _ _ => rfl) (fun _ _ => rfl) ..).trans
      (State.ephPush_field _ State.ory (fun _ _ => rfl) _))
  · exact (State.replyRes_field State.ory (fun _ _ => rfl) ..).trans (State.ephPush_field _ State.ory (fun _ _ => rfl) _)

/-- Settles O58. -/
theorem firmwareSwapResults : Obligations.FirmwareSwapResults := by
  refine ⟨fun c k b s hs hm hst hb => ?_, fun s hst hm => ?_, fun k s hm hst hk hr hroot ht => ?_, fun s hm hst hw => ?_,
    fun x s hm hst hi => ?_, fun s hm hst => ?_⟩
  · intro j
    refine ⟨s.stageEnd c k j.1 j.2, ?_, ?_⟩
    · show execFwVerifyVerdict s = _
      simp only [execFwVerifyVerdict, hst, hs, hm]
      rfl
    · rw [State.stageEnd_ory]
      obtain ⟨h1, h2⟩ := s.setInactive_banks j.2
      exact ⟨rfl, rfl, h1, h2, State.stageEnd_reply hb ..⟩
  · refine ⟨(s.setMode .swap).setSwap swapQuiesce, ?_, ?_, rfl, ?_⟩
    · show execSwapEnter s = _
      simp [execSwapEnter, hst, hm]
    · exact congrArg Blk.mode (State.setMode_blk s .swap)
    · show (s.setMode .swap).sch.tick = _
      rw [State.setMode_sch]
  · refine ⟨_, exec_quiesceTimeout hm hst hk hr ht, ?_, fun i hi hri => ?_⟩
    · rw [groupFrame_quiesce.endGroup, State.logGroup_ory]
      rfl
    · have h := State.endGroup_rests ((s.onOry fun o => { o with quiesce := sat 0xFF o.quiesce (s.groupOf (s.thread k).root).length }).logGroup
        0x0212 (s.thread k).root) hroot 4 causeQuiesce i hi
      refine h ?_
      rw [← hri]
      unfold State.thread
      rw [State.logGroup_ory]
      rfl
  · intro c hc
    let u := (s.onOry fun o => { o with bankAct := !o.bankAct }).setSwap swapInit
    have he : ∃ t, exec .flip s = .next t ∧ t.ory = u.initRuns.ory := by
      have hall : (List.range 64).all s.atWait = true := List.all_eq_true.2 fun k hk => by
        simpa [State.atWait] using hw k (List.mem_range.1 hk)
      refine ⟨match u.initRuns.ory.swapCh with | some c => u.initRuns.commit c | none => u.initRuns, ?_, ?_⟩
      · show execFlip s = _
        simp only [execFlip, hm, hst, hall]
        rfl
      · split
        · exact State.commit_field State.ory (fun _ _ => rfl) (fun _ _ => rfl) _ _
        · rfl
    obtain ⟨t, he, ht⟩ := he
    have hth : ∀ k, t.thread k = u.initRuns.thread k := State.thread_of_threads (by rw [ht])
    obtain ⟨h1, h2, h3, h4⟩ := State.initRuns_thread (s := u) (c := c) rfl hc
    refine ⟨t, he, ?_, ?_, ?_, ?_, ?_, fun k hk => ?_⟩
    · rw [ht]; rfl
    · rw [ht]; rfl
    · rw [hth]; exact h1
    · rw [hth, h2]
      unfold State.running
      rw [ht]
      rfl
    · rw [ht]; exact h3
    · rw [hth]; exact h4 k hk
  · intro c hc
    have hth := State.thread_initOver hi hc
    refine ⟨⟨(s.initOver.onOry fun o => { o with swapOk := true }).setSwap swapResumed, ?_, rfl, rfl, ?_, hth⟩, fun ha => ?_⟩
    · show execInitDone s = _
      simp [execInitDone, hm, hst]
    · rw [State.initOver_eq hi]
      rfl
    · let u := (s.initOver.onOry fun o => { o with bankAct := !o.bankAct, swapOk := false }).setSwap swapResumed
      have he : ∃ t, exec .initTimeout s = .next t ∧ t.ory = u.ory := by
        let v := u.log 0x0904 u.swapUid noPart
        have hv : v.ory = u.ory := State.ephPush_field u State.ory (fun _ _ => rfl) _
        refine ⟨match v.ory.swapCh with | some c => v.replyRes c 0x0D 0 (v.swapWords false) | none => v, ?_, ?_⟩
        · show execInitTimeout s = _
          simp only [execInitTimeout, hm, hst, Nat.not_lt.2 ha]
          rfl
        · split
          · exact (State.replyRes_field State.ory (fun _ _ => rfl) ..).trans hv
          · exact hv
      obtain ⟨t, he, ht⟩ := he
      refine ⟨t, he, ?_, ?_, ?_, ?_⟩
      · rw [ht]; rfl
      · rw [ht]; rfl
      · rw [ht]
        show (!s.initOver.ory.bankAct) = _
        rw [State.initOver_eq hi]
        rfl
      · exact (State.thread_of_threads (by rw [ht]; rfl) _).trans hth
  · let u := (s.setMode s.normalMode).onOry fun o => { o with swapStage := 0, swapCh := none, stageRes := if s.ory.swapOk then 0 else o.stageRes }
    have he : ∃ t, exec .swapExit s = .next t ∧ t.ory = u.ory ∧ t.blk = u.blk := by
      let v := u.log 0x0903 s.swapUid noPart
      have hv : v.ory = u.ory ∧ v.blk = u.blk :=
        ⟨State.ephPush_field u State.ory (fun _ _ => rfl) _, State.ephPush_field u State.blk (fun _ _ => rfl) _⟩
      refine ⟨if !s.ory.swapOk then u else match s.ory.swapCh with | some c => v.replyRes c 0 0 (v.swapWords true) | none => v, ?_, ?_⟩
      · show execSwapExit s = _
        simp only [execSwapExit, hm, hst]
        rfl
      · split
        · exact ⟨rfl, rfl⟩
        · split
          · exact ⟨(State.replyRes_field State.ory (fun _ _ => rfl) ..).trans hv.1, (State.replyRes_field State.blk (fun _ _ => rfl) ..).trans hv.2⟩
          · exact hv
    obtain ⟨t, he, ho, hb⟩ := he
    refine ⟨t, he, ?_, ?_, ?_⟩
    · rw [hb]
      exact congrArg Blk.mode (State.setMode_blk s s.normalMode)
    · rw [ho]; rfl
    · rw [ho]; rfl

end Swap

end Sys2Proof.Machine

/-! ### PROOFS. Function control: bus master enable and function-level reset (R282, R318, R319, R394 to R396) -/

namespace Sys2Proof.Machine

section FunctionControl

variable {s : State}

/-! #### Steps that leave function control alone -/

/-- What tells a partition's function and whether it is in its reset: number, table entry and state of every partition. -/
def State.partKinds (s : State) : List (Nat × PartEntry × PState) := s.prt.parts.map fun x => (x.1, x.2.entry, x.2.st)

/-- What an abort of a message or the end of a job cannot make false. -/
structure KeptByEnds (P : State → Prop) : Prop where
  dat   : ∀ s f, P s → P (State.onDat s f)
  ory   : ∀ s f, P s → P (State.onOry s f)
  ent   : ∀ s f, P s → P (State.onEnt s f)
  mov   : ∀ s f, P s → P (State.onMov s f)
  mbx   : ∀ s f, P s → P (State.onMbx s f)
  eph   : ∀ s f, P s → P (State.onEph s f)
  blk   : ∀ s f, P s → P (State.onBlk s f)
  rings : ∀ s (f : Map Ring → Map Ring), P s → P (State.onRng s fun t => { t with rings := f t.rings })
  parts : ∀ s (f : Nat × Part → Nat × Part), (∀ x, ((f x).1, (f x).2.entry, (f x).2.st) = (x.1, x.2.entry, x.2.st)) → P s →
    P (State.onPrt s fun t => { t with parts := t.parts.map f })
  irq   : ∀ s c, P s → P (State.mbxIrq s c)

namespace KeptByEnds

variable {P : State → Prop} (hP : KeptByEnds P)

include hP

theorem dmaStop (h : P s) (n : Nat) : P (s.dmaStop n) := by
  unfold State.dmaStop State.discardReads State.onReads State.onWrites
  exact hP.mov _ _ (hP.mov _ _ h)

theorem endThreads (h : P s) (ids : List Nat) : P (s.endThreads ids) := by
  unfold State.endThreads
  exact foldl_invariant (P := P) (fun _ _ ht => hP.dmaStop ht _) _ (hP.mov _ _ (hP.ory _ _ h))

theorem onUnit (h : P s) (u : UnitId) (f : UnitSt → UnitSt) : P (s.onUnit u f) := by
  unfold State.onUnit
  cases u
  case oryCore => exact hP.ory _ _ h
  case drbgCore => exact hP.ent _ _ h
  case scintilla => exact h
  all_goals exact hP.dat _ _ h

theorem ephPush (h : P s) (q : EphQ) : P (s.ephPush q) := by
  unfold State.ephPush
  split
  · exact h
  · exact hP.eph _ _ h

theorem dropExercise (h : P s) (c : Nat) : P (s.dropExercise c) := by
  unfold State.dropExercise
  exact hP.ent _ _ (foldl_invariant (P := P) (fun _ _ ht => hP.onUnit ht _ _) _ h)

theorem detach (h : P s) (c : Nat) : P (s.detach c) := by
  unfold State.detach
  dsimp only
  split
  · exact hP.ory _ _ (hP.parts _ _ (fun _ => rfl) (hP.rings _ _ h))
  · exact hP.ory _ _ (hP.ory _ _ (hP.parts _ _ (fun _ => rfl) (hP.rings _ _ h)))

theorem notifyOut (h : P s) (c b : Nat) : P (s.notifyOut c b) := by
  unfold State.notifyOut State.wakeLevel
  refine hP.blk _ _ ?_
  split
  · unfold State.dbSet
    dsimp only
    split
    · exact hP.irq _ _ (hP.mbx _ _ h)
    · exact hP.mbx _ _ h
  · split
    · exact hP.irq _ _ h
    · exact h

theorem abortMsg (h : P s) (c cause : Nat) : P (s.abortMsg c cause) := by
  unfold State.abortMsg State.freeGroup State.mbxLog State.log State.logSev State.onChan
  exact foldl_invariant (P := P) (fun t _ ht => hP.endThreads ht (t.groupOf _)) _
    (hP.notifyOut (hP.ephPush (hP.dropExercise (hP.mbx _ _ (hP.mbx _ _ (hP.detach h c))) c) _) c 1)

end KeptByEnds

/-! #### A partition in its reset -/

theorem mget_congr_map {α β : Type} (h : α → β) {l l' : Map α} (he : l.map (fun x => (x.1, h x.2)) = l'.map fun x => (x.1, h x.2)) (k : Nat) :
    (mget l k).map h = (mget l' k).map h := by
  have hm : ∀ l : Map α, (mget l k).map h = mget (l.map fun x => (x.1, h x.2)) k := fun l => by
    induction l with
    | nil => rfl
    | cons x l ih =>
      simp only [mget, List.map_cons]
      split
      · rfl
      · exact ih
  rw [hm, hm, he]

theorem State.part_of_partKinds {t : State} (h : t.partKinds = s.partKinds) (p : Nat) :
    (t.part p).map (fun x => (x.entry, x.st)) = (s.part p).map fun x => (x.entry, x.st) := mget_congr_map (fun x : Part => (x.entry, x.st)) h p

theorem State.partOfFid_of_partKinds {t : State} (h : t.partKinds = s.partKinds) (fid : Nat) : t.partOfFid fid = s.partOfFid fid := by
  have hm : ∀ s : State, s.partOfFid fid = (s.partKinds.find? fun x => x.2.1.fid == fid).map (·.1) := fun s => by
    simp only [State.partOfFid, State.partKinds, List.find?_map, Option.map_map]
    rfl
  rw [hm, hm, h]

theorem State.partState_of_partKinds {t : State} (h : t.partKinds = s.partKinds) (p : Nat) : t.partState p = s.partState p := by
  have hm : ∀ s : State, s.partState p = (((s.part p).map fun x => (x.entry, x.st)).map (·.2)).getD .absent := fun s => by
    simp only [State.partState, Option.map_map]
    rfl
  rw [hm, hm, State.part_of_partKinds h]

theorem State.flrOn_of_partKinds {t : State} (h : t.partKinds = s.partKinds) (fid : Nat) : t.flrOn fid = s.flrOn fid := by
  unfold State.flrOn
  rw [State.partOfFid_of_partKinds h]
  cases s.partOfFid fid with
  | none => rfl
  | some p => exact congrArg (· == PState.resetting) (State.partState_of_partKinds h p)

theorem State.partKinds_onPart (p : Nat) {f : Part → Part} (h : ∀ x, ((f x).entry, (f x).st) = (x.entry, x.st)) :
    (s.onPart p f).partKinds = s.partKinds := by
  have hm : ∀ l : Map Part, (mupd l p f).map (fun x => (x.1, x.2.entry, x.2.st)) = l.map fun x => (x.1, x.2.entry, x.2.st) := fun l => by
    induction l with
    | nil => rfl
    | cons x l ih =>
      unfold mupd
      split
      · simp only [List.map_cons, h]
      · simp only [List.map_cons, ih]
  exact hm s.prt.parts

/-- Partitions and pending operations as before, and no message of the function. -/
def State.Muted (u : State) (fid : Nat) (t : State) : Prop :=
  t.partKinds = u.partKinds ∧ t.io.fc = u.io.fc ∧ ∀ m ∈ t.io.msgs, m.fid ≠ fid

theorem State.Muted.of_eq {u t v : State} {fid : Nat} (h : u.Muted fid t) (hp : v.partKinds = t.partKinds) (hi : v.io = t.io) : u.Muted fid v := by
  obtain ⟨h1, h2, h3⟩ := h
  exact ⟨hp.trans h1, (congrArg Io.fc hi).trans h2, by rw [hi]; exact h3⟩

/-- A function in its reset has no new message. -/
theorem State.Muted.mbxIrq {u t : State} {fid : Nat} (hu : u.flrOn fid = true) (h : u.Muted fid t) (c : Nat) : u.Muted fid (t.mbxIrq c) := by
  obtain ⟨h1, h2, h3⟩ := h
  have hf := (State.flrOn_of_partKinds h1 fid).trans hu
  have hirq : ∀ f v, u.Muted fid (t.irqMsg f v) := fun f v => by
    unfold State.irqMsg
    split
    · exact ⟨h1, h2, h3⟩
    · next hn =>
      refine ⟨h1, h2, fun m hm => ?_⟩
      rcases List.mem_append.1 hm with hm | hm
      · exact h3 m hm
      · rw [List.mem_singleton.1 hm]
        rintro rfl
        exact hn (by simp [hf])
  unfold State.mbxIrq
  split
  · exact ⟨h1, h2, h3⟩
  · split
    · exact ⟨h1, h2, h3⟩
    · split
      · exact ⟨h1, h2, h3⟩
      · exact hirq _ _

theorem State.muted_keptByEnds {u : State} {fid : Nat} (hu : u.flrOn fid = true) : KeptByEnds (u.Muted fid) where
  dat _ _ h := h.of_eq rfl rfl
  ory _ _ h := h.of_eq rfl rfl
  ent _ _ h := h.of_eq rfl rfl
  mov _ _ h := h.of_eq rfl rfl
  mbx _ _ h := h.of_eq rfl rfl
  eph _ _ h := h.of_eq rfl rfl
  blk _ _ h := h.of_eq rfl rfl
  rings _ _ h := h.of_eq rfl rfl
  parts s f hf h := h.of_eq (by simp only [State.partKinds, State.onPrt, List.map_map, Function.comp_def, hf]) rfl
  irq _ c h := h.mbxIrq hu c

/-- No request of the partition is left. -/
def State.NoReqs (p : Nat) (t : State) : Prop := ∀ q ∈ t.rng.reqs, q.part ≠ p

/-- No key slot of the partition is left. -/
def State.NoSlots (p : Nat) (t : State) : Prop := ∀ k ∈ t.key.slots, k.part ≠ p

theorem State.noReqs_keptByEnds (p : Nat) : KeptByEnds (State.NoReqs p) where
  dat _ _ h := h
  ory _ _ h := h
  ent _ _ h := h
  mov _ _ h := h
  mbx _ _ h := h
  eph _ _ h := h
  blk _ _ h := h
  rings _ _ h := h
  parts _ _ _ h := h
  irq s c h := by
    unfold State.NoReqs
    rw [State.mbxIrq_field s (fun t => t.rng.reqs) (fun _ _ => rfl)]
    exact h

theorem State.noSlots_keptByEnds (p : Nat) : KeptByEnds (State.NoSlots p) where
  dat _ _ h := h
  ory _ _ h := h
  ent _ _ h := h
  mov _ _ h := h
  mbx _ _ h := h
  eph _ _ h := h
  blk _ _ h := h
  rings _ _ h := h
  parts _ _ _ h := h
  irq s c h := by
    unfold State.NoSlots
    rw [State.mbxIrq_field s (fun t => t.key.slots) (fun _ _ => rfl)]
    exact h

theorem State.wipeJob_invariant {P : State → Prop} (hd : ∀ s f, P s → P (State.onDat s f)) (ho : ∀ s f, P s → P (State.onOry s f))
    (hg : ∀ s ids, P s → P (State.endThreads s ids)) (hl : ∀ s id f, P s → P (State.onLink s id f)) (id : LinkId) (h : P s) :
    P (s.wipeJob id) := by
  unfold State.wipeJob State.freeGroup
  split
  · exact h
  · refine hl _ _ _ ?_
    split
    · exact hg _ _ (ho _ _ (hd _ _ (hd _ _ h)))
    · exact ho _ _ (hd _ _ (hd _ _ h))

/-! #### BME -/

/-- Of the function's writes those alone are left that issued, or wait. -/
def State.Silenced (fid : Nat) (t : State) : Prop := ∀ w ∈ t.writes, w.fid = fid → w.issued = true ∨ w.waits = true

theorem State.writes_dmaStop (s : State) (n : Nat) : ∀ w ∈ (s.dmaStop n).writes, w ∈ s.writes := by
  intro w hw
  unfold State.dmaStop State.discardReads at hw
  dsimp only at hw
  rw [State.writes_onWrites, State.writes_onReads] at hw
  obtain ⟨v, hv, he⟩ := List.mem_filterMap.1 hw
  have : v = w := by
    split at he
    · exact Option.some.inj (Option.ite_none_left_eq_some.1 he).2
    · exact Option.some.inj he
  exact this ▸ hv

theorem State.Silenced.endThreads {fid : Nat} (h : s.Silenced fid) (ids : List Nat) : (s.endThreads ids).Silenced fid := by
  unfold State.endThreads
  exact foldl_invariant (P := State.Silenced fid) (fun v d hv w hw => hv w (State.writes_dmaStop v d.1 w hw)) _ h

theorem State.killJobs_invariant {P : State → Prop} (hd : ∀ s f, P s → P (State.onDat s f)) (ho : ∀ s f, P s → P (State.onOry s f))
    (hg : ∀ s ids, P s → P (State.endThreads s ids)) (hl : ∀ s id f, P s → P (State.onLink s id f))
    (hs : ∀ s f, P s → P (State.onSch s f)) (p : Nat) (h : P s) : P (s.killJobs p) := by
  have hk : ∀ v id, P v → P (v.killJob id) := fun v id hv => by
    unfold State.killJob
    exact hs _ _ (State.wipeJob_invariant hd ho hg hl id hv)
  unfold State.killJobs
  refine foldl_invariant (P := P) (fun v q hv => ?_) _ h
  split
  · exact hv
  · refine foldl_invariant (P := P) (fun v l hv => ?_) _ hv
    split
    · exact hk _ _ hv
    · exact hv

theorem State.killJobs_prt (s : State) (p : Nat) : (s.killJobs p).prt = s.prt :=
  State.killJobs_invariant (P := fun t => t.prt = s.prt) (fun _ _ h => h) (fun _ _ h => h)
    (fun t ids h => (State.endThreads_field t State.prt (fun _ _ => rfl) ids).trans h) (fun _ _ _ h => h) (fun _ _ h => h) p rfl

theorem State.killJobs_io (s : State) (p : Nat) : (s.killJobs p).io = s.io :=
  State.killJobs_invariant (P := fun t => t.io = s.io) (fun _ _ h => h) (fun _ _ h => h)
    (fun t ids h => (State.endThreads_field t State.io (fun _ _ => rfl) ids).trans h) (fun _ _ _ h => h) (fun _ _ h => h) p rfl

theorem State.Silenced.killJobs {fid : Nat} (h : s.Silenced fid) (p : Nat) : (s.killJobs p).Silenced fid :=
  State.killJobs_invariant (P := State.Silenced fid) (fun _ _ h => h) (fun _ _ h => h) (fun _ _ h => h.endThreads _) (fun _ _ _ h => h)
    (fun _ _ h => h) p h

theorem State.silence1_silenced (s : State) (fid : Nat) : (s.silence1 fid true).Silenced fid := by
  intro w hw hf
  unfold State.silence1 at hw
  dsimp only at hw
  rw [State.writes_onWrites] at hw
  obtain ⟨v, _, he⟩ := List.mem_filterMap.1 hw
  obtain ⟨hn, he⟩ := Option.ite_none_left_eq_some.1 he
  obtain rfl := Option.some.inj he
  rw [hf] at hn
  revert hn
  cases v.issued <;> cases v.waits <;> simp

/-- A function control request is taken out of DORMANT and CONTAINMENT, none being pending for the function. -/
theorem State.fcTake_live (hl : s.live = true) {fid : Nat} (hf : fid < 1024) (hn : s.io.fc.length < 64) (go : State → State) :
    s.fcTake fid go = go (s.onIo fun i => { i with acks := [] }) := by
  have hd : s.blk.mode ≠ .dormant := by
    rintro h
    simp [State.live, h] at hl
  simp [State.fcTake, hd, Nat.not_le.2 hf, Nat.not_le.2 hn]

/-- The block when bus master enable of a function is cleared and the function silent. -/
def State.bmeSilent (s : State) (fid : Nat) : State :=
  let u := s.onPrt fun t => { t with
    bme := t.bme.filter fun f => f != fid, bmeNext := t.bmeNext.filter fun f => f != fid, bmeOff := fid :: t.bmeOff.filter fun f => f != fid }
  if fid == s.vaultFid then u.silenceVault else u.silence1 fid true

theorem State.bmeSilent_prt (s : State) (fid : Nat) : (s.bmeSilent fid).prt = { s.prt with
    bme := s.prt.bme.filter fun f => f != fid, bmeNext := s.prt.bmeNext.filter fun f => f != fid
    bmeOff := fid :: s.prt.bmeOff.filter fun f => f != fid } := keeps_ite State.prt rfl rfl

theorem State.bmeSilent_io (s : State) (fid : Nat) : (s.bmeSilent fid).io = s.io := keeps_ite State.io rfl rfl

/-- What follows once the function is silent: the acknowledgement, or the wait for responses and the flush. -/
def State.bmeCleared (s : State) (fid : Nat) : State :=
  let wait (s : State) : State := s.onIo fun i => { i with fc := (fid, .bmeClear) :: i.fc }
  match s.partOfFid fid with
  | none => s.fcAck fid 1
  | some p =>
    if s.partState p == .active || s.partState p == .suspended then wait ((s.killJobs p).onPart p fun x => { x with flush := true })
    else if s.answered fid then s.fcAck fid 1
    else wait s

theorem State.bmeClearNow_eq (s : State) (fid : Nat) : s.bmeClearNow fid = (s.bmeSilent fid).bmeCleared fid := rfl

theorem State.bmeCleared_free {fid : Nat} (hp : s.partOfFid fid = none) : s.bmeCleared fid = s.fcAck fid 1 := by
  simp only [State.bmeCleared, hp]

/-- With work of an ACTIVE partition its jobs end and the acknowledgement waits. -/
theorem State.bmeCleared_active {fid p : Nat} (hp : s.partOfFid fid = some p) (ha : s.partState p = .active) :
    s.bmeCleared fid = ((s.killJobs p).onPart p fun x => { x with flush := true }).onIo fun i => { i with fc := (fid, .bmeClear) :: i.fc } := by
  simp only [State.bmeCleared, hp, ha]
  rfl

theorem State.bmeCleared_bme (s : State) (fid : Nat) :
    (s.bmeCleared fid).prt.bme = s.prt.bme ∧ (s.bmeCleared fid).prt.bmeNext = s.prt.bmeNext := by
  have hk : ∀ p f, ((s.killJobs p).onPart p f).prt.bme = s.prt.bme ∧ ((s.killJobs p).onPart p f).prt.bmeNext = s.prt.bmeNext := fun p f => by
    unfold State.onPart
    rw [State.onPrt_prt, State.killJobs_prt]
    exact ⟨rfl, rfl⟩
  unfold State.bmeCleared
  dsimp only
  split
  · exact ⟨rfl, rfl⟩
  · split
    · exact hk _ _
    · split
      · exact ⟨rfl, rfl⟩
      · exact ⟨rfl, rfl⟩

/-- Settles O49. -/
theorem bmeResults : Obligations.BmeResults := by
  intro fid s hl hf hn hfc
  have hc : (s.blk.mode == .containment) = false := by
    unfold State.live at hl
    simpa using And.right (by simpa using hl)
  have hnone : (s.io.fc.any fun x => x.1 == fid) = false := by
    simpa using hfc
  let a := s.onIo fun i => { i with acks := [] }
  have hset : exec (.bmeSet fid) s = .next (a.bmeSetNow fid) := by
    show Host.Outcome.next _ = _
    rw [State.fcTake_live hl hf hn]
    show Host.Outcome.next (if s.blk.mode == .containment then _ else if (s.io.fc.any fun x => x.1 == fid) then _ else _) = _
    rw [hc, hnone]
    rfl
  have hclear : exec (.bmeClear fid) s = .next (a.bmeClearNow fid) := by
    show Host.Outcome.next _ = _
    rw [State.fcTake_live hl hf hn]
    show Host.Outcome.next (if s.blk.mode == .containment then _ else if (s.io.fc.any fun x => x.1 == fid) then _ else _) = _
    rw [hc, hnone]
    rfl
  have hparts : ∀ t : State, (t.bmeSilent fid).partOfFid fid = t.partOfFid fid ∧ ∀ p, (t.bmeSilent fid).partState p = t.partState p := fun t => by
    unfold State.partOfFid State.partState State.part
    rw [State.bmeSilent_prt]
    exact ⟨rfl, fun _ => rfl⟩
  refine ⟨⟨_, hset, rfl, ?_, rfl⟩, ⟨_, hclear, ?_, ?_, fun hp => ?_, fun p x hp hx ha => ?_⟩, ?_⟩
  · show fid ∈ (if s.prt.bmeNext.contains fid || s.prt.bme.contains fid then s.prt.bmeNext else s.prt.bmeNext ++ [fid]) ∨ fid ∈ s.prt.bme
    split
    · next h => simpa using h
    · exact .inl (by simp)
  · rw [State.bmeClearNow_eq, (State.bmeCleared_bme _ fid).1, State.bmeSilent_prt]
    simp
  · rw [State.bmeClearNow_eq, (State.bmeCleared_bme _ fid).2, State.bmeSilent_prt]
    simp
  · rw [State.bmeClearNow_eq, State.bmeCleared_free ((hparts a).1.trans hp)]
    show (a.bmeSilent fid).io.acks ++ _ = _
    rw [State.bmeSilent_io]
    rfl
  · have ha' : a.partState p = .active := by
      show ((s.part p).map (·.st)).getD .absent = .active
      rw [hx]
      exact ha
    rw [State.bmeClearNow_eq, State.bmeCleared_active ((hparts a).1.trans hp) (((hparts a).2 p).trans ha')]
    refine ⟨?_, .head _, ⟨{ x with flush := true }, ?_, rfl⟩, fun hv w hw => ?_⟩
    · show ((a.bmeSilent fid).killJobs p).io.acks = []
      rw [State.killJobs_io, State.bmeSilent_io]
      rfl
    · show (((a.bmeSilent fid).killJobs p).onPart p _).part p = _
      rw [State.part_onPart, if_pos rfl]
      have : ((a.bmeSilent fid).killJobs p).part p = some x := by
        unfold State.part
        rw [State.killJobs_prt, State.bmeSilent_prt]
        exact hx
      rw [this]
      rfl
    · have hsil : (a.bmeSilent fid).Silenced fid := by
        have he : a.bmeSilent fid = (a.onPrt fun t => { t with
            bme := t.bme.filter fun f => f != fid, bmeNext := t.bmeNext.filter fun f => f != fid
            bmeOff := fid :: t.bmeOff.filter fun f => f != fid }).silence1 fid true := by
          unfold State.bmeSilent
          exact if_neg fun h => hv (beq_iff_eq.1 h)
        rw [he]
        exact State.silence1_silenced _ fid
      exact hsil.killJobs p w hw
  · show Host.Outcome.next _ = _
    rw [State.fcTake_live hl hf hn]
    rfl

/-! #### The reset sequence -/

theorem State.Muted.unbind {u t : State} {fid : Nat} (h : u.Muted fid t) (id : LinkId) : u.Muted fid (t.unbind id) := h.of_eq rfl rfl

theorem State.Muted.dropOps {u t : State} {fid : Nat} (h : u.Muted fid t) (f : PageOp → Bool) : u.Muted fid (t.dropOps f) := by
  unfold State.dropOps
  dsimp only
  split
  · exact h
  · exact h.of_eq rfl rfl

theorem State.Muted.dropWork {u t : State} {fid : Nat} (h : u.Muted fid t) (id : LinkId) : u.Muted fid (t.dropWork id) :=
  (h.dropOps _).of_eq rfl rfl

theorem State.Muted.wipeJob {u t : State} {fid : Nat} (h : u.Muted fid t) (id : LinkId) : u.Muted fid (t.wipeJob id) :=
  State.wipeJob_invariant (P := u.Muted fid) (fun _ _ h => h.of_eq rfl rfl) (fun _ _ h => h.of_eq rfl rfl)
    (fun t ids h => h.of_eq (State.endThreads_field t State.partKinds (fun _ _ => rfl) ids) (State.endThreads_field t State.io (fun _ _ => rfl) ids))
    (fun _ _ _ h => h.of_eq rfl rfl) id h

theorem State.Muted.dropReqs {u t : State} {fid : Nat} (h : u.Muted fid t) (f : Req → Bool) : u.Muted fid (t.dropReqs f) :=
  (foldl_invariant (P := u.Muted fid) (fun _ id hv => ((hv.unbind id).wipeJob id).dropWork id) _ h).of_eq rfl rfl

theorem State.dropReqs_none (s : State) (f : Req → Bool) : ∀ q ∈ (s.dropReqs f).rng.reqs, f q = false := by
  intro q hq
  simpa using (List.mem_filter.1 hq).2

theorem State.Muted.onPart {u t : State} {fid : Nat} (h : u.Muted fid t) (p : Nat) {f : Part → Part}
    (hf : ∀ x, ((f x).entry, (f x).st) = (x.entry, x.st)) : u.Muted fid (t.onPart p f) := h.of_eq (State.partKinds_onPart p hf) rfl

theorem State.Muted.writeRecord {u t : State} {fid : Nat} (h : u.Muted fid t) (p g : Nat) (a b : Bool) (o : Option Nat) :
    u.Muted fid (t.writeRecord p g a b o) := by
  have hw : ∀ (t : State) a d w, (t.vaultWrite a d w).partKinds = t.partKinds ∧ (t.vaultWrite a d w).io = t.io := fun t a d w => by
    unfold State.vaultWrite State.write State.pump State.partKinds
    exact ⟨rfl, rfl⟩
  unfold State.writeRecord
  dsimp only
  refine h.of_eq ((hw ..).1.trans ?_) ((hw ..).2.trans rfl)
  exact State.partKinds_onPart p fun _ => rfl

theorem State.Muted.cutRotation {u t : State} {fid : Nat} (hu : u.flrOn fid = true) (h : u.Muted fid t) (p : Nat) : u.Muted fid (t.cutRotation p) := by
  unfold State.cutRotation
  split
  · exact h
  · dsimp only
    have hb : ∀ c, u.Muted fid ((t.abortMsg c 3).onPart p fun x => { x with rot := none }) := fun c =>
      ((State.muted_keptByEnds hu).abortMsg h c 3).onPart p fun _ => rfl
    split
    · exact (hb _).writeRecord ..
    · exact hb _

theorem State.clearChan_kept {P : State → Prop} (hP : KeptByEnds P) (h : P s) (p : Nat) : P (s.clearChan p) := by
  unfold State.clearChan State.onChan
  dsimp only
  split
  · exact hP.abortMsg h _ _
  · exact hP.abortMsg h _ _
  · exact hP.mbx _ _ h
  · exact h

theorem State.wipePart_noSlots (s : State) (p : Nat) : (s.wipePart p).NoSlots p := by
  intro k hk
  simpa using (List.mem_filter.1 hk).2

theorem State.Muted.moved {u t : State} {fid : Nat} (h : u.Muted fid t) (f : Mov → Mov) (k : IrqMsg → Bool) :
    u.Muted fid ((t.onMov f).onIo fun i => { i with msgs := i.msgs.filter k }) := by
  obtain ⟨h1, h2, h3⟩ := h
  exact ⟨h1, h2, fun m hm => h3 m (List.mem_of_mem_filter hm)⟩

theorem State.Muted.silence1 {u t : State} {fid : Nat} (h : u.Muted fid t) (g : Nat) (b : Bool) : u.Muted fid (t.silence1 g b) := h.of_eq rfl rfl

theorem State.Muted.wipePart {u t : State} {fid : Nat} (h : u.Muted fid t) (p : Nat) : u.Muted fid (t.wipePart p) :=
  (h.dropOps _).of_eq rfl rfl

theorem State.reqs_dropOps (s : State) (f : PageOp → Bool) : (s.dropOps f).rng = s.rng := by
  unfold State.dropOps
  dsimp only
  split <;> rfl

/-- The work of a partition is dropped and its function silent. -/
def State.workDropped (s : State) (p fid : Nat) : State := (s.dropReqs fun q => q.part == p).silence1 fid false

theorem State.noReqs_of_rng {t : State} {p : Nat} (h : t.NoReqs p) (he : s.rng = t.rng) : s.NoReqs p := by
  unfold State.NoReqs
  rw [he]
  exact h

theorem State.rng_silence1 (s : State) (g : Nat) (b : Bool) : (s.silence1 g b).rng = s.rng := rfl

theorem State.rng_wipePart (s : State) (p : Nat) : (s.wipePart p).rng = s.rng := (State.onKey_rng (s.dropOps _) _).trans (State.reqs_dropOps s _)

theorem State.workDropped_noReqs (s : State) (p fid : Nat) : (s.workDropped p fid).NoReqs p :=
  State.noReqs_of_rng (fun q hq => by simpa using State.dropReqs_none s _ q hq) (State.rng_silence1 _ fid false)

theorem State.Muted.workDropped {u t : State} {fid : Nat} (h : u.Muted fid t) (p g : Nat) : u.Muted fid (t.workDropped p g) :=
  (h.dropReqs _).silence1 g false

/-- The start of a reset as far as the wipe of the partition's keys. -/
def State.resetBegun (s : State) (p : Nat) (f : Flr) : State :=
  ((s.onPart p fun x => { x with st := .resetting, flr := some f, flush := false }).cutRotation p).workDropped p (s.fidOf p)

theorem State.startReset_eq (s : State) (p : Nat) (f : Flr) : ∃ (m : Mov → Mov) (k : IrqMsg → Bool),
    s.startReset p f = ((((s.resetBegun p f).onMov m).onIo fun i => { i with msgs := i.msgs.filter k }).wipePart p).clearChan p := ⟨_, _, rfl⟩

/-- The start of a reset leaves nothing of its partition. -/
theorem State.startReset_clears {u : State} {fid p : Nat} {f : Flr} (hu : u.flrOn fid = true)
    (h : u.Muted fid (s.onPart p fun x => { x with st := .resetting, flr := some f, flush := false })) :
    u.Muted fid (s.startReset p f) ∧ (s.startReset p f).NoReqs p ∧ (s.startReset p f).NoSlots p := by
  obtain ⟨m, k, he⟩ := s.startReset_eq p f
  rw [he]
  refine ⟨State.clearChan_kept (State.muted_keptByEnds hu) ?_ p, State.clearChan_kept (State.noReqs_keptByEnds p) ?_ p,
    State.clearChan_kept (State.noSlots_keptByEnds p) (State.wipePart_noSlots _ p) p⟩
  · exact (((h.cutRotation hu p).workDropped p _).moved m k).wipePart p
  · have hb : (s.resetBegun p f).NoReqs p := State.workDropped_noReqs _ p (s.fidOf p)
    exact State.noReqs_of_rng hb ((State.rng_wipePart _ p).trans ((State.onIo_rng _ _).trans (State.onMov_rng _ _)))

theorem State.live_iff : s.live = true ↔ s.blk.mode ≠ .dormant ∧ s.blk.mode ≠ .containment := by
  simp [State.live]

theorem State.partState_of_part {p : Nat} {x : Part} (hx : s.part p = some x) : s.partState p = x.st := by
  simp [State.partState, hx]

theorem State.partOfFid_onIo (f : Io → Io) (fid : Nat) : (s.onIo f).partOfFid fid = s.partOfFid fid := rfl

theorem State.partState_onIo (f : Io → Io) (p : Nat) : (s.onIo f).partState p = s.partState p := rfl

theorem State.partOfFid_onPart (p fid : Nat) {f : Part → Part} (h : ∀ x, (f x).entry = x.entry) :
    (s.onPart p f).partOfFid fid = s.partOfFid fid := by
  have hm : ∀ l : Map Part, ((mupd l p f).find? fun x => x.2.entry.fid == fid).map (·.1) = (l.find? fun x => x.2.entry.fid == fid).map (·.1) := fun l => by
    induction l with
    | nil => rfl
    | cons x l ih =>
      unfold mupd
      split
      · simp only [List.find?_cons, h]
        cases x.2.entry.fid == fid <;> rfl
      · simp only [List.find?_cons]
        cases x.2.entry.fid == fid
        · exact ih
        · rfl
  exact hm s.prt.parts

/-- The block when a function-level reset is taken and recorded. -/
def State.flrTaken (s : State) (fid p : Nat) : State :=
  (s.onIo fun i => { i with acks := [], msgs := i.msgs.filter fun m => m.fid != fid, fc := i.fc ++ [(fid, .flr)] }).log 0x0820 uidFc p
    (natLE p 2 ++ natLE fid 2)

theorem State.flrTaken_prt (s : State) (fid p : Nat) : (s.flrTaken fid p).prt = s.prt := State.ephPush_field _ State.prt (fun _ _ => rfl) _

theorem State.flrTaken_io (s : State) (fid p : Nat) :
    (s.flrTaken fid p).io = { s.io with acks := [], msgs := s.io.msgs.filter fun m => m.fid != fid, fc := s.io.fc ++ [(fid, .flr)] } :=
  State.ephPush_field _ State.io (fun _ _ => rfl) _

theorem State.resetPart_free {p : Nat} {x : Part} (hx : s.part p = some x) (hf : x.flr = none) (ch : Option Nat) (d : Bool) :
    s.resetPart p ch d = s.startReset p { destroy := d, chans := ch.toList } := by
  unfold State.resetPart
  rw [hx, Option.bind_some, hf]

/-- FLR_START of a partition that is bound and in no reset. -/
theorem exec_flrStart {fid p : Nat} {x : Part} (hl : s.live = true) (hf : fid < 1024) (hn : s.io.fc.length < 64) (hp : s.partOfFid fid = some p)
    (hx : s.part p = some x) (ha : x.st ≠ .absent) (hr : x.st ≠ .resetting) :
    exec (.flrStart fid) s = .next ((s.flrTaken fid p).resetPart p none false) := by
  have hst := State.partState_of_part hx
  have h1 : (s.blk.mode == .containment || s.partState p == .absent) = false := by simp [(State.live_iff.1 hl).2, hst, ha]
  have h2 : (s.partState p == .resetting) = false := by simp [hst, hr]
  show execFlrStart fid s = _
  unfold execFlrStart
  rw [State.fcTake_live hl hf hn]
  simp only [State.partOfFid_onIo, State.partState_onIo, State.onIo_blk, hp, h1, h2]
  rfl

theorem flrStartResult {fid p : Nat} {x : Part} (hl : s.live = true) (hf : fid < 1024) (hn : s.io.fc.length < 64) (hp : s.partOfFid fid = some p)
    (hx : s.part p = some x) (ha : x.st ≠ .absent) (hr : x.st ≠ .resetting) (hflr : x.flr = none) :
    ∃ t y, exec (.flrStart fid) s = .next t ∧ t.part p = some y ∧ y.st = .resetting ∧ (fid, FcOp.flr) ∈ t.io.fc
      ∧ (∀ q ∈ t.rng.reqs, q.part ≠ p) ∧ (∀ k ∈ t.key.slots, k.part ≠ p) ∧ ∀ m ∈ t.io.msgs, m.fid ≠ fid := by
  have he := exec_flrStart hl hf hn hp hx ha hr
  have hvi := s.flrTaken_io fid p
  have hvp : (s.flrTaken fid p).part p = some x := by
    unfold State.part
    rw [State.flrTaken_prt]
    exact hx
  have hvf : (s.flrTaken fid p).partOfFid fid = some p := by
    unfold State.partOfFid
    rw [State.flrTaken_prt]
    exact hp
  generalize s.flrTaken fid p = v at he hvi hvp hvf
  rw [State.resetPart_free hvp hflr] at he
  generalize hf' : ({ destroy := false, chans := (none : Option Nat).toList } : Flr) = f at he
  let u := v.onPart p fun x => { x with st := .resetting, flr := some f, flush := false }
  have hup : u.part p = some { x with st := .resetting, flr := some f, flush := false } := by
    rw [State.part_onPart, if_pos rfl, hvp]
    rfl
  have hu : u.flrOn fid = true := by
    simp [State.flrOn, State.partOfFid_onPart (s := v) (f := fun x : Part => { x with st := .resetting, flr := some f, flush := false }) p fid
      (fun _ => rfl), hvf, State.partState_of_part hup, u]
  have hm : u.Muted fid u := ⟨rfl, rfl, fun m hm => by
    have hm' : m ∈ v.io.msgs := hm
    rw [hvi] at hm'
    simpa using (List.mem_filter.1 hm').2⟩
  obtain ⟨⟨h1, h2, h3⟩, h4, h5⟩ := State.startReset_clears (s := v) (f := f) hu hm
  have hpart := State.part_of_partKinds h1 p
  rw [hup] at hpart
  obtain ⟨y, hy, hk⟩ := Option.map_eq_some_iff.1 hpart
  refine ⟨_, y, he, hy, congrArg Prod.snd hk, ?_, h4, h5, h3⟩
  rw [h2]
  show _ ∈ v.io.fc
  rw [hvi]
  simp

theorem State.replyOk_field {α : Type} (g : State → α) (hm : ∀ s f, g (State.onMbx s f) = g s) (s : State) (c : Nat) (l : List W32) :
    g (s.replyOk c l) = g s := by
  unfold State.replyOk
  exact keeps_ite g (hm _ _) rfl

theorem State.endReset_field {α : Type} (g : State → α) (hm : ∀ s f, g (State.onMbx s f) = g s) (s : State) (p : Nat) (f : Flr) :
    g (s.endReset p f) = g (s.onPart p fun x => { x with
      st := if f.destroy then .absent else .ready, flr := none, hello := false, mbxVer := 0, fmtMask := 0, suspBme := false
      suspMgmt := x.suspMgmt && !f.destroy }) :=
  foldl_keeps g (fun t c => State.replyOk_field g hm t c _) _ _

theorem flrAckResult {fid d p : Nat} {x : Part} {f : Flr} (hl : s.live = true) (hp : s.partOfFid fid = some p) (hx : s.part p = some x)
    (hflr : x.flr = some f) (hb : f.boundary = true) (hs : f.seqDone = false) (hd : f.destroy = false) (ha : s.answered fid = true)
    (hfc : s.io.fc = [(fid, .flr)]) :
    ∃ t y, exec (.flrAck fid d) s = .next t ∧ t.part p = some y ∧ y.st = .ready ∧ y.flr = none ∧ y.hello = false
      ∧ t.io.acks = [(fid, 2)] ∧ t.io.fc = [] := by
  have hc : s.clearing fid = false := by simp [State.clearing, hfc]
  let u := (s.onIo fun i => { i with acks := [], fc := i.fc }).log 0x0821 uidFc p (natLE (d % 2 ^ 32) 4)
  have hup : u.prt = s.prt := State.ephPush_field _ State.prt (fun _ _ => rfl) _
  have hui : u.io = { s.io with acks := [] } := State.ephPush_field _ State.io (fun _ _ => rfl) _
  have he : exec (.flrAck fid d) s = .next ((u.endReset p f).flrAcks fid) := by
    show execFlrAck fid d s = _
    simp only [execFlrAck, hp, hx, Option.bind_some, hflr, hl, hb, ha, hs, hc, hfc, hd]
    simp [u]
  have hei : (u.endReset p f).io = { s.io with acks := [] } := (State.endReset_field State.io (fun _ _ => rfl) u p f).trans hui
  have hep : (u.endReset p f).part p = some { x with
      st := .ready, flr := none, hello := false, mbxVer := 0, fmtMask := 0, suspBme := false, suspMgmt := x.suspMgmt && !f.destroy } := by
    rw [State.endReset_field (fun t : State => t.part p) (fun _ _ => rfl), State.part_onPart, if_pos rfl]
    unfold State.part
    rw [hup]
    show (s.part p).map _ = _
    rw [hx]
    simp [hd]
  generalize u.endReset p f = e at he hei hep
  have hk : e.flrAcks fid = e.onIo fun i => { i with fc := [], acks := [(fid, 2)] } := by
    simp [State.flrAcks, State.onIo, hei, hfc, countP, State.fcNext]
  rw [hk] at he
  exact ⟨_, _, he, hep, rfl, rfl, rfl, rfl, rfl⟩

/-- Settles O50. -/
theorem flrResults : Obligations.FlrResults := by
  refine ⟨fun fid s hm hfc ha => ?_, fun fid p x s hl hf hn hp hx ha hr hflr => flrStartResult hl hf hn hp hx ha hr hflr,
    fun fid d p x f s hl hp hx hflr hb hs hd ha hfc => flrAckResult hl hp hx hflr hb hs hd ha hfc, fun fid s hm hr ha => ?_⟩
  · show execBmeClearAck fid s = _
    have hc : s.clearing fid = true := by simp [State.clearing, hfc]
    have hdrop : fcDrop fid .bmeClear s.io.fc = [] := by simp [hfc, fcDrop]
    simp only [execBmeClearAck, beq_eq_false_iff_ne.2 hm, hc, ha]
    simp [State.fcNext, State.onIo, hdrop]
  · let late (w : FWrite) : Bool := w.fid == fid && w.issued && !w.given
    let u := s.onMov fun m => { m with ports := m.ports.map fun x =>
      { x with late := sat 0xFF x.late (countP x.writes late)
               writes := x.writes.map fun w => if late w then { w with given := true } else w } }
    refine ⟨u.log 0x0822 uidFc ((u.partOfFid fid).getD noPart) (natLE (if u.clearing fid then 1 else 2) 1), ?_, ?_, ?_, ?_⟩
    · show execFlrWriteLate fid s = _
      have hor : (s.flrOn fid || s.clearing fid) = true := by simpa using hr
      simp only [execFlrWriteLate, beq_eq_false_iff_ne.2 hm, hor, ha]
      rfl
    · refine (State.ephPush_field u (fun s : State => s.answered fid) (fun _ _ => rfl) _).trans (List.all_eq_true.2 fun w hw => ?_)
      obtain ⟨x, hx, hw⟩ := List.mem_flatMap.1 hw
      obtain ⟨y, _, rfl⟩ := List.mem_map.1 hx
      obtain ⟨v, _, rfl⟩ := List.mem_map.1 hw
      by_cases h : late v = true
      · simp [h]
      · rw [if_neg h]
        revert h
        simp only [late, bne]
        cases v.fid == fid <;> cases v.issued <;> cases v.given <;> simp
    · exact State.ephPush_field u State.rng (fun _ _ => rfl) _
    · exact State.ephPush_field u State.prt (fun _ _ => rfl) _

end FunctionControl

end Sys2Proof.Machine

/-! ### PROOFS. The debugger, threads, channels and ports of the Orrery (R234 to R236, R240, R241, R403) -/

namespace Sys2Proof.Machine

section Debugger

variable {s : State} {k : Nat}

/-! #### ORY_CTRL -/

/-- ORY_CTRL is loaded with a word. -/
def State.ctrlLoaded (s : State) (w : Nat) : State := s.onIo fun i => { i with tapIr := 0x20, tapCap := 0x01, tapDr := BitVec.ofNat 32 w }

/-- A word of ORY_CTRL with one of the bits 31 to 28 set, and a thread's number. -/
theorem ctrl_bits {k : Nat} (h : k < 64) (b : Nat) (hb : b ∈ [31, 30, 29, 28]) :
    (∀ j ∈ [31, 30, 29, 28], (BitVec.ofNat 32 (2 ^ b + k)).getLsbD j = decide (j = b)) ∧ fld (BitVec.ofNat 32 (2 ^ b + k)).toNat 0 6 = k := by
  simp only [List.mem_cons, List.not_mem_nil, or_false] at hb
  refine ⟨fun j hj => ?_, ?_⟩
  · simp only [List.mem_cons, List.not_mem_nil, or_false] at hj
    rw [BitVec.getLsbD_ofNat, Nat.testBit_eq_decide_div_mod_eq]
    rcases hb with rfl | rfl | rfl | rfl <;> rcases hj with rfl | rfl | rfl | rfl <;>
      simp only [Nat.reducePow, Nat.reduceLT, decide_true, Bool.true_and, decide_eq_decide, Nat.reduceEqDiff, decide_eq_true_eq, iff_false] <;> omega
  · simp only [fld, BitVec.toNat_ofNat]
    rcases hb with rfl | rfl | rfl | rfl <;> omega

/-- What the hold becomes. -/
theorem State.onOry_hold (s : State) : (s.onOry fun o => { o with hold := o.hold }) = s := rfl

/-- In FACTORY and DEVELOP the word acts. -/
theorem State.oryCtrl_acts (hl : s.live = true) (hc : s.blk.lifecycle.toNat ≤ 1) (w : Nat) :
    s.oryCtrl (BitVec.ofNat 32 w) =
      let t := fld (BitVec.ofNat 32 w).toNat 0 6
      let u := if (BitVec.ofNat 32 w).getLsbD 31 then (s.ctrlLoaded w).stopThread t else s.ctrlLoaded w
      let u := if (BitVec.ofNat 32 w).getLsbD 30 then u.resumeThread t else u
      u.onOry fun o => { o with hold := (o.hold || (BitVec.ofNat 32 w).getLsbD 29) && !(BitVec.ofNat 32 w).getLsbD 28 } := by
  have hd : ∀ i, (s.onIo i).debugOn = true := fun i => by
    simp [State.debugOn, hc, (State.live_iff.1 hl).1]
  have hl' : ∀ i, (s.onIo i).live = true := fun _ => hl
  have ht : ((s.tapLoad tapCtrl).onIo fun i => { i with tapDr := BitVec.ofNat 32 w }) = s.ctrlLoaded w := rfl
  unfold State.oryCtrl
  dsimp only
  rw [show (s.tapLoad tapCtrl).debugOn = true from hd _, ht, show (s.ctrlLoaded w).live = true from hl]
  rfl

/-- In the other lifecycles it is a BYPASS. -/
theorem State.oryCtrl_bypass (hc : 2 ≤ s.blk.lifecycle.toNat) (w : W32) : s.oryCtrl w = s.ctrlLoaded 0 := by
  have hd : (s.tapLoad tapCtrl).debugOn = false := by
    have : (s.tapLoad tapCtrl).blk = s.blk := rfl
    simp [State.debugOn, this, Nat.not_le.2 hc]
  unfold State.oryCtrl
  dsimp only
  rw [hd]
  rfl

theorem exec_threadStop {k : Nat} (hk : k < 64) (hl : s.live = true) (hc : s.blk.lifecycle.toNat ≤ 1) :
    exec (.threadStop k) s = .next ((s.ctrlLoaded (2 ^ 31 + k)).stopThread k) := by
  obtain ⟨hb, hf⟩ := ctrl_bits hk 31 (by simp)
  show Host.Outcome.next (if k < 64 then s.oryCtrl (BitVec.ofNat 32 (2 ^ 31 + k)) else s) = _
  rw [if_pos hk, State.oryCtrl_acts hl hc]
  dsimp only
  rw [hf, hb 31 (by simp), hb 30 (by simp), hb 29 (by simp), hb 28 (by simp)]
  simp [State.onOry_hold]

theorem exec_threadResume {k : Nat} (hk : k < 64) (hl : s.live = true) (hc : s.blk.lifecycle.toNat ≤ 1) :
    exec (.threadResume k) s = .next ((s.ctrlLoaded (2 ^ 30 + k)).resumeThread k) := by
  obtain ⟨hb, hf⟩ := ctrl_bits hk 30 (by simp)
  show Host.Outcome.next (if k < 64 then s.oryCtrl (BitVec.ofNat 32 (2 ^ 30 + k)) else s) = _
  rw [if_pos hk, State.oryCtrl_acts hl hc]
  dsimp only
  rw [hf, hb 31 (by simp), hb 30 (by simp), hb 29 (by simp), hb 28 (by simp)]
  simp [State.onOry_hold]

theorem exec_holdSet (hl : s.live = true) (hc : s.blk.lifecycle.toNat ≤ 1) :
    exec .holdSet s = .next ((s.ctrlLoaded (2 ^ 29)).onOry fun o => { o with hold := true }) := by
  show Host.Outcome.next (s.oryCtrl (BitVec.ofNat 32 (2 ^ 29))) = _
  rw [State.oryCtrl_acts hl hc]
  simp

theorem exec_holdClear (hl : s.live = true) (hc : s.blk.lifecycle.toNat ≤ 1) :
    exec .holdClear s = .next ((s.ctrlLoaded (2 ^ 28)).onOry fun o => { o with hold := false }) := by
  show Host.Outcome.next (s.oryCtrl (BitVec.ofNat 32 (2 ^ 28))) = _
  rw [State.oryCtrl_acts hl hc]
  simp

/-! #### Channels -/

theorem mupd_congr {α : Type} {m : Map α} {k : Nat} {a : α} (h : mget m k = some a) {f g : α → α} (hfg : f a = g a) : mupd m k f = mupd m k g := by
  induction m with
  | nil => rfl
  | cons x m ih =>
    unfold mget at h
    unfold mupd
    split at h
    · next e =>
      obtain rfl := Option.some.inj h
      rw [if_pos e, if_pos e, hfg]
    · next e => rw [if_neg e, if_neg e, ih h]

/-- The reader of a channel takes its oldest message. -/
theorem State.takeMsg_eq {c : Nat} {ch : Chan} (hc : mget s.ory.chans c = some ch) {m : List W64} {l : List (List W64)} (hm : ch.msgs = m :: l)
    (k : Nat) : s.takeMsg k c = (s.onChanO c fun x => { x with msgs := l }).onThread k fun x => { x with st := .running, got := m } := by
  have hu : (s.onChanO c fun k => { k with msgs := k.msgs.drop 1 }) = s.onChanO c fun x => { x with msgs := l } :=
    congrArg (fun u : Map Chan => s.onOry fun o => { o with chans := u }) (mupd_congr hc (by rw [hm]; rfl))
  unfold State.takeMsg
  simp only [hc, hm]
  rw [hu]
  rfl

/-- With no writer that waits for room, a read takes the oldest message and does nothing else. -/
theorem State.readChan_eq {k c : Nat} {ch : Chan} (hc : mget s.ory.chans c = some ch) {m : List W64} {l : List (List W64)} (hm : ch.msgs = m :: l)
    (hw : ∀ w ∈ ch.writers, (s.thread w).st ≠ .blocked (.chanWrite c)) :
    s.readChan k c = (s.onChanO c fun x => { x with msgs := l }).onThread k fun x => { x with st := .running, got := m } := by
  have hmine : ∀ w ∈ ch.writers, ((s.takeMsg k c).thread w).st ≠ .blocked (.chanWrite c) := fun w hwm => by
    rw [State.takeMsg_eq hc hm]
    unfold State.thread State.onThread State.onChanO
    rw [State.onOry_ory, State.onOry_ory]
    simp only [updAt_getElem?]
    split
    · cases s.ory.threads[w]? <;> simp
    · exact hw w hwm
  have hch : mget (s.takeMsg k c).ory.chans c = some { ch with msgs := l } := by
    rw [State.takeMsg_eq hc hm]
    show mget (mupd s.ory.chans c _) c = _
    rw [mget_mupd, if_pos rfl, hc]
    rfl
  have hnone : ch.writers.find? (fun w => ((s.takeMsg k c).thread w).st == .blocked (.chanWrite c) && !((s.takeMsg k c).thread w).stopped) = none :=
    List.find?_eq_none.2 fun w hwm => by simp [hmine w hwm]
  rw [← State.takeMsg_eq hc hm]
  unfold State.readChan
  simp only [hch, Option.bind_some, hnone]

/-- A message is committed; a reader that waits takes it. -/
theorem State.commitMsg_eq {k c : Nat} {ch : Chan} (hc : mget s.ory.chans c = some ch) :
    let u := s.onChanO c fun x => { x with msgs := x.msgs ++ [(mget ch.staged k).getD []], staged := mdel x.staged k }
    s.commitMsg k c = if (s.thread ch.reader).st == .blocked (.chanRead c) && !(s.thread ch.reader).stopped then u.takeMsg ch.reader c else u := by
  unfold State.commitMsg
  simp only [hc]
  rfl

theorem State.chanFor_of_some {c : Nat} {ch : Chan} (hc : mget s.ory.chans c = some ch) (k : Nat) (r : Bool) : s.chanFor k c r = s := by
  simp [State.chanFor, hc]

/-- A word of a writer of the channel, its message being below sixteen words. -/
theorem exec_channelWrite {k c : Nat} {ch : Chan} (hi : s.issues k = true) (hcl : s.chanClass k c = true) (hc : mget s.ory.chans c = some ch)
    {w : W64} (hw : ch.writers.contains k = true) (hn : ((mget ch.staged k).getD []).length < 16) (final : Bool) :
    let u := s.onChanO c fun x => { x with staged := mset ch.staged k ((mget ch.staged k).getD [] ++ [w]) }
    exec (.channelWrite k c w final) s = .next (if !final then u else if ch.msgs.length < 4 then u.commitMsg k c
      else u.onThread k fun x => { x with st := .blocked (.chanWrite c), since := s.sch.tick }) := by
  have hu : (s.onChanO c fun x => { x with staged := mset x.staged k ((mget ch.staged k).getD [] ++ [w]) })
      = s.onChanO c fun x => { x with staged := mset ch.staged k ((mget ch.staged k).getD [] ++ [w]) } :=
    congrArg (fun u : Map Chan => s.onOry fun o => { o with chans := u }) (mupd_congr hc rfl)
  show execChannelWrite k c w final s = _
  unfold execChannelWrite
  simp only [hi, hcl, State.chanFor_of_some hc, hc, hw, Nat.not_le.2 hn, hu]
  rfl

/-- Settles O52. -/
theorem channelResults : Obligations.ChannelResults := by
  intro k c ch s hi hcl hc
  have hkeep : ∀ f, (s.onChanO c f).ory.threads = s.ory.threads := fun _ => rfl
  have hget : ∀ f, mget (s.onChanO c f).ory.chans c = some (f ch) := fun f => by
    show mget (mupd s.ory.chans c f) c = _
    rw [mget_mupd, if_pos rfl, hc]
    rfl
  refine ⟨fun w hw hn => ?_, fun hr hm => ?_, fun m l hr hm hw => ?_⟩
  · intro msg staged
    have he := exec_channelWrite hi hcl hc hw hn (w := w)
    have hst : (mget staged k).getD [] = msg := by
      simp only [staged, mget_mset_self, Option.getD_some]
    change ∀ final, exec (.channelWrite k c w final) s = .next (if !final then s.onChanO c fun x => { x with staged := staged }
      else if ch.msgs.length < 4 then (s.onChanO c fun x => { x with staged := staged }).commitMsg k c
      else (s.onChanO c fun x => { x with staged := staged }).onThread k fun x =>
        { x with st := .blocked (.chanWrite c), since := s.sch.tick }) at he
    have hu := hget fun x => { x with staged := staged }
    have hth : ∀ i, (s.onChanO c fun x => { x with staged := staged }).thread i = s.thread i := fun i => State.thread_of_threads (hkeep _) i
    have hoth : (s.onChanO c fun x => { x with staged := staged }).ory.threads = s.ory.threads := hkeep _
    refine ⟨he false, ?_⟩
    generalize (s.onChanO c fun x => { x with staged := staged }) = u at he hu hth hoth ⊢
    have hcm := State.commitMsg_eq (k := k) hu
    simp only [hst, hth] at hcm
    have hv : mget (u.onChanO c fun x => { x with msgs := x.msgs ++ [msg], staged := mdel x.staged k }).ory.chans c
        = some { ch with msgs := ch.msgs ++ [msg], staged := mdel staged k } := by
      show mget (mupd u.ory.chans c _) c = _
      rw [mget_mupd, if_pos rfl, hu]
      rfl
    refine ⟨fun h4 hnr => ?_, fun h0 hrd hns hlen => ?_, fun h4 => ?_⟩
    · rw [show ((s.thread ch.reader).st == TState.blocked (.chanRead c)) = false by simpa using hnr] at hcm
      refine ⟨_, _, (he true).trans ((congrArg Host.Outcome.next (if_pos h4)).trans (congrArg Host.Outcome.next hcm)), hv, rfl, rfl, hoth⟩
    · rw [hrd, hns, if_pos (by simp), State.takeMsg_eq hv (by rw [h0]; rfl)] at hcm
      have h4 : ch.msgs.length < 4 := by simp [h0]
      refine ⟨_, { ch with msgs := [], staged := mdel staged k },
        (he true).trans ((congrArg Host.Outcome.next (if_pos h4)).trans (congrArg Host.Outcome.next hcm)), ?_, rfl, ?_⟩
      · show mget (mupd (mupd u.ory.chans c _) c _) c = _
        rw [mget_mupd, if_pos rfl, mget_mupd, if_pos rfl, hu]
        rfl
      · have hlen' : ch.reader < u.ory.threads.length := by rw [hoth]; exact hlen
        exact (State.thread_onThread _ ch.reader ch.reader _ hlen').trans ((if_pos rfl).trans
          (congrArg (fun x : Thread => { x with st := .running, got := msg }) (hth ch.reader)))
    · exact (he true).trans (congrArg Host.Outcome.next (if_neg (Nat.not_lt.2 h4)))
  · show execChannelRead k c s = _
    unfold execChannelRead
    simp only [hi, hcl, State.chanFor_of_some hc, hc, hr, hm, ne_eq, not_true_eq_false, if_false]
    rfl
  · rw [← State.readChan_eq hc hm hw]
    show execChannelRead k c s = _
    unfold execChannelRead
    simp only [hi, hcl, State.chanFor_of_some hc, hc, hr, hm, ne_eq, not_true_eq_false, if_false]
    rfl

/-! #### Threads and ports -/

theorem State.thread_log (s : State) (code src p : Nat) (d : Bytes) (k : Nat) : (s.log code src p d).thread k = s.thread k :=
  State.ephPush_field s (fun s : State => s.thread k) (fun _ _ => rfl) _

theorem State.ctrlLoaded_eq (s : State) (w : Nat) :
    s.ctrlLoaded w = s.onIo fun i => { i with tapIr := 0x20, tapCap := 0x01, tapDr := BitVec.ofNat 32 w } := rfl

theorem State.stopThread_of (h : (s.thread k).stopped = false) :
    s.stopThread k = (s.onThread k fun x => { x with stopped := true }).log 0x0910 (uidThread k) noPart := by
  simp [State.stopThread, h]

theorem State.resumeThread_of (h : (s.thread k).stopped = true) :
    s.resumeThread k = ((s.onThread k fun x => { x with stopped := false }).log 0x0910 (uidThread k) noPart).resumeChan k := by
  simp [State.resumeThread, h]

theorem State.issues_iff {k : Nat} : s.issues k = true ↔
    s.threadModes k = true ∧ (s.thread k).st = .running ∧ (s.thread k).stopped = false ∧ s.coreRuns k = true := by
  simp [State.issues, and_assoc]

theorem State.st_onThread (s : State) (k j : Nat) {f : Thread → Thread} (hf : ∀ x, (f x).st = x.st) :
    ((s.onThread k f).thread j).st = (s.thread j).st := by
  unfold State.thread State.onThread
  rw [State.onOry_ory]
  simp only [updAt_getElem?]
  split
  · cases s.ory.threads[j]? <;> simp [hf]
  · rfl

/-- A thread that waits on no channel goes on as it was. -/
theorem State.resumeChan_of (h : ∀ c, (s.thread k).st ≠ .blocked (.chanRead c) ∧ (s.thread k).st ≠ .blocked (.chanWrite c)) :
    s.resumeChan k = s := by
  unfold State.resumeChan
  dsimp only
  split
  · next c hc => exact absurd hc (h c).1
  · next c hc => exact absurd hc (h c).2
  · rfl

/-- A thread that waits on a channel with a message takes it. -/
theorem State.resumeChan_read {c : Nat} {ch : Chan} (h : (s.thread k).st = .blocked (.chanRead c)) (hc : mget s.ory.chans c = some ch)
    (hm : ch.msgs ≠ []) : s.resumeChan k = s.readChan k c := by
  unfold State.resumeChan
  simp only [h, hc, Option.map_some, Option.getD_some, List.length_pos_iff.2 hm]
  rfl

/-- The thread is resumed and recorded. -/
def State.unstopped (s : State) (k : Nat) : State :=
  (s.onThread k fun x => { x with stopped := false }).log 0x0910 (uidThread k) noPart

theorem State.st_unstopped (s : State) (k j : Nat) : ((s.unstopped k).thread j).st = (s.thread j).st := by
  unfold State.unstopped
  rw [State.thread_log]
  exact State.st_onThread s k j fun _ => rfl

theorem State.unstopped_chans (s : State) (k : Nat) : (s.unstopped k).ory.chans = s.ory.chans :=
  State.ephPush_field _ (fun s : State => s.ory.chans) (fun _ _ => rfl) _

/-- A thread resumed on a channel that holds a message takes it. -/
theorem resumeTakes {k c : Nat} {ch : Chan} {m : List W64} {l : List (List W64)} (hk : k < 64) (hl : s.live = true)
    (hcy : s.blk.lifecycle.toNat ≤ 1) (hs : (s.thread k).stopped = true) (hst : (s.thread k).st = .blocked (.chanRead c))
    (hc : mget s.ory.chans c = some ch) (hm : ch.msgs = m :: l) (hw : ∀ w ∈ ch.writers, (s.thread w).st ≠ .blocked (.chanWrite c))
    (hlen : k < s.ory.threads.length) :
    ∃ t, exec (.threadResume k) s = .next t ∧ t.thread k = { s.thread k with st := .running, stopped := false, got := m } := by
  let u := s.ctrlLoaded (2 ^ 30 + k)
  have hth : ∀ j, u.thread j = s.thread j := fun _ => rfl
  have hv : mget (u.unstopped k).ory.chans c = some ch := by
    rw [State.unstopped_chans]
    exact hc
  have hlen' : k < (u.unstopped k).ory.threads.length := by
    rw [State.unstopped, show ((u.onThread k _).log 0x0910 (uidThread k) noPart).ory.threads = (u.onThread k _).ory.threads from
      State.ephPush_field _ (fun s : State => s.ory.threads) (fun _ _ => rfl) _]
    show k < (updAt s.ory.threads k _).length
    rw [updAt_length]
    exact hlen
  have hk' : (u.unstopped k).thread k = { s.thread k with stopped := false } := by
    unfold State.unstopped
    rw [State.thread_log]
    exact (State.thread_onThread _ k k _ hlen).trans (if_pos rfl)
  refine ⟨_, exec_threadResume hk hl hcy, ?_⟩
  rw [State.resumeThread_of (s := u) hs]
  show ((u.unstopped k).resumeChan k).thread k = _
  rw [State.resumeChan_read ((State.st_unstopped u k k).trans hst) hv (by rw [hm]; simp),
    State.readChan_eq hv hm fun w hwm => by rw [State.st_unstopped]; exact hw w hwm]
  refine (State.thread_onThread _ k k _ hlen').trans ((if_pos rfl).trans ?_)
  show { (u.unstopped k).thread k with st := .running, got := m } = _
  rw [hk']

/-- The debugger's commands in FACTORY and DEVELOP. -/
theorem debuggerActs {k : Nat} (hk : k < 64) (hl : s.live = true) (hc : s.blk.lifecycle.toNat ≤ 1) :
    ((s.thread k).stopped = false →
      exec (.threadStop k) s = .next (((s.ctrlLoaded (2 ^ 31 + k)).onThread k fun x => { x with stopped := true }).log 0x0910 (uidThread k) noPart))
    ∧ ((s.thread k).stopped = true → exec (.threadStop k) s = .next (s.ctrlLoaded (2 ^ 31 + k)))
    ∧ ((s.thread k).stopped = true → (∀ c, (s.thread k).st ≠ .blocked (.chanRead c) ∧ (s.thread k).st ≠ .blocked (.chanWrite c)) →
      exec (.threadResume k) s
        = .next (((s.ctrlLoaded (2 ^ 30 + k)).onThread k fun x => { x with stopped := false }).log 0x0910 (uidThread k) noPart))
    ∧ ((s.thread k).stopped = false → exec (.threadResume k) s = .next (s.ctrlLoaded (2 ^ 30 + k))) := by
  have hth : ∀ w, (s.ctrlLoaded w).thread k = s.thread k := fun _ => rfl
  refine ⟨fun h => ?_, fun h => ?_, fun h hb => ?_, fun h => ?_⟩
  · rw [exec_threadStop hk hl hc, State.stopThread_of (by rw [hth]; exact h)]
  · rw [exec_threadStop hk hl hc]
    simp [State.stopThread, hth, h]
  · rw [exec_threadResume hk hl hc, State.resumeThread_of (by rw [hth]; exact h)]
    exact congrArg Host.Outcome.next (State.resumeChan_of fun c => by
      rw [show ((((s.ctrlLoaded (2 ^ 30 + k)).onThread k fun x => { x with stopped := false }).log 0x0910 (uidThread k) noPart).thread k).st
        = (s.thread k).st from State.st_unstopped (s.ctrlLoaded (2 ^ 30 + k)) k k]
      exact hb c)
  · rw [exec_threadResume hk hl hc]
    simp [State.resumeThread, hth, h]

/-- FORK by a thread that issues. -/
theorem exec_fork {k : Nat} (hi : s.issues k = true) (e : Nat) : exec (.fork k e) s = .next (
    match if (s.groupOf (s.thread k).root).length < 8 then s.forkThread k else none with
    | none => (s.onOry fun o => { o with forkFail := sat 0xFF o.forkFail 1 }).onThread k fun y => { y with forked := some none }
    | some u => (s.onThread u fun _ => { st := .running, root := (s.thread k).root, entry := e, work := (s.thread k).work }).onThread k fun y =>
        { y with forked := some (some u) }) := by
  show execFork k e s = _
  unfold execFork
  rw [hi]
  rfl

/-- Settles O51. -/
theorem threadAndDebugResults : Obligations.ThreadAndDebugResults := by
  refine ⟨fun k s hk => ?_, fun k e s hi => ⟨fun u h8 hu => ?_, fun h => ?_⟩, fun k u s => ⟨fun hi hne hst hr => ?_, fun hl hst hs hu => ?_,
    fun hl hst hs hi hne hr hroot => ?_⟩, fun k p s => ⟨fun hi => ?_, fun ho hst hs hc he => ?_⟩⟩
  · intro ctrl
    refine ⟨fun hl hc => ?_, fun hc c hm => ?_⟩
    · obtain ⟨h1, h2, h3, h4⟩ := debuggerActs hk hl hc
      exact ⟨h1, h2, h3, fun c ch m l hs hst hch hm hw hlen => resumeTakes hk hl hc hs hst hch hm hw hlen, h4, exec_holdSet hl hc,
        exec_holdClear hl hc⟩
    · have hb : ∀ w, (.next (s.oryCtrl w) : Out) = .next (s.ctrlLoaded 0) := fun w => congrArg Host.Outcome.next (State.oryCtrl_bypass hc w)
      simp only [List.mem_cons, List.not_mem_nil, or_false] at hm
      rcases hm with rfl | rfl | rfl | rfl
      · exact (congrArg Host.Outcome.next (if_pos hk)).trans (hb _)
      · exact (congrArg Host.Outcome.next (if_pos hk)).trans (hb _)
      · exact hb _
      · exact hb _
  · rw [exec_fork hi, if_pos h8, hu]
  · rw [exec_fork hi]
    have : (if (s.groupOf (s.thread k).root).length < 8 then s.forkThread k else none) = none := by
      rcases h with h | h
      · exact if_neg (Nat.not_lt.2 h)
      · simp [h]
    rw [this]
  · show execJoin k u s = _
    have hx := (State.issues_iff.1 hi).2.1
    simp [execJoin, hx, hi, hne, hst, hr]
  · show execJoin k u s = _
    simp [execJoin, hst, hs, hl, hu]
  · show execJoin k u s = _
    have hx := (State.issues_iff.1 hi).2.1
    simp [execJoin, hst, hs, hl, hi, hne, hr, hx, hroot]
  · show execPortRead k p s = _
    simp [execPortRead, hi]
  · show execPortRead k p s = _
    have hni : s.issues k = false := by
      rw [Bool.eq_false_iff, ne_eq, State.issues_iff]
      simp [hst]
    have hm : s.threadModes k = true ∧ s.paused = false := by
      unfold State.oryServing at ho
      simp only [Bool.and_eq_true, Bool.not_eq_true'] at ho
      simp [State.threadModes, ho.1, ho.2]
    simp [execPortRead, hni, hm.1, hm.2, hst, hs, he, hc]

end Debugger

end Sys2Proof.Machine

/-! ### PROOFS. The entropy source (R214, R248 to R251, R258) -/

namespace Sys2Proof.Machine

section Entropy

variable {s : State}

/-- The answers to an exercise leave the source as it is but for the exercise. -/
theorem State.exerAnswer_ent (s : State) (pass begun : Bool) :
    ∃ x, (s.exerAnswer pass begun).ent = { s.ent with exercise := x } := by
  refine ⟨if begun then s.ent.exercise.filter fun x => !x.2 else [], ?_⟩
  unfold State.exerAnswer
  dsimp only
  rw [foldl_keeps State.ent]
  · rfl
  · intro t x
    exact keeps_ite State.ent (State.replyRes_field State.ent (fun _ _ => rfl) ..) (State.replyRes_field State.ent (fun _ _ => rfl) ..)

theorem State.exerAnswer_field {α : Type} (g : State → α) (hm : ∀ s f, g (State.onMbx s f) = g s) (he : ∀ s f, g (State.onEnt s f) = g s)
    (s : State) (pass begun : Bool) : g (s.exerAnswer pass begun) = g s := by
  unfold State.exerAnswer
  dsimp only
  rw [foldl_keeps g, he]
  intro t x
  exact keeps_ite g (State.replyRes_field g hm ..) (State.replyRes_field g hm ..)

theorem State.scn_guard (h : s.ent.scn = .startup ∨ s.ent.scn = .running) : (s.ent.scn == .startup || s.ent.scn == .running) = true := by
  rcases h with h | h <;> simp [h]

/-- A test that fails outside a retest pauses the source. -/
theorem State.testFailed_ent (h : s.ent.scn = .startup ∨ s.ent.scn = .running) (t : HealthTest) (o k : Nat) :
    ∃ x, (s.testFailed t o k).ent = { s.ent with
      lastTest := testCode t, lastOsc := o, scn := .pause, failTick := k, failTest := testCode t, failOsc := o, flushed := 0, exercise := x } := by
  let u := s.onEnt fun e => { e with
    lastTest := testCode t, lastOsc := o, scn := .pause, failTick := k, failTest := testCode t, failOsc := o, flushed := 0 }
  have he : s.testFailed t o k = u.exerAnswer false true := by
    unfold State.testFailed
    rcases h with h | h <;> simp only [h] <;> rfl
  obtain ⟨x, hx⟩ := u.exerAnswer_ent false true
  exact ⟨x, by rw [he, hx]; rfl⟩

/-- WINDOW_END with samples that pass. -/
theorem exec_windowEnd_pass {w : List W64} (ht : s.ticking = true) (hs : s.ent.scn = .startup ∨ s.ent.scn = .running) (ho : s.winOver = true)
    (hw : windowFails s.ent.runs w = none) :
    exec (.windowEnd w) s = .next (((s.onEnt fun e => { e.take w with windows := sat 0xFFFF e.windows 1, scn := .running }).exerAnswer
      true true).winBegin) := by
  show execWindowEnd w s = _
  simp only [execWindowEnd, ht, State.scn_guard hs, ho, hw]
  rfl

theorem exec_windowEnd_fail {w : List W64} {f : HealthTest × Nat × Nat} (ht : s.ticking = true)
    (hs : s.ent.scn = .startup ∨ s.ent.scn = .running) (ho : s.winOver = true) (hw : windowFails s.ent.runs w = some f) :
    exec (.windowEnd w) s = .next (s.testFailed f.1 f.2.1 (s.sampleTick f.2.2)) := by
  show execWindowEnd w s = _
  simp only [execWindowEnd, ht, State.scn_guard hs, ho, hw]
  rfl

theorem Ent.take_buffer (e : Ent) (w : List W64) : (e.take w).buffer = if e.testEn then e.buffer
    else (e.buffer ++ ((rawStrings w).drop e.flushed).map sha256).take 128 := by
  unfold Ent.take
  dsimp only
  split <;> rfl

/-- The block after a retest that passes. -/
def State.retestPassed (s : State) (w : List W64) : State :=
  let u := s.onEnt fun e => { e.take w with scn := .running, windows := sat 0xFFFF e.windows 1, winTick := s.sch.tick, flushed := 0 }
  if s.blk.alEntropy then (u.onBlk fun b => { b with alEntropy := false }).log 0x0603 s.oscGroup noPart
  else (u.onEnt fun e => { e with transient := sat 0xFF e.transient 1 }).log 0x0601 s.oscGroup noPart s.oscDetail

theorem Ent.take_transient (e : Ent) (w : List W64) : (e.take w).transient = e.transient := by
  unfold Ent.take
  dsimp only
  split <;> rfl

theorem State.retestPassed_ent (s : State) (w : List W64) : (s.retestPassed w).ent.scn = .running
    ∧ (s.retestPassed w).ent.transient = if s.blk.alEntropy then s.ent.transient else sat 0xFF s.ent.transient 1 := by
  unfold State.retestPassed
  dsimp only
  split
  · rw [State.log_ent]
    exact ⟨rfl, Ent.take_transient s.ent w⟩
  · rw [State.log_ent]
    exact ⟨rfl, congrArg (fun n => sat 0xFF n 1) (Ent.take_transient s.ent w)⟩

theorem State.retestPassed_alarm (s : State) (w : List W64) : (s.retestPassed w).blk.alEntropy = false := by
  unfold State.retestPassed
  dsimp only
  split
  · rw [State.log_blk]
    rfl
  · next h =>
    rw [State.log_blk]
    exact Bool.eq_false_iff.2 h

/-- The block after a retest that fails, no alarm being set. -/
def State.retestFailed (s : State) : State :=
  let u := (s.onEnt fun e => { e with scn := .failed, buffer := [], lasting := sat 0xFF e.lasting 1 }).onBlk fun b => { b with alEntropy := true }
  let u := u.log 0x0602 s.oscGroup noPart (s.oscDetail ++ natLE s.sch.tick 4)
  if s.blk.mode == .seeding then u.cause .entropyFailed 0x0602 else u

theorem State.retestFailed_ent (s : State) :
    s.retestFailed.ent = { s.ent with scn := .failed, buffer := [], lasting := sat 0xFF s.ent.lasting 1 } :=
  keeps_ite State.ent (State.log_ent ..) (State.log_ent ..)

theorem State.retestFailed_blk (s : State) : s.retestFailed.blk.alEntropy = true
    ∧ (s.blk.mode = .seeding → s.blk.cause = none → s.retestFailed.blk.cause = some (.entropyFailed, 0x0602)) := by
  unfold State.retestFailed State.cause
  dsimp only
  refine ⟨keeps_ite (fun t : State => t.blk.alEntropy) ?_ ?_, fun hm hc => ?_⟩
  · rw [State.onBlk_blk, State.log_blk]
    rfl
  · rw [State.log_blk]
    rfl
  · rw [if_pos (by simp [hm]), State.onBlk_blk, State.log_blk]
    simp [hc]

theorem exec_retestVerdict_pass {w : List W64} (ht : s.ticking = true) (hs : s.ent.scn = .retest) (ho : s.winOver = true)
    (hb : s.ent.retestBad = false) (hw : windowFails s.ent.runs w = none) :
    exec (.retestVerdict true w) s = .next ((s.retestPassed w).exerAnswer true false) := by
  show execRetestVerdict true w s = _
  simp only [execRetestVerdict, ht, hs, ho, hw, hb]
  rfl

/-- What the source is before the verdict counts, whatever the samples of the retest's window show. -/
def State.retestNoted (s : State) (w : List W64) : State :=
  match windowFails s.ent.runs w with
  | some f => s.testFailed f.1 f.2.1 s.sch.tick
  | none => s

/-- Nothing but the tests' names and the retest's own note changes by it. -/
theorem State.retestNoted_eq (hs : s.ent.scn = .retest) (w : List W64) : ∃ t o b, s.retestNoted w
    = s.onEnt fun e => { e with lastTest := t, lastOsc := o, retestBad := b } := by
  unfold State.retestNoted
  split
  · unfold State.testFailed
    simp only [hs]
    exact ⟨_, _, _, rfl⟩
  · exact ⟨s.ent.lastTest, s.ent.lastOsc, s.ent.retestBad, rfl⟩

theorem exec_retestVerdict_fail (w : List W64) (ht : s.ticking = true) (hs : s.ent.scn = .retest) (ho : s.winOver = true)
    (hb : s.ent.retestBad = false) (ha : s.blk.alEntropy = false) :
    exec (.retestVerdict false w) s = .next ((s.retestNoted w).retestFailed.exerAnswer false false) := by
  have h : (s.retestNoted w).blk = s.blk := by
    obtain ⟨t, o, b, h⟩ := State.retestNoted_eq hs w
    rw [h]
    rfl
  show execRetestVerdict false w s = _
  simp only [execRetestVerdict, ht, hs, ho, hb]
  change Host.Outcome.next (State.exerAnswer (if (s.retestNoted w).blk.alEntropy then _ else _) false false) = _
  rw [h, ha]
  rfl

/-! #### Waiting for entropy -/

/-- A hedged signature whose partition has the deterministic fallback runs on with it. -/
theorem State.entropyFallback {id : LinkId} {q : Req} {l : Link} {p : Part} (hsv : s.serving = true) (hl : s.link id = some (q, l))
    (hst : l.stat = none) (hw : 8 < l.entWait) (hp : s.part q.part = some p)
    (hh : (l.hdr.opcode == opPk && (l.hdr.subop == 0x10 || l.hdr.subop == 0x29)) = true) (hd : p.entry.detFallback = true) :
    exec (.entropyWaitExpiry id) s = .next (((s.onLink id fun l => { l with entWait := 0 }).onLink id fun l => { l with fallback := true }).onSch
      (fun c => { c with fallback := sat 0xFFFF c.fallback 1 }) |>.logReq 0x0630 (uidInst hedgeInst) q.part id.ring id.idx id.link) := by
  have hd' : (((s.onLink id fun l => { l with entWait := 0 }).part q.part).map (·.entry.detFallback)).getD false = true := by
    show ((s.part q.part).map (·.entry.detFallback)).getD false = true
    rw [hp]
    exact hd
  show execEntropyWaitExpiry id s = _
  simp only [execEntropyWaitExpiry, hl, hsv, hst, Nat.not_le.2 hw, hh, hd']
  rfl

/-- The wait for entropy has ended without it: the record, and the cut that the tick counts for. -/
def State.entropyLacked (s : State) (id : LinkId) (q : Req) : State :=
  let u := (s.onLink id fun l => { l with entWait := 0 }).logReq 0x0605 (uidInst q.part) q.part id.ring id.idx id.link
  u.onLink id fun l => { l with lastTick := if u.sch.cutDone then some u.sch.tick else l.lastTick }

theorem State.link_logReq (s : State) (code source part ring idx link word : Nat) (id : LinkId) :
    (s.logReq code source part ring idx link word).link id = s.link id :=
  State.ephPush_field s (fun t : State => t.link id) (fun _ _ => rfl) _

theorem State.entropyLacked_link {r i k : Nat} {q : Req} {l : Link} (hl : s.link ⟨r, i, k⟩ = some (q, l)) :
    ∃ q' l', (s.entropyLacked ⟨r, i, k⟩ q).link ⟨r, i, k⟩ = some (q', l') ∧ l'.stat = l.stat ∧ l'.err = l.err :=
  ⟨_, _, State.link_onLink_own ((State.link_logReq ..).trans (State.link_onLink_own hl _)) _, rfl, rfl⟩

theorem State.entropyFails {id : LinkId} {q : Req} {l : Link} {p : Part} (hsv : s.serving = true) (hl : s.link id = some (q, l))
    (hst : l.stat = none) (hw : 8 < l.entWait) (hp : s.part q.part = some p)
    (hh : ((l.hdr.opcode == opPk && (l.hdr.subop == 0x10 || l.hdr.subop == 0x29)) && p.entry.detFallback) = false) :
    exec (.entropyWaitExpiry id) s = .next ((s.entropyLacked id q).endLink id
      (stEntropy (if l.hdr.opcode == opPk && (l.hdr.subop == 0x10 || l.hdr.subop == 0x29) then 3 else if l.entFailed then 2 else 1))) := by
  have hd' : (((s.onLink id fun l => { l with entWait := 0 }).part q.part).map (·.entry.detFallback)).getD false = p.entry.detFallback := by
    show ((s.part q.part).map (·.entry.detFallback)).getD false = _
    rw [hp]
    rfl
  show execEntropyWaitExpiry id s = _
  simp only [execEntropyWaitExpiry, hl, hsv, hst, Nat.not_le.2 hw, hd', hh]
  rfl

/-- Settles O59. -/
theorem entropyResults : Obligations.EntropyResults := by
  refine ⟨⟨fun w s ht hs ho => ⟨fun hw => ?_, fun k o j hw => ?_⟩, fun k o n s ht ho hf hk hs => ?_, fun s ht hc hg => ?_,
    fun w s ht hs ho hb => ⟨fun hw => ?_, fun ha => ?_⟩⟩, ?_⟩
  · refine ⟨_, exec_windowEnd_pass ht hs ho hw, ?_⟩
    let u := s.onEnt fun e => { e.take w with windows := sat 0xFFFF e.windows 1, scn := .running }
    obtain ⟨x, hx⟩ := u.exerAnswer_ent true true
    have hsch : (u.exerAnswer true true).sch = s.sch := State.exerAnswer_field State.sch (fun _ _ => rfl) (fun _ _ => rfl) u true true
    have he : ((u.exerAnswer true true).winBegin).ent = { u.ent with exercise := x.map fun y => (y.1, true), winTick := s.sch.tick, flushed := 0 } := by
      unfold State.winBegin
      rw [State.onEnt_ent, hx, hsch]
    refine ⟨?_, ?_, ?_, ?_⟩
    · rw [he]; rfl
    · rw [he]
    · rw [he]; rfl
    · rw [he]
      exact Ent.take_buffer s.ent w
  · refine ⟨_, exec_windowEnd_fail ht hs ho hw, ?_⟩
    obtain ⟨x, hx⟩ := State.testFailed_ent hs k o (s.sampleTick j)
    rw [hx]
    exact ⟨rfl, rfl, rfl, rfl, rfl, rfl⟩
  · refine ⟨s.testFailed k o s.sch.tick, ?_, ?_⟩
    · show execHealthTestFailure k ⟨o, n⟩ s = _
      simp [execHealthTestFailure, ht, Nat.not_le.2 ho, hf, hk]
    · obtain ⟨x, hx⟩ := State.testFailed_ent hs k o s.sch.tick
      rw [hx]
      exact ⟨rfl, rfl, rfl, rfl, rfl⟩
  · refine ⟨(s.onEnt fun e => { e with scn := .retest, retestBad := false, runs := [] }).winBegin, ?_, rfl, rfl, rfl⟩
    show execRetestStart s = _
    unfold execRetestStart
    rcases hg with ⟨h1, h2⟩ | ⟨h1, h2⟩
    · simp only [ht, hc, h1, decide_eq_true h2]
      rfl
    · simp [ht, hc, h1, h2]
  · obtain ⟨h1, h2⟩ := s.retestPassed_ent w
    obtain ⟨x, hx⟩ := (s.retestPassed w).exerAnswer_ent true false
    refine ⟨_, exec_retestVerdict_pass ht hs ho hb hw, ?_, ?_, ?_⟩
    · rw [hx]; exact h1
    · rw [State.exerAnswer_field State.blk (fun _ _ => rfl) (fun _ _ => rfl)]
      exact s.retestPassed_alarm w
    · rw [hx]; exact h2
  · obtain ⟨t, o, b, hn⟩ := State.retestNoted_eq hs w
    obtain ⟨x, hx⟩ := (s.retestNoted w).retestFailed.exerAnswer_ent false false
    have hb1 := State.exerAnswer_field State.blk (fun _ _ => rfl) (fun _ _ => rfl) (s.retestNoted w).retestFailed false false
    obtain ⟨hb2, hb3⟩ := (s.retestNoted w).retestFailed_blk
    refine ⟨_, exec_retestVerdict_fail w ht hs ho hb ha, ?_, ?_, ?_, ?_, fun hm hc => ?_⟩
    · rw [hx, State.retestFailed_ent]
    · rw [hb1]; exact hb2
    · rw [hx, State.retestFailed_ent, hn]
      rfl
    · rw [hx, State.retestFailed_ent]
    · rw [hb1]
      rw [hn] at hb3 ⊢
      exact hb3 hm hc
  · intro ⟨r, i, k⟩ q l p s hsv hl hst hw hp hedge
    have hb : (l.hdr.opcode == opPk && (l.hdr.subop == 0x10 || l.hdr.subop == 0x29)) = decide hedge := by
      simp [hedge, Bool.beq_eq_decide_eq]
    refine ⟨fun hh hd => ?_, fun hh herr => ?_⟩
    · refine ⟨_, ((q.onLink k fun l => { l with entWait := 0 }).onLink k fun l => { l with fallback := true }),
        { l with entWait := 0, fallback := true }, State.entropyFallback hsv hl hst hw hp (hb.trans (decide_eq_true hh)) hd, ?_, rfl, hst, rfl, ?_⟩
      · have h2 := State.link_onLink_own (State.link_onLink_own hl fun l => { l with entWait := 0 }) fun l => { l with fallback := true }
        exact (State.link_logReq ..).trans h2
      · rw [State.logReq_sch]
        rfl
    · have hh' : ((l.hdr.opcode == opPk && (l.hdr.subop == 0x10 || l.hdr.subop == 0x29)) && p.entry.detFallback) = false := by
        rw [hb]
        simpa using hh
      obtain ⟨q', l', hl', hs', he'⟩ := State.entropyLacked_link hl
      obtain ⟨q'', stamp, viol, h⟩ := State.endLink_link hl' (hs'.trans hst)
        (stEntropy (if l.hdr.opcode == opPk && (l.hdr.subop == 0x10 || l.hdr.subop == 0x29) then 3 else if l.entFailed then 2 else 1))
      refine ⟨_, q'', _, State.entropyFails hsv hl hst hw hp hh', h, ?_⟩
      show some (l'.result _) = _
      simp only [Link.result, he', herr, Option.getD_none, stEntropy, hb, decide_eq_true_eq]
      rfl

end Entropy

end Sys2Proof.Machine

/-! ### PROOFS. The stream ports (R37, R43, R58, R285, R286, R382 to R386) -/

namespace Sys2Proof.Machine

/-! #### What a packet's start leaves -/

/-- A part that no end of a link and no start of its reads touches. -/
structure StartFrame {α : Type} (g : State → α) : Prop where
  ends : ∀ r i, EndFrame r i g
  req  : ∀ s r i f, g (State.onReq s r i f) = g s
  mov  : ∀ s f, (∀ m, (f m).streams = m.streams) → g (State.onMov s f) = g s

namespace StartFrame

variable {α : Type} {g : State → α} (h : StartFrame g) (s : State)

include h

theorem link (id : LinkId) (f : Link → Link) : g (s.onLink id f) = g s := (h.ends id.ring id.idx).link s id.link f

theorem readAhead (id : LinkId) (want : Nat) : g (s.readAhead id want) = g s := by
  have hp : ∀ t : State, g t.pump = g t := fun t => by
    unfold State.pump
    exact h.mov t _ fun _ => rfl
  unfold State.readAhead
  split
  · rfl
  · dsimp only
    refine keeps_ite g rfl (keeps_ite g rfl ((hp _).trans ((h.link _ _ _).trans (h.mov _ _ fun m => ?_))))
    exact foldl_keeps Mov.streams (by intros; rfl) _ m

theorem readNext (id : LinkId) (e : Nat) : g (s.readNext id e) = g s := by
  unfold State.readNext
  split
  · rfl
  · dsimp only
    exact keeps_ite g (keeps_ite g rfl (h.link _ _ _)) ((h.readAhead _ _ _).trans (keeps_ite g rfl (h.link _ _ _)))

theorem beginLink (id : LinkId) : g (s.beginLink id) = g s := by
  unfold State.beginLink
  split
  · rfl
  · split
    · rfl
    · exact keeps_ite g (h.link _ _ _) ((h.readNext _ _ _).trans (h.link _ _ _))

theorem chainFetched (q : Req) (own : List (Option Stat)) : g (s.chainFetched q own) = g s := by
  unfold State.chainFetched
  refine (foldl_keeps g (fun t id => h.beginLink t id) _ _).trans ?_
  dsimp only
  split
  · rfl
  · have hf : ∀ l : List (LinkId × Option Stat), g (l.foldl (fun s x => match x.2 with
        | some st => s.forceStat x.1 st
        | none => s) s) = g s := fun l => foldl_keeps g (fun t x => by
      split
      · exact (h.ends x.1.ring x.1.idx).forceStat t x.1.link _
      · rfl) _ _
    split
    · exact ((h.ends 0 0).packetViolation ..).trans (hf _)
    · exact hf _

theorem forceFrom (q : Req) (k : Nat) (st : Nat → Stat) : g (s.forceFrom q k st) = g s := (h.ends q.ring q.idx).forceFrom s rfl rfl k st

theorem abortFrom (q : Req) (k : Nat) (st : Nat → Stat) : g (s.abortFrom q k st) = g s :=
  (h.req _ _ _ _).trans (h.forceFrom s q k st)

/-- A packet that is taken leaves what the packet's own place does. -/
theorem addLink {r : Nat} (idx arrival : Nat) (l : Link) (chain : Bool)
    (hp : ∀ (s : State) q n, g (s.putReq q n) = g s) :
    g (s.addLink r idx arrival l chain) = g (s.onRing r fun x => { x with submitted := x.submitted + 1 }) := by
  obtain ⟨more, n, he⟩ := s.addLink_eq r idx arrival l chain
  rw [he]
  have hl : g (s.linkAdded r (s.grown r idx arrival l more) n) = g (s.onRing r fun x => { x with submitted := x.submitted + 1 }) := hp _ _ _
  exact keeps_ite g ((h.abortFrom _ _ _ _).trans ((h.req _ _ _ _).trans hl)) (keeps_ite g hl ((h.chainFetched _ _ _).trans hl))

end StartFrame

section Streams

variable {s : State}

/-! #### Input -/

/-- The stream ports, and a ring's frame index and count of packets. -/
def State.framePos (s : State) (r : Nat) : List Stream × Nat × W64 := (s.mov.streams, (s.ring r).frameIdx, (s.ring r).submitted)

theorem State.framePos_onRing (s : State) (a r : Nat) {f : Ring → Ring} (hf : ∀ x, (f x).frameIdx = x.frameIdx ∧ (f x).submitted = x.submitted) :
    (s.onRing a f).framePos r = s.framePos r := by
  obtain ⟨h1, h2⟩ := hf (s.ring a)
  unfold State.framePos
  rw [State.ring_onRing]
  split
  · next h =>
    rw [h1, h2, h]
    rfl
  · rfl

theorem endFrame_framePos (a b r : Nat) : EndFrame a b (State.framePos · r) where
  link _ _ _ := rfl
  ring s n := State.framePos_onRing s n r fun _ => ⟨rfl, rfl⟩
  eph _ _ := rfl
  sch _ _ := rfl
  prt _ _ := rfl
  reads _ _ := rfl
  items _ _ := rfl
  pageOps _ _ := rfl
  jobs _ _ := rfl
  unbind _ _ := rfl
  unit s u f _ := by cases u <;> rfl

theorem startFrame_framePos (r : Nat) : StartFrame (State.framePos · r) where
  ends a b := endFrame_framePos a b r
  req _ _ _ _ := rfl
  mov s _ hf := congrArg (fun x => (x, (s.ring r).frameIdx, (s.ring r).submitted)) (hf s.mov)

theorem State.framePos_abortTidy (s : State) (a r : Nat) : (s.abortTidy a).framePos r = s.framePos r := by
  unfold State.abortTidy
  exact keeps_ite (State.framePos · r) rfl (State.framePos_onRing _ _ _ (by intro; exact ⟨rfl, rfl⟩))

theorem State.framePos_addUnrun (s : State) (r idx : Nat) (l : Link) (st : Stat) :
    (s.addUnrun r idx l st).framePos r = (s.mov.streams, (s.ring r).frameIdx, (s.ring r).submitted + 1) := by
  unfold State.addUnrun
  dsimp only
  refine ((startFrame_framePos r).forceFrom _ _ _ _).trans ?_
  show (s.onRing r fun x => { x with submitted := x.submitted + 1 }).framePos r = _
  unfold State.framePos
  rw [State.ring_onRing, if_pos rfl]
  rfl

/-- A frame for an ACTIVE stream ring of the port takes the ring's next frame index. -/
theorem State.takeFrame_active {n : Nat} {f : InFrame} (how : FrameEnd) (ha : (s.ring f.ring).st = .active)
    (hs : (s.ring f.ring).attr.stream = true) (hp : (s.ring f.ring).attr.pair = n) (hr : s.partState (s.ring f.ring).owner ≠ .resetting) :
    (s.takeFrame n f how).framePos f.ring
      = (s.mov.streams, ((s.ring f.ring).frameIdx + 1) % (s.ring f.ring).span, (s.ring f.ring).submitted + 1) := by
  let u := s.onRing f.ring fun x => { x with frameIdx := (x.frameIdx + 1) % x.span }
  have hu : u.mov.streams = s.mov.streams ∧ (u.ring f.ring).frameIdx = ((s.ring f.ring).frameIdx + 1) % (s.ring f.ring).span
      ∧ (u.ring f.ring).submitted = (s.ring f.ring).submitted := by
    refine ⟨rfl, ?_⟩
    simp only [u, State.ring_onRing, if_true]
    exact ⟨trivial, trivial⟩
  unfold State.takeFrame
  simp only [hs, hp, ha, beq_eq_false_iff_ne.2 hr, show (RState.active == RState.closed) = false from rfl,
    show (RState.active == RState.opening) = false from rfl, show (RState.active == RState.draining) = false from rfl,
    show (RState.active == RState.quarantined) = false from rfl, show (RState.active == RState.held) = false from rfl,
    bne_self_eq_false, Bool.not_true, Bool.or_self, Bool.false_eq_true, if_false]
  obtain ⟨h1, h2, h3⟩ := hu
  refine keeps_ite (State.framePos · f.ring) ?_ ?_
  · rw [State.framePos_addUnrun, h1, h2, h3]
  · rw [State.framePos_abortTidy]
    refine ((startFrame_framePos f.ring).addLink _ _ _ _ _ fun _ _ _ => rfl).trans ?_
    unfold State.framePos
    rw [State.ring_onRing, if_pos rfl]
    exact Prod.ext h1 (Prod.ext h2 (congrArg (· + 1) h3))

/-! #### A port -/

variable {n : Nat}

theorem State.stream_onStream (s : State) (hn : n < s.mov.streams.length) (f : Stream → Stream) : (s.onStream n f).stream n = f (s.stream n) := by
  unfold State.stream State.onStream
  rw [State.onMov_mov, updAt_getElem?, if_pos rfl, List.getElem?_eq_getElem hn]
  rfl

theorem State.onStream_onStream (s : State) (n : Nat) (f g : Stream → Stream) : (s.onStream n f).onStream n g = s.onStream n fun p => g (f p) := by
  simp only [State.onStream, State.onMov, updAt_updAt]

theorem State.onStream_congr (s : State) (hn : n < s.mov.streams.length) {f g : Stream → Stream} (h : f (s.stream n) = g (s.stream n)) :
    s.onStream n f = s.onStream n g := by
  have hs : s.mov.streams[n]? = some (s.stream n) := by
    unfold State.stream
    rw [List.getElem?_eq_getElem hn]
    rfl
  simp only [State.onStream, State.onMov, updAt_congr hs h]

/-- What a beat does to the frame in progress, once its bytes are in it: the last beat ends it, and a full one takes no more. -/
def State.frameGoes (s : State) (n : Nat) (eop : Bool) : State :=
  match (s.stream n).inp with
  | none => s
  | some f =>
    if eop then (s.onStream n fun p => { p with inp := none }).takeFrame n f (if f.tooLong then .long else .whole)
    else if f.data.length ≥ frameMax then s.onStream n fun p => { p with inp := some { f with tooLong := true } }
    else s

theorem State.frameGoes_free (h : (s.stream n).inp = none) (eop : Bool) : s.frameGoes n eop = s := by
  simp only [State.frameGoes, h]

theorem State.frameGoes_open {f : InFrame} (h : (s.stream n).inp = some f) (hl : f.data.length < frameMax) : s.frameGoes n false = s := by
  simp [State.frameGoes, h, hl]

theorem State.frameGoes_end {f : InFrame} (h : (s.stream n).inp = some f) : s.frameGoes n true
    = (s.onStream n fun p => { p with inp := none }).takeFrame n f (if f.tooLong then .long else .whole) := by
  simp only [State.frameGoes, h]
  rfl

/-- The next beat of a frame in progress. -/
theorem State.beat_next {r : Nat} {data : Bytes} {eop : Bool} {f : InFrame} (hsv : s.serving = true) (hn : n < 4)
    (hi : (s.stream n).inp = some f) : s.beat n false r data eop
      = (s.onStream n fun p => { p with beats := p.beats + 1, inp := some (f.add (data.take 64)) }).frameGoes n eop := by
  rw [← State.onStream_onStream s n (fun p => { p with beats := p.beats + 1 }) fun p => { p with inp := some (f.add (data.take 64)) }]
  unfold State.beat
  simp only [hsv, decide_eq_false (Nat.not_le.2 hn), hi, ge_iff_le]
  rfl

/-- A first beat that finds its space, with no frame before it. -/
theorem State.beat_first {r : Nat} {data : Bytes} (hsv : s.serving = true) (hn : n < 4) (hi : (s.stream n).inp = none)
    (hr : s.outRoom n r data = true) (eop : Bool) : s.beat n true r data eop = (s.onStream n fun p => { p with
      beats := p.beats + 1, inp := some { ring := r, data := data.take 64 }, inHeld := false, lost := false }).frameGoes n eop := by
  rw [← State.onStream_onStream s n (fun p => { p with beats := p.beats + 1 }) fun p =>
    { p with inp := some { ring := r, data := data.take 64 }, inHeld := false, lost := false }]
  unfold State.beat
  simp only [hsv, decide_eq_false (Nat.not_le.2 hn), hi, hr, ge_iff_le]
  rfl

theorem State.beat_held {r : Nat} {data : Bytes} (hsv : s.serving = true) (hn : n < 4) (hi : (s.stream n).inp = none) (hr : s.outRoom n r data = false)
    (eop : Bool) : s.beat n true r data eop = s.onStream n fun p => { p with inHeld := true } := by
  unfold State.beat
  simp [hsv, Nat.not_le.2 hn, hi, hr]

theorem State.violation_field {α : Type} (g : State → α) (hp : ∀ s f, g (State.onPrt s f) = g s) (hr : ∀ s r, g (State.countRing s r) = g s)
    (he : ∀ s f, g (State.onEph s f) = g s) (s : State) (code source part : Nat) (ring : Option Nat) (toward : Bool) (value fid : Nat) :
    g (s.violation code source part ring toward value fid) = g s := by
  unfold State.violation
  split
  · rfl
  · dsimp only
    have hv : g (s.countViolation part) = g s := by
      unfold State.countViolation State.onPart
      exact hp _ _
    refine (State.ephPush_field _ g he _).trans ?_
    cases ring with
    | none => exact hv
    | some r => exact keeps_ite g ((hr _ _).trans hv) hv

/-- A beat outside a frame. -/
theorem State.beat_lost {r : Nat} {data : Bytes} (hsv : s.serving = true) (hn : n < 4) (hlen : n < s.mov.streams.length)
    (hi : (s.stream n).inp = none) (hl : (s.stream n).lost = false) (eop : Bool) : s.beat n false r data eop
      = ((s.onStream n fun p => { p with beats := p.beats + 1 }).violation 0x0508 (uidStream n) noPart none false 0 0).onStream n
          fun p => { p with lost := true } := by
  let v := (s.onStream n fun p => { p with beats := p.beats + 1 }).violation 0x0508 (uidStream n) noPart none false 0 0
  have he : s.beat n false r data eop = (v.onStream n fun p => { p with lost := true }).frameGoes n eop := by
    unfold State.beat
    simp only [hsv, decide_eq_false (Nat.not_le.2 hn), hi, hl, ge_iff_le]
    rfl
  have hv : v.mov.streams = (s.onStream n fun p => { p with beats := p.beats + 1 }).mov.streams :=
    State.violation_field (fun s : State => s.mov.streams) (fun _ _ => rfl) (fun _ _ => rfl) (fun _ _ => rfl) ..
  have hvn : (v.stream n).inp = none := by
    have : v.stream n = (s.onStream n fun p => { p with beats := p.beats + 1 }).stream n := by
      unfold State.stream
      rw [hv]
    rw [this, State.stream_onStream s hlen]
    exact hi
  have hvl : n < v.mov.streams.length := by
    rw [hv]
    simpa [State.onStream] using hlen
  rw [he, State.frameGoes_free (by rw [State.stream_onStream v hvl]; exact hvn)]

/-! #### Output -/

theorem State.mov_recordVisible (s : State) (r : Nat) (b : Bool) : (s.recordVisible r b).mov = s.mov := by
  have hi : ∀ (s : State) r, (s.ringIrq r).mov = s.mov := fun s r => State.irqMsg_field _ State.mov (fun _ _ => rfl) _ _
  unfold State.recordVisible
  dsimp only
  refine keeps_ite State.mov ?_ (keeps_ite State.mov ((hi _ _).trans ?_) ?_) <;> exact keeps_ite State.mov rfl rfl

theorem State.mov_retire (s : State) (r : Nat) : (s.retire r).mov = s.mov := by
  unfold State.retire State.abortTidy
  exact keeps_ite State.mov rfl rfl

/-- The last beat of a frame holds what the others leave. -/
theorem OutFrame.beat_length (f : OutFrame) (i : Nat) :
    (slice f.data (64 * i) (min 64 (f.data.length - 64 * i))).length = min 64 (f.data.length - 64 * i) := by
  simp [slice]

theorem OutFrame.toBeats_length (f : OutFrame) : f.toBeats.length = cdiv f.data.length 64 := by
  simp [OutFrame.toBeats]

theorem flatMap_slices (d : Bytes) (m : Nat) :
    ((List.range m).flatMap fun i => slice d (64 * i) (min 64 (d.length - 64 * i))) = d.take (64 * m) := by
  induction m with
  | zero => simp
  | succ m ih =>
    rw [List.range_succ, List.flatMap_append, ih, List.flatMap_singleton, slice, show 64 * (m + 1) = 64 * m + 64 by omega, List.take_add]
    congr 1
    rcases Nat.le_total 64 (d.length - 64 * m) with h | h
    · rw [Nat.min_eq_left h]
    · rw [Nat.min_eq_right h, List.take_of_length_le (by simp), List.take_of_length_le (by simp; omega)]

/-- The beats carry the frame's bytes. -/
theorem OutFrame.toBeats_data (f : OutFrame) : (f.toBeats.flatMap fun x => x.data) = f.data := by
  have h : (f.toBeats.flatMap fun x => x.data)
      = (List.range (cdiv f.data.length 64)).flatMap fun i => slice f.data (64 * i) (min 64 (f.data.length - 64 * i)) := by
    simp only [OutFrame.toBeats, List.flatMap_map]
  rw [h, flatMap_slices, List.take_of_length_le]
  unfold cdiv
  omega

/-- Each beat's marks. -/
theorem OutFrame.toBeats_marks (f : OutFrame) {i : Nat} {x : OutBeat} (h : f.toBeats[i]? = some x) :
    x.sop = decide (i = 0) ∧ x.eop = decide (i + 1 = f.toBeats.length)
    ∧ x.bv = (if i + 1 = f.toBeats.length then (f.data.length - 1) % 64 else 63) ∧ (i = 0 → x.ring = f.id.ring) := by
  rw [f.toBeats_length]
  simp only [OutFrame.toBeats, List.getElem?_map, Option.map_eq_some_iff, List.getElem?_eq_some_iff, List.length_range, List.getElem_range] at h
  obtain ⟨_, ⟨hi, rfl⟩, rfl⟩ := h
  refine ⟨by simp [Bool.beq_eq_decide_eq], by simp [Bool.beq_eq_decide_eq], ?_, fun h => by simp [h]⟩
  simp only [f.beat_length]
  unfold cdiv at hi ⊢
  split <;> omega

/-- STREAM_OUTPUT_FRAME with a frame that waits and no pause. -/
theorem exec_streamOutputFrame {f : OutFrame} {l : List OutFrame} (hl : s.live = true) (hn : n < 4) (ho : (s.stream n).out = f :: l)
    (hp : (s.stream n).paused = false) : exec (.streamOutputFrame n) s = .next ((((s.onStream n fun p => { p with
      out := l, last := some f, sent := f.toBeats, beats := p.beats + f.toBeats.length }).onLink f.id
        fun x => { x with written := true }).recordVisible f.id.ring f.irq).retire f.id.ring) := by
  rw [f.toBeats_length]
  show execStreamOutputFrame n s = _
  simp only [execStreamOutputFrame, ho, hl, hp, decide_eq_false (Nat.not_le.2 hn), ge_iff_le]
  rfl

/-- Settles O46. -/
theorem streamPortResults : Obligations.StreamPortResults := by
  refine ⟨fun n r data s hsv hn hlen => ⟨fun f hi ha hs hp hps => ?_, ?_, fun f hi hl => ?_, fun hi hl => ?_⟩,
    fun n s hl hn => ⟨fun f l ho hp hlen => ?_, fun ho hp => ?_, fun hp hld ht => ?_, fun hp => ?_⟩⟩
  · let u := (s.onStream n fun p => { p with beats := p.beats + 1, inp := some (f.add (data.take 64)) }).onStream n fun p => { p with inp := none }
    have he : exec (.streamInputFrame n false r data) s = .next (u.takeFrame n (f.add (data.take 64))
        (if (f.add (data.take 64)).tooLong then .long else .whole)) := by
      show Host.Outcome.next (s.beat n false r data true) = _
      rw [State.beat_next hsv hn hi, State.frameGoes_end (by rw [State.stream_onStream s hlen])]
    have hr : s.partState (s.ring f.ring).owner ≠ .resetting := by
      rcases hps with h | h <;> rw [h] <;> decide
    have ht := State.takeFrame_active (s := u) (f := f.add (data.take 64)) (if (f.add (data.take 64)).tooLong then .long else .whole) ha hs hp hr
    refine ⟨_, he, ?_, congrArg (·.2.1) ht, congrArg (·.2.2) ht⟩
    unfold State.stream
    rw [show (State.mov _).streams = u.mov.streams from congrArg Prod.fst ht]
    have : u.stream n = { s.stream n with beats := (s.stream n).beats + 1, inp := none } := by
      simp only [u, State.onStream_onStream]
      exact State.stream_onStream s hlen _
    exact congrArg Stream.inp this
  · intro d hi
    have hd : d.length = 64 := by simp [d, zeros]
    have ht : d.take 64 = d := List.take_of_length_le (by omega)
    refine ⟨fun hr => ?_, fun hr => ?_⟩
    · show Host.Outcome.next (s.beat n true r d false) = _
      rw [State.beat_first hsv hn hi hr, State.frameGoes_open (by rw [State.stream_onStream s hlen]) (by rw [ht, hd]; decide), ht]
    · show Host.Outcome.next (s.beat n true r d false) = _
      rw [State.beat_held hsv hn hi hr]
  · have hd : ((data ++ zeros 64).take 64).length = 64 := by simp [zeros]
    have hadd : f.add (((data ++ zeros 64).take 64).take 64) = { f with data := f.data ++ (data ++ zeros 64).take 64 } := by
      have ht : ((data ++ zeros 64).take 64).take 64 = (data ++ zeros 64).take 64 := List.take_of_length_le (by omega)
      have hl' : (f.data ++ (data ++ zeros 64).take 64).length < frameMax := by rw [List.length_append, hd]; exact hl
      rw [ht]
      unfold InFrame.add
      rw [List.take_of_length_le (by omega), hd, decide_eq_false (by omega), Bool.or_false]
    show Host.Outcome.next (s.beat n false r _ false) = _
    rw [State.beat_next hsv hn hi, State.frameGoes_open (by rw [State.stream_onStream s hlen]), hadd]
    rw [hadd, List.length_append, hd]
    exact hl
  · show Host.Outcome.next (s.beat n false r _ false) = _
    rw [State.beat_lost hsv hn hlen hi hl]
  · refine ⟨_, f.toBeats, exec_streamOutputFrame hl hn ho hp, ?_, ?_, ?_, f.toBeats_length, f.toBeats_data, fun i x hx => f.toBeats_marks hx, rfl⟩
    all_goals
      unfold State.stream
      rw [State.mov_retire, State.mov_recordVisible]
      exact congrArg _ (State.stream_onStream s hlen _)
  · show execStreamOutputPause n s = _
    have he : (s.stream n).out.isEmpty = false := by simpa using ho
    simp [execStreamOutputPause, hl, he, hp]
  · show execStreamLongPause n s = _
    simp only [execStreamLongPause, hl, hp, hld, decide_eq_false (Nat.not_lt.2 ht)]
    rfl
  · show execStreamPauseEnd n s = _
    simp [execStreamPauseEnd, hl, hp]

end Streams

end Sys2Proof.Machine

/-! ### PROOFS. Service DMA (R269, R271, R272, R289 to R293) -/

namespace Sys2Proof.Machine

/-! #### Swaps -/

theorem swapChunk_length (k : Nat) (c : Bytes) (h : c.length ≤ swapUnit k) : (swapChunk k c).length = c.length := by
  unfold swapChunk
  split
  · rfl
  · split <;> simp
    omega

theorem chunkF_swapped (k : Nat) (fuel : Nat) (l : Bytes) (h : l.length ≤ fuel) (hk : 0 < swapUnit k) :
    ((chunkF (swapUnit k) fuel l).map (swapChunk k)).flatten.length = l.length := by
  induction fuel generalizing l with
  | zero =>
    obtain rfl := List.eq_nil_of_length_eq_zero (l := l) (by omega)
    rfl
  | succ fuel ih =>
    unfold chunkF
    split
    · next he => simp [List.isEmpty_iff.1 he]
    · rw [List.map_cons, List.flatten_cons, List.length_append, swapChunk_length k _ (List.length_take_le _ _),
        ih (l.drop (swapUnit k)) (by rw [List.length_drop]; omega), List.length_take, List.length_drop]
      omega

/-- A swap moves bytes and leaves their number. -/
theorem applySwap_length (k : Nat) (b : Bytes) : (applySwap k b).length = b.length := by
  unfold applySwap
  split
  · rfl
  · refine chunkF_swapped k _ b (Nat.le_refl _) ?_
    unfold swapUnit
    split
    · decide
    · decide

/-! #### Accesses -/

/-- An access ends where the extent or a line does, and one that begins at a line has the line whole or is the last. -/
theorem cutLen_bounds {a e : Nat} (h : a < e) : 0 < cutLen a e ∧ a + cutLen a e ≤ e
    ∧ ((a + cutLen a e) % 64 = 0 ∨ a + cutLen a e = e) ∧ (a % 64 = 0 → 64 ≤ cutLen a e ∨ a + cutLen a e = e) := by
  unfold cutLen
  dsimp only
  split
  · refine ⟨by omega, by omega, by omega, by omega⟩
  · split
    · refine ⟨by omega, by omega, by omega, by omega⟩
    · refine ⟨by omega, by omega, by omega, by omega⟩

/-- Every byte of an extent lies in one of its accesses. -/
theorem cutF_covers (fuel a e : Nat) (h : (a % 64 = 0 ∧ (e - a) / 64 + 1 ≤ fuel) ∨ (e - a) / 64 + 2 ≤ fuel) :
    ∀ j, a ≤ j → j < e → ∃ x ∈ cutF fuel a e, x.1 ≤ j ∧ j < x.1 + x.2 ∧ a ≤ x.1 ∧ x.1 + x.2 ≤ e := by
  induction fuel generalizing a with
  | zero => omega
  | succ fuel ih =>
    intro j h1 h2
    have hae : a < e := by omega
    obtain ⟨hp, hle, hend, hline⟩ := cutLen_bounds hae
    unfold cutF
    rw [if_pos hae]
    by_cases hj : j < a + cutLen a e
    · exact ⟨_, .head _, h1, hj, Nat.le_refl _, hle⟩
    · obtain ⟨x, hx, h3, h4, h5, h6⟩ := ih (a + cutLen a e) (.inl (by omega)) j (by omega) h2
      exact ⟨x, .tail _ hx, h3, h4, by omega, h6⟩

theorem cut_covers {a n i : Nat} (h : i < n) : ∃ x ∈ cut a n, x.1 ≤ a + i ∧ a + i < x.1 + x.2 ∧ a ≤ x.1 ∧ x.1 + x.2 ≤ a + n :=
  cutF_covers _ a (a + n) (.inr (by omega)) (a + i) (by omega) (by omega)

/-! #### What is added to the ports -/

theorem portOf_lt (a : Nat) : portOf a < 8 := Nat.mod_lt _ (by decide)

/-- The reads, or the writes, of eight ports with one more on one of them. -/
theorem mem_updAt_ports {α : Type} {l : List Port} {k : Nat} (hk : k < l.length) (g : Port → List α) {f : Port → Port} {r : α}
    (hf : ∀ p, g (f p) = g p ++ [r]) : r ∈ (updAt l k f).flatMap g ∧ ∀ v ∈ l.flatMap g, v ∈ (updAt l k f).flatMap g := by
  have hget : ∀ j, (updAt l k f)[j]? = if k = j then (l[j]?).map f else l[j]? := fun j => updAt_getElem? l k j f
  refine ⟨List.mem_flatMap.2 ⟨f l[k], List.mem_of_getElem? (i := k) ?_, by rw [hf]; simp⟩, fun v hv => ?_⟩
  · rw [hget, if_pos rfl, List.getElem?_eq_getElem hk]
    rfl
  · obtain ⟨p, hp, hv⟩ := List.mem_flatMap.1 hv
    obtain ⟨j, hj⟩ := List.mem_iff_getElem?.1 hp
    by_cases hkj : k = j
    · refine List.mem_flatMap.2 ⟨f p, List.mem_of_getElem? (i := j) ?_, by rw [hf]; exact List.mem_append_left _ hv⟩
      rw [hget, if_pos hkj, hj]
      rfl
    · refine List.mem_flatMap.2 ⟨p, List.mem_of_getElem? (i := j) ?_, hv⟩
      rw [hget, if_neg hkj, hj]

section Added

variable {β : Type}

/-- Each access of a list adds its own read. -/
theorem foldl_addRead_mem (f : β → FRead) (l : List β) (m : Mov) (h : m.ports.length = 8) :
    (∀ v ∈ m.ports.flatMap (·.reads), v ∈ (l.foldl (fun m c => m.addRead (f c)) m).ports.flatMap (·.reads))
    ∧ ∀ c ∈ l, f c ∈ (l.foldl (fun m c => m.addRead (f c)) m).ports.flatMap (·.reads) := by
  induction l generalizing m with
  | nil => exact ⟨fun _ hv => hv, fun _ hc => nomatch hc⟩
  | cons a l ih =>
    obtain ⟨hnew, hold⟩ := mem_updAt_ports (l := m.ports) (k := portOf (f a).addr) (by rw [h]; exact portOf_lt _) (·.reads)
      (f := fun p => { p with reads := p.reads ++ [f a] }) (r := f a) fun _ => rfl
    obtain ⟨h1, h2⟩ := ih (m.addRead (f a)) (by show (updAt ..).length = 8; rw [updAt_length, h])
    refine ⟨fun v hv => h1 v (hold v hv), fun c hc => ?_⟩
    rcases List.mem_cons.1 hc with rfl | hc
    · exact h1 _ hnew
    · exact h2 c hc

theorem foldl_addWrite_mem (f : β → FWrite) (l : List β) (m : Mov) (h : m.ports.length = 8) :
    (∀ v ∈ m.ports.flatMap (·.writes), v ∈ (l.foldl (fun m c => m.addWrite (f c)) m).ports.flatMap (·.writes))
    ∧ ∀ c ∈ l, f c ∈ (l.foldl (fun m c => m.addWrite (f c)) m).ports.flatMap (·.writes) := by
  induction l generalizing m with
  | nil => exact ⟨fun _ hv => hv, fun _ hc => nomatch hc⟩
  | cons a l ih =>
    obtain ⟨hnew, hold⟩ := mem_updAt_ports (l := m.ports) (k := portOf (f a).addr) (by rw [h]; exact portOf_lt _) (·.writes)
      (f := fun p => { p with writes := p.writes ++ [f a] }) (r := f a) fun _ => rfl
    obtain ⟨h1, h2⟩ := ih (m.addWrite (f a)) (by show (updAt ..).length = 8; rw [updAt_length, h])
    refine ⟨fun v hv => h1 v (hold v hv), fun c hc => ?_⟩
    rcases List.mem_cons.1 hc with rfl | hc
    · exact h1 _ hnew
    · exact h2 c hc

end Added

/-- A read without what its issue gives it. -/
def FRead.plain (r : FRead) : FRead := { r with issued := false, idx := 0, gen := 0 }

theorem Port.pumpR_plain (silent : Nat → Bool) (p : Port) (done l : List FRead) :
    (p.pumpR silent done l).reads.map FRead.plain = (done ++ l).map FRead.plain := by
  induction l generalizing p done with
  | nil => simp [Port.pumpR]
  | cons r l ih =>
    unfold Port.pumpR
    split
    · simp [ih]
    · dsimp only
      split
      · simp [ih]
      · rw [ih]
        simp [FRead.plain]

theorem Port.pumpW_reads (silent : Nat → Bool) (p : Port) (done l : List FWrite) : (p.pumpW silent done l).reads = p.reads := by
  induction l generalizing p done with
  | nil => rfl
  | cons w l ih =>
    unfold Port.pumpW
    split
    · exact ih _ _
    · split
      · exact ih _ _
      · exact (ih _ _).trans rfl

theorem Port.pump_plainR (silent : Nat → Bool) (p : Port) : (p.pump silent).reads.map FRead.plain = p.reads.map FRead.plain := by
  have hq : (if p.writes.all fun w => w.issued then p else p.pumpW silent [] p.writes).reads = p.reads :=
    keeps_ite Port.reads rfl (Port.pumpW_reads ..)
  unfold Port.pump
  dsimp only
  generalize (if p.writes.all fun w => w.issued then p else p.pumpW silent [] p.writes) = q at hq ⊢
  split
  · rw [hq]
  · rw [Port.pumpR_plain, List.nil_append, hq]

theorem State.pump_plainR (s : State) : s.pump.reads.map FRead.plain = s.reads.map FRead.plain := by
  simp only [State.pump, State.reads, State.onMov, List.flatMap_map, List.map_flatMap, Port.pump_plainR]

/-- A read that is put stays, but for its issue. -/
theorem State.pump_read {s : State} {r : FRead} (h : r ∈ s.reads) :
    ∃ v ∈ s.pump.reads, v.addr = r.addr ∧ v.len = r.len ∧ v.vault = r.vault ∧ v.purpose = r.purpose := by
  have hr : r.plain ∈ s.pump.reads.map FRead.plain := by
    rw [State.pump_plainR]
    exact List.mem_map_of_mem h
  obtain ⟨v, hv, he⟩ := List.mem_map.1 hr
  exact ⟨v, hv, congrArg (·.addr) he, congrArg (·.len) he, congrArg (·.vault) he, congrArg (·.purpose) he⟩

theorem State.pump_write {s : State} {w : FWrite} (h : w ∈ s.writes) :
    ∃ v ∈ s.pump.writes, v.addr = w.addr ∧ v.data = w.data ∧ v.purpose = w.purpose := by
  have hr : w.plain ∈ s.pump.writes.map FWrite.plain := by
    rw [State.pump_plain]
    exact List.mem_map_of_mem h
  obtain ⟨v, hv, he⟩ := List.mem_map.1 hr
  exact ⟨v, hv, FWrite.of_plain he⟩

/-- Bytes that are written lie in the writes of their accesses. -/
theorem State.write_covers {s : State} (hp : s.mov.ports.length = 8) (a : Nat) (data : Bytes) (fid cls : Nat) (p : WPurpose) {bad : List Nat}
    {i : Nat} (hi : i < data.length) : ∃ w ∈ (s.write a data fid cls p bad).writes, w.purpose = p ∧ w.addr ≤ a + i ∧ w.data[a + i - w.addr]? = data[i]? := by
  obtain ⟨x, hx, h1, h2, h3, h4⟩ := cut_covers (a := a) hi
  let f (c : Nat × Nat) : FWrite :=
    { addr := c.1, data := slice data (c.1 - a) c.2, fid := fid, cls := if fid = s.vaultFid then clsVault else cls, purpose := p
      poison := bad.filter fun l => c.1 / 64 ≤ l && l ≤ (c.1 + c.2 - 1) / 64 }
  have hm : f x ∈ (s.onMov fun m => (cut a data.length).foldl (fun m c => m.addWrite (f c)) m).writes :=
    (foldl_addWrite_mem f _ s.mov hp).2 x hx
  obtain ⟨w, hw, ha, hd, hpu⟩ := State.pump_write hm
  refine ⟨w, hw, hpu, by rw [ha]; exact h1, ?_⟩
  rw [ha, hd]
  show (slice data (x.1 - a) x.2)[a + i - x.1]? = _
  rw [slice, List.getElem?_take, if_pos (by omega), List.getElem?_drop]
  congr 1
  omega

end Sys2Proof.Machine

/-! ### PROOFS. The runs of a service DMA channel (R289 to R293) -/

namespace Sys2Proof.Machine

section Sdma

variable {s : State} {n : Nat}

/-! #### A channel -/

theorem State.dma_onDma (s : State) (n : Nat) (f : Sdma → Sdma) : (s.onDma n f).dma n = f (s.dma n) := by
  unfold State.dma State.onDma
  rw [State.onMov_mov, mget_mset_self]
  rfl

theorem mset_mset {α : Type} (m : Map α) (k : Nat) (v w : α) : mset (mset m k v) k w = mset m k w := by
  induction m with
  | nil => simp [mset]
  | cons x m ih =>
    obtain ⟨a, b⟩ := x
    rcases Nat.lt_trichotomy a k with h | rfl | h
    · simp [mset, h, ih]
    · simp [mset]
    · simp [mset, Nat.not_lt.2 (Nat.le_of_lt h), Nat.ne_of_gt h]

theorem State.onDma_onDma (s : State) (n : Nat) (f g : Sdma → Sdma) : (s.onDma n f).onDma n g = s.onDma n fun x => g (f x) := by
  have h : mget (s.onDma n f).mov.sdma n = some (f ((mget s.mov.sdma n).getD {})) := mget_mset_self ..
  unfold State.onDma at h ⊢
  simp only [State.onMov, mset_mset, mget_mset_self, Option.getD_some]

theorem State.dmaRun_ended (h : (s.dma n).ended = true) (k : Nat) : s.dmaRun n k = s := by
  cases k <;> simp [State.dmaRun, h]

theorem State.dmaRun_busy (h : (s.dma n).cur.isSome = true) (k : Nat) : s.dmaRun n k = s := by
  cases k <;> simp [State.dmaRun, h]

theorem State.dmaRun_next (k : Nat) (hb : (s.dma n).busy = true) (ha : (s.dma n).abort = false) (he : (s.dma n).ended = false)
    (hc : (s.dma n).cur = none) (hr : (s.dma n).barrier = false) : s.dmaRun n (k + 1) = (s.dmaStart n (s.dmaNext n)).dmaRun n k := by
  simp [State.dmaRun, hb, ha, he, hc, hr]

/-- A channel that a thread starts, with nothing to read first. -/
theorem exec_sdmaStart {c : SdmaSetup} (hi : s.issues n = true) (hb : (s.dma n).busy = false) (hs : s.silentFid (s.dmaFid { setup := c }) = false)
    (hg : setupBad c = false) (hl : (c.list && !c.listSm) = false) :
    exec (.sdmaStart n c (.ok [])) s = .next ((s.onDma n fun _ => { setup := c, busy := true }).dmaRun n (c.count + 1)) := by
  have hr : ∀ rd : Reader, rd.fid = s.dmaFid { setup := c } → s.canRead rd [] = true := fun rd h => by
    simp [State.canRead, h, hs, accesses]
  show execSdmaStart n c (.ok []) s = _
  simp only [execSdmaStart, hi, hb, hg, hl, Bool.false_and, Bool.false_eq_true, if_false]
  rw [hr _ rfl]
  rfl

/-- The state with the channel's run begun. -/
def State.dmaBegun (s : State) (n : Nat) (c : SdmaSetup) : State := s.onDma n fun _ => { setup := c, busy := true }

theorem State.dma_dmaBegun (s : State) (n : Nat) (c : SdmaSetup) : (s.dmaBegun n c).dma n = { setup := c, busy := true } := State.dma_onDma ..

/-! #### Bytes that are there -/

theorem held_whole (b : Bytes) (x : Sdma) (h : x.got = [(0, b)]) : x.held = b := by
  simp [Sdma.held, h, absorbChunks]

/-- A descriptor in progress whose bytes are all there is put out and over. -/
theorem State.dmaArrived_whole {d : Desc} {b : Bytes} (hc : (s.dma n).cur = some d) (hb : d.bad = false) (hg : (s.dma n).got = [(0, b)])
    (hl : b.length = d.len) : s.dmaArrived n
      = ((s.dmaPut n { d with done := d.len } b).dmaOver n { d with done := d.len }).dmaGood n (s.dma n).progress := by
  have ht : b.take d.len = b := List.take_of_length_le (by omega)
  unfold State.dmaArrived
  simp only [hc, hb, held_whole b _ hg, hl, ht, Bool.false_eq_true, if_false, Nat.lt_irrefl]

theorem State.dmaPut_good {d : Desc} (hb : d.bad = false) (b : Bytes) : s.dmaPut n d b
    = if d.dstSpace = 1 then s.shWrite d.dst (applySwap d.swap b)
      else s.write d.dst (applySwap d.swap b) (s.dmaFid (s.dma n)) (s.dmaCls (s.dma n) clsRelaxed) (.sdma n (s.dma n).progress) := by
  unfold State.dmaPut
  simp [hb]

/-- The channel after a descriptor that ends. -/
def Sdma.over (x : Sdma) (d : Desc) : Sdma :=
  { x with cur := none, got := [], progress := x.progress + 1, old := x.old ++ [d], barrier := d.barrier
           ended := x.ended || !x.setup.list || d.last || decide (x.setup.count ≤ x.progress + 1) }

theorem State.dmaOver_eq (s : State) (n : Nat) (d : Desc) : s.dmaOver n d = s.onDma n fun x => x.over d := rfl

/-- Of a single transfer nothing is written back. -/
theorem State.dmaBack_single (h : (s.dma n).setup.list = false) (d : Desc) (o : Nat) (b : Bytes) : s.dmaBack n d o b = s := by
  simp [State.dmaBack, h]

theorem State.dmaGood_single (h : (s.dma n).setup.list = false) (k : Nat) : s.dmaGood n k = s := by
  unfold State.dmaGood
  split
  · rfl
  · exact keeps_ite id rfl (State.dmaBack_single h ..)

theorem State.dma_shWrite (a : Nat) (b : Bytes) : (s.shWrite a b).dma n = s.dma n := rfl

theorem State.dma_write (a : Nat) (b : Bytes) (fid cls : Nat) (p : WPurpose) : (s.write a b fid cls p).dma n = s.dma n := by
  have h : (s.write a b fid cls p).mov.sdma = s.mov.sdma := by
    unfold State.write
    exact foldl_keeps Mov.sdma (by intros; rfl) _ s.mov
  unfold State.dma
  rw [h]

/-- A whole descriptor of a single transfer ends its run. -/
theorem State.dmaArrived_single {d : Desc} {b : Bytes} (hc : (s.dma n).cur = some d) (hb : d.bad = false) (hg : (s.dma n).got = [(0, b)])
    (hl : b.length = d.len) (hs : (s.dma n).setup.list = false) : s.dmaArrived n
      = (s.dmaPut n { d with done := d.len } b).onDma n fun x => x.over { d with done := d.len } := by
  have hset : ((s.dmaPut n { d with done := d.len } b).dma n).setup = (s.dma n).setup := by
    rw [State.dmaPut_good (d := { d with done := d.len }) hb]
    exact keeps_ite (fun t : State => (t.dma n).setup) (congrArg Sdma.setup (State.dma_shWrite _ _)) (congrArg Sdma.setup (State.dma_write ..))
  rw [State.dmaArrived_whole hc hb hg hl, State.dmaOver_eq, State.dmaGood_single]
  rw [State.dma_onDma]
  show ((s.dmaPut n _ b).dma n).setup.list = false
  rw [hset]
  exact hs

/-! #### Shared memory -/

theorem State.shRead_shWrite_same {a : Nat} {b : Bytes} (h : Memory.wf 0 s.ory.shmem = true) {m : Nat} (hm : m = b.length) :
    (s.shWrite a b).shRead a m = b := hm ▸ (memoryLaws.2 s a b h).1

theorem State.shRead_shWrite_other {a k m : Nat} {b : Bytes} (h : Memory.wf 0 s.ory.shmem = true) (hk : k + m ≤ a ∨ a + b.length ≤ k) :
    (s.shWrite a b).shRead k m = s.shRead k m := (memoryLaws.2 s a b h).2 k m hk

theorem State.shRead_length (a m : Nat) : (s.shRead a m).length = m := by simp [State.shRead]

theorem State.shRead_onDma (s : State) (n : Nat) (f : Sdma → Sdma) (a m : Nat) : (s.onDma n f).shRead a m = s.shRead a m := rfl

/-! #### A descriptor from shared memory, and one from fabric memory -/

theorem State.dmaStart_shared {d : Desc} (hi : d.invalid = false) (hs : d.srcSpace = 1) : s.dmaStart n d
    = (s.onDma n fun x => { x with cur := some d, got := [(0, s.shRead d.src d.len)] }).dmaArrived n := by
  unfold State.dmaStart
  simp only [hi, Bool.false_eq_true, if_false, hs, State.onDma_onDma]
  rfl

theorem State.dmaStart_fabric {d : Desc} (hi : d.invalid = false) (hs : d.srcSpace = 0) : s.dmaStart n d
    = ((s.onDma n fun x => { x with cur := some d, got := [] }).onMov fun m => (cut d.src d.len).foldl (fun m c => m.addRead
        { addr := c.1, len := c.2, fid := s.dmaFid (s.dma n), cls := s.dmaCls (s.dma n) clsRelaxed, vault := true
          purpose := .sdma n (c.1 - d.src) }) m).pump := by
  unfold State.dmaStart
  simp only [hi, Bool.false_eq_true, if_false, hs]
  rfl

/-- The descriptor of a single transfer. -/
def setupDesc (c : SdmaSetup) : Desc :=
  { src := c.src, dst := c.dst, len := c.count, swap := c.swap, srcSpace := c.srcSpace, dstSpace := c.dstSpace }

theorem State.dmaNext_single (h : (s.dma n).setup.list = false) : s.dmaNext n = setupDesc (s.dma n).setup := by
  unfold State.dmaNext
  dsimp only
  rw [h]
  rfl

theorem State.dmaBegun_run {c : SdmaSetup} (k : Nat) : (s.dmaBegun n c).dmaRun n (k + 1)
    = ((s.dmaBegun n c).dmaStart n ((s.dmaBegun n c).dmaNext n)).dmaRun n k := by
  have h := s.dma_dmaBegun n c
  exact State.dmaRun_next k (by rw [h]) (by rw [h]) (by rw [h]) (by rw [h]) (by rw [h])

/-- A single transfer within shared memory moves its bytes, swapped. -/
theorem sdmaShared {c : SdmaSetup} (hi : s.issues n = true) (hb : (s.dma n).busy = false) (hs : s.silentFid (s.dmaFid { setup := c }) = false)
    (hl : c.list = false) (h0 : 0 < c.count) (hc : c.count < 2 ^ 24) (hd : c.dstSpace = 1) (hdst : c.dst + c.count ≤ shmemSize)
    (hsp : c.srcSpace = 1) (hsrc : c.src + c.count ≤ shmemSize) (hw : Memory.wf 0 s.ory.shmem = true) :
    ∃ t, exec (.sdmaStart n c (.ok [])) s = .next t ∧ (t.dma n).busy = true ∧ (t.dma n).ended = true ∧ (t.dma n).error = false
      ∧ t.shRead c.dst c.count = applySwap c.swap (s.shRead c.src c.count) := by
  have hsz : shmemSize = 2097152 := rfl
  have hg : setupBad c = false := by
    simp only [setupBad, hl, Bool.or_eq_false_iff, beq_eq_false_iff_ne, ne_eq, Bool.false_eq_true, if_false, decide_eq_false_iff_not]
    omega
  have hinv : (setupDesc c).invalid = false := by
    simp [Desc.invalid, setupDesc, hsp, hd]
    omega
  have hdma := s.dma_dmaBegun n c
  have hnext : (s.dmaBegun n c).dmaNext n = setupDesc c := (State.dmaNext_single (by rw [hdma]; exact hl)).trans (by rw [hdma])
  let u := (s.dmaBegun n c).onDma n fun x => { x with cur := some (setupDesc c), got := [(0, s.shRead c.src c.count)] }
  have hu : u.dma n = { setup := c, busy := true, cur := some (setupDesc c), got := [(0, s.shRead c.src c.count)] } := by
    rw [State.dma_onDma, hdma]
  have hrun : (s.dmaBegun n c).dmaStart n (setupDesc c) = (u.shWrite c.dst (applySwap c.swap (s.shRead c.src c.count))).onDma n fun x =>
      x.over { setupDesc c with done := c.count } := by
    rw [State.dmaStart_shared hinv hsp]
    show u.dmaArrived n = _
    rw [State.dmaArrived_single (s := u) (d := setupDesc c) (b := s.shRead c.src c.count) (by rw [hu]) rfl (by rw [hu]) (State.shRead_length ..) (by rw [hu]; exact hl),
      State.dmaPut_good rfl]
    rw [if_pos (show ({ setupDesc c with done := (setupDesc c).len } : Desc).dstSpace = 1 from hd)]
    rfl
  have hend : (((u.shWrite c.dst (applySwap c.swap (s.shRead c.src c.count))).onDma n fun x => x.over { setupDesc c with done := c.count }).dma n)
      = (u.dma n).over { setupDesc c with done := c.count } := State.dma_onDma ..
  rw [hu] at hend
  refine ⟨_, (exec_sdmaStart hi hb hs hg (by rw [hl]; rfl)).trans (congrArg Host.Outcome.next ((State.dmaBegun_run c.count).trans (by
    rw [hnext, hrun, State.dmaRun_ended (by rw [hend]; simp [Sdma.over, hl])]))), ?_, ?_, ?_, ?_⟩
  · rw [hend]; rfl
  · rw [hend]; simp [Sdma.over, hl]
  · rw [hend]; rfl
  · exact State.shRead_shWrite_same (s := u) hw (by rw [applySwap_length, State.shRead_length])

/-- A single transfer from fabric memory reads its accesses on the tags of service DMA. -/
theorem sdmaFabric {c : SdmaSetup} (hi : s.issues n = true) (hb : (s.dma n).busy = false) (hs : s.silentFid (s.dmaFid { setup := c }) = false)
    (hl : c.list = false) (h0 : 0 < c.count) (hc : c.count < 2 ^ 24) (hd : c.dstSpace = 1) (hdst : c.dst + c.count ≤ shmemSize)
    (hsp : c.srcSpace = 0) (hsrc : c.src < 2 ^ 52) (hp : s.mov.ports.length = 8) :
    ∃ t, exec (.sdmaStart n c (.ok [])) s = .next t ∧ (t.dma n).busy = true ∧ (t.dma n).cur.isSome = true ∧ t.ory.shmem = s.ory.shmem
      ∧ ∀ x ∈ cut c.src c.count, ∃ r ∈ t.reads, r.addr = x.1 ∧ r.len = x.2 ∧ r.vault = true ∧ r.purpose = .sdma n (x.1 - c.src) := by
  have hsz : shmemSize = 2097152 := rfl
  have hg : setupBad c = false := by
    simp only [setupBad, hl, Bool.or_eq_false_iff, beq_eq_false_iff_ne, ne_eq, Bool.false_eq_true, if_false, decide_eq_false_iff_not]
    omega
  have hinv : (setupDesc c).invalid = false := by
    simp [Desc.invalid, setupDesc, hsp, hd]
    omega
  have hdma := s.dma_dmaBegun n c
  have hnext : (s.dmaBegun n c).dmaNext n = setupDesc c := (State.dmaNext_single (by rw [hdma]; exact hl)).trans (by rw [hdma])
  let f (x : Nat × Nat) : FRead := { addr := x.1, len := x.2, fid := (s.dmaBegun n c).dmaFid ((s.dmaBegun n c).dma n)
                                     cls := (s.dmaBegun n c).dmaCls ((s.dmaBegun n c).dma n) clsRelaxed, vault := true
                                     purpose := .sdma n (x.1 - c.src) }
  let u := (s.dmaBegun n c).onDma n fun x => { x with cur := some (setupDesc c), got := [] }
  let v := u.onMov fun m => (cut c.src c.count).foldl (fun m c => m.addRead (f c)) m
  have hv : v.pump.dma n = { setup := c, busy := true, cur := some (setupDesc c) } := by
    have h : v.mov.sdma = u.mov.sdma := foldl_keeps Mov.sdma (by intros; rfl) _ u.mov
    have hu : u.dma n = { setup := c, busy := true, cur := some (setupDesc c) } := by
      rw [State.dma_onDma, hdma]
    rw [← hu]
    show (mget v.mov.sdma n).getD {} = _
    rw [h]
    rfl
  refine ⟨v.pump, (exec_sdmaStart hi hb hs hg (by rw [hl]; rfl)).trans (congrArg Host.Outcome.next ((State.dmaBegun_run c.count).trans ?_)), ?_, ?_, rfl,
    fun x hx => ?_⟩
  · rw [hnext, State.dmaStart_fabric hinv hsp]
    exact State.dmaRun_busy (s := v.pump) (by rw [hv]; rfl) c.count
  · rw [hv]
  · rw [hv]; rfl
  · have hm : f x ∈ v.reads := (foldl_addRead_mem f _ u.mov hp).2 x hx
    obtain ⟨r, hr, h1, h2, h3, h4⟩ := State.pump_read hm
    exact ⟨r, hr, h1, h2, h3, h4⟩

/-! #### A list of one descriptor -/

theorem State.dmaNext_begun {c : SdmaSetup} (hl : c.list = true) (hsm : c.listSm = true) :
    (s.dmaBegun n c).dmaNext n = readDesc (s.shRead c.src 32) c.src := by
  unfold State.dmaNext
  rw [State.dma_dmaBegun]
  simp only [hl, hsm, Nat.mul_zero, Nat.add_zero]
  rfl

theorem State.dmaBack_list (h : (s.dma n).setup.list = true) (ha : (s.dma n).abort = false) (hsm : (s.dma n).setup.listSm = true) (d : Desc)
    (o : Nat) (b : Bytes) : s.dmaBack n d o b = s.shWrite (d.addr + o) b := by
  simp [State.dmaBack, h, ha, hsm]

/-- No write of the channel waits, so none of a descriptor does. -/
theorem State.writeWaits_of_dmaWrites (h : s.dmaWrites n = false) (k : Nat) : (s.writeWaits fun u => u == .sdma n k) = false := by
  unfold State.dmaWrites State.writeWaits at h
  unfold State.writeWaits
  rw [List.any_eq_false] at h ⊢
  intro w hw
  have := h w hw
  simp only [Bool.and_eq_true, Bool.not_eq_true', beq_iff_eq, not_and] at this ⊢
  intro hg hp
  rw [hp] at this
  simp at this
  simp [this] at hg

/-- A list of one valid descriptor moves its bytes, and the length is written back as done. -/
theorem sdmaListGood {c : SdmaSetup} (hi : s.issues n = true) (hb : (s.dma n).busy = false) (hs : s.silentFid (s.dmaFid { setup := c }) = false)
    (hl : c.list = true) (hsm : c.listSm = true) (hc : c.count = 1) (hw : Memory.wf 0 s.ory.shmem = true) (hwr : s.dmaWrites n = false)
    {d : Desc} (hd : d = readDesc (s.shRead c.src 32) c.src) (hinv : d.invalid = false) (hsp : d.srcSpace = 1) (hdp : d.dstSpace = 1)
    (hdis : d.dst + d.len ≤ c.src ∨ c.src + 32 ≤ d.dst) :
    ∃ t, exec (.sdmaStart n c (.ok [])) s = .next t ∧ (t.dma n).ended = true ∧ (t.dma n).error = false ∧ (t.dma n).progress = 1
      ∧ t.shRead d.dst d.len = applySwap d.swap (s.shRead d.src d.len) ∧ t.shRead (c.src + 24) 4 = natLE d.len 4
      ∧ t.shRead c.src 24 = s.shRead c.src 24 := by
  have hg : setupBad c = false := by simp [setupBad, hl, hc]
  have hbad : d.bad = false := by rw [hd]; rfl
  have haddr : d.addr = c.src := by rw [hd]; rfl
  have hdma := s.dma_dmaBegun n c
  have hnext : (s.dmaBegun n c).dmaNext n = d := (State.dmaNext_begun hl hsm).trans hd.symm
  let b := applySwap d.swap (s.shRead d.src d.len)
  have hbl : b.length = d.len := by rw [applySwap_length, State.shRead_length]
  let d' : Desc := { d with done := d.len }
  let u := (s.dmaBegun n c).onDma n fun x => { x with cur := some d, got := [(0, s.shRead d.src d.len)] }
  have hu : u.dma n = { setup := c, busy := true, cur := some d, got := [(0, s.shRead d.src d.len)] } := by
    rw [State.dma_onDma, hdma]
  let w := (u.shWrite d.dst b).onDma n fun x => x.over d'
  have hwd : w.dma n = Sdma.over { setup := c, busy := true, cur := some d, got := [(0, s.shRead d.src d.len)] } d' := by
    rw [State.dma_onDma, State.dma_shWrite, hu]
  have hover : (w.dma n).ended = true ∧ (w.dma n).setup = c ∧ (w.dma n).abort = false ∧ (w.dma n).old = [d'] ∧ (w.dma n).progress = 1
      ∧ (w.dma n).error = false := by
    rw [hwd]
    exact ⟨by simp [Sdma.over, hc], rfl, rfl, rfl, rfl, rfl⟩
  obtain ⟨ho1, ho2, ho3, ho4, ho5, ho6⟩ := hover
  have hgood : w.dmaGood n 0 = w.shWrite (c.src + 24) (natLE d.len 4) := by
    have hnw : (w.writeWaits fun u => u == .sdma n 0) = false := State.writeWaits_of_dmaWrites (s := w) hwr 0
    unfold State.dmaGood
    rw [ho4]
    simp only [List.getElem?_cons_zero, hnw, Bool.or_false]
    rw [if_neg (by simp [d', hbad]), State.dmaBack_list (by rw [ho2]; exact hl) ho3 (by rw [ho2]; exact hsm)]
    exact congrArg (fun a => w.shWrite (a + 24) (natLE d.len 4)) haddr
  have hstart : (s.dmaBegun n c).dmaStart n d = w.shWrite (c.src + 24) (natLE d.len 4) := by
    rw [State.dmaStart_shared hinv hsp, ← hgood]
    show u.dmaArrived n = _
    rw [State.dmaArrived_whole (s := u) (d := d) (b := s.shRead d.src d.len) (by rw [hu]) hbad (by rw [hu]) (State.shRead_length ..),
      State.dmaPut_good (d := { d with done := d.len }) hbad, if_pos (show ({ d with done := d.len } : Desc).dstSpace = 1 from hdp),
      State.dmaOver_eq, show (u.dma n).progress = 0 by rw [hu]]
  have hwf : Memory.wf 0 w.ory.shmem = true := State.shWrite_wf u d.dst b hw
  have h4 : (natLE d.len 4).length = 4 := natLE_length ..
  refine ⟨w.shWrite (c.src + 24) (natLE d.len 4), (exec_sdmaStart hi hb hs hg (by rw [hl, hsm]; rfl)).trans (congrArg Host.Outcome.next
    ((State.dmaBegun_run c.count).trans ?_)), ho1, ho6, ho5, ?_, ?_, ?_⟩
  · rw [hnext, hstart]
    exact State.dmaRun_ended (s := w.shWrite (c.src + 24) (natLE d.len 4)) ho1 c.count
  · rw [State.shRead_shWrite_other hwf (by omega)]
    exact State.shRead_shWrite_same (s := u) hw hbl.symm
  · exact State.shRead_shWrite_same hwf h4.symm
  · rw [State.shRead_shWrite_other hwf (.inl (Nat.le_refl _))]
    exact State.shRead_shWrite_other (s := u) hw (by rw [hbl]; omega)

/-- A list of one invalid descriptor marks it bad and ends in error. -/
theorem sdmaListBad {c : SdmaSetup} (hi : s.issues n = true) (hb : (s.dma n).busy = false) (hs : s.silentFid (s.dmaFid { setup := c }) = false)
    (hl : c.list = true) (hsm : c.listSm = true) (hc : c.count = 1) (hw : Memory.wf 0 s.ory.shmem = true)
    {d : Desc} (hd : d = readDesc (s.shRead c.src 32) c.src) (hinv : d.invalid = true) :
    ∃ t, exec (.sdmaStart n c (.ok [])) s = .next t ∧ (t.dma n).ended = true ∧ (t.dma n).error = true
      ∧ (t.dma n).cause = 1 ∧ (t.dma n).bad = 1
      ∧ t.shRead (c.src + 20) 8 = natLE (d.raw % 4 + 4 + 8 + 32 * (d.raw / 32 % 2 ^ 27)) 4 ++ natLE 0 4 := by
  have hg : setupBad c = false := by simp [setupBad, hl, hc]
  have haddr : d.addr = c.src := by rw [hd]; rfl
  have hdma := s.dma_dmaBegun n c
  have hnext : (s.dmaBegun n c).dmaNext n = d := (State.dmaNext_begun hl hsm).trans hd.symm
  let d' : Desc := { d with bad := true, cause := 1, done := 0 }
  let w := ((s.dmaBegun n c).dmaOver n { d with bad := true, cause := 1 }).onDma n fun x => { x with
    error := true, cause := if x.error then x.cause else 1, bad := sat 0xFF x.bad (b2n x.setup.list)
    old := x.old.map fun o => if o.addr == d'.addr then d' else o }
  have hx : ((s.dmaBegun n c).dmaOver n { d with bad := true, cause := 1 }).dma n
      = Sdma.over { setup := c, busy := true } { d with bad := true, cause := 1 } := by
    rw [State.dmaOver_eq, State.dma_onDma, hdma]
  have hwd : (w.dma n).ended = true ∧ (w.dma n).setup = c ∧ (w.dma n).abort = false ∧ (w.dma n).error = true ∧ (w.dma n).cause = 1
      ∧ (w.dma n).bad = 1 := by
    rw [State.dma_onDma, hx]
    refine ⟨by simp [Sdma.over, hc], rfl, rfl, rfl, rfl, ?_⟩
    simp [Sdma.over, hl, sat, b2n]
  obtain ⟨h1, h2, h3, h5, h6, h7⟩ := hwd
  have hstart : (s.dmaBegun n c).dmaStart n d = w.shWrite (c.src + 20) d'.back := by
    have hb : w.dmaBack n d' 20 d'.back = w.shWrite (c.src + 20) d'.back := by
      rw [State.dmaBack_list (by rw [h2]; exact hl) h3 (by rw [h2]; exact hsm)]
      exact congrArg (fun a => w.shWrite (a + 20) d'.back) haddr
    rw [← hb]
    unfold State.dmaStart
    rw [if_pos hinv]
    unfold State.dmaFail
    rw [hx]
    rfl
  have hback : d'.back = natLE (d.raw % 4 + 4 + 8 + 32 * (d.raw / 32 % 2 ^ 27)) 4 ++ natLE 0 4 := rfl
  refine ⟨w.shWrite (c.src + 20) d'.back, (exec_sdmaStart hi hb hs hg (by rw [hl, hsm]; rfl)).trans (congrArg Host.Outcome.next
    ((State.dmaBegun_run c.count).trans ?_)), h1, h5, h6, h7, ?_⟩
  · rw [hnext, hstart]
    exact State.dmaRun_ended (s := w.shWrite (c.src + 20) d'.back) h1 c.count
  · rw [← hback]
    exact State.shRead_shWrite_same (s := w) hw (by rw [hback, List.length_append, natLE_length, natLE_length])

/-! #### Bytes that a read brings, the abort and the end -/

/-- The bytes of a single transfer go out, swapped, in the writes of its accesses. -/
theorem sdmaPutsOut {d : Desc} {b : Bytes} (hc : (s.dma n).cur = some d) (hb : d.bad = false) (hg : (s.dma n).got = []) (hl : b.length = d.len)
    (hd : d.dstSpace = 0) (hs : (s.dma n).setup.list = false) (hp : s.mov.ports.length = 8) {i : Nat} (hi : i < d.len) :
    ∃ w ∈ (s.dmaRead n 0 (some b) 0).writes, w.purpose = .sdma n (s.dma n).progress ∧ w.addr ≤ d.dst + i
      ∧ w.data[d.dst + i - w.addr]? = (applySwap d.swap b)[i]? := by
  let u := s.onDma n fun x => { x with got := x.got ++ [(0, b)] }
  have hu : u.dma n = { s.dma n with got := [(0, b)] } := by
    rw [State.dma_onDma, hg]
    rfl
  have harr := State.dmaArrived_single (s := u) (d := d) (b := b) (by rw [hu]; exact hc) hb (by rw [hu]) hl (by rw [hu]; exact hs)
  have hend : ((u.dmaArrived n).dma n).ended = true := by
    have hset : ((u.dmaPut n { d with done := d.len } b).dma n).setup = (s.dma n).setup := by
      rw [State.dmaPut_good (d := { d with done := d.len }) hb, if_neg (by show ¬ d.dstSpace = 1; omega), State.dma_write, hu]
    rw [harr, State.dma_onDma]
    simp [Sdma.over, hset, hs]
  have hput : u.dmaPut n { d with done := d.len } b = u.write d.dst (applySwap d.swap b) (u.dmaFid (u.dma n)) (u.dmaCls (u.dma n) clsRelaxed)
      (.sdma n (s.dma n).progress) := by
    rw [State.dmaPut_good (d := { d with done := d.len }) hb, if_neg (by show ¬ d.dstSpace = 1; omega), hu]
  have he : s.dmaRead n 0 (some b) 0 = u.dmaArrived n := by
    unfold State.dmaRead
    simp only [hc]
    exact State.dmaRun_ended hend _
  have hw := State.write_covers (s := u) hp d.dst (applySwap d.swap b) (u.dmaFid (u.dma n)) (u.dmaCls (u.dma n) clsRelaxed)
    (.sdma n (s.dma n).progress) (bad := []) (i := i) (by rw [applySwap_length, hl]; exact hi)
  rw [he, harr, hput]
  exact hw

theorem State.dmaStop_sdma (s : State) (k : Nat) : (s.dmaStop k).mov.sdma = s.mov.sdma := rfl

theorem State.dma_dmaStop (s : State) (k : Nat) : (s.dmaStop k).dma n = s.dma n := rfl

/-- Of the channel's writes those alone stay that have issued. -/
theorem State.dmaStop_issued (s : State) : ∀ w ∈ (s.dmaStop n).writes, (∃ k, w.purpose = .sdma n k) → w.issued = true := by
  intro w hw ⟨k, hk⟩
  unfold State.dmaStop State.discardReads at hw
  dsimp only at hw
  rw [State.writes_onWrites, State.writes_onReads] at hw
  obtain ⟨v, _, he⟩ := List.mem_filterMap.1 hw
  split at he
  · next m j hv =>
    obtain ⟨hn, he⟩ := Option.ite_none_left_eq_some.1 he
    obtain rfl := Option.some.inj he
    rw [hk] at hv
    injection hv with hm
    simpa [← hm] using hn
  · next hno =>
    obtain rfl := Option.some.inj he
    exact absurd hk (hno n k)

theorem State.dmaWrites_dmaStop (h : s.dmaWrites n = false) : (s.dmaStop n).dmaWrites n = false := by
  unfold State.dmaWrites State.writeWaits at h ⊢
  rw [List.any_eq_false] at h ⊢
  exact fun w hw => h w (State.writes_dmaStop s n w hw)

/-- Settles O54. -/
theorem sdmaResults : Obligations.SdmaResults := by
  refine ⟨fun n c s hi hb hs => ⟨fun hl h0 hc hd hdst => ⟨fun hsp hsrc hw => sdmaShared hi hb hs hl h0 hc hd hdst hsp hsrc hw,
      fun hsp hsrc hp => sdmaFabric hi hb hs hl h0 hc hd hdst hsp hsrc hp⟩, fun hl hsm hc hsrc hw hwr => ?_⟩,
    fun n d b s hc hb hg hl h0 hd hs hp i hi => sdmaPutsOut hc hb hg hl hd hs hp hi, fun n s hi hb => ?_, fun n s hl hb hw hover => ?_⟩
  · exact ⟨fun hinv hsp hdp hdis => sdmaListGood hi hb hs hl hsm hc hw hwr rfl hinv hsp hdp hdis, fun hinv => sdmaListBad hi hb hs hl hsm hc hw rfl hinv⟩
  · refine ⟨(s.onDma n fun x => { x with abort := true }).dmaStop n, ?_, ?_, State.dmaStop_issued _⟩
    · show execSdmaAbort n s = _
      simp [execSdmaAbort, hi, hb]
    · rw [State.dma_dmaStop, State.dma_onDma]
  · let u := if (s.dma n).abort then s.dmaStop n else s
    have hu : u.dma n = s.dma n := keeps_ite (fun t : State => t.dma n) (State.dma_dmaStop s n) rfl
    have huw : u.dmaWrites n = false := keeps_ite (fun t : State => t.dmaWrites n) (State.dmaWrites_dmaStop hw) hw
    have hgo : ((s.dma n).abort || ((s.dma n).ended && (s.dma n).cur.isNone)) = true := by
      rcases hover with h | ⟨h, h'⟩
      · simp [h]
      · simp [h, h']
    refine ⟨u.onDma n fun x => { x with
        busy := false, done := true, abort := false, cur := none, got := [], list := [], old := []
        error := x.error && !x.abort, cause := if x.abort then 0 else x.cause }, ?_, ?_⟩
    · have he : exec (.sdmaDone n) s = .next (if !s.live || !(s.dma n).busy then s
          else if u.dmaWrites n || !((s.dma n).abort || ((s.dma n).ended && (s.dma n).cur.isNone)) then u else u.onDma n fun x => { x with
            busy := false, done := true, abort := false, cur := none, got := [], list := [], old := []
            error := x.error && !x.abort, cause := if x.abort then 0 else x.cause }) := rfl
      rw [he, hl, hb, huw, hgo]
      rfl
    · rw [State.dma_onDma, hu]
      exact ⟨rfl, rfl, rfl⟩

end Sdma

end Sys2Proof.Machine

/-! ### PROOFS. What a link puts out (R77, R269, R270) -/

namespace Sys2Proof.Machine

/-! #### The writes of a string -/

/-- Nothing but the accesses' writes is added. -/
theorem foldl_addWrite_only {β : Type} (f : β → FWrite) (l : List β) (m : Mov) :
    ∀ v ∈ (l.foldl (fun m c => m.addWrite (f c)) m).ports.flatMap (·.writes), v ∈ m.ports.flatMap (·.writes) ∨ ∃ c ∈ l, v = f c := by
  induction l generalizing m with
  | nil => exact fun _ hv => .inl hv
  | cons a l ih =>
    intro v hv
    rcases ih (m.addWrite (f a)) v hv with hv | ⟨c, hc, rfl⟩
    · obtain ⟨p, hp, hv⟩ := List.mem_flatMap.1 hv
      obtain ⟨j, hj⟩ := List.mem_iff_getElem?.1 hp
      have hj' : (updAt m.ports (portOf (f a).addr) fun p => { p with writes := p.writes ++ [f a] })[j]? = some p := hj
      rw [updAt_getElem?] at hj'
      split at hj'
      · obtain ⟨p', hp', rfl⟩ := Option.map_eq_some_iff.1 hj'
        rcases List.mem_append.1 hv with hv | hv
        · exact .inl (List.mem_flatMap.2 ⟨p', List.mem_of_getElem? hp', hv⟩)
        · exact .inr ⟨a, .head _, List.mem_singleton.1 hv⟩
      · exact .inl (List.mem_flatMap.2 ⟨p, List.mem_of_getElem? hj', hv⟩)
    · exact .inr ⟨c, .tail _ hc, rfl⟩

/-- The accesses of an extent lie in it. -/
theorem cutF_within (fuel a e : Nat) : ∀ x ∈ cutF fuel a e, a ≤ x.1 ∧ x.1 + x.2 ≤ e := by
  induction fuel generalizing a with
  | zero => exact fun _ hx => nomatch hx
  | succ fuel ih =>
    intro x hx
    unfold cutF at hx
    split at hx
    · next h =>
      obtain ⟨hp, hle, -, -⟩ := cutLen_bounds h
      rcases List.mem_cons.1 hx with rfl | hx
      · exact ⟨Nat.le_refl _, hle⟩
      · obtain ⟨h1, h2⟩ := ih _ x hx
        exact ⟨by omega, h2⟩
    · exact nomatch hx

theorem cut_within {a n : Nat} {x : Nat × Nat} (h : x ∈ cut a n) : a ≤ x.1 ∧ x.1 + x.2 ≤ a + n := cutF_within _ _ _ x h

section Emit

variable {s : State}

theorem State.pump_write_of {w : FWrite} (h : w ∈ s.pump.writes) : ∃ v ∈ s.writes, v.addr = w.addr ∧ v.data = w.data ∧ v.purpose = w.purpose := by
  have hr : w.plain ∈ s.writes.map FWrite.plain := by
    rw [← State.pump_plain]
    exact List.mem_map_of_mem h
  obtain ⟨v, hv, he⟩ := List.mem_map.1 hr
  exact ⟨v, hv, FWrite.of_plain he⟩

/-- A write of the string holds the bytes of its place. -/
theorem State.write_only {a : Nat} {data : Bytes} {fid cls : Nat} {p : WPurpose} {bad : List Nat} {w : FWrite}
    (h : w ∈ (s.write a data fid cls p bad).writes) : (∃ v ∈ s.writes, v.addr = w.addr ∧ v.data = w.data ∧ v.purpose = w.purpose)
      ∨ (w.purpose = p ∧ a ≤ w.addr ∧ w.addr + w.data.length ≤ a + data.length ∧ w.data = slice data (w.addr - a) w.data.length) := by
  obtain ⟨v, hv, ha, hd, hp⟩ := State.pump_write_of h
  rcases foldl_addWrite_only _ _ s.mov v hv with hv | ⟨c, hc, rfl⟩
  · exact .inl ⟨v, hv, ha, hd, hp⟩
  · obtain ⟨h1, h2⟩ := cut_within hc
    have hlen : w.data.length = c.2 := by
      rw [← hd]
      simp [slice]
      omega
    rw [← ha, ← hp, hlen, ← hd]
    exact .inr ⟨rfl, h1, h2, rfl⟩

theorem State.write_ports (hp : s.mov.ports.length = 8) (a : Nat) (data : Bytes) (fid cls : Nat) (p : WPurpose) (bad : List Nat) :
    (s.write a data fid cls p bad).mov.ports.length = 8 := by
  unfold State.write State.pump
  rw [State.onMov_mov, List.length_map, State.onMov_mov, ← hp]
  exact foldl_keeps (fun m : Mov => m.ports.length) (by intros; exact updAt_length ..) _ s.mov

theorem State.write_old (hp : s.mov.ports.length = 8) {a : Nat} {data : Bytes} {fid cls : Nat} {p : WPurpose} {bad : List Nat} {w : FWrite}
    (h : w ∈ s.writes) : ∃ v ∈ (s.write a data fid cls p bad).writes, v.addr = w.addr ∧ v.data = w.data ∧ v.purpose = w.purpose :=
  State.pump_write ((foldl_addWrite_mem _ _ s.mov hp).1 w h)

/-! #### The pieces of a link's output -/

/-- The writes of a link's pieces, one piece after another. -/
def State.putPieces (s : State) (id : LinkId) (fid : Nat) (ps : List (Nat × Nat × Nat × Bytes × Nat)) (bad : Nat × Nat × Nat × Bytes × Nat → List Nat) : State :=
  ps.foldl (fun s p => s.write p.2.1 p.2.2.2.1 fid clsRelaxed (.data id p.1) (bad p)) s

/-- One piece more is put out. -/
theorem State.putsOut_write (hp : s.mov.ports.length = 8) {id : LinkId} {done : List (Nat × Nat × Nat × Bytes × Nat)} (h : s.putsOut id done)
    (fid cls : Nat) (bad : List Nat) (p : Nat × Nat × Nat × Bytes × Nat) :
    (s.write p.2.1 p.2.2.2.1 fid cls (.data id p.1) bad).putsOut id (done ++ [p]) := by
  obtain ⟨h1, h2⟩ := h
  have hid : isLinkData id (.data id p.1) = true := by simp [isLinkData]
  refine ⟨fun x hx i hi => ?_, fun w hw hl => ?_⟩
  · rcases List.mem_append.1 hx with hx | hx
    · obtain ⟨w, hw, hl, ha, hd⟩ := h1 x hx i hi
      obtain ⟨v, hv, hva, hvd, hvp⟩ := State.write_old hp hw
      exact ⟨v, hv, by rw [hvp]; exact hl, by rw [hva]; exact ha, by rw [hva, hvd]; exact hd⟩
    · obtain rfl := List.mem_singleton.1 hx
      obtain ⟨w, hw, hwp, ha, hd⟩ := State.write_covers hp x.2.1 x.2.2.2.1 fid cls (.data id x.1) (bad := bad) hi
      exact ⟨w, hw, by rw [hwp]; exact hid, ha, hd⟩
  · rcases State.write_only hw with ⟨v, hv, hva, hvd, hvp⟩ | ⟨-, ha, hb, hd⟩
    · obtain ⟨x, hx, h3, h4, h5⟩ := h2 v hv (by rw [hvp]; exact hl)
      rw [hva] at h3
      rw [hva, hvd] at h4 h5
      exact ⟨x, List.mem_append_left _ hx, h3, h4, h5⟩
    · exact ⟨p, by simp, ha, hb, hd⟩

theorem State.putPieces_puts (hp : s.mov.ports.length = 8) (id : LinkId) (fid : Nat) (bad : Nat × Nat × Nat × Bytes × Nat → List Nat)
    (done ps : List (Nat × Nat × Nat × Bytes × Nat)) (h : s.putsOut id done) : (s.putPieces id fid ps bad).putsOut id (done ++ ps) := by
  induction ps generalizing s done with
  | nil =>
    rw [List.append_nil]
    exact h
  | cons p ps ih =>
    have := ih (s := s.write p.2.1 p.2.2.2.1 fid clsRelaxed (.data id p.1) (bad p)) (State.write_ports hp ..) (done ++ [p])
      (State.putsOut_write hp h ..)
    rw [List.append_assoc] at this
    exact this

theorem State.putsOut_nil {id : LinkId} (h : ∀ w ∈ s.writes, isLinkData id w.purpose = false) : s.putsOut id [] :=
  .intro (fun _ hp => nomatch hp) fun w hw hl => absurd (h w hw) (by simp [hl])

theorem State.putsOut_of_writes {t : State} {id : LinkId} {ps : List (Nat × Nat × Nat × Bytes × Nat)} (h : s.putsOut id ps)
    (hw : t.writes = s.writes) : t.putsOut id ps := by
  unfold State.putsOut
  rw [hw]
  exact h

/-- A part that writes leave. -/
theorem State.write_field {α : Type} (g : State → α) (hm : ∀ s f, g (State.onMov s f) = g s) (s : State) (a : Nat) (data : Bytes) (fid cls : Nat)
    (p : WPurpose) (bad : List Nat) : g (s.write a data fid cls p bad) = g s := by
  unfold State.write State.pump
  exact (hm _ _).trans (hm _ _)

theorem State.putPieces_field {α : Type} (g : State → α) (hm : ∀ s f, g (State.onMov s f) = g s) (s : State) (id : LinkId) (fid : Nat)
    (ps : List (Nat × Nat × Nat × Bytes × Nat)) (bad : Nat × Nat × Nat × Bytes × Nat → List Nat) : g (s.putPieces id fid ps bad) = g s :=
  foldl_keeps g (fun t _ => State.write_field g hm t ..) _ _

/-! #### Output put out whole -/

variable {r i k : Nat} {q : Req} {l : Link}

theorem State.outIdle_iff {id : LinkId} : s.outIdle id l = true ↔
    s.mov.ports.length = 8 ∧ l.unitHold = [] ∧ ∀ w ∈ s.writes, isLinkData id w.purpose = false := by
  simp [State.outIdle, and_assoc]

/-- Output with nothing held and no byte masked, put out whole: the link's output where it is inline, else writes of the pieces. -/
theorem State.emit_whole (hl : s.link ⟨r, i, k⟩ = some (q, l)) (hb : l.hdr.bufDst = false) (hu : l.unitHold = []) (hp : l.poisoned = [])
    (b : Bytes) (bad : Nat → Bool) {last : Bool} (hlast : (last || l.hdr.dstGather == 0) = true) :
    s.emit ⟨r, i, k⟩ b bad last = (if s.inlineDst l ⟨r, i, k⟩ then s.onLink ⟨r, i, k⟩ fun l => { l with output := l.output ++ b }
        else (s.onLink ⟨r, i, k⟩ fun l => { l with unitHold := [] }).putPieces ⟨r, i, k⟩ (s.fidOf q.part) (outPieces l.dstList 0 l.outPos l.outPos b)
          fun _ => []).onLink ⟨r, i, k⟩ fun l => { l with outPos := l.outPos + b.length } := by
  have hm : l.masked b bad = b := by simp [Link.masked, hp]
  unfold State.emit
  simp only [hl, hm]
  congr 1
  unfold State.emitAt
  simp only [hl, hb, hu, hp, hlast, Bool.false_or, List.nil_append, if_true, Nat.sub_zero, List.take_length, List.drop_length, List.length_nil]
  rfl

theorem Link.put_eq (hu : l.unitHold = []) : ({ l with unitHold := [] } : Link) = l := by
  cases l
  simp_all

/-- The link and the writes after output put out whole. -/
theorem State.emit_gives (hl : s.link ⟨r, i, k⟩ = some (q, l)) (hb : l.hdr.bufDst = false) (hp : l.poisoned = [])
    (ho : s.outIdle ⟨r, i, k⟩ l = true) (b : Bytes) (bad : Nat → Bool) {last : Bool} (hlast : (last || l.hdr.dstGather == 0) = true) :
    ∃ q', (s.emit ⟨r, i, k⟩ b bad last).link ⟨r, i, k⟩ = some (q', { l with
        output := if s.inlineDst l ⟨r, i, k⟩ then l.output ++ b else l.output, outPos := l.outPos + b.length })
      ∧ (s.inlineDst l ⟨r, i, k⟩ = false → (s.emit ⟨r, i, k⟩ b bad last).putsOut ⟨r, i, k⟩ (outPieces l.dstList 0 l.outPos l.outPos b)) := by
  obtain ⟨h8, hu, hw⟩ := State.outIdle_iff.1 ho
  rw [State.emit_whole hl hb hu hp b bad hlast]
  cases hin : s.inlineDst l ⟨r, i, k⟩ with
  | true => exact ⟨_, State.link_onLink_own (State.link_onLink_own hl _) _, fun h => nomatch h⟩
  | false =>
    simp only [Bool.false_eq_true, if_false]
    let u := s.onLink ⟨r, i, k⟩ fun l => { l with unitHold := [] }
    have hul : u.link ⟨r, i, k⟩ = some (q.onLink k fun l => { l with unitHold := [] }, l) := by
      rw [State.link_onLink_own hl, Link.put_eq hu]
    have hpl := (State.putPieces_field (fun t : State => t.link ⟨r, i, k⟩) (fun _ _ => rfl) u ⟨r, i, k⟩ (s.fidOf q.part)
      (outPieces l.dstList 0 l.outPos l.outPos b) fun _ => []).trans hul
    refine ⟨_, State.link_onLink_own hpl _, fun _ => ?_⟩
    exact State.putPieces_puts (s := u) h8 ⟨r, i, k⟩ (s.fidOf q.part) (fun _ => []) [] _ (State.putsOut_nil hw)

/-- Output put out whole, and the link's good end. -/
theorem State.emit_ends (hl : s.link ⟨r, i, k⟩ = some (q, l)) (hs : l.stat = none) (he : l.err = none) (hr : l.retried = false)
    (hb : l.hdr.bufDst = false) (hp : l.poisoned = []) (ho : s.outIdle ⟨r, i, k⟩ l = true) (b : Bytes) (bad : Nat → Bool) {last : Bool}
    (hlast : (last || l.hdr.dstGather == 0) = true) :
    ∃ q' l', ((s.emit ⟨r, i, k⟩ b bad last).endLink ⟨r, i, k⟩ stOk).link ⟨r, i, k⟩ = some (q', l') ∧ l'.stat = some ⟨0, 0⟩
      ∧ s.gaveOut ((s.emit ⟨r, i, k⟩ b bad last).endLink ⟨r, i, k⟩ stOk) ⟨r, i, k⟩ l l' b := by
  obtain ⟨q', hq, hput⟩ := State.emit_gives hl hb hp ho b bad hlast
  obtain ⟨q'', stamp, viol, h⟩ := State.endLink_link hq hs stOk
  have hres : ({ l with output := if s.inlineDst l ⟨r, i, k⟩ then l.output ++ b else l.output, outPos := l.outPos + b.length } : Link).result stOk
      = stOk := by
    simp [Link.result, he, hr]
  rw [hres] at h
  refine ⟨q'', _, h, rfl, rfl, ?_⟩
  cases hin : s.inlineDst l ⟨r, i, k⟩ with
  | true =>
    simp only [if_true]
    show (if stOk.good then (if true then l.output ++ b else l.output) else []) = _
    rfl
  | false =>
    simp only [Bool.false_eq_true, if_false]
    exact State.putsOut_of_writes (hput hin) ((endFrame_writes r i).endLink _ k stOk)

end Emit

end Sys2Proof.Machine

/-! ### PROOFS. Random bytes (R177, R254 to R262) -/

namespace Sys2Proof.Machine

section Random

variable {s : State} {r i k : Nat} {q : Req} {l : Link}

/-! #### A good end of a link that no unit healed -/

theorem State.healLink_none {id : LinkId} (hl : s.link id = some (q, l)) (hh : l.healed = []) :
    s.healLink id = s.onLink id fun l => { l with healed := [] } := by
  simp [State.healLink, hl, hh]

/-- A part that the link, the grants, the reads and the engines' owners do not touch is left. -/
theorem State.endLink_unhealed {α : Type} (g : State → α) (hlink : ∀ s id f, g (State.onLink s id f) = g s)
    (hsch : ∀ s f, g (State.onSch s f) = g s) (hreads : ∀ s f, g (State.onReads s f) = g s) (hunb : ∀ s id, g (State.unbind s id) = g s)
    (hl : s.link ⟨r, i, k⟩ = some (q, l)) (hs : l.stat = none) (he : l.err = none) (hr : l.retried = false) (hb : l.hdr.bufDst = false)
    (hh : l.healed = []) : g (s.endLink ⟨r, i, k⟩ stOk) = g s := by
  have hend : s.endLink ⟨r, i, k⟩ stOk = s.endAs ⟨r, i, k⟩ stOk := by
    obtain ⟨q', stamp', viol', h'⟩ := State.endAs_link hl hs stOk
    unfold State.endLink
    rw [hl]
    simp only [he, hr, Option.getD_none, Bool.false_eq_true, and_false, if_false]
    rw [if_pos (by decide)]
    unfold State.handOver
    rw [h']
    exact if_pos (by simp [Link.ended, hb])
  rw [hend]
  unfold State.endAs
  rw [hl]
  simp only [hs, Option.isSome_none, Bool.false_eq_true, if_false, show stOk.good = true from rfl, show stOk.violation = none from rfl, if_true]
  rw [State.healLink_none (State.link_onLink_own hl _) hh]
  exact (hreads _ _).trans ((hsch _ _).trans ((hunb _ _).trans ((hlink _ _ _).trans (hlink _ _ _))))

theorem State.emit_field {α : Type} (g : State → α) (hl : ∀ s id f, g (State.onLink s id f) = g s) (hm : ∀ s f, g (State.onMov s f) = g s)
    (s : State) (id : LinkId) (b : Bytes) (bad : Nat → Bool) (last : Bool) : g (s.emit id b bad last) = g s := by
  have ha : ∀ pos b, g (s.emitAt id pos b bad last) = g s := fun pos b => by
    unfold State.emitAt
    split
    · rfl
    · exact keeps_ite g (hl _ _ _) ((foldl_keeps g (fun t p => State.write_field g hm t ..) _ _).trans (hl _ _ _))
  unfold State.emit
  split
  · rfl
  · exact (hl _ _ _).trans (ha _ _)

/-! #### Placing an item -/

theorem State.inst_onEnt (s : State) (f : Ent → Ent) (h : ∀ e, (f e).insts = e.insts) (j : Nat) : (s.onEnt f).inst j = s.inst j := by
  unfold State.inst
  rw [State.onEnt_ent, h]

theorem State.inst_onInst (s : State) (j : Nat) (f : Inst → Inst) : (s.onInst j f).inst j = f (s.inst j) := by
  unfold State.inst State.onInst
  rw [State.onEnt_ent, mget_mset_self]
  rfl

/-- What an item is once it is placed. -/
def Item.placed (x : Item) (t : Nat) (out : Bytes) (rest : Nat) : Item :=
  { x with add := [], out := out, left := rest, window := false, first := t, last := if rest = 0 then some t else none }

/-- An item that has its blocks and a clock is placed with what its function returns. -/
theorem DPlan.place_done {p : DPlan} {t : Nat} {x : Item} {need : Nat}
    (hn : need = itemBlocks x.kind (x.kind == .generate && decide (p.s.interval x.inst ≤ (p.s.inst x.inst).calls)))
    (hlen : need ≤ p.s.ent.buffer.length) (hroom : 0 < p.room.getD (p.core false) 0) (hu : x.kind ≠ .uninstantiate) :
    ∃ rest n, (p.place t x false).2 = .done ∧ (p.place t x false).1.s
      = (p.s.onInst x.inst fun _ => (itemRun x t (p.s.ent.buffer.take need) (p.s.inst x.inst)).1).onEnt fun e => { e with
        buffer := e.buffer.drop need
        cores := updAt e.cores (p.core false) fun d => { d with
          items := d.items ++ [x.placed t (itemRun x t (p.s.ent.buffer.take need) (p.s.inst x.inst)).2 rest], next := d.next + n } } := by
  subst hn
  unfold DPlan.place
  simp only [Nat.not_lt.2 hlen, Nat.ne_of_gt hroom, beq_eq_false_iff_ne.2 hu, Bool.false_eq_true, if_false]
  exact ⟨_, _, trivial, rfl⟩

theorem itemRun_generate {x : Item} (h : x.kind = .generate) (t : Nat) (y : Inst) : itemRun x t [] y
    = ({ y with key := (drbgGenerate (y.key, y.v) x.add x.n).2.1, v := (drbgGenerate (y.key, y.v) x.add x.n).2.2, calls := sat (2 ^ 32) y.calls 1 },
       (drbgGenerate (y.key, y.v) x.add x.n).1) := by
  simp [itemRun, h]

theorem itemRun_prGenerate {x : Item} (h : x.kind = .prGenerate) (t : Nat) (b : Bytes) (y : Inst) :
    let g := drbgGenerate (drbgReseed (y.key, y.v) b x.add) [] x.n
    itemRun x t [b] y = ({ y with key := g.2.1, v := g.2.2, calls := 1, reseeds := sat 0xFFF y.reseeds 1 }, g.1) := by
  simp [itemRun, h]

/-! #### Items that end -/

/-- The item is off its core. -/
def State.itemOff (s : State) (c : Nat) (x : Item) : State :=
  s.onEnt fun e => { e with cores := updAt e.cores c fun d => { d with items := d.items.erase x } }

theorem State.itemOff_cores (s : State) (c : Nat) (x : Item) {d : DCore} (h : s.ent.cores[c]? = some d) :
    (s.itemOff c x).ent.cores[c]? = some { d with items := d.items.erase x } := by
  show (updAt s.ent.cores c _)[c]? = _
  rw [updAt_getElem?, if_pos rfl, h]
  rfl

theorem exec_drbgItemDone {c : Nat} {d : DCore} {x : Item} (ht : s.ticking = true) (hd : s.ent.cores[c]? = some d)
    (hx : d.due s.sch.tick = some x) : exec (.drbgItemDone c) s = .next ((s.itemOff c x).itemDone x) := by
  show Host.Outcome.next (if s.ticking then s.coreDone c else s) = _
  rw [if_pos ht]
  simp only [State.coreDone, hd, Option.bind_some, hx]
  rfl

theorem State.seedCheck_ent (s : State) : s.seedCheck.ent = s.ent := by
  unfold State.seedCheck
  exact keeps_ite State.ent (State.log_ent ..) rfl

/-- The links that draw have the bytes. -/
theorem State.giveBytes_draw (hl : s.link ⟨r, i, k⟩ = some (q, l)) (hs : l.stat = none) (ho : l.hdr.opcode ≠ opRandom) (b : Bytes) :
    s.giveBytes ⟨r, i, k⟩ b = s.onLink ⟨r, i, k⟩ fun l => { l with drawn := drawTake l.hdr l.drawn b } := by
  simp [State.giveBytes, hl, hs, ho]

theorem State.giveBytes_random (hl : s.link ⟨r, i, k⟩ = some (q, l)) (hs : l.stat = none) (ho : l.hdr.opcode = opRandom) (b : Bytes) :
    s.giveBytes ⟨r, i, k⟩ b
      = ((s.onLink ⟨r, i, k⟩ fun l => { l with lastTick := some s.sch.tick }).emit ⟨r, i, k⟩ b fun _ => false).endLink ⟨r, i, k⟩ stOk := by
  simp [State.giveBytes, hl, hs, ho]

/-- The first item of a core for a link whose last clock lies in this tick. -/
def DCore.dueFor (d : DCore) (id : LinkId) (t : Nat) : Option Item := d.items.find? fun x => x.who == some id && (match x.last with
  | some k => k == t
  | none => false)

/-- One core's turn in the run of a link's item, in tick t. -/
def State.itemTurn (id : LinkId) (t : Nat) (s : State) (c : Nat) : State :=
  match (s.ent.cores[c]?).bind fun d => d.dueFor id t with
  | none => s
  | some x => (s.itemOff c x).itemDone x

theorem State.runItemOf_eq {id : LinkId} {op : Nat} (hsv : s.serving = true) (hl : s.link id = some (q, l)) (ho : l.hdr.opcode = op) :
    s.runItemOf id op = State.itemTurn id s.sch.tick (s.itemTurn id s.sch.tick 0) 1 := by
  unfold State.runItemOf
  simp only [hl, ho, hsv, ne_eq, not_true_eq_false, decide_false]
  rfl

/-- The item of the first of two cores ends, none of the second being due. -/
theorem State.runItemOf_first {id : LinkId} {op : Nat} {d e : DCore} {x : Item} {t : State} (hsv : s.serving = true) (hl : s.link id = some (q, l))
    (ho : l.hdr.opcode = op) (hc : s.ent.cores = [d, e]) (hd : d.dueFor id s.sch.tick = some x) (he : e.dueFor id s.sch.tick = none)
    (ht : (s.itemOff 0 x).itemDone x = t) (htc : t.ent.cores = [{ d with items := d.items.erase x }, e]) : s.runItemOf id op = t := by
  have h0 : s.itemTurn id s.sch.tick 0 = t := by
    simp only [State.itemTurn, hc, List.getElem?_cons_zero, Option.bind_some, hd, ht]
  rw [State.runItemOf_eq hsv hl ho, h0]
  simp only [State.itemTurn, htc, List.getElem?_cons_succ, List.getElem?_cons_zero, Option.bind_some, he]

/-- Settles O42. -/
theorem randomResults : Obligations.RandomResults := by
  refine ⟨fun p t x c hc hlen hroom => ?_, ?_, ?_⟩
  · intro y done
    have hput : ∀ {need out y'}, need = itemBlocks x.kind (x.kind == .generate && decide (p.s.interval x.inst ≤ (p.s.inst x.inst).calls)) →
        need ≤ p.s.ent.buffer.length → x.kind ≠ .uninstantiate → itemRun x t (p.s.ent.buffer.take need) (p.s.inst x.inst) = (y', out) →
        done out (y'.key, y'.v) ∧ (p.place t x false).1.s.ent.buffer = p.s.ent.buffer.drop need := by
      intro need out y' hn hl hu hr
      obtain ⟨rest, n, h1, h2⟩ := DPlan.place_done (t := t) hn hl (by rw [hc]; exact hroom) hu
      rw [hr, hc] at h2
      refine ⟨⟨h1, ?_, ?_⟩, by rw [h2]; rfl⟩
      · refine ⟨{ p.s.ent.cores[c] with items := p.s.ent.cores[c].items ++ [x.placed t out rest], next := p.s.ent.cores[c].next + n },
          x.placed t out rest, ?_, ?_, rfl, rfl, rfl, rfl⟩
        · rw [h2]
          show (updAt p.s.ent.cores c _)[c]? = _
          rw [updAt_getElem?, if_pos rfl, List.getElem?_eq_getElem hlen]
          rfl
        · simp
      · rw [h2]
        exact congrArg (fun y : Inst => (y.key, y.v)) ((State.inst_onEnt _ _ (by intro; rfl) _).trans (State.inst_onInst ..))
    refine ⟨fun hk hcalls => ?_, fun b l hk hb => ?_⟩
    · have h := itemRun_generate hk t (p.s.inst x.inst)
      refine (hput (need := 0) ?_ (Nat.zero_le _) (by rw [hk]; decide) h).1
      simpa [hk, itemBlocks, b2n] using hcalls
    · have h := itemRun_prGenerate hk t b (p.s.inst x.inst)
      have hb1 : p.s.ent.buffer.take 1 = [b] := by rw [hb]; rfl
      have h1 := hput (need := 1) (by simp [hk, itemBlocks]) (by rw [hb]; simp) (by rw [hk]; decide)
        ((congrArg (fun bs => itemRun x t bs (p.s.inst x.inst)) hb1).trans h)
      rw [hb] at h1
      exact h1
  · rintro ⟨r, i, k⟩ q l d e x s hsv hl hs he hr hb hh hp ho hc hd hde
    let u := (s.itemOff 0 x).onLink ⟨r, i, k⟩ fun l => { l with lastTick := some s.sch.tick }
    let l₁ : Link := { l with lastTick := some s.sch.tick }
    have hu : u.link ⟨r, i, k⟩ = some (q.onLink k fun l => { l with lastTick := some s.sch.tick }, l₁) :=
      State.link_onLink_own (s := s.itemOff 0 x) hl _
    have hcore : ∀ t : State, t = s.itemOff 0 x → t.ent.cores = [{ d with items := d.items.erase x }, e] := fun t ht => by
      rw [ht]
      show updAt s.ent.cores 0 _ = _
      rw [hc]
      rfl
    have hwho : x.who = some ⟨r, i, k⟩ := by
      have := List.find?_some hd
      simp only [Bool.and_eq_true, beq_iff_eq] at this
      exact this.1
    refine ⟨fun hop hk => ?_, fun hop hk => ?_⟩
    · let t := (u.emit ⟨r, i, k⟩ x.out fun _ => false).endLink ⟨r, i, k⟩ stOk
      have hdone : (s.itemOff 0 x).itemDone x = t := by
        have h := State.giveBytes_random (s := s.itemOff 0 x) hl hs hop x.out
        rcases hk with hk | hk <;> simp only [State.itemDone, hk, hwho] <;> exact h
      obtain ⟨q', hq', -⟩ := State.emit_gives hu hb hp ho x.out (fun _ => false) (last := true) rfl
      have htc : t.ent.cores = [{ d with items := d.items.erase x }, e] := by
        have h1 : t.ent = _ := State.endLink_unhealed State.ent (fun _ _ _ => rfl) (fun _ _ => rfl) (fun _ _ => rfl) (fun _ _ => rfl) hq' hs he hr hb hh
        rw [h1, State.emit_field State.ent (fun _ _ _ => rfl) (fun _ _ => rfl)]
        exact hcore (s.itemOff 0 x) rfl
      obtain ⟨q'', l', h1, h2, h3⟩ := State.emit_ends hu hs he hr hb hp ho x.out (fun _ => false) (last := true) rfl
      refine ⟨t, q'', l', congrArg Host.Outcome.next (State.runItemOf_first hsv hl hop hc hd hde hdone htc), h1, h2, h3, htc⟩
    · let t := u.endLink ⟨r, i, k⟩ stOk
      have hdone : (s.itemOff 0 x).itemDone x = t := by
        simp only [State.itemDone, hk, hwho]
        rfl
      have htc : t.ent.cores = [{ d with items := d.items.erase x }, e] := by
        have h1 : t.ent = _ := State.endLink_unhealed State.ent (fun _ _ _ => rfl) (fun _ _ => rfl) (fun _ _ => rfl) (fun _ _ => rfl) hu hs he hr hb hh
        rw [h1]
        exact hcore (s.itemOff 0 x) rfl
      obtain ⟨q', stamp, viol, h⟩ := State.endLink_link hu hs stOk
      have hres : l₁.result stOk = stOk := by simp [Link.result, l₁, he, hr]
      refine ⟨t, q', _, congrArg Host.Outcome.next (State.runItemOf_first hsv hl hop hc hd hde hdone htc), h, ?_, rfl, htc⟩
      rw [hres]
      rfl
  · intro c d x s ht hd hx off
    have he := exec_drbgItemDone ht hd hx
    refine ⟨he, fun hk => ?_, fun hk => ?_, fun id q l hk hw hl hs ho => ?_⟩
    · refine ⟨_, he, ?_, ?_⟩
      all_goals simp only [State.itemDone, hk]
      · unfold State.inst
        rw [State.seedCheck_ent]
        exact congrArg Inst.st (State.inst_onInst ..)
      · rw [State.seedCheck_ent]
        exact s.itemOff_cores c x hd
    · rw [he]
      rcases hk with hk | hk <;> simp only [State.itemDone, hk] <;> rfl
    · obtain ⟨r, i, k⟩ := id
      have hg : (s.itemOff c x).itemDone x = off.onLink ⟨r, i, k⟩ fun l => { l with drawn := drawTake l.hdr l.drawn x.out } := by
        simp only [State.itemDone, hk, hw]
        exact State.giveBytes_draw (s := s.itemOff c x) hl hs ho x.out
      rw [hg] at he
      exact ⟨_, _, he, State.link_onLink_own (s := off) hl _, s.itemOff_cores c x hd⟩

end Random

end Sys2Proof.Machine

/-! ### PROOFS. A grant runs (R100, R126, R150, R192, R205, R222) -/

namespace Sys2Proof.Machine

section Grants

variable {s u : State} {r i k : Nat} {q : Req} {l : Link} {g : Grant}

/-! #### No grant of a link runs -/

def State.NotRunning (id : LinkId) (s : State) : Prop := ∀ h ∈ s.sch.running, h.id ≠ id

/-- What holds of a state through every end of a link: it may speak of the running grants and the Vault steps, which a link's end
takes away alone. -/
structure KeptByEnd (P : State → Prop) : Prop where
  link    : ∀ s id f, P s → P (State.onLink s id f)
  ring    : ∀ s n, P s → P (State.countRing s n)
  eph     : ∀ s f, P s → P (State.onEph s f)
  sch     : ∀ s f, (∀ c, ∀ x ∈ (f c).running, x ∈ c.running) → P s → P (State.onSch s f)
  prt     : ∀ s f, P s → P (State.onPrt s f)
  reads   : ∀ s f, P s → P (State.onReads s f)
  unbind  : ∀ s id, P s → P (State.unbind s id)
  unit    : ∀ s u f, P s → P (State.onUnit s u f)
  ent     : ∀ s f, P s → P (State.onEnt s f)
  key     : ∀ s f, (∀ c, ∀ v ∈ (f c).jobs, v ∈ c.jobs) → P s → P (State.onKey s f)

theorem kept_ite {β : Type} (P : β → Prop) {c : Prop} [Decidable c] {a b : β} (ha : P a) (hb : P b) : P (if c then a else b) := by
  split
  · exact ha
  · exact hb

namespace KeptByEnd

variable {P : State → Prop} (h : KeptByEnd P)

include h

theorem counts (f : Sch → Sch) (hf : ∀ c, (f c).running = c.running) (hs : P s) : P (s.onSch f) :=
  h.sch _ _ (fun c x hx => by rwa [hf] at hx) hs

theorem push (q : EphQ) (hs : P s) : P (s.ephPush q) := by
  unfold State.ephPush
  split
  · exact hs
  · exact h.eph _ _ hs

theorem transient (w : UnitId) (hs : P s) : P (s.transient w) := by
  have hu := h.unit s w (fun x => { x with trans := x.trans + 1
                                           hist := (x.hist.filter fun v => decide (modSub s.sch.tick v (2 ^ 32) < 1024)) ++ [s.sch.tick] }) hs
  unfold State.transient
  refine kept_ite P hu ?_
  · split
    · exact h.counts (s := State.onUnit _ _ _) _ (fun _ => rfl) (h.unit _ _ _ hu)
    · exact h.counts (s := State.onUnit _ _ _) _ (fun _ => rfl) hu
    · exact hu

theorem healLink (id : LinkId) (hs : P s) : P (s.healLink id) := by
  unfold State.healLink
  split
  · exact hs
  · refine foldl_invariant (P := P) (fun t us ht => ?_) _ (h.link _ _ _ hs)
    exact foldl_invariant (P := P) (fun t w ht => h.transient w ht) _ (h.push _ (h.counts _ (fun _ => rfl) ht))

theorem part (p : Nat) (f : Part → Part) (hs : P s) : P (s.onPart p f) := by
  unfold State.onPart
  exact h.prt _ _ hs

theorem packetViolation (code ring idx link : Nat) (hs : P s) : P (s.packetViolation code ring idx link) := by
  unfold State.packetViolation
  exact h.push _ (h.ring _ _ (h.part _ _ hs))

theorem dropOps (f : PageOp → Bool) (hs : P s) : P (s.dropOps f) := by
  unfold State.dropOps
  dsimp only
  split
  · exact hs
  · exact h.key _ _ (fun _ _ hv => hv) (h.reads _ _ hs)

theorem dropWork (id : LinkId) (hs : P s) : P (s.dropWork id) := by
  unfold State.dropWork
  exact h.sch _ _ (fun _ _ hx => (List.mem_filter.1 hx).1) (h.key _ _ (fun _ _ hv => (List.mem_filter.1 hv).1) (h.ent _ _ (h.dropOps _ hs)))

theorem forceStat (id : LinkId) (st : Stat) (hs : P s) : P (s.forceStat id st) := by
  unfold State.forceStat
  split
  · exact hs
  · split
    · exact hs
    · exact h.reads _ _ (h.dropWork _ (h.unbind _ _ (h.healLink _ (h.link _ _ _ hs))))

theorem abandonAfter (id : LinkId) (hs : P s) : P (s.abandonAfter id) := by
  unfold State.abandonAfter
  split
  · exact hs
  · refine foldl_invariant (P := P) (fun t j ht => ?_) _ hs
    split
    · exact h.forceStat _ _ ht
    · exact ht

theorem endNow (id : LinkId) (st : Stat) (hs : P s) : P (s.endNow id st) := by
  unfold State.endNow
  exact h.reads _ _ (h.sch _ _ (fun _ _ hx => (List.mem_filter.1 hx).1) (h.unbind _ _ (h.healLink _ (h.link _ _ _ hs))))

theorem endViol (q : Req) (id : LinkId) (st : Stat) (hs : P s) : P (s.endViol q id st) := by
  unfold State.endViol
  split
  · split
    · exact h.packetViolation _ _ _ _ hs
    · exact h.link _ _ _ hs
  · exact hs

theorem endAs (id : LinkId) (st : Stat) (hs : P s) : P (s.endAs id st) := by
  cases hl : s.link id with
  | none => simpa [State.endAs, hl] using hs
  | some x =>
    cases hst : x.2.stat with
    | some _ => rwa [State.endAs_of_stat (q := x.1) (l := x.2) hl (by rw [hst]; rfl)]
    | none =>
      have he := h.endViol x.1 id st (h.endNow id st hs)
      rw [State.endAs_eq (q := x.1) (l := x.2) hl hst]
      split
      · exact he
      · exact h.abandonAfter _ he

theorem handOver (id : LinkId) (hs : P s) : P (s.handOver id) := by
  unfold State.handOver
  split
  · exact hs
  · split
    · exact hs
    · dsimp only
      split
      · exact h.link _ _ _ hs
      · split
        · exact h.link _ _ _ hs
        · exact h.endAs _ _ (h.link _ _ _ hs)

theorem endLink (id : LinkId) (st : Stat) (hs : P s) : P (s.endLink id st) := by
  unfold State.endLink
  split
  · exact hs
  · exact kept_ite P (h.handOver _ (h.endAs _ _ hs)) (h.endAs _ _ hs)

end KeptByEnd

theorem State.notRunning_of_sch {id : LinkId} {t : State} (h : s.NotRunning id) (he : t.sch = s.sch) : t.NotRunning id := by
  unfold State.NotRunning
  rw [he]
  exact h

theorem State.notRunning_keptByEnd (id : LinkId) : KeptByEnd (State.NotRunning id) where
  link _ _ _ h := h
  ring s n h := h
  eph _ _ h := h
  sch _ _ hf h := fun x hx => h x (hf _ x hx)
  prt _ _ h := h
  reads _ _ h := h
  unbind _ _ h := h
  unit s u f h := by
    refine State.notRunning_of_sch h ?_
    exact State.onUnit_sch s u f
  ent _ _ h := h
  key _ _ _ h := h

/-! #### The state in which a grant runs -/

/-- A grant of the link is taken off the running ones: its unit finds the link, its keys, its ring and the fabric as before. -/
structure State.Taken (s u : State) (id : LinkId) (l : Link) : Prop where
  link : ∃ q, u.link id = some (q, l)
  key  : u.key = s.key
  ring : u.ring id.ring = s.ring id.ring
  mov  : u.mov = s.mov
  idle : u.NotRunning id

/-- The grant stops its batch and runs no more. -/
def State.turn (s : State) (id : LinkId) : State :=
  (s.stopBatch id).onSch fun c => { c with running := c.running.filter fun h => h.id != id }

theorem State.turn_taken (hl : s.link ⟨r, i, k⟩ = some (q, l)) : s.Taken (s.turn ⟨r, i, k⟩) ⟨r, i, k⟩ l where
  link := ⟨q, hl⟩
  key := rfl
  ring := rfl
  mov := rfl
  idle h hh := by
    have hm : h ∈ (s.stopBatch ⟨r, i, k⟩).sch.running.filter fun h => h.id != ⟨r, i, k⟩ := hh
    simpa using (List.mem_filter.1 hm).2

theorem State.Taken.retryOk (h : s.Taken u ⟨r, i, k⟩ l) (hr : l.retryUsed = false) : s.Taken (u.retryOk ⟨r, i, k⟩) ⟨r, i, k⟩ l where
  link := by
    obtain ⟨q, hl⟩ := h.link
    refine ⟨_, (State.link_onLink_own hl _).trans (congrArg (fun x => some (_, x)) ?_)⟩
    simp only [hr, Bool.not_false, if_true]
  key := h.key
  ring := h.ring
  mov := h.mov
  idle := h.idle

/-- A request command runs the grant of its link. -/
theorem State.runOp_taken {op : Nat} (hs : s.serving = true) (hl : s.link ⟨r, i, k⟩ = some (q, l)) (ho : l.hdr.opcode = op)
    (hg : s.runningOf ⟨r, i, k⟩ = some g) (hi : g.id = ⟨r, i, k⟩) (hf : g.follow = false) (hr : l.retryUsed = false)
    (hc : ∀ w ∈ s.dat.compare, w.id ≠ ⟨r, i, k⟩) : ∃ u, s.Taken u ⟨r, i, k⟩ l ∧ s.runOp op ⟨r, i, k⟩ = u.runUnit g := by
  have hcmp : (s.dat.compare.find? fun w => w.id == g.id) = none := List.find?_eq_none.2 fun w hw => by simpa [hi] using hc w hw
  have ht := State.turn_taken (s := s) hl
  have hrun : s.runOp op ⟨r, i, k⟩ = s.runGrant g := by
    simp only [State.runOp, hl, ho, hs, and_self, if_true, State.runLink, hg]
  rw [hrun]
  unfold State.runGrant
  rw [hcmp]
  simp only [hf, hi, Bool.false_eq_true, if_false]
  exact kept_ite (fun t => ∃ u, s.Taken u ⟨r, i, k⟩ l ∧ t = u.runUnit g) ⟨_, ht.retryOk hr, rfl⟩
    (kept_ite (fun t => ∃ u, s.Taken u ⟨r, i, k⟩ l ∧ t = u.runUnit g) ⟨_, ht.retryOk hr, rfl⟩ ⟨_, ht, rfl⟩)

theorem State.Taken.linkKey (h : s.Taken u ⟨r, i, k⟩ l) : u.linkKey l = s.linkKey l := by
  unfold State.linkKey State.slot
  rw [h.key]

theorem State.Taken.inlineDst (h : s.Taken u ⟨r, i, k⟩ l) : u.inlineDst l ⟨r, i, k⟩ = s.inlineDst l ⟨r, i, k⟩ := by
  unfold State.inlineDst
  rw [h.ring]

theorem State.Taken.outIdle (h : s.Taken u ⟨r, i, k⟩ l) : u.outIdle ⟨r, i, k⟩ l = s.outIdle ⟨r, i, k⟩ l := by
  unfold State.outIdle State.writes
  rw [h.mov]

theorem State.Taken.gaveOut {t : State} {l' : Link} {b : Bytes} (h : s.Taken u ⟨r, i, k⟩ l) (hg : u.gaveOut t ⟨r, i, k⟩ l l' b) :
    s.gaveOut t ⟨r, i, k⟩ l l' b := by
  unfold State.gaveOut at hg ⊢
  rwa [h.inlineDst] at hg

/-! #### What a grant runs is its unit's -/

theorem State.runUnit_lane {n : Nat} (hl : s.link g.id = some (q, l)) (hs : l.stat = none) (hu : g.unit = .lane n) : s.runUnit g = s.runLane g l := by
  simp [State.runUnit, hl, hs, hu]

theorem State.runUnit_engine {n : Nat} (hl : s.link g.id = some (q, l)) (hs : l.stat = none) (hu : g.unit = .engine n) (hj : l.job = none) :
    s.runUnit g = s.runDigest g l := by
  simp [State.runUnit, hl, hs, hu, hj]

theorem State.runUnit_macu {n : Nat} (hl : s.link g.id = some (q, l)) (hs : l.stat = none) (hu : g.unit = .macu n) : s.runUnit g = s.runJob g.id l := by
  simp [State.runUnit, hl, hs, hu]

/-! #### No grant runs anew -/

section Idle

variable {id : LinkId}

theorem State.NotRunning.endLink (h : s.NotRunning id) (x : LinkId) (st : Stat) : (s.endLink x st).NotRunning id :=
  (State.notRunning_keptByEnd id).endLink x st h

theorem State.NotRunning.onLink (h : s.NotRunning id) (x : LinkId) (f : Link → Link) : (s.onLink x f).NotRunning id := h

theorem State.NotRunning.emit (h : s.NotRunning id) (x : LinkId) (b : Bytes) (bad : Nat → Bool) (last : Bool) : (s.emit x b bad last).NotRunning id :=
  State.notRunning_of_sch h (State.emit_field State.sch (fun _ _ _ => rfl) (fun _ _ => rfl) s x b bad last)

theorem State.NotRunning.emitEnd (h : s.NotRunning id) (x : LinkId) (b : Bytes) (bad : Nat → Bool) (last : Bool) (st : Stat) :
    ((s.emit x b bad last).endLink x st).NotRunning id := (h.emit x b bad last).endLink x st

theorem State.emitAt_field {α : Type} (f : State → α) (hl : ∀ s id h, f (State.onLink s id h) = f s) (hm : ∀ s h, f (State.onMov s h) = f s)
    (s : State) (x : LinkId) (pos : Nat) (b : Bytes) (bad : Nat → Bool) (last : Bool) : f (s.emitAt x pos b bad last) = f s := by
  unfold State.emitAt
  split
  · rfl
  · exact keeps_ite f (hl _ _ _) ((foldl_keeps f (fun t p => State.write_field f hm t ..) _ _).trans (hl _ _ _))

theorem State.NotRunning.emitAt (h : s.NotRunning id) (x : LinkId) (pos : Nat) (b : Bytes) (bad : Nat → Bool) (last : Bool) :
    (s.emitAt x pos b bad last).NotRunning id :=
  State.notRunning_of_sch h (State.emitAt_field State.sch (fun _ _ _ => rfl) (fun _ _ => rfl) s x pos b bad last)

theorem State.NotRunning.tagNow (h : s.NotRunning id) (x : LinkId) : (s.tagNow x).NotRunning id := by
  unfold State.tagNow
  split
  · exact h
  · split
    · exact h
    · split
      · exact h
      · exact kept_ite _ (h.endLink _ _) (h.emitEnd _ _ _ _ _)

theorem State.NotRunning.laneEnd (h : s.NotRunning id) (x : LinkId) (l : Link) (single : Bool) (out tag : Bytes) :
    (s.laneEnd x l single out tag).NotRunning id := by
  unfold State.laneEnd
  refine kept_ite _ (kept_ite _ (h.emitEnd _ _ _ _ _) ?_) (kept_ite _ (h.emitEnd _ _ _ _ _) (kept_ite _ (h.endLink _ _) (kept_ite _ ?_
    (h.emitEnd _ _ _ _ _))))
  · exact ((h.emit _ _ _ _).onLink _ _).tagNow _
  · exact kept_ite _ (h.emitEnd _ _ _ _ _) (kept_ite _ (h.endLink _ _) (kept_ite _ (h.endLink _ _) ((h.emit _ _ _ _).onLink _ _)))

/-- A context entry that leaves the cache leaves the grants. -/
theorem State.spill_sch (s : State) (n : Nat) : (s.spill n).sch = s.sch := by
  unfold State.spill
  split
  · rfl
  · dsimp only
    split
    · exact State.write_field State.sch (fun _ _ => rfl) ..
    · rfl

theorem State.NotRunning.runLane (h : s.NotRunning id) (g : Grant) (l : Link) : (s.runLane g l).NotRunning id := by
  have hsp : ∀ n, (s.spill n).NotRunning id := fun n => State.notRunning_of_sch h (State.spill_sch s n)
  unfold State.runLane
  refine kept_ite _ (kept_ite _ ((h.emitAt _ _ _ _ _).endLink _ _) ((h.emitAt _ _ _ _ _).onLink _ _)) (kept_ite _ (h.laneEnd _ _ _ _ _) ?_)
  refine State.NotRunning.onLink (State.NotRunning.emit ?_ _ _ _ _) _ _
  split
  · exact kept_ite _ (hsp _) h
  · exact h

theorem State.NotRunning.runDigest (h : s.NotRunning id) (g : Grant) (l : Link) : (s.runDigest g l).NotRunning id := by
  unfold State.runDigest
  refine kept_ite _ (h.onLink _ _) (kept_ite _ ((h.onLink _ _).endLink _ _) (kept_ite _ ((h.onLink _ _).emitEnd _ _ _ _ _) ((h.onLink _ _).emit _ _ _ _)))

theorem State.NotRunning.finishJob (h : s.NotRunning id) (x : LinkId) (l : Link) (j : Job) : (s.finishJob x l j).NotRunning id := by
  have hd : (s.draw 5).2.NotRunning id := h
  unfold State.finishJob
  exact kept_ite _ h (kept_ite _ ((hd.onLink _ _).emit _ _ _ _) (kept_ite _ (hd.emitEnd _ _ _ _ _) (hd.endLink _ _)))

theorem State.NotRunning.runJob (h : s.NotRunning id) (x : LinkId) (l : Link) : (s.runJob x l).NotRunning id := by
  have hu : ∀ t : State, t.NotRunning id → ∀ e : Option JElem, (match e with
      | some (.hash _ true) => t.unbind x
      | _ => t).NotRunning id := fun t ht e => by
    split
    · exact ht
    · exact ht
  unfold State.runJob
  split
  · exact h
  · dsimp only
    split
    · exact (hu _ (h.onLink _ _) _).endLink _ _
    · exact kept_ite _ ((hu _ (h.onLink _ _) _).finishJob _ _ _) (hu _ (h.onLink _ _) _)

theorem State.NotRunning.runUnit (h : s.NotRunning id) (g : Grant) : (s.runUnit g).NotRunning id := by
  unfold State.runUnit
  split
  · exact h
  · refine kept_ite _ h ?_
    split
    · exact h.runLane _ _
    · exact kept_ite _ (h.runJob _ _) (h.runDigest _ _)
    · exact h.runJob _ _

/-! #### The Vault writes of a creation -/

/-- A creation begins with its extended record, where it has one, else with its context (R176). -/
theorem State.vaultBegin_create (s : State) {v : VJob} (hv : v.retire = false) : ∃ a b w,
    s.vaultBegin v = (s.stager.2.onKey fun x => { x with jobs := x.jobs ++ [w] }).vaultWrite a b (.vault v.id) := by
  unfold State.vaultBegin
  simp only [hv, Bool.false_eq_true, if_false]
  cases hx : v.ext with
  | some e => exact ⟨_, _, _, rfl⟩
  | none => exact ⟨_, _, _, rfl⟩

theorem State.vaultBegin_sch (s : State) {v : VJob} (hv : v.retire = false) : (s.vaultBegin v).sch = s.sch := by
  obtain ⟨a, b, w, he⟩ := s.vaultBegin_create hv
  rw [he]
  exact State.write_field State.sch (fun _ _ => rfl) ..

theorem State.NotRunning.createOf (h : s.NotRunning id) (op : Nat) (x : LinkId) : (s.createOf op x).NotRunning id := by
  unfold State.createOf
  split
  · exact h
  · refine kept_ite _ ?_ h
    unfold State.createKey
    split
    · exact h
    · split
      · exact h
      · refine kept_ite _ h ?_
        split
        · exact h.endLink _ _
        · exact State.notRunning_of_sch h (State.vaultBegin_sch _ rfl)

end Idle

/-! #### What a grant that is not the last leaves of its link -/

theorem State.link_onLink_fixed (hl : s.link ⟨r, i, k⟩ = some (q, l)) (x : LinkId) {f : Link → Link} (hf : f l = l) :
    ∃ q', (s.onLink x f).link ⟨r, i, k⟩ = some (q', l) := by
  obtain ⟨a, b, c⟩ := x
  by_cases hx : a ≠ r ∨ b ≠ i
  · exact ⟨q, (State.link_of_req_eq (State.req_onLink_other s hx c f) k).trans hl⟩
  · obtain ⟨rfl, rfl⟩ : a = r ∧ b = i := by omega
    obtain ⟨hq, hk⟩ := State.of_link hl
    refine ⟨q.onLink c f, State.link_of_req (by rw [State.req_onLink_same, hq]; rfl) ?_⟩
    by_cases hc : c = k <;> simp [Req.onLink, updAt_getElem?, hk, hc, hf]

/-- The context entry of a link that has none is not taken from it. -/
theorem State.spill_link (hl : s.link ⟨r, i, k⟩ = some (q, l)) (hx : l.ctx = none) (n : Nat) : ∃ q', (s.spill n).link ⟨r, i, k⟩ = some (q', l) := by
  unfold State.spill
  split
  · exact ⟨q, hl⟩
  · dsimp only
    split
    · next x j _ _ =>
      obtain ⟨q', h'⟩ := State.link_onLink_fixed (s := (s.draw 0).2) (q := q) (f := fun l => { l with ctx := l.ctx.map fun c => { c with spilled := some j } })
        hl x.1 (by rw [hx, Option.map_none, ← hx])
      exact ⟨q', (State.write_field (fun t : State => t.link ⟨r, i, k⟩) (fun _ _ => rfl) ..).trans h'⟩
    · exact ⟨q, hl⟩

/-- What is put out changes of the link what tells its output alone. -/
theorem State.emitAt_link (hl : s.link ⟨r, i, k⟩ = some (q, l)) (pos : Nat) (b : Bytes) (bad : Nat → Bool) (last : Bool) :
    ∃ q' out hold, (s.emitAt ⟨r, i, k⟩ pos b bad last).link ⟨r, i, k⟩ = some (q', { l with output := out, unitHold := hold }) := by
  unfold State.emitAt
  simp only [hl]
  refine kept_ite (fun t : State => ∃ q' out hold, t.link ⟨r, i, k⟩ = some (q', { l with output := out, unitHold := hold }))
    ⟨_, _, l.unitHold, State.link_onLink_own hl _⟩ ?_
  have h : ∀ w : Bytes, (s.onLink ⟨r, i, k⟩ fun l => { l with unitHold := w }).link ⟨r, i, k⟩
      = some (q.onLink k fun l => { l with unitHold := w }, { l with unitHold := w }) := fun w => State.link_onLink_own hl _
  exact ⟨_, l.output, _, (foldl_keeps (fun t : State => t.link ⟨r, i, k⟩) (fun t p => State.write_field (fun t : State => t.link ⟨r, i, k⟩)
    (fun _ _ => rfl) t ..) _ _).trans (h _)⟩

theorem State.emit_link (hl : s.link ⟨r, i, k⟩ = some (q, l)) (b : Bytes) (bad : Nat → Bool) (last : Bool) :
    ∃ q' out hold, (s.emit ⟨r, i, k⟩ b bad last).link ⟨r, i, k⟩ = some (q', { l with output := out, unitHold := hold, outPos := l.outPos + b.length }) := by
  obtain ⟨q', out, hold, h⟩ := State.emitAt_link hl l.outPos (l.masked b bad) bad last
  unfold State.emit
  simp only [hl]
  exact ⟨_, out, hold, State.link_onLink_own h _⟩

theorem State.runLane_on {n : Nat} (hl : s.link ⟨r, i, k⟩ = some (q, l)) (hi : g.id = ⟨r, i, k⟩) (hu : g.unit = .lane n) (hz : g.zero = false)
    (hlast : g.last = false) (hs : l.stat = none) : ∃ q' l', (s.runLane g l).link ⟨r, i, k⟩ = some (q', l') ∧ l'.stat = none ∧ l'.pos = l.pos + g.len
      ∧ l'.seg = l.seg + 1 ∧ l'.ctx = some { (s.laneRun g l).ctx with spilled := none } := by
  have hsp : ∃ q', (if l.ctx.isNone then s.spill (n / 4) else s).link ⟨r, i, k⟩ = some (q', l) := by
    split
    · exact State.spill_link hl (by simpa using ‹l.ctx.isNone = true›) _
    · exact ⟨q, hl⟩
  obtain ⟨q₁, h₁⟩ := hsp
  obtain ⟨q₂, out, hold, h₂⟩ := State.emit_link h₁ (s.laneRun g l).out l.badByte false
  unfold State.runLane
  simp only [hz, hlast, hi, hu, Bool.false_eq_true, if_false]
  exact ⟨_, _, State.link_onLink_own h₂ _, hs, rfl, rfl, rfl⟩

theorem State.runDigest_on (hl : s.link ⟨r, i, k⟩ = some (q, l)) (hi : g.id = ⟨r, i, k⟩) (hlast : g.last = false) (ha : l.absDone = false)
    (hs : l.stat = none) : ∃ q' l', (s.runDigest g l).link ⟨r, i, k⟩ = some (q', l') ∧ l'.stat = none ∧ l'.pos = l.pos + g.len ∧ l'.seg = l.seg + 1 := by
  unfold State.runDigest
  simp only [hlast, ha, hi, Bool.not_false, Bool.and_self, if_true]
  exact ⟨_, _, State.link_onLink_own hl _, hs, rfl, rfl⟩

/-- The link once an element of its job has run. -/
def Link.elemRun (l : Link) : Link := { l with job := l.job.map fun x => { x with elemNo := x.elemNo + 1 }, seg := l.seg + 1 }

/-- The element's count goes on, and the engine of a hash's last slot is free of the link. -/
def State.elemRun (s : State) (id : LinkId) (j : Job) : State :=
  let s := s.onLink id fun l => { l with job := l.job.map fun x => { x with elemNo := j.elemNo + 1 }, seg := l.seg + 1 }
  match j.elems[j.elemNo]? with
  | some (.hash _ true) => s.unbind id
  | _ => s

theorem State.elemRun_link {j : Job} (hl : s.link ⟨r, i, k⟩ = some (q, l)) (hj : l.job = some j) :
    (s.elemRun ⟨r, i, k⟩ j).link ⟨r, i, k⟩ = some (q.onLink k fun l => { l with job := l.job.map fun x => { x with elemNo := j.elemNo + 1 }, seg := l.seg + 1 },
      l.elemRun) := by
  have h := State.link_onLink_own hl fun l => { l with job := l.job.map fun x => { x with elemNo := j.elemNo + 1 }, seg := l.seg + 1 }
  have he : l.elemRun = { l with job := l.job.map fun x => { x with elemNo := j.elemNo + 1 }, seg := l.seg + 1 } := by
    simp [Link.elemRun, hj]
  rw [he]
  unfold State.elemRun
  split
  · exact h
  · exact h

theorem State.runJob_eq {id : LinkId} {j : Job} (hj : l.job = some j) (hv : j.elemNo + 1 ≠ j.valid) : s.runJob id l
    = if j.elemNo + 1 = j.elems.length then (s.elemRun id j).finishJob id l j else s.elemRun id j := by
  unfold State.runJob
  simp only [hj, hv, if_false]
  rfl

theorem State.createOf_of_link {t : State} {op : Nat} {id : LinkId} (hl : t.link id = some (q, l)) (h : l.hdr.opcode = op → t.createKey id = t) :
    t.createOf op id = t := by
  simp only [State.createOf, hl]
  split
  · exact h ‹_›
  · rfl

/-- A job with elements to run makes no key yet. -/
theorem State.createKey_early {t : State} {id : LinkId} {j : Job} (hl : t.link id = some (q, l)) (hj : l.job = some j) (he : j.elemNo < j.elems.length) :
    t.createKey id = t := by
  have hready : l.jobReady q.part = false := by
    simp [Link.jobReady, hj, Nat.not_le.2 he]
  simp [State.createKey, hl, hj, hready]

end Grants

/-! #### The obligation -/

section Obligation

variable {s : State} {r i k : Nat} {q : Req} {l : Link} {g : Grant} {c : Instr}

/-- The request commands, and what each does once its grant has run. -/
theorem exec_grant (hc : (l.hdr.opcode, c) ∈ [(opSeal, Instr.aeadSeal ⟨r, i, k⟩), (opOpen, .aeadOpen ⟨r, i, k⟩), (opEnc, .cipherEnc ⟨r, i, k⟩),
      (opDec, .cipherDec ⟨r, i, k⟩), (opGmacGen, .gmacGen ⟨r, i, k⟩), (opGmacVer, .gmacVerify ⟨r, i, k⟩), (opDigest, .digest ⟨r, i, k⟩),
      (opHmacGen, .hmacGen ⟨r, i, k⟩), (opHmacVer, .hmacVerify ⟨r, i, k⟩), (opCopy, .copy ⟨r, i, k⟩), (opPk, .pkJob ⟨r, i, k⟩)]) :
    (l.hdr.opcode ≠ opPk ∧ exec c s = .next (s.runOp l.hdr.opcode ⟨r, i, k⟩))
      ∨ (l.hdr.opcode = opPk ∧ exec c s = .next ((s.runOp l.hdr.opcode ⟨r, i, k⟩).createOf opPk ⟨r, i, k⟩)) := by
  simp only [List.mem_cons, Prod.mk.injEq, List.not_mem_nil, or_false] at hc
  rcases hc with ⟨h, rfl⟩ | ⟨h, rfl⟩ | ⟨h, rfl⟩ | ⟨h, rfl⟩ | ⟨h, rfl⟩ | ⟨h, rfl⟩ | ⟨h, rfl⟩ | ⟨h, rfl⟩ | ⟨h, rfl⟩ | ⟨h, rfl⟩ | ⟨h, rfl⟩ <;> rw [h]
  case inr.inr.inr.inr.inr.inr.inr.inr.inr.inr => exact .inr ⟨rfl, rfl⟩
  all_goals exact .inl ⟨by decide, rfl⟩

end Obligation

/-- Settles O39: the grant is taken off the running ones before its unit runs it, and no end of a link puts one there. -/
theorem grantRuns : Obligations.GrantRuns := by
  rintro ⟨r, i, k⟩ c q l g s hsv hl hg hi hf hs hr hcmp hc
  obtain ⟨u, hu, hop⟩ := State.runOp_taken hsv hl rfl hg hi hf hr hcmp
  obtain ⟨q', hul⟩ := hu.link
  have hull : u.link g.id = some (q', l) := by rw [hi]; exact hul
  have hgo := exec_grant (s := s) hc
  rw [hop] at hgo
  refine ⟨?_, fun n => ⟨fun hun hz hlast hlane => ?_, fun hun hlast ha hdig hj => ?_, fun j hun hpk hj hmore hv => ?_⟩⟩
  · rcases hgo with ⟨-, hgo⟩ | ⟨-, hgo⟩
    · exact ⟨_, hgo, hu.idle.runUnit g⟩
    · exact ⟨_, hgo, (hu.idle.runUnit g).createOf _ _⟩
  · have hne : l.hdr.opcode ≠ opPk := fun h => absurd (h ▸ hlane) (by decide)
    rcases hgo with ⟨-, hgo⟩ | ⟨h, -⟩
    · obtain ⟨q₁, l₁, h₁, h₂, h₃, h₄, h₅⟩ := State.runLane_on hul hi hun hz hlast hs
      rw [State.runUnit_lane hull hs hun] at hgo
      refine ⟨_, q₁, l₁, hgo, h₁, h₂, h₃, h₄, h₅.trans ?_⟩
      unfold State.laneRun
      dsimp only
      rw [hu.linkKey, hlast]
    · exact absurd h hne
  · have hne : l.hdr.opcode ≠ opPk := fun h => absurd (h ▸ hdig) (by decide)
    rcases hgo with ⟨-, hgo⟩ | ⟨h, -⟩
    · obtain ⟨q₁, l₁, h₁, h₂⟩ := State.runDigest_on hul hi hlast ha hs
      rw [State.runUnit_engine hull hs hun hj] at hgo
      exact ⟨_, q₁, l₁, hgo, h₁, h₂⟩
    · exact absurd h hne
  · rcases hgo with ⟨h, -⟩ | ⟨-, hgo⟩
    · exact absurd hpk h
    · have hrun : u.runUnit g = u.elemRun ⟨r, i, k⟩ j := by
        rw [State.runUnit_macu hull hs hun, hi, State.runJob_eq hj hv, if_neg (Nat.ne_of_lt hmore)]
      have hle := State.elemRun_link hul hj
      have hje : l.elemRun.job = some { j with elemNo := j.elemNo + 1 } := by simp [Link.elemRun, hj]
      rw [hrun, State.createOf_of_link hle fun _ => State.createKey_early hle hje hmore] at hgo
      exact ⟨_, _, l.elemRun, _, hgo, hle, hs, hje, rfl⟩

end Sys2Proof.Machine

/-! ### PROOFS. The lane commands on a source of one segment (R77, R87, R126, R132, R146 to R149, R270) -/

namespace Sys2Proof.Machine

section Lane

variable {s u : State} {r i k : Nat} {q : Req} {l : Link} {g : Grant}

/-! #### Output put out in parts -/

/-- Of a link without a gather list the pieces given are put out, and no byte waits for the rest of its unit. -/
def State.putSoFar (s : State) (id : LinkId) (l : Link) (done : List (Nat × Nat × Nat × Bytes × Nat)) : Prop :=
  l.hdr.dstGather = 0 → l.unitHold = [] ∧ s.mov.ports.length = 8 ∧ s.putsOut id done

theorem State.putPieces_ports (hp : s.mov.ports.length = 8) (id : LinkId) (fid : Nat) (ps : List (Nat × Nat × Nat × Bytes × Nat))
    (bad : Nat × Nat × Nat × Bytes × Nat → List Nat) : (s.putPieces id fid ps bad).mov.ports.length = 8 :=
  foldl_invariant (P := fun t : State => t.mov.ports.length = 8) (fun _ _ h => State.write_ports h ..) _ hp

theorem State.putSoFar_nil (ho : s.outIdle ⟨r, i, k⟩ l = true) : s.putSoFar ⟨r, i, k⟩ l [] := by
  obtain ⟨h8, hu, hw⟩ := State.outIdle_iff.1 ho
  exact fun _ => ⟨hu, h8, State.putsOut_nil hw⟩

/-- Bytes that go to memory are put out behind those before. -/
theorem State.emit_more (hl : s.link ⟨r, i, k⟩ = some (q, l)) (hb : l.hdr.bufDst = false) (hp : l.poisoned = [])
    (hin : s.inlineDst l ⟨r, i, k⟩ = false) {done : List (Nat × Nat × Nat × Bytes × Nat)} (hd : s.putSoFar ⟨r, i, k⟩ l done) (b : Bytes)
    (bad : Nat → Bool) (last : Bool) : ∃ q' out hold, (s.emit ⟨r, i, k⟩ b bad last).link ⟨r, i, k⟩
        = some (q', { l with output := out, unitHold := hold, outPos := l.outPos + b.length })
      ∧ (s.emit ⟨r, i, k⟩ b bad last).putSoFar ⟨r, i, k⟩ { l with unitHold := hold } (done ++ outPieces l.dstList 0 l.outPos l.outPos b) := by
  by_cases hg : l.hdr.dstGather = 0
  · obtain ⟨hu, h8, hpo⟩ := hd hg
    rw [State.emit_whole hl hb hu hp b bad (by simp [hg]), hin]
    simp only [Bool.false_eq_true, if_false]
    let v := s.onLink ⟨r, i, k⟩ fun l => { l with unitHold := [] }
    have hvl : v.link ⟨r, i, k⟩ = some (q.onLink k fun l => { l with unitHold := [] }, l) := by
      rw [State.link_onLink_own hl, Link.put_eq hu]
    have hpl := (State.putPieces_field (fun t : State => t.link ⟨r, i, k⟩) (fun _ _ => rfl) v ⟨r, i, k⟩ (s.fidOf q.part)
      (outPieces l.dstList 0 l.outPos l.outPos b) fun _ => []).trans hvl
    refine ⟨_, l.output, l.unitHold, State.link_onLink_own hpl _, fun _ => ⟨hu, ?_, ?_⟩⟩
    · exact State.putPieces_ports (s := v) h8 ..
    · exact State.putPieces_puts (s := v) h8 ⟨r, i, k⟩ (s.fidOf q.part) (fun _ => []) done _ hpo
  · obtain ⟨q', out, hold, h⟩ := State.emit_link hl b bad last
    exact ⟨q', out, hold, h, fun h => absurd h hg⟩

theorem State.endLink_plain (hl : s.link ⟨r, i, k⟩ = some (q, l)) (hs : l.stat = none) (he : l.err = none) (hr : l.retried = false) (st : Stat) :
    ∃ q' stamp viol, (s.endLink ⟨r, i, k⟩ st).link ⟨r, i, k⟩ = some (q', l.ended st stamp viol) := by
  have hres : l.result st = st := by simp [Link.result, he, hr]
  have h := State.endLink_link hl hs st
  rwa [hres] at h

theorem State.endLink_writes (s : State) (st : Stat) : (s.endLink ⟨r, i, k⟩ st).writes = s.writes := (endFrame_writes r i).endLink s k st

theorem outPieces_nil (es : List Elem) (n o pos : Nat) : outPieces es n o pos [] = [] := by
  cases es <;> simp [outPieces]

/-- A link that ends well with nothing more to put out. -/
theorem State.endLink_gives (hl : s.link ⟨r, i, k⟩ = some (q, l)) (hs : l.stat = none) (he : l.err = none) (hr : l.retried = false)
    (ho : s.outIdle ⟨r, i, k⟩ l = true) {st : Stat} (hg : st.good = true) : ∃ q' l', (s.endLink ⟨r, i, k⟩ st).link ⟨r, i, k⟩ = some (q', l')
      ∧ l'.stat = some st ∧ s.gaveOut (s.endLink ⟨r, i, k⟩ st) ⟨r, i, k⟩ l l' [] := by
  obtain ⟨q', stamp, viol, h⟩ := State.endLink_plain hl hs he hr st
  obtain ⟨-, -, hw⟩ := State.outIdle_iff.1 ho
  refine ⟨q', _, h, rfl, rfl, ?_⟩
  split
  · show (if st.good then l.output else []) = l.output ++ []
    rw [if_pos hg, List.append_nil]
  · rw [outPieces_nil]
    exact State.putsOut_of_writes (State.putsOut_nil hw) (s.endLink_writes st)

/-- A link that fails keeps no output and writes none. -/
theorem State.endLink_fails (hl : s.link ⟨r, i, k⟩ = some (q, l)) (hs : l.stat = none) (he : l.err = none) (hr : l.retried = false) {st : Stat}
    (hg : st.good = false) : ∃ q' l', (s.endLink ⟨r, i, k⟩ st).link ⟨r, i, k⟩ = some (q', l') ∧ l'.stat = some st ∧ l'.output = []
      ∧ (s.endLink ⟨r, i, k⟩ st).writes = s.writes := by
  obtain ⟨q', stamp, viol, h⟩ := State.endLink_plain hl hs he hr st
  refine ⟨q', _, h, rfl, ?_, s.endLink_writes st⟩
  show (if st.good then l.output else []) = []
  rw [hg]
  rfl

/-! #### The ends -/

/-- A link of a unit's grant that ends with a result: what it put out where the result is good, nothing where it is not. -/
def State.Ends (s t : State) (id : LinkId) (l : Link) (st : Stat) (put : Bytes) : Prop :=
  ∃ q' l', t.link id = some (q', l') ∧ l'.stat = some st ∧ (st.code = 0 → s.gaveOut t id l l' put) ∧ (st.code ≠ 0 → l'.output = [] ∧ t.writes = s.writes)

/-- What the grants of these statements find: no result, failure or retry before, no poisoned source, nothing of the output on its way. -/
structure Fresh (s : State) (id : LinkId) (l : Link) : Prop where
  stat : l.stat = none
  err  : l.err = none
  new  : l.retried = false
  pure : l.poisoned = []
  buf  : l.hdr.bufDst = false
  idle : s.outIdle id l = true

namespace Fresh

variable (h : Fresh s ⟨r, i, k⟩ l) (hl : s.link ⟨r, i, k⟩ = some (q, l))

include h hl

theorem emits (b : Bytes) (bad : Nat → Bool) {last : Bool} (hlast : last = true) :
    s.Ends ((s.emit ⟨r, i, k⟩ b bad last).endLink ⟨r, i, k⟩ stOk) ⟨r, i, k⟩ l ⟨0, 0⟩ b := by
  obtain ⟨q', l', h₁, h₂, h₃⟩ := State.emit_ends hl h.stat h.err h.new h.buf h.pure h.idle b bad (last := last) (by simp [hlast])
  exact ⟨q', l', h₁, h₂, fun _ => h₃, fun h => absurd rfl h⟩

theorem good : s.Ends (s.endLink ⟨r, i, k⟩ stOk) ⟨r, i, k⟩ l ⟨0, 0⟩ [] := by
  obtain ⟨q', l', h₁, h₂, h₃⟩ := State.endLink_gives hl h.stat h.err h.new h.idle (st := stOk) rfl
  exact ⟨q', l', h₁, h₂, fun _ => h₃, fun h => absurd rfl h⟩

theorem fails {st : Stat} (hg : st.good = false) (put : Bytes) : s.Ends (s.endLink ⟨r, i, k⟩ st) ⟨r, i, k⟩ l st put := by
  obtain ⟨q', l', h₁, h₂, h₃⟩ := State.endLink_fails hl h.stat h.err h.new hg
  refine ⟨q', l', h₁, h₂, fun h0 => ?_, fun _ => h₃⟩
  simp [Stat.good, h0] at hg

end Fresh

theorem State.Taken.fresh (ht : s.Taken u ⟨r, i, k⟩ l) (h : Fresh s ⟨r, i, k⟩ l) : Fresh u ⟨r, i, k⟩ l :=
  ⟨h.stat, h.err, h.new, h.pure, h.buf, ht.outIdle.trans h.idle⟩

theorem State.Taken.ends {t : State} {st : Stat} {put : Bytes} (ht : s.Taken u ⟨r, i, k⟩ l) (h : u.Ends t ⟨r, i, k⟩ l st put) :
    s.Ends t ⟨r, i, k⟩ l st put := by
  obtain ⟨q', l', h₁, h₂, h₃, h₄⟩ := h
  refine ⟨q', l', h₁, h₂, fun h => ht.gaveOut (h₃ h), fun h => ?_⟩
  obtain ⟨ho, hw⟩ := h₄ h
  refine ⟨ho, hw.trans ?_⟩
  unfold State.writes
  rw [ht.mov]

/-- AEAD_SEAL to memory: its output is put out, and the tag behind it, now or once the writes are done. -/
theorem Fresh.seals (h : Fresh s ⟨r, i, k⟩ l) (hl : s.link ⟨r, i, k⟩ = some (q, l)) (ho : l.hdr.opcode = opSeal)
    (hin : s.inlineDst l ⟨r, i, k⟩ = false) (single : Bool) (out tag : Bytes) : ∃ q' l', (s.laneEnd ⟨r, i, k⟩ l single out tag).link ⟨r, i, k⟩ = some (q', l')
      ∧ ((l'.stat = none ∧ l'.tagDue = some tag ∧ l'.outPos = l.outPos + out.length
          ∧ (l.hdr.dstGather = 0 → (s.laneEnd ⟨r, i, k⟩ l single out tag).putsOut ⟨r, i, k⟩ (outPieces l.dstList 0 l.outPos l.outPos out)))
        ∨ (l'.stat = some ⟨0, 0⟩ ∧ l'.outPos = l.outPos + out.length + tag.length
          ∧ (l.hdr.dstGather = 0 → (s.laneEnd ⟨r, i, k⟩ l single out tag).putsOut ⟨r, i, k⟩ (outPieces l.dstList 0 l.outPos l.outPos out
            ++ outPieces l.dstList 0 (l.outPos + out.length) (l.outPos + out.length) tag)))) := by
  obtain ⟨q₁, o₁, w₁, h₁, hp₁⟩ := State.emit_more hl h.buf h.pure hin (State.putSoFar_nil h.idle) out l.badByte false
  generalize hv : s.emit ⟨r, i, k⟩ out l.badByte false = v at h₁ hp₁
  have hring : v.ring r = s.ring r := by
    rw [← hv]
    exact State.emit_field (fun t : State => t.ring r) (fun _ _ _ => rfl) (fun _ _ => rfl) ..
  let w := v.onLink ⟨r, i, k⟩ fun l => { l with pos := l.hdr.cover, seg := l.seg + 1, tagDue := some tag }
  have hw := State.link_onLink_own h₁ fun l => { l with pos := l.hdr.cover, seg := l.seg + 1, tagDue := some tag }
  have he : s.laneEnd ⟨r, i, k⟩ l single out tag = w.tagNow ⟨r, i, k⟩ := by
    unfold State.laneEnd
    rw [if_pos ho, if_neg (by simp [h.pure, h.buf, hin]), hv]
  rw [he]
  have htag : w.tagNow ⟨r, i, k⟩ = if w.linkWaits ⟨r, i, k⟩ then w else (w.emit ⟨r, i, k⟩ tag (Link.badByte { l with
      output := o₁, unitHold := w₁, outPos := l.outPos + out.length, pos := l.hdr.cover, seg := l.seg + 1, tagDue := some tag })).endLink ⟨r, i, k⟩ stOk := by
    unfold State.tagNow
    rw [show w.link ⟨r, i, k⟩ = _ from hw]
    simp only [h.err, Option.isSome_none, Bool.false_eq_true, if_false]
  rw [htag]
  cases w.linkWaits ⟨r, i, k⟩ with
  | true =>
    simp only [if_true]
    exact ⟨_, _, hw, .inl ⟨h.stat, rfl, rfl, fun hg => (hp₁ hg).2.2⟩⟩
  | false =>
    simp only [Bool.false_eq_true, if_false]
    have hin' : inlineOut (w.ring r).attr l.hdr = false := by
      rw [show w.ring r = v.ring r from rfl, hring]
      exact hin
    obtain ⟨q₂, o₂, w₂, h₂, hp₂⟩ := State.emit_more (s := w) hw h.buf h.pure hin' hp₁ tag (Link.badByte { l with
      output := o₁, unitHold := w₁, outPos := l.outPos + out.length, pos := l.hdr.cover, seg := l.seg + 1, tagDue := some tag }) true
    obtain ⟨q₃, stamp, viol, h₃⟩ := State.endLink_plain h₂ h.stat h.err h.new stOk
    exact ⟨q₃, _, h₃, .inr ⟨rfl, rfl, fun hg => State.putsOut_of_writes (hp₂ hg).2.2 (State.endLink_writes _ _)⟩⟩

/-- The last segment of a lane link. -/
theorem State.runLane_last (hz : g.zero = false) (hlast : g.last = true) (hi : g.id = ⟨r, i, k⟩) (hp : l.pos = 0) :
    s.runLane g l = s.laneEnd ⟨r, i, k⟩ l true (s.laneRun g l).out (s.laneRun g l).tag := by
  simp [State.runLane, hz, hlast, hi, hp]

/-- What a segment from the source's first byte to its last computes. -/
theorem State.Taken.laneRun (hu : s.Taken u ⟨r, i, k⟩ l) (hlast : g.last = true) (hp : l.pos = 0) :
    u.laneRun g l = laneSeg l.hdr (s.linkKey l) l.iv (l.ctx.getD (initCtx l.hdr (s.linkKey l) l.iv)) 0 (l.srcSlice 0 g.len) true := by
  unfold State.laneRun
  dsimp only
  rw [hu.linkKey, hlast, hp]

namespace Fresh

variable (h : Fresh s ⟨r, i, k⟩ l) (hl : s.link ⟨r, i, k⟩ = some (q, l)) (out tag : Bytes)

include h hl

/-- The lane commands that put out what their segment computes. -/
theorem laneEnd_out (ho : l.hdr.opcode = opEnc ∨ l.hdr.opcode = opDec ∨ l.hdr.opcode = opCopy) :
    s.Ends (s.laneEnd ⟨r, i, k⟩ l true out tag) ⟨r, i, k⟩ l ⟨0, 0⟩ out := by
  have he : s.laneEnd ⟨r, i, k⟩ l true out tag = (s.emit ⟨r, i, k⟩ out l.badByte).endLink ⟨r, i, k⟩ stOk := by
    unfold State.laneEnd
    rcases ho with ho | ho | ho <;> rw [if_neg (by rw [ho]; decide), if_neg (by rw [ho]; decide), if_neg (by rw [ho]; decide), if_neg (by rw [ho]; decide)]
  rw [he]
  exact h.emits hl _ _ rfl

theorem laneEnd_gmacGen (ho : l.hdr.opcode = opGmacGen) : s.Ends (s.laneEnd ⟨r, i, k⟩ l true out tag) ⟨r, i, k⟩ l ⟨0, 0⟩ tag := by
  have he : s.laneEnd ⟨r, i, k⟩ l true out tag = (s.emit ⟨r, i, k⟩ tag l.badByte).endLink ⟨r, i, k⟩ stOk := by
    unfold State.laneEnd
    rw [if_neg (by rw [ho]; decide), if_pos ho]
  rw [he]
  exact h.emits hl _ _ rfl

theorem laneEnd_gmacVer (ho : l.hdr.opcode = opGmacVer) : s.Ends (s.laneEnd ⟨r, i, k⟩ l true out tag) ⟨r, i, k⟩ l
    (if l.srcSlice l.hdr.cover l.hdr.tagLen = tag then ⟨0, 0⟩ else ⟨0x10, 3⟩) [] := by
  have he : s.laneEnd ⟨r, i, k⟩ l true out tag
      = s.endLink ⟨r, i, k⟩ (if l.srcSlice l.hdr.cover l.hdr.tagLen == tag then stOk else stAuthFail 3) := by
    unfold State.laneEnd
    rw [if_neg (by rw [ho]; decide), if_neg (by rw [ho]; decide), if_pos ho]
  rw [he]
  by_cases hg : l.srcSlice l.hdr.cover l.hdr.tagLen = tag
  · rw [if_pos (by simpa using hg), if_pos hg]
    exact h.good hl
  · rw [if_neg (by simpa using hg), if_neg hg]
    exact h.fails hl rfl _

theorem laneEnd_open (ho : l.hdr.opcode = opOpen) : s.Ends (s.laneEnd ⟨r, i, k⟩ l true out tag) ⟨r, i, k⟩ l
    (if l.srcSlice l.hdr.cover l.hdr.tagLen = tag then ⟨0, 0⟩ else ⟨0x10, 1⟩) out := by
  have he : s.laneEnd ⟨r, i, k⟩ l true out tag = if l.srcSlice l.hdr.cover l.hdr.tagLen = tag then (s.emit ⟨r, i, k⟩ out l.badByte).endLink ⟨r, i, k⟩ stOk
      else s.endLink ⟨r, i, k⟩ (stAuthFail 1) := by
    unfold State.laneEnd
    rw [if_neg (by rw [ho]; decide), if_neg (by rw [ho]; decide), if_neg (by rw [ho]; decide), if_pos ho]
    simp [h.pure, h.err]
  rw [he]
  split
  · exact h.emits hl _ _ rfl
  · exact h.fails hl rfl _

theorem laneEnd_inline (ho : l.hdr.opcode = opSeal) (hin : s.inlineDst l ⟨r, i, k⟩ = true) :
    s.Ends (s.laneEnd ⟨r, i, k⟩ l true out tag) ⟨r, i, k⟩ l ⟨0, 0⟩ (out ++ tag) := by
  have he : s.laneEnd ⟨r, i, k⟩ l true out tag = (s.emit ⟨r, i, k⟩ (out ++ tag) l.badByte).endLink ⟨r, i, k⟩ stOk := by
    unfold State.laneEnd
    rw [if_pos ho, if_pos (by simp [hin])]
  rw [he]
  exact h.emits hl _ _ rfl

end Fresh

end Lane

/-- Settles O40: the segment is the link's first and last, so what it computes is the whole output, and a mismatch of the tag leaves none of it. -/
theorem laneOneSegment : Obligations.LaneOneSegment := by
  rintro ⟨r, i, k⟩ q l g n s hsv hl hg hi hun hf hlast hz hp hs he hr hru hpo hbuf hidle hcmp
  intro key o good ends
  have hfr : Fresh s ⟨r, i, k⟩ l := ⟨hs, he, hr, hpo, hbuf, hidle⟩
  have hrun : ∀ op, l.hdr.opcode = op → ∃ u q', s.Taken u ⟨r, i, k⟩ l ∧ u.link ⟨r, i, k⟩ = some (q', l)
      ∧ s.runOp op ⟨r, i, k⟩ = u.laneEnd ⟨r, i, k⟩ l true o.out o.tag := fun op ho => by
    obtain ⟨u, hu, hop⟩ := State.runOp_taken hsv hl ho hg hi hf hru hcmp
    obtain ⟨q', hul⟩ := hu.link
    rw [State.runUnit_lane (by rw [hi]; exact hul) hs hun, State.runLane_last hz hlast hi hp, hu.laneRun hlast hp] at hop
    exact ⟨u, q', hu, hul, hop⟩
  have hends : ∀ {c : Instr} {st : Stat} {put : Bytes} (op : Nat), l.hdr.opcode = op → exec c s = .next (s.runOp op ⟨r, i, k⟩) →
      (∀ u q', Fresh u ⟨r, i, k⟩ l → u.link ⟨r, i, k⟩ = some (q', l) → u.inlineDst l ⟨r, i, k⟩ = s.inlineDst l ⟨r, i, k⟩ →
        u.Ends (u.laneEnd ⟨r, i, k⟩ l true o.out o.tag) ⟨r, i, k⟩ l st put) → ends c st put := fun op ho hx h => by
    obtain ⟨u, q', hu, hul, hop⟩ := hrun op ho
    obtain ⟨q₁, l₁, h₁⟩ := hu.ends (h u q' (hu.fresh hfr) hul hu.inlineDst)
    exact ⟨_, q₁, l₁, hx.trans (congrArg _ hop), h₁⟩
  refine ⟨fun ho => ?_, fun ho => ?_, fun ho => ?_, fun ho => ?_, fun ho => ?_, fun ho => ?_, fun ho hin => ?_, fun ho hin => ?_⟩
  · exact hends opEnc ho rfl fun u q' h hul _ => h.laneEnd_out hul _ _ (.inl ho)
  · exact hends opDec ho rfl fun u q' h hul _ => h.laneEnd_out hul _ _ (.inr (.inl ho))
  · exact hends opCopy ho rfl fun u q' h hul _ => h.laneEnd_out hul _ _ (.inr (.inr ho))
  · exact hends opGmacGen ho rfl fun u q' h hul _ => h.laneEnd_gmacGen hul _ _ ho
  · exact hends opGmacVer ho rfl fun u q' h hul _ => h.laneEnd_gmacVer hul _ _ ho
  · exact hends opOpen ho rfl fun u q' h hul _ => h.laneEnd_open hul _ _ ho
  · exact hends opSeal ho rfl fun u q' h hul hd => h.laneEnd_inline hul _ _ ho (hd.trans hin)
  · obtain ⟨u, q', hu, hul, hop⟩ := hrun opSeal ho
    obtain ⟨q₁, l₁, h₁, h₂⟩ := (hu.fresh hfr).seals hul ho (hu.inlineDst.trans hin) true o.out o.tag
    exact ⟨_, q₁, l₁, congrArg Host.Outcome.next hop, h₁, h₂⟩

end Sys2Proof.Machine

/-! ### PROOFS. The last grant of a digest message and of a job (R176, R185 to R190, R205, R218) -/

namespace Sys2Proof.Machine

section Ends

variable {s u : State} {r i k : Nat} {q : Req} {l : Link} {g : Grant} {j : Job}

/-! #### Digest messages -/

/-- The link once the last absorbing grant of its message has run. -/
def Link.absorbed (l : Link) (g : Grant) : Link :=
  { l with pos := l.pos + g.len, seg := l.seg + 1, absDone := true, squeezed := l.squeezed + g.squeeze }

theorem Fresh.absorbed (h : Fresh s ⟨r, i, k⟩ l) (hl : s.link ⟨r, i, k⟩ = some (q, l)) (f : Link → Link) (hf : f l = l.absorbed g) :
    Fresh (s.onLink ⟨r, i, k⟩ f) ⟨r, i, k⟩ (l.absorbed g)
      ∧ (s.onLink ⟨r, i, k⟩ f).link ⟨r, i, k⟩ = some (q.onLink k f, l.absorbed g) :=
  ⟨⟨h.stat, h.err, h.new, h.pure, h.buf, h.idle⟩, by rw [State.link_onLink_own hl, hf]⟩

theorem State.Ends.of_absorbed {t : State} {st : Stat} {put : Bytes} {f : Link → Link} (h : (s.onLink ⟨r, i, k⟩ f).Ends t ⟨r, i, k⟩ (l.absorbed g) st put) :
    s.Ends t ⟨r, i, k⟩ l st put := h

/-- A message whose blocks are all absorbed and whose result needs no squeeze after it gives its whole result. -/
theorem Fresh.digests (h : Fresh s ⟨r, i, k⟩ l) (hl : s.link ⟨r, i, k⟩ = some (q, l)) (hi : g.id = ⟨r, i, k⟩) (hlast : g.last = true)
    (ha : l.absDone = false) (hpos : l.outPos = 0) (ho : l.hdr.opcode ≠ opHmacVer) (hx : l.hdr.opcode = opDigest → l.hdr.subop < 0x21) :
    s.Ends (s.runDigest g l) ⟨r, i, k⟩ l ⟨0, 0⟩ (s.digestOut l) := by
  obtain ⟨h', hl'⟩ := h.absorbed hl (g := g) (fun l' => { l' with pos := if l'.absDone then l'.pos else l'.pos + g.len, seg := l'.seg + 1, absDone := true, squeezed := l.squeezed + g.squeeze })
    (by simp [Link.absorbed, ha])
  have htot : (if l.hdr.opcode = opDigest then squeezes l.hdr.subop (l.hdr.w 12) else 0) = 0 := by
    split
    · rw [squeezes, if_neg (Nat.not_le.2 (hx ‹_›))]
    · rfl
  have hupto : l.digestUpto g (s.digestOut l) = (s.digestOut l).length := if_neg fun hd => Nat.not_le.2 (hx hd.1) hd.2
  have he := State.Ends.of_absorbed (h'.emits hl' (s.digestOut l) (fun _ => !l.poisoned.isEmpty) (last := true) rfl)
  unfold State.runDigest
  simp only [hlast, ha, hi, hpos, hupto, htot, Bool.not_true, Bool.and_false, Bool.false_eq_true, if_false, if_neg ho, Nat.zero_le, ge_iff_le,
    decide_true, if_true, Nat.sub_zero, show slice (s.digestOut l) 0 (s.digestOut l).length = s.digestOut l by simp [slice]] at he ⊢
  exact he

theorem Fresh.verifies (h : Fresh s ⟨r, i, k⟩ l) (hl : s.link ⟨r, i, k⟩ = some (q, l)) (hi : g.id = ⟨r, i, k⟩) (hlast : g.last = true)
    (ha : l.absDone = false) (ho : l.hdr.opcode = opHmacVer) : s.Ends (s.runDigest g l) ⟨r, i, k⟩ l
      (if l.srcSlice l.hdr.srcLen l.hdr.tagBytes = s.digestOut l then ⟨0, 0⟩ else ⟨0x10, 4⟩) [] := by
  obtain ⟨h', hl'⟩ := h.absorbed hl (g := g) (fun l' => { l' with pos := if l'.absDone then l'.pos else l'.pos + g.len, seg := l'.seg + 1, absDone := true, squeezed := l.squeezed + g.squeeze })
    (by simp [Link.absorbed, ha])
  unfold State.runDigest
  simp only [hlast, ha, hi, Bool.not_true, Bool.and_false, Bool.false_eq_true, if_false, if_pos ho, beq_iff_eq] at hl' ⊢
  split
  · exact State.Ends.of_absorbed (h'.good hl')
  · exact State.Ends.of_absorbed (h'.fails hl' rfl _)

/-! #### Jobs -/

/-- A status that is OK or no good one. -/
def OkOrBad (st : Stat) : Prop := st.good = true → st = stOk

theorem okOrBad_ok : OkOrBad stOk := fun _ => rfl

theorem okOrBad_invalid (n : Nat) : OkOrBad (stInvalid n) := fun h => nomatch h

theorem okOrBad_hwFault (n : Nat) : OkOrBad (stHwFault n) := fun h => nomatch h

theorem okOrBad_verdict (c : Prop) [Decidable c] : OkOrBad (if c then stOk else stVerifyFail) :=
  kept_ite OkOrBad (fun _ => rfl) fun h => nomatch h

/-- A result whose status is OK or no good one. -/
def ResultOk (x : Bytes × Stat × Bytes) : Prop := OkOrBad x.2.1

/-- A job's good result has the status OK. -/
theorem jobResult_ok (l : Link) (key : Bytes) (j : Job) (free : Nat) : ResultOk (jobResult l key j free) := by
  unfold jobResult
  extract_lets h p k alg c src n pubN pubE label bad okay ver
  have hok : ∀ b, ResultOk (okay b) := fun b => okOrBad_ok
  have hver : ∀ b, ResultOk (ver b) := fun b => okOrBad_verdict _
  have hbad : ResultOk bad := okOrBad_invalid _
  clear_value okay ver bad
  refine kept_ite ResultOk ?_ ?_
  · exact kept_ite ResultOk (hok _) (kept_ite ResultOk (hok _) (hok _))
  · split
    case h_3 | h_4 =>
      split
      · exact hok _
      · exact hbad
    case h_12 => exact kept_ite ResultOk (okOrBad_invalid _) (hok _)
    case h_15 | h_18 => exact okOrBad_ok
    case h_19 =>
      split
      · exact hok _
      · exact okOrBad_hwFault _
    case h_5 | h_6 | h_10 | h_14 | h_20 => exact hver _
    all_goals exact hok _
/-- The state once the last element of a job has run, with the free value of its result drawn. -/
def State.lastRun (s : State) (id : LinkId) (j : Job) : State := ((s.elemRun id j).draw 5).2

theorem State.lastRun_keeps (s : State) (id : LinkId) (j : Job) : (s.lastRun id j).key = s.key ∧ (s.lastRun id j).mov = s.mov
    ∧ (s.lastRun id j).ring id.ring = s.ring id.ring := by
  unfold State.lastRun State.elemRun
  dsimp only
  split
  · exact ⟨rfl, rfl, rfl⟩
  · exact ⟨rfl, rfl, rfl⟩

theorem State.lastRun_link (hl : s.link ⟨r, i, k⟩ = some (q, l)) (hj : l.job = some j) :
    ∃ q', (s.lastRun ⟨r, i, k⟩ j).link ⟨r, i, k⟩ = some (q', l.elemRun) := ⟨_, State.elemRun_link hl hj⟩

theorem Fresh.lastRun (h : Fresh s ⟨r, i, k⟩ l) (j : Job) : Fresh (s.lastRun ⟨r, i, k⟩ j) ⟨r, i, k⟩ l.elemRun := by
  refine ⟨h.stat, h.err, h.new, h.pure, h.buf, ?_⟩
  obtain ⟨-, hm, -⟩ := s.lastRun_keeps ⟨r, i, k⟩ j
  unfold State.outIdle State.writes
  rw [hm]
  exact h.idle

theorem State.Ends.of_lastRun {t : State} {st : Stat} {put : Bytes} (h : (s.lastRun ⟨r, i, k⟩ j).Ends t ⟨r, i, k⟩ l.elemRun st put) :
    s.Ends t ⟨r, i, k⟩ l st put := by
  obtain ⟨-, hm, hr⟩ := s.lastRun_keeps ⟨r, i, k⟩ j
  obtain ⟨q', l', h₁, h₂, h₃, h₄⟩ := h
  refine ⟨q', l', h₁, h₂, fun h0 => ?_, fun h0 => ?_⟩
  · have hg := h₃ h0
    unfold State.gaveOut State.inlineDst at hg ⊢
    rw [hr] at hg
    exact hg
  · have hw := (h₄ h0).2
    unfold State.writes at hw ⊢
    rw [hm] at hw
    exact ⟨(h₄ h0).1, hw⟩

theorem State.jobKey_of_key {t : State} (h : t.key = s.key) (l : Link) (j : Job) : t.jobKey l j = s.jobKey l j := by
  unfold State.jobKey State.linkKey State.slot
  rw [h]

/-- The result of a job's last element. -/
def State.jobOut (s : State) (id : LinkId) (l : Link) (j : Job) : Bytes × Stat × Bytes := jobResult l (s.jobKey l j) j ((s.elemRun id j).draw 5).1

theorem State.runJob_last {id : LinkId} (hj : l.job = some j) (hv : j.elemNo + 1 ≠ j.valid) (he : j.elemNo + 1 = j.elems.length)
    (ho : l.hdr.opcode = opPk) : s.runJob id l = if isCreate l.hdr.opcode l.hdr.subop then
        ((s.lastRun id j).onLink id fun l' => { l' with job := l'.job.map fun x => { x with extRec := (s.jobOut id l j).2.2 } }).emit id (s.jobOut id l j).1 fun _ => false
      else if (s.jobOut id l j).2.1.good then ((s.lastRun id j).emit id (s.jobOut id l j).1 fun _ => false).endLink id stOk
      else (s.lastRun id j).endLink id (s.jobOut id l j).2.1 := by
  have hkey : (s.elemRun id j).jobKey l j = s.jobKey l j := State.jobKey_of_key (s.lastRun_keeps id j).1 l j
  rw [State.runJob_eq hj hv, if_pos he]
  unfold State.finishJob
  rw [if_neg (by rw [ho]; decide), hkey]
  rfl

/-- The last element of a job that makes no key. -/
theorem Fresh.jobs (h : Fresh s ⟨r, i, k⟩ l) (hl : s.link ⟨r, i, k⟩ = some (q, l)) (hj : l.job = some j) (hv : j.elemNo + 1 ≠ j.valid)
    (he : j.elemNo + 1 = j.elems.length) (ho : l.hdr.opcode = opPk) (hc : isCreate l.hdr.opcode l.hdr.subop = false) :
    s.Ends (s.runJob ⟨r, i, k⟩ l) ⟨r, i, k⟩ l (s.jobOut ⟨r, i, k⟩ l j).2.1 (s.jobOut ⟨r, i, k⟩ l j).1 := by
  obtain ⟨q', hl'⟩ := State.lastRun_link hl hj
  rw [State.runJob_last hj hv he ho, hc, if_neg (by decide)]
  cases hg : (s.jobOut ⟨r, i, k⟩ l j).2.1.good with
  | true =>
    rw [show (s.jobOut ⟨r, i, k⟩ l j).2.1 = stOk from jobResult_ok _ _ _ _ hg, if_pos rfl]
    exact State.Ends.of_lastRun ((h.lastRun j).emits hl' _ _ rfl)
  | false =>
    rw [if_neg (by decide)]
    exact State.Ends.of_lastRun ((h.lastRun j).fails hl' hg _)

theorem State.createKey_ended {t : State} {id : LinkId} (hl : t.link id = some (q, l)) (hs : l.stat.isSome = true) : t.createKey id = t := by
  unfold State.createKey
  rw [hl]
  dsimp only
  split
  · rfl
  · simp [hs]

/-! #### A job that makes a key pair -/

/-- Writes of another purpose leave what a link puts out. -/
theorem State.putsOut_vaultWrite {id : LinkId} {ps : List (Nat × Nat × Nat × Bytes × Nat)} (h8 : s.mov.ports.length = 8) (h : s.putsOut id ps)
    (a : Nat) (b : Bytes) (x : LinkId) : (s.vaultWrite a b (.vault x)).putsOut id ps := by
  obtain ⟨h1, h2⟩ := h
  refine ⟨fun p hp n hn => ?_, fun w hw hd => ?_⟩
  · obtain ⟨w, hw, hd, ha, hb⟩ := h1 p hp n hn
    obtain ⟨v, hv, hva, hvd, hvp⟩ := State.write_old h8 hw
    exact ⟨v, hv, by rw [hvp]; exact hd, by rw [hva]; exact ha, by rw [hva, hvd]; exact hb⟩
  · rcases State.write_only hw with ⟨v, hv, hva, hvd, hvp⟩ | ⟨hp, -⟩
    · rw [← hva, ← hvd]
      exact h2 v hv (by rw [hvp]; exact hd)
    · rw [hp] at hd
      exact absurd hd (by simp [isLinkData])

theorem State.vaultBegin_keeps {v : VJob} (hl : s.link ⟨r, i, k⟩ = some (q, l)) (hv : v.retire = false) (t : State) (ht : t.mov = s.mov)
    (ps : List (Nat × Nat × Nat × Bytes × Nat)) : (s.vaultBegin v).link ⟨r, i, k⟩ = some (q, l)
      ∧ (t.mov.ports.length = 8 → t.putsOut ⟨r, i, k⟩ ps → (s.vaultBegin v).putsOut ⟨r, i, k⟩ ps) := by
  obtain ⟨a, b, w, he⟩ := s.vaultBegin_create hv
  rw [he]
  refine ⟨(State.write_field (fun t : State => t.link ⟨r, i, k⟩) (fun _ _ => rfl) ..).trans hl, fun h8 hp => ?_⟩
  refine State.putsOut_vaultWrite (s := s.stager.2.onKey _) (by rw [← h8, ht]; rfl) (State.putsOut_of_writes hp ?_) a b v.id
  unfold State.writes
  rw [ht]
  rfl

/-- The creation of a link's new key (R165, R168, R176). -/
def State.creation (s : State) (id : LinkId) (q : Req) (l : Link) (x : NewKey) : VJob :=
  { id := id, part := q.part, index := createIndex l.hdr, retire := false
    ctx := kwpWrap (s.keysOf q.part).ctx (ctxPlain q.part (((s.part q.part).map (·.gen)).getD 0) (createIndex l.hdr) x)
    ext := if needsExt x.type then
        some (kwpWrap (s.keysOf q.part).ctx (extPlain q.part (((s.part q.part).map (·.gen)).getD 0) (createIndex l.hdr) x))
      else none }

/-- The free value of the record_id is drawn (log 6), and the creation begins. -/
def State.created (s : State) (id : LinkId) (q : Req) (l : Link) (j : Job) : State :=
  let x := (s.draw 4).2.newKey l j ((s.draw 4).1 % 2 ^ 64)
  ((s.draw 4).2.onLink id fun l => { l with newInst := x.inst }).vaultBegin ((s.draw 4).2.creation id q l x)

theorem State.createKey_eq {id : LinkId} (hl : s.link id = some (q, l)) (hj : l.job = some j) : s.createKey id
    = if !s.oryServing || !s.carried (.request id) || l.stat.isSome || l.timedOut || !isCreate l.hdr.opcode l.hdr.subop || !l.jobReady q.part || s.linkWaits id
          || (s.key.jobs.any fun v => v.id == id) || q.abort != .none then s
      else match l.err with
        | some st => s.endLink id st
        | none => s.created id q l j := by
  unfold State.createKey
  rw [hl]
  simp only [hj]
  rfl

/-- The link and its output once a creation may have begun its Vault writes. -/
theorem State.createKey_keeps {ps : List (Nat × Nat × Nat × Bytes × Nat)} (hl : s.link ⟨r, i, k⟩ = some (q, l)) (hj : l.job = some j)
    (hs : l.err = none) : ∃ q' n, (s.createKey ⟨r, i, k⟩).link ⟨r, i, k⟩ = some (q', { l with newInst := n })
      ∧ (s.mov.ports.length = 8 → s.putsOut ⟨r, i, k⟩ ps → (s.createKey ⟨r, i, k⟩).putsOut ⟨r, i, k⟩ ps) := by
  let P (x : State) : Prop := ∃ q' n, x.link ⟨r, i, k⟩ = some (q', { l with newInst := n })
    ∧ (s.mov.ports.length = 8 → s.putsOut ⟨r, i, k⟩ ps → x.putsOut ⟨r, i, k⟩ ps)
  show P (s.createKey ⟨r, i, k⟩)
  rw [State.createKey_eq hl hj, hs]
  refine kept_ite P ⟨q, l.newInst, hl, fun _ h => h⟩ ?_
  let n := ((s.draw 4).2.newKey l j ((s.draw 4).1 % 2 ^ 64)).inst
  have h : ((s.draw 4).2.onLink ⟨r, i, k⟩ fun l => { l with newInst := n }).link ⟨r, i, k⟩
      = some (q.onLink k fun l => { l with newInst := n }, { l with newInst := n }) := State.link_onLink_own (s := (s.draw 4).2) hl _
  obtain ⟨h₁, h₂⟩ := State.vaultBegin_keeps (v := (s.draw 4).2.creation ⟨r, i, k⟩ q l ((s.draw 4).2.newKey l j ((s.draw 4).1 % 2 ^ 64))) h rfl s rfl ps
  exact ⟨_, n, h₁, h₂⟩

theorem State.emit_ports (h : s.mov.ports.length = 8) (id : LinkId) (b : Bytes) (bad : Nat → Bool) (last : Bool) :
    (s.emit id b bad last).mov.ports.length = 8 := by
  have ha : ∀ pos b, (s.emitAt id pos b bad last).mov.ports.length = 8 := fun pos b => by
    unfold State.emitAt
    split
    · exact h
    · exact kept_ite (fun t : State => t.mov.ports.length = 8) h
        (foldl_invariant (P := fun t : State => t.mov.ports.length = 8) (fun _ _ h => State.write_ports h ..) _ h)
  unfold State.emit
  split
  · exact h
  · exact ha _ _

/-- The last element of a job that makes a key pair: its public key is put out, and its private key kept. -/
theorem Fresh.makes (h : Fresh s ⟨r, i, k⟩ l) (hl : s.link ⟨r, i, k⟩ = some (q, l)) (hj : l.job = some j) (hv : j.elemNo + 1 ≠ j.valid)
    (he : j.elemNo + 1 = j.elems.length) (ho : l.hdr.opcode = opPk) (hc : isCreate l.hdr.opcode l.hdr.subop = true) :
    ∃ q' l' j', ((s.runJob ⟨r, i, k⟩ l).createOf opPk ⟨r, i, k⟩).link ⟨r, i, k⟩ = some (q', l') ∧ l'.stat = none
      ∧ s.gaveOut ((s.runJob ⟨r, i, k⟩ l).createOf opPk ⟨r, i, k⟩) ⟨r, i, k⟩ l l' (s.jobOut ⟨r, i, k⟩ l j).1
      ∧ l'.job = some j' ∧ j'.elemNo = j.elems.length ∧ j'.extRec = (s.jobOut ⟨r, i, k⟩ l j).2.2 := by
  obtain ⟨q₁, hl₁⟩ := State.lastRun_link hl hj
  obtain ⟨-, hm, hring⟩ := s.lastRun_keeps ⟨r, i, k⟩ j
  rw [State.runJob_last hj hv he ho, if_pos hc]
  generalize hx : s.jobOut ⟨r, i, k⟩ l j = x
  let f (l' : Link) : Link := { l' with job := l'.job.map fun y => { y with extRec := x.2.2 } }
  let v := (s.lastRun ⟨r, i, k⟩ j).onLink ⟨r, i, k⟩ f
  have hvl : v.link ⟨r, i, k⟩ = some (q₁.onLink k f, f l.elemRun) := State.link_onLink_own hl₁ f
  have hf := h.lastRun j
  obtain ⟨h8, hu, hw⟩ := State.outIdle_iff.1 h.idle
  have hin : v.inlineDst (f l.elemRun) ⟨r, i, k⟩ = s.inlineDst l ⟨r, i, k⟩ := by
    show inlineOut ((s.lastRun ⟨r, i, k⟩ j).ring r).attr l.hdr = _
    rw [hring]
    rfl
  obtain ⟨q₂, hl₂, hp₂⟩ := State.emit_gives (last := true) hvl hf.buf hf.pure hf.idle x.1 (fun _ => false) rfl
  have hjob : (f l.elemRun).job = some { j with elemNo := j.elemNo + 1, extRec := x.2.2 } := by simp [f, Link.elemRun, hj]
  obtain ⟨q₃, n, hl₃, hp₃⟩ := State.createKey_keeps (ps := outPieces l.dstList 0 l.outPos l.outPos x.1) hl₂ hjob h.err
  have hcr : (v.emit ⟨r, i, k⟩ x.1 fun _ => false).createOf opPk ⟨r, i, k⟩ = (v.emit ⟨r, i, k⟩ x.1 fun _ => false).createKey ⟨r, i, k⟩ := by
    unfold State.createOf
    rw [hl₂]
    exact if_pos ho
  rw [hcr]
  refine ⟨q₃, _, _, hl₃, h.stat, ⟨rfl, ?_⟩, hjob, he, rfl⟩
  rw [hin]
  cases hio : s.inlineDst l ⟨r, i, k⟩ with
  | true => rfl
  | false =>
    rw [hin] at hp₂
    refine hp₃ (State.emit_ports (s := v) ?_ ..) (hp₂ hio)
    show (s.lastRun ⟨r, i, k⟩ j).mov.ports.length = 8
    rw [hm]
    exact h8

end Ends

/-- Settles O41: the last grant hands out the whole result, a message its digest or tag, a job its output, and a job that makes a key keeps it for the Vault. -/
theorem messageAndJobEnd : Obligations.MessageAndJobEnd := by
  rintro ⟨r, i, k⟩ q l g n s hsv hl hg hi hf hs he hr hru hpo hbuf hpos hidle hcmp
  intro ends msg
  have hfr : Fresh s ⟨r, i, k⟩ l := ⟨hs, he, hr, hpo, hbuf, hidle⟩
  have hgive : ∀ {c : Instr} {st : Stat} {put : Bytes} {t : State}, exec c s = .next t → s.Ends t ⟨r, i, k⟩ l st put → ends c st put :=
    fun hx ⟨q', l', h₁, h₂, h₃, _⟩ => ⟨_, q', l', hx, h₁, h₂, h₃⟩
  refine ⟨fun hun hj ha hlast => ?_, fun j hun ho hc hj hlen hv hh => ?_, fun j hun ho hc hj hlen hv hh => ?_⟩
  · have hrun : ∀ op, l.hdr.opcode = op → ∃ u q', s.Taken u ⟨r, i, k⟩ l ∧ Fresh u ⟨r, i, k⟩ l ∧ u.link ⟨r, i, k⟩ = some (q', l)
        ∧ s.runOp op ⟨r, i, k⟩ = u.runDigest g l := fun op ho => by
      obtain ⟨u, hu, hop⟩ := State.runOp_taken hsv hl ho hg hi hf hru hcmp
      obtain ⟨q', hul⟩ := hu.link
      rw [State.runUnit_engine (by rw [hi]; exact hul) hs hun hj] at hop
      exact ⟨u, q', hu, hu.fresh hfr, hul, hop⟩
    refine ⟨fun ho hsub => ?_, fun x hx => ?_⟩
    · obtain ⟨u, q', hu, hfu, hul, hop⟩ := hrun opDigest ho
      have h := hfu.digests hul hi hlast ha hpos (by rw [ho]; decide) fun _ => hsub
      have hout : u.digestOut l = hash l.hdr.subop msg (hashLen l.hdr.subop) := by
        simp only [State.digestOut, ho, if_true, if_neg (Nat.not_le.2 hsub), ge_iff_le]
        rfl
      rw [hout] at h
      exact hgive (congrArg Host.Outcome.next hop) (hu.ends h)
    · intro tag
      have hout : ∀ u : State, l.hdr.opcode ≠ opDigest → u.digestOut l = tag := fun u ho => by
        simp only [State.digestOut, if_neg ho, hx]
        rfl
      refine ⟨fun ho => ?_, fun ho => ?_⟩
      · obtain ⟨u, q', hu, hfu, hul, hop⟩ := hrun opHmacGen ho
        have h := hfu.digests hul hi hlast ha hpos (by rw [ho]; decide) fun h => absurd (ho.symm.trans h) (by decide)
        rw [hout u (by rw [ho]; decide)] at h
        exact hgive (congrArg Host.Outcome.next hop) (hu.ends h)
      · obtain ⟨u, q', hu, hfu, hul, hop⟩ := hrun opHmacVer ho
        have h := hfu.verifies hul hi hlast ha ho
        rw [hout u (by rw [ho]; decide)] at h
        exact hgive (congrArg Host.Outcome.next hop) (hu.ends h)
  · obtain ⟨u, hu, hop⟩ := State.runOp_taken hsv hl ho hg hi hf hru hcmp
    obtain ⟨q', hul⟩ := hu.link
    rw [State.runUnit_macu (by rw [hi]; exact hul) hs hun, hi] at hop
    have h := (hu.fresh hfr).jobs hul hj hv hlen ho hc
    have ⟨q₁, l₁, h₁, h₂, _⟩ := h
    refine ⟨((u.elemRun ⟨r, i, k⟩ j).draw 5).1, ?_⟩
    have hkey : u.jobKey l j = s.jobKey l j := State.jobKey_of_key hu.key l j
    have hx : exec (.pkJob ⟨r, i, k⟩) s = .next (u.runJob ⟨r, i, k⟩ l) := by
      show (Host.Outcome.next ((s.runOp opPk ⟨r, i, k⟩).createOf opPk ⟨r, i, k⟩) : Out) = _
      rw [hop, State.createOf_of_link h₁ fun _ => State.createKey_ended h₁ (by rw [h₂]; rfl)]
    unfold State.jobOut at h
    rw [hkey] at h
    exact hgive hx (hu.ends h)
  · obtain ⟨u, hu, hop⟩ := State.runOp_taken hsv hl ho hg hi hf hru hcmp
    obtain ⟨q', hul⟩ := hu.link
    rw [State.runUnit_macu (by rw [hi]; exact hul) hs hun, hi] at hop
    obtain ⟨q₁, l₁, j₁, h₁, h₂, h₃, h₄⟩ := (hu.fresh hfr).makes hul hj hv hlen ho hc
    have hkey : u.jobKey l j = s.jobKey l j := State.jobKey_of_key hu.key l j
    have h₃' := hu.gaveOut h₃
    unfold State.jobOut at h₃' h₄
    rw [hkey] at h₃' h₄
    exact ⟨((u.elemRun ⟨r, i, k⟩ j).draw 5).1, _, q₁, l₁, j₁, congrArg (fun t : State => Host.Outcome.next (t.createOf opPk ⟨r, i, k⟩)) hop,
      h₁, h₂, h₃', h₄⟩

end Sys2Proof.Machine

/-! ### PROOFS. Keys: staging, the ledger, creation and retirement (R162, R165 to R183) -/

namespace Sys2Proof.Machine

section Staging

variable {s : State} {r i k : Nat} {q : Req} {l : Link} {p : Part} {v : VaultReads}

/-! #### The slots of the key cache -/

theorem State.slot_onSlot (s : State) (x : Nat × Nat × Nat) {f : KSlot → KSlot} (hp : ∀ y, (f y).part = y.part) (hi : ∀ y, (f y).index = y.index)
    (hg : ∀ y, (f y).gen = y.gen) : (s.onSlot x f).slot x = (s.slot x).map f := by
  let is (y : KSlot) : Bool := y.part == x.1 && y.index == x.2.1 && y.gen == x.2.2
  let g (y : KSlot) : KSlot := if is y then f y else y
  have hkey : ∀ y, is (g y) = is y := fun y => by
    show is (if is y then f y else y) = is y
    split
    · simp only [is, hp, hi, hg]
    · rfl
  have hmap : (s.onSlot x f).slot x = (s.slot x).map g := by
    show (s.key.slots.map g).find? is = (s.key.slots.find? is).map g
    rw [List.find?_map, show is ∘ g = is from funext hkey]
  rw [hmap]
  cases hs : s.slot x with
  | none => rfl
  | some y => exact congrArg some (if_pos (List.find?_some hs))

theorem State.slot_wipeSlot (s : State) (x : Nat × Nat × Nat) : (s.wipeSlot x).slot x = none := by
  refine List.find?_eq_none.2 fun y hy => ?_
  have := (List.mem_filter.1 hy).2
  simpa only [Bool.not_eq_true, Bool.not_eq_eq_eq_not, Bool.not_true] using this

/-! #### KEY_STAGING (R162, R170, R171, R183) -/

/-- A key that stands in the cache and needs no write back is found at once (R171). -/
theorem State.stageOperating_cached {id : LinkId} {a g n : Nat} {x : KSlot} (h0 : n ≠ 0) (hn : n < (s.entryOf a).ctxSlots)
    (hr : s.retiring a n id = false) (hj : s.key.jobs = []) (hs : s.slot (a, n, g) = some x) (hu : x.unusable = false)
    (hw : (x.write.map (·.why)) ≠ some .evict) : s.stageOperating id a g n v
      = (s.onSlot (a, n, g) fun y => { y with useTick := s.sch.tick }, .ok false) := by
  unfold State.stageOperating
  rw [if_neg (by omega), if_neg (by simp [hr, hj]), hs]
  simp only [hu, Bool.false_eq_true, if_false]
  exact if_neg (by simpa using hw)

/-- A link of a lane whose key is found, fits its use and passes its checks holds it. -/
theorem State.stageLink_cached {id : LinkId} {x : KSlot} (hp : s.part q.part = some p) (hop : usesKey l.hdr.opcode l.hdr.subop = true)
    (hl : isLane l.hdr.opcode = true) (h0 : l.hdr.keyIndex ≠ 0) (hn : l.hdr.keyIndex < p.entry.ctxSlots)
    (hr : s.retiring q.part l.hdr.keyIndex id = false) (hj : s.key.jobs = []) (hs : s.slot (q.part, l.hdr.keyIndex, p.gen) = some x)
    (hu : x.unusable = false) (hw : (x.write.map (·.why)) ≠ some .evict) (ht : typeFits l.hdr (ctxType x.ctx) (ctxHash x.ctx) = true)
    (hc : operatingCheck l.hdr x.ctx x.next l.count.isSome = none) : s.stageLink id q l v
      = (s.onSlot (q.part, l.hdr.keyIndex, p.gen) fun y => { y with useTick := s.sch.tick }).holdKey id (q.part, l.hdr.keyIndex, p.gen) x.ctx := by
  have hent : (s.entryOf q.part).ctxSlots = p.entry.ctxSlots := by simp [State.entryOf, hp]
  have hso := State.stageOperating_cached (v := v) h0 (by rw [hent]; exact hn) hr hj hs hu hw
  have hslot := State.slot_onSlot s (q.part, l.hdr.keyIndex, p.gen) (f := fun y => { y with useTick := s.sch.tick }) (fun _ => rfl) (fun _ => rfl)
    fun _ => rfl
  rw [hs] at hslot
  have hcreate : isCreate l.hdr.opcode l.hdr.subop = false := by
    simp only [isLane, Bool.or_eq_true, Bool.and_eq_true, decide_eq_true_eq, beq_iff_eq] at hl
    simp only [isCreate, isPkGen, Bool.or_eq_false_iff, beq_eq_false_iff_ne, Bool.and_eq_false_iff]
    simp only [opSeal, opGmacVer, opCopy, opGenerate, opImport, opDerive, opPk] at *
    omega
  have hstates : (l.hdr.opcode == opHmacGen || l.hdr.opcode == opHmacVer) = false := by
    simp only [isLane, Bool.or_eq_true, Bool.and_eq_true, decide_eq_true_eq, beq_iff_eq] at hl
    simp only [Bool.or_eq_false_iff, beq_eq_false_iff_ne]
    simp only [opSeal, opGmacVer, opCopy, opHmacGen, opHmacVer] at *
    omega
  unfold State.stageLink
  simp only [hop, if_true, hp, Option.map_some, Option.getD_some, hso, hslot, ht, hc, hcreate, Bool.not_true, Bool.false_eq_true, if_false,
    State.stageStates, hstates, Bool.not_false]

theorem exec_keyStaging {id : LinkId} (hsv : s.serving = true) (hl : s.link id = some (q, l)) (hp : s.part q.part = some p) (hs : l.stat = none)
    (hto : l.timedOut = false) (hst : l.staged = false) (hk : l.keySlot = none) (hld : l.listsDone = true) (ho : q.openSince = none)
    (ha : q.abort = .none) (hr : s.stageReads q l = true) : exec (.keyStaging id v) s = .next (
      if l.hdr.keyPart ≠ q.part then s.endAs id (stKeyForeign 1)
      else if l.hdr.f1GenBad ∨ l.hdr.keyGen ≠ p.gen ∨ p.recWrite.isSome ∨ p.rot.any (fun r => r.committed && r.stage == 0) then s.endAs id (stKeyForeign 2)
      else if s.mustQueue q id.link l.hdr then s
      else s.newReads.stageLink id q l v) := by
  show (execKeyStaging id v s : Out) = _
  unfold execKeyStaging
  simp only [hl, hp, hsv, hs, hto, hst, hk, hld, ho, ha, hr]
  rfl

/-- The link that takes a key, once it holds its slot. -/
theorem State.holdKey_link {t : State} {c : Bytes} {x : Nat × Nat × Nat} {y : KSlot} (hl : t.link ⟨r, i, k⟩ = some (q, l)) (hs : l.stat = none)
    (hy : t.slot x = some y) : ∃ q' l', (t.holdKey ⟨r, i, k⟩ x c).link ⟨r, i, k⟩ = some (q', l') ∧ l'.stat = none ∧ l'.keySlot = some x
      ∧ l'.staged = ((y.write.map (·.why)) != some .staging) := by
  unfold State.holdKey
  rw [hy]
  exact ⟨_, _, State.link_onLink_own hl _, hs, rfl, rfl⟩

theorem keyStagingResult (hsv : s.serving = true) (hl : s.link ⟨r, i, k⟩ = some (q, l)) (hp : s.part q.part = some p) (hs : l.stat = none)
    (hto : l.timedOut = false) (hst : l.staged = false) (hk : l.keySlot = none) (hld : l.listsDone = true) (ho : q.openSince = none)
    (ha : q.abort = .none) (hr : s.stageReads q l = true) :
    let ends (st : Stat) : Prop := ∃ t q' l', exec (.keyStaging ⟨r, i, k⟩ v) s = .next t ∧ t.link ⟨r, i, k⟩ = some (q', l') ∧ l'.stat = some st
    (l.hdr.keyPart ≠ q.part → ends ⟨0x33, 1⟩) ∧ (l.hdr.keyPart = q.part → l.hdr.keyGen ≠ p.gen → ends ⟨0x33, 2⟩) := by
  intro ends
  have hx := exec_keyStaging (v := v) hsv hl hp hs hto hst hk hld ho ha hr
  refine ⟨fun hf => ?_, fun hf hg => ?_⟩
  · rw [if_pos hf] at hx
    obtain ⟨q', stamp, viol, h⟩ := State.endAs_link hl hs (stKeyForeign 1)
    exact ⟨_, q', _, hx, h, rfl⟩
  · rw [if_neg (not_not.2 hf), if_pos (.inr (.inl hg))] at hx
    obtain ⟨q', stamp, viol, h⟩ := State.endAs_link hl hs (stKeyForeign 2)
    exact ⟨_, q', _, hx, h, rfl⟩

/-! #### The usage ledger (R162, R183) -/

variable {a n : Nat} {x : KSlot} {w : LedgerWrite}

theorem exec_ledgerReservationAck (hlive : s.live = true) (hw : s.writing a n = some (x, w)) (hf : w.failed = none) (hl : s.ledgerWaits a n = false) :
    exec (.ledgerReservationAck a n) s = .next (match w.why with
      | .evict => s.wipeSlot (x.part, x.index, x.gen)
      | .use => s.onSlot (x.part, x.index, x.gen) fun x => { x with acked := w.value, write := none }
      | .staging => (s.onSlot (x.part, x.index, x.gen) fun x => { x with acked := w.value, write := none }).stageWaiters (x.part, x.index, x.gen)) := by
  show (execLedgerReservationAck a n s : Out) = _
  unfold execLedgerReservationAck
  simp only [hw, hlive, hf, hl]
  rfl

theorem exec_ledgerWriteRetry (hlive : s.live = true) (hw : s.writing a n = some (x, w)) {f : Nat} (hf : w.failed = some f) (hn : f ≠ s.sch.tick)
    (ha : w.again = false) : exec (.ledgerWriteRetry a n) s = .next (
      if (s.part a).map (·.gen) != some x.gen then
        if w.why == .evict then s.wipeSlot (x.part, x.index, x.gen) else s.onSlot (x.part, x.index, x.gen) fun y => { y with write := none }
      else (s.ledgerWrite (x.part, x.index, x.gen) w.why w.value (w.why == .evict)).onSlot (x.part, x.index, x.gen) fun y =>
        { y with write := some { w with failed := none, again := true } }) := by
  show (execLedgerWriteRetry a n s : Out) = _
  unfold execLedgerWriteRetry
  simp [hw, hlive, hf, hn, ha]

theorem State.stageWaiters_staged (s : State) (y : Nat × Nat × Nat) : ∀ q ∈ (s.stageWaiters y).rng.reqs, ∀ l ∈ q.links,
    l.keySlot = some y → l.stat = none → l.staged = true := by
  intro q hq l hl hy hs
  obtain ⟨q₀, -, rfl⟩ := List.mem_map.1 (show q ∈ s.rng.reqs.map _ from hq)
  obtain ⟨l₀, -, rfl⟩ := List.mem_map.1 (show l ∈ q₀.links.map _ from hl)
  split at hy
  · rw [if_pos ‹_›]
  · next h =>
    rw [if_neg h] at hs
    exact absurd (by simp [hy, hs]) h

end Staging

/-- Settles O43: each verdict and each step of a ledger write is a branch of its command, and a key in the cache is held at once. -/
theorem keyStagingAndLedger : Obligations.KeyStagingAndLedger := by
  refine ⟨?_, fun a n x w s hlive hw => ⟨fun hf hl hu => ?_, fun hf hl hu => ?_, fun hf hl hu => ?_, fun f hf hn ha => ⟨fun hg => ?_, fun hg => ?_⟩⟩⟩
  · rintro ⟨r, i, k⟩ v q l p s hsv hl hp hs hto hst hk hld ho ha hr
    obtain ⟨h1, h2⟩ := keyStagingResult (v := v) hsv hl hp hs hto hst hk hld ho ha hr
    refine ⟨h1, h2, fun x hf hgb hg hrec hrot hq hop hlane h0 hn hret hj hslot hu hw ht hc => ?_⟩
    have hx := exec_keyStaging (v := v) hsv hl hp hs hto hst hk hld ho ha hr
    rw [if_neg (not_not.2 hf), if_neg (by simp [hgb, hg, hrec, hrot]), if_neg (by simp [hq])] at hx
    have hl' : s.newReads.link ⟨r, i, k⟩ = some (q, l) := (State.link_of_rng s.newReads_rng _).trans hl
    have hkey : s.newReads.key = s.key := State.newReads_field State.key (fun _ _ => rfl) s
    have hpart : s.newReads.part q.part = some p := (State.newReads_field (fun t : State => t.part q.part) (fun _ _ => rfl) s).trans hp
    have hslot' : s.newReads.slot (q.part, l.hdr.keyIndex, p.gen) = some x :=
      (State.newReads_field (fun t : State => t.slot (q.part, l.hdr.keyIndex, p.gen)) (fun _ _ => rfl) s).trans hslot
    have hret' : s.newReads.retiring q.part l.hdr.keyIndex ⟨r, i, k⟩ = false :=
      (State.newReads_field (fun t : State => t.retiring q.part l.hdr.keyIndex ⟨r, i, k⟩) (fun _ _ => rfl) s).trans hret
    rw [State.stageLink_cached hpart hop hlane h0 hn hret' (by rw [hkey]; exact hj) hslot' hu hw ht hc] at hx
    have hso := State.slot_onSlot s.newReads (q.part, l.hdr.keyIndex, p.gen) (f := fun y => { y with useTick := s.newReads.sch.tick })
      (fun _ => rfl) (fun _ => rfl) fun _ => rfl
    rw [hslot'] at hso
    obtain ⟨q', l', h⟩ := State.holdKey_link (t := s.newReads.onSlot _ _) (c := x.ctx) hl' hs hso
    exact ⟨_, q', l', hx, h⟩
  · have hx := exec_ledgerReservationAck hlive hw hf hl
    rwa [hu] at hx
  · have hx := exec_ledgerReservationAck hlive hw hf hl
    rw [hu] at hx
    exact ⟨_, hx, rfl, State.stageWaiters_staged _ _⟩
  · have hx := exec_ledgerReservationAck hlive hw hf hl
    rw [hu] at hx
    exact ⟨_, hx, State.slot_wipeSlot s _, rfl⟩
  · have hx := exec_ledgerWriteRetry hlive hw hf hn ha
    rwa [if_neg (by simp [hg])] at hx
  · have hx := exec_ledgerWriteRetry hlive hw hf hn ha
    rw [if_pos (by simpa using hg)] at hx
    refine ⟨_, hx, keeps_ite State.writes rfl rfl, fun he => ?_, fun he => if_neg (by simpa using he)⟩
    rw [if_pos (by simpa using he)]
    exact State.slot_wipeSlot s _

end Sys2Proof.Machine

/-! ### PROOFS. Creating and retiring keys (R165 to R169, R176 to R181) -/

namespace Sys2Proof.Machine

section Creation

variable {s : State} {r i k : Nat} {q : Req} {l : Link} {v : VJob}

/-! #### The Vault steps of a creation or retirement -/

/-- What the Vault steps leave of the keys: the creations and retirements under way, and the slots. -/
def State.vaultWork (s : State) : List VJob × List KSlot := (s.key.jobs, s.key.slots)

theorem State.opsNext_vaultWork (s : State) : s.opsNext.vaultWork = s.vaultWork := by
  unfold State.opsNext
  exact keeps_ite State.vaultWork rfl rfl

theorem State.writePage_vaultWork (s : State) (p n : Nat) (why : WPurpose) (us : List PageUpd) : (s.writePage p n why us).vaultWork = s.vaultWork :=
  State.opsNext_vaultWork _

theorem State.ledgerStep_vaultWork (s : State) (v : VJob) : (s.ledgerStep v).vaultWork = s.vaultWork := by
  unfold State.ledgerStep
  exact keeps_ite State.vaultWork (State.writePage_vaultWork ..) ((State.writePage_vaultWork ..).trans (State.writePage_vaultWork ..))

theorem State.vaultWrite_vaultWork (s : State) (a : Nat) (b : Bytes) (u : WPurpose) : (s.vaultWrite a b u).vaultWork = s.vaultWork :=
  State.write_field State.vaultWork (fun _ _ => rfl) ..

theorem State.vaultStep_vaultWork (s : State) (v : VJob) : (s.vaultStep v).vaultWork = s.vaultWork := by
  unfold State.vaultStep
  split
  · exact s.vaultWrite_vaultWork _ _ _
  · exact s.vaultWrite_vaultWork _ _ _
  · exact s.ledgerStep_vaultWork v
  · exact s.ledgerStep_vaultWork v
  · have h := s.vaultWrite_vaultWork (s.ctxAddr v.part v.index) (zeros 256) (.vault v.id)
    generalize s.vaultWrite (s.ctxAddr v.part v.index) (zeros 256) (.vault v.id) = t at h ⊢
    split
    · exact (t.vaultWrite_vaultWork _ _ _).trans h
    · exact h
  · rfl

/-- One that begins is under way with all that it was given, and no slot is changed. -/
theorem State.vaultBegin_under (s : State) (v : VJob) : ∃ n m, { v with step := n, quad := m } ∈ (s.vaultBegin v).key.jobs
    ∧ (s.vaultBegin v).key.slots = s.key.slots := by
  have h : (s.vaultBegin v).vaultWork = (s.key.jobs ++ [{ v with step := if v.retire then 4 else if v.ext.isSome then 1 else 2, quad := s.stager.1 }], s.key.slots) :=
    State.vaultStep_vaultWork _ _
  obtain ⟨hj, hs⟩ := Prod.mk.inj h
  exact ⟨_, _, by rw [hj]; exact List.mem_append_right _ (.head _), hs⟩

/-! #### KEY_GENERATE, KEY_IMPORT, KEY_DERIVE, PK_JOB (R176) -/

/-- The commands that make a key; PK_JOB runs nothing of a link with no grant. -/
theorem exec_creates {id : LinkId} {x : Nat × Instr} (hl : s.link id = some (q, l)) (ho : l.hdr.opcode = x.1)
    (hx : x ∈ [(opGenerate, Instr.keyGenerate id), (opImport, Instr.keyImport id), (opDerive, Instr.keyDerive id), (opPk, .pkJob id)])
    (hr : x.1 = opPk → s.runningOf id = none) : exec x.2 s = .next (s.createKey id) := by
  have hc : s.createOf x.1 id = s.createKey id := by
    unfold State.createOf
    rw [hl]
    exact if_pos ho
  simp only [List.mem_cons, List.not_mem_nil, or_false] at hx
  rcases hx with rfl | rfl | rfl | rfl
  · exact congrArg Host.Outcome.next hc
  · exact congrArg Host.Outcome.next hc
  · exact congrArg Host.Outcome.next hc
  · have hrun : s.runOp opPk id = s := by
      unfold State.runOp State.runLink
      rw [hl, hr rfl]
      exact keeps_ite (fun t : State => t) rfl rfl
    show (Host.Outcome.next ((s.runOp opPk id).createOf opPk id) : Out) = _
    rw [hrun]
    exact congrArg Host.Outcome.next hc

theorem State.createKey_ready {j : Job} (hl : s.link ⟨r, i, k⟩ = some (q, l)) (hj : l.job = some j) (ho : s.oryServing = true)
    (hc : s.carried (.request ⟨r, i, k⟩) = true) (hs : l.stat = none) (hto : l.timedOut = false) (hcr : isCreate l.hdr.opcode l.hdr.subop = true)
    (hr : l.jobReady q.part = true) (hw : s.linkWaits ⟨r, i, k⟩ = false) (hv : (s.key.jobs.any fun v => v.id == ⟨r, i, k⟩) = false)
    (ha : q.abort = .none) : s.createKey ⟨r, i, k⟩ = match l.err with
      | some st => s.endLink ⟨r, i, k⟩ st
      | none => s.created ⟨r, i, k⟩ q l j := by
  rw [State.createKey_eq hl hj]
  simp only [ho, hc, hs, hto, hcr, hr, hw, hv, ha]
  rfl

theorem State.newKey_draw (s : State) (m : Nat) (l : Link) (j : Job) (n : Nat) : (s.draw m).2.newKey l j n = s.newKey l j n := rfl

theorem State.creation_draw (s : State) (m : Nat) (id : LinkId) (q : Req) (l : Link) (x : NewKey) : (s.draw m).2.creation id q l x = s.creation id q l x := rfl

theorem State.creation_ctx (s : State) (id : LinkId) (q : Req) (l : Link) (x : NewKey) : (s.creation id q l x).ctx
    = kwpWrap (s.keysOf q.part).ctx (ctxPlain q.part (((s.part q.part).map (·.gen)).getD 0) (createIndex l.hdr) x) := by
  simp only [State.creation]

theorem State.creation_ext (s : State) (id : LinkId) (q : Req) (l : Link) (x : NewKey) : (s.creation id q l x).ext
    = if needsExt x.type then
        some (kwpWrap (s.keysOf q.part).ctx (extPlain q.part (((s.part q.part).map (·.gen)).getD 0) (createIndex l.hdr) x))
      else none := by
  simp only [State.creation]

/-- The creation of a link's new key is under way. -/
theorem State.created_under (s : State) (id : LinkId) (q : Req) (l : Link) (j : Job) :
    ∃ n a b, { s.creation id q l (s.newKey l j n) with step := a, quad := b } ∈ (s.created id q l j).key.jobs := by
  obtain ⟨a, b, hm, -⟩ := ((s.draw 4).2.onLink id fun l' => { l' with newInst := ((s.draw 4).2.newKey l j ((s.draw 4).1 % 2 ^ 64)).inst }).vaultBegin_under
    ((s.draw 4).2.creation id q l ((s.draw 4).2.newKey l j ((s.draw 4).1 % 2 ^ 64)))
  refine ⟨(s.draw 4).1 % 2 ^ 64, a, b, ?_⟩
  simp only [State.created, State.creation_draw, State.newKey_draw] at hm ⊢
  exact hm

/-! #### KEY_RETIRE (R180, R181) -/

theorem exec_keyRetire {x : Nat × Nat × Nat} (hl : s.link ⟨r, i, k⟩ = some (q, l)) (ho : s.oryServing = true)
    (hc : s.carried (.request ⟨r, i, k⟩) = true) (hs : l.stat = none) (hr : l.jobReady q.part = true)
    (hv : (s.key.jobs.any fun v => v.id == ⟨r, i, k⟩) = false) (ha : q.abort = .none) (hop : l.hdr.opcode = opRetire) (hk : l.keySlot = some x)
    (hh : ∀ y ∈ s.allLinks, y.1 ≠ ⟨r, i, k⟩ → y.2.2.stat = none → y.2.2.keySlot ≠ some x) (hb : (s.slot x).bind (·.write) = none) :
    exec (.keyRetire ⟨r, i, k⟩) s = .next (if (s.page q.part 0).bad then (s.wipeSlot x).endAs ⟨r, i, k⟩ (stKeyInvalid 2)
      else (s.wipeSlot x).vaultBegin { id := ⟨r, i, k⟩, part := x.1, index := x.2.1, retire := true
                                       ext := if l.extLen = 0 then none else some (zeros (roundUp l.extLen 8 + 8)) }) := by
  have hheld : (s.allLinks.any fun y => y.1 != ⟨r, i, k⟩ && y.2.2.stat.isNone && y.2.2.keySlot == some x) = false := by
    simp only [List.any_eq_false, Bool.and_eq_true, bne_iff_ne, Option.isNone_iff_eq_none, beq_iff_eq, not_and, and_imp]
    exact hh
  show (execKeyRetire ⟨r, i, k⟩ s : Out) = _
  unfold execKeyRetire
  simp only [hl, hk, hheld, hb, ho, hc, hs, hr, hv, ha, hop, State.page]
  rfl

/-! #### The end of the steps -/

/-- No creation or retirement of the link is under way. -/
def State.NoVJob (id : LinkId) (s : State) : Prop := ∀ w ∈ s.key.jobs, w.id ≠ id

theorem State.onUnit_key_kept {P : KeyU → Prop} (s : State) (u : UnitId) (f : UnitSt → UnitSt) (h : P s.key) : P (s.onUnit u f).key := by
  rw [State.onUnit_key]
  exact h

theorem State.noVJob_keptByEnd (id : LinkId) : KeptByEnd (State.NoVJob id) where
  link _ _ _ h := h
  ring _ _ h := h
  eph _ _ h := h
  sch _ _ _ h := h
  prt _ _ h := h
  reads _ _ h := h
  unbind _ _ h := h
  unit s u f h := State.onUnit_key_kept (P := fun x => ∀ w ∈ x.jobs, w.id ≠ id) s u f h
  ent _ _ h := h
  key _ _ hf h := fun w hw => h w (hf _ w hw)

theorem State.dropVJob_noVJob (s : State) (id : LinkId) : (s.dropVJob id).NoVJob id := fun w hw => by
  have hm : w ∈ (s.dropOps fun o => o.why == .vault id).key.jobs.filter fun v => v.id != id := hw
  simpa using (List.mem_filter.1 hm).2

/-- The steps of a link are over and it ends. -/
theorem State.vaultOver (hl : s.link ⟨r, i, k⟩ = some (q, l)) (hs : l.stat = none) (he : l.err = none) (hr : l.retried = false) (st : Stat) :
    (∀ w ∈ ((s.dropVJob ⟨r, i, k⟩).endLink ⟨r, i, k⟩ st).key.jobs, w.id ≠ ⟨r, i, k⟩)
      ∧ ∃ q' l', ((s.dropVJob ⟨r, i, k⟩).endLink ⟨r, i, k⟩ st).link ⟨r, i, k⟩ = some (q', l') ∧ l'.stat = some st := by
  have hd : (s.dropVJob ⟨r, i, k⟩).link ⟨r, i, k⟩ = some (q, l) :=
    (State.link_of_req_eq ((endFrame_ownReq r i).dropVJob s ⟨r, i, k⟩) k).trans hl
  obtain ⟨q', stamp, viol, h⟩ := State.endLink_plain hd hs he hr st
  exact ⟨(State.noVJob_keptByEnd _).endLink _ _ (s.dropVJob_noVJob _), q', _, h, rfl⟩

theorem State.vaultAnswered_done {id : LinkId} (hw : s.writeWaits (isVaultWrite id) = false) (hp : s.paused = false)
    (hv : s.key.jobs.find? (fun v => v.id == id) = some v) : s.vaultAnswered id
    = if v.bad then ((s.logKeyReq 0x0702 v.part v).dropVJob id).endLink id (stBusError atVault)
      else if s.opWaits (.vault id) then s.opsReady id
      else if v.step = 3 ∨ v.step = 5 then (s.dropVJob id).endLink id stOk
      else (s.onVJob id fun _ => { v with step := v.step + 1 }).vaultStep { v with step := v.step + 1 } := by
  unfold State.vaultAnswered
  simp only [hw, hp, hv]
  rfl

end Creation

/-- Settles O44: a creation and a retirement put their Vault steps under way with what the link and its slot give, and each step begins once the one
before is done. -/
theorem keyCreationAndRetirement : Obligations.KeyCreationAndRetirement := by
  refine ⟨?_, ?_⟩
  · rintro ⟨r, i, k⟩ q l s ho hc hl hs hr hv ha
    refine ⟨fun x hx hop hcr hw hto hrun => ?_, fun x hop hk hh hb => ?_⟩
    · have hgo := exec_creates hl hop hx hrun
      obtain ⟨j₀, hj₀⟩ : ∃ j, l.job = some j := by
        cases hj : l.job with
        | none => simp [Link.jobReady, hj] at hr
        | some j => exact ⟨j, rfl⟩
      refine ⟨fun he j hj => ?_, fun st he => ?_⟩
      · rw [State.createKey_ready hl hj ho hc hs hto hcr hr hw hv ha, he] at hgo
        obtain ⟨n, a, b, hm⟩ := s.created_under ⟨r, i, k⟩ q l j
        refine ⟨_, { s.creation ⟨r, i, k⟩ q l (s.newKey l j n) with step := a, quad := b }, n, hgo, hm, rfl, rfl, rfl, rfl, ?_⟩
        generalize s.newKey l j n = y
        dsimp only
        exact ⟨s.creation_ctx ⟨r, i, k⟩ q l y, s.creation_ext ⟨r, i, k⟩ q l y⟩
      · rw [State.createKey_ready hl hj₀ ho hc hs hto hcr hr hw hv ha, he] at hgo
        exact hgo
    · have hgo := exec_keyRetire hl ho hc hs hr hv ha hop hk hh hb
      refine ⟨fun hbad => ?_, fun hbad => ?_⟩
      · rw [if_neg (by simp [hbad])] at hgo
        obtain ⟨a, b, hm, hsl⟩ := (s.wipeSlot x).vaultBegin_under { id := ⟨r, i, k⟩, part := x.1, index := x.2.1, retire := true
                                                                    ext := if l.extLen = 0 then none else some (zeros (roundUp l.extLen 8 + 8)) }
        refine ⟨_, _, hgo, ?_, hm, rfl, rfl, rfl, rfl⟩
        unfold State.slot
        rw [hsl]
        exact State.slot_wipeSlot s x
      · rw [if_pos hbad] at hgo
        obtain ⟨q', stamp, viol, h⟩ := State.endAs_link (s := s.wipeSlot x) hl hs (stKeyInvalid 2)
        exact ⟨_, q', _, hgo, h, rfl⟩
  · rintro ⟨r, i, k⟩ q l v s hw hp hv hl hs he hr hbuf
    intro ends
    have hgo := State.vaultAnswered_done hw hp hv
    refine ⟨fun hb => ?_, fun hb hops => ⟨fun hst => ?_, fun h3 h5 => ?_⟩⟩
    · have hlog : (s.logKeyReq 0x0702 v.part v).link ⟨r, i, k⟩ = some (q, l) := (State.link_logReq ..).trans hl
      rw [if_pos hb] at hgo
      show (∀ w ∈ (s.vaultAnswered ⟨r, i, k⟩).key.jobs, w.id ≠ ⟨r, i, k⟩) ∧ _
      rw [hgo]
      exact State.vaultOver hlog hs he hr _
    · rw [if_neg (by simp [hb]), if_neg (by simp [hops]), if_pos hst] at hgo
      show (∀ w ∈ (s.vaultAnswered ⟨r, i, k⟩).key.jobs, w.id ≠ ⟨r, i, k⟩) ∧ _
      rw [hgo]
      exact State.vaultOver hl hs he hr _
    · rw [hgo, if_neg (by simp [hb]), if_neg (by simp [hops]), if_neg (by simp [h3, h5])]

end Sys2Proof.Machine

/-! ### PROOFS. The preparation of a job on a thread that is none (R206, R230, R231) -/

namespace Sys2Proof.Machine

/-- The staged link of a KEY_RETIRE whose preparation tick has come. -/
def retireLink : Link := { hdr := { opcode := opRetire, keyIndex := 5 }, listsDone := true, staged := true, prepAt := some 5 }

/-- A block in service that has cores but no thread. -/
def threadless : State :=
  { State.reset with
    blk := { mode := .service, rpReset := false }, sch := { tick := 5 }
    prt := { parts := [(1, { entry := { num := 1, fid := 3, ctxSlots := 8, vecBase := 16, vecCount := 4 }, st := .active })], bme := [3] }
    rng := { reqs := [{ ring := 0, idx := 0, part := 1, links := [retireLink] }] }
    ory := { threads := [], cores := List.replicate 4 { awake := true } } }

/-- Thread 2 runs after a command. -/
def thread2Runs : Out → Bool
  | .next t => (t.thread 2).st == .running
  | _ => false

/-- Refutes O45: where the block has no threads, thread 2 counts as free, and the preparation that takes it has none to run. -/
theorem not_jobResults : ¬ Obligations.JobResults := by
  intro h
  obtain ⟨hprep, -⟩ := h
  obtain ⟨t, q', l', j, ht, -, -, -, -, hrun, -⟩ := hprep ⟨0, 0, 0⟩ ⟨.ok [], .ok [], .ok [], .ok [], .ok []⟩
    { ring := 0, idx := 0, part := 1, links := [retireLink] } retireLink 2 threadless (by decide) rfl (by decide) rfl rfl rfl (by decide)
    rfl (by decide) (by decide) (by decide) (by decide)
  have h1 : thread2Runs (exec (.jobPreparation ⟨0, 0, 0⟩ ⟨.ok [], .ok [], .ok [], .ok [], .ok []⟩) threadless) = true := by
    rw [ht]
    show ((t.thread 2).st == .running) = true
    rw [hrun]
    rfl
  exact absurd h1 (by decide)

end Sys2Proof.Machine

/-! ### PROOFS. What every operation keeps: the canonical form of the memories, and the tags (R201, R231, R272, R274, R376) -/

namespace Sys2Proof.Machine

/-- From u to s the memories keep their canonical form, and the tags their discipline. -/
structure State.Intact (u s : State) : Prop where
  mem  : u.memWf = true → s.memWf = true
  tags : u.tagsOk = true → s.tagsOk = true

theorem State.Intact.refl (s : State) : s.Intact s := ⟨fun h => h, fun h => h⟩

section Primitives

variable {u s : State}

theorem State.Intact.then {t : State} (h : u.Intact s) (hm : s.memWf = true → t.memWf = true) (ht : s.tagsOk = true → t.tagsOk = true) : u.Intact t :=
  ⟨fun hu => hm (h.mem hu), fun hu => ht (h.tags hu)⟩

theorem State.Intact.foldl {α : Type} {f : State → α → State} (hf : ∀ t a, u.Intact t → u.Intact (f t a)) (l : List α) (h : u.Intact s) :
    u.Intact (l.foldl f s) := foldl_invariant (P := u.Intact) (fun t a ht => hf t a ht) l h

theorem State.Intact.ite {c : Prop} [Decidable c] {a b : State} (ha : u.Intact a) (hb : u.Intact b) : u.Intact (if c then a else b) := by
  split
  · exact ha
  · exact hb

theorem State.onBlk_intact (h : u.Intact s) (f : Blk → Blk) : u.Intact (s.onBlk f) := h.then (fun h => h) fun h => h
theorem State.onLdr_intact (h : u.Intact s) (f : Ldr → Ldr) : u.Intact (s.onLdr f) := h.then (fun h => h) fun h => h
theorem State.onSch_intact (h : u.Intact s) (f : Sch → Sch) : u.Intact (s.onSch f) := h.then (fun h => h) fun h => h
theorem State.onPrt_intact (h : u.Intact s) (f : Prt → Prt) : u.Intact (s.onPrt f) := h.then (fun h => h) fun h => h
theorem State.onRng_intact (h : u.Intact s) (f : Rng → Rng) : u.Intact (s.onRng f) := h.then (fun h => h) fun h => h
theorem State.onKey_intact (h : u.Intact s) (f : KeyU → KeyU) : u.Intact (s.onKey f) := h.then (fun h => h) fun h => h
theorem State.onEnt_intact (h : u.Intact s) (f : Ent → Ent) : u.Intact (s.onEnt f) := h.then (fun h => h) fun h => h
theorem State.onMbx_intact (h : u.Intact s) (f : Mbxs → Mbxs) : u.Intact (s.onMbx f) := h.then (fun h => h) fun h => h
theorem State.onIo_intact (h : u.Intact s) (f : Io → Io) : u.Intact (s.onIo f) := h.then (fun h => h) fun h => h
theorem State.onEph_intact (h : u.Intact s) (f : Eph → Eph) : u.Intact (s.onEph f) := h.then (fun h => h) fun h => h
theorem State.onGlog_intact (h : u.Intact s) (f : Glog → Glog) : u.Intact (s.onGlog f) := h.then (fun h => h) fun h => h
theorem State.draw_intact (h : u.Intact s) (k : Nat) : u.Intact (s.draw k).2 := h.then (fun h => h) fun h => h

/-- An update of the data hierarchy that leaves the operand memories in form. -/
theorem State.onDat_intact_of (h : u.Intact s) {f : Dat → Dat} (hf : ∀ d : Dat, (d.macus.all fun m => Memory.wf 0 m.mem) = true →
    ((f d).macus.all fun m => Memory.wf 0 m.mem) = true) : u.Intact (s.onDat f) :=
  h.then (fun hm => by
    simp only [State.memWf, State.onDat_dat, State.onDat_ory, Bool.and_eq_true] at hm ⊢
    exact ⟨hm.1, hf _ hm.2⟩) fun h => h

theorem State.onDat_intact (h : u.Intact s) (f : Dat → Dat) (hf : ∀ d, (f d).macus = d.macus) : u.Intact (s.onDat f) :=
  State.onDat_intact_of h fun d hd => by rwa [hf]

theorem State.onOry_intact_of (h : u.Intact s) {f : Ory → Ory} (hf : ∀ o : Ory, Memory.wf 0 o.shmem = true → Memory.wf 0 (f o).shmem = true) :
    u.Intact (s.onOry f) :=
  h.then (fun hm => by
    simp only [State.memWf, State.onOry_dat, State.onOry_ory, Bool.and_eq_true] at hm ⊢
    exact ⟨hf _ hm.1, hm.2⟩) fun h => h

theorem State.onOry_intact (h : u.Intact s) (f : Ory → Ory) (hf : ∀ o, (f o).shmem = o.shmem) : u.Intact (s.onOry f) :=
  State.onOry_intact_of h fun o ho => by rwa [hf]

theorem State.onMov_intact_of (h : u.Intact s) {f : Mov → Mov} (hf : ∀ m : Mov, m.ports.all Port.tagsOk = true → (f m).ports.all Port.tagsOk = true) :
    u.Intact (s.onMov f) := h.then (fun h => h) fun ht => hf _ ht

theorem State.onMov_intact (h : u.Intact s) (f : Mov → Mov) (hf : ∀ m, (f m).ports = m.ports) : u.Intact (s.onMov f) :=
  State.onMov_intact_of h fun m hm => by rwa [hf]

end Primitives

/-! #### The tags of a port -/

section Tags

/-- The write ids outstanding. -/
def Port.wtags (p : Port) : List Nat := (p.writes.filter (·.issued)).map (·.idx)

/-- The read tags outstanding, and whether each is of the reserved pool. -/
def Port.rtags (p : Port) : List (Nat × Bool) := (p.reads.filter (·.issued)).map fun r => (r.idx, r.vault)

/-- The tags of a pool (R272). -/
def ofPool (vault : Bool) (i : Nat) : Bool := if vault then decide (896 ≤ i) && decide (i < 1024) else decide (i < 896)

theorem Port.tagsOk_iff {p : Port} : p.tagsOk = true ↔ p.wtags.Nodup ∧ (p.rtags.map (·.1)).Nodup ∧ p.quar.Nodup ∧ (∀ i ∈ p.wtags, i < 1024)
    ∧ ∀ x ∈ p.rtags, ofPool x.2 x.1 = true ∧ x.1 ∉ p.quar := by
  have hr : p.rtags.map (·.1) = (p.reads.filter (·.issued)).map (·.idx) := by simp [Port.rtags]
  have hw : (p.writes.all fun w => !w.issued || decide (w.idx < 1024)) = true ↔ ∀ i ∈ p.wtags, i < 1024 := by
    simp only [List.all_eq_true, Bool.or_eq_true, Bool.not_eq_true', decide_eq_true_eq, Port.wtags, List.mem_map, List.mem_filter,
      forall_exists_index, and_imp]
    exact ⟨fun h i w hw hi he => he ▸ (h w hw).resolve_left (by simp [hi]), fun h w hw => (Bool.eq_false_or_eq_true w.issued).elim
      (fun hi => .inr (h _ w hw hi rfl)) .inl⟩
  have hp : (p.reads.all fun r => !r.issued || (inPool r r.idx && !p.quar.contains r.idx)) = true
      ↔ ∀ x ∈ p.rtags, ofPool x.2 x.1 = true ∧ x.1 ∉ p.quar := by
    simp only [List.all_eq_true, Bool.or_eq_true, Bool.and_eq_true, Bool.not_eq_true', Port.rtags, List.mem_map, List.mem_filter,
      forall_exists_index, and_imp, List.contains_eq_mem, decide_eq_false_iff_not]
    refine ⟨fun h x r hr hi he => ?_, fun h r hr => ?_⟩
    · subst he
      exact (h r hr).resolve_left (by simp [hi])
    · cases hi : r.issued with
      | false => exact .inl rfl
      | true => exact .inr (h _ r hr hi rfl)
  rw [hr, ← hw, ← hp]
  simp only [Port.tagsOk, Port.wtags, Bool.and_eq_true, decide_eq_true_eq, and_assoc]

/-- A port with no other tags than before keeps their discipline. -/
theorem Port.tagsOk_mono {p p' : Port} (h : p.tagsOk = true) (hw : p'.wtags.Sublist p.wtags) (hr : p'.rtags.Sublist p.rtags)
    (hq : p'.quar.Sublist p.quar) : p'.tagsOk = true := by
  obtain ⟨h1, h2, h3, h4, h5⟩ := Port.tagsOk_iff.1 h
  refine Port.tagsOk_iff.2 ⟨h1.sublist hw, h2.sublist (hr.map _), h3.sublist hq, fun i hi => h4 i (hw.subset hi), fun x hx => ?_⟩
  obtain ⟨h6, h7⟩ := h5 x (hr.subset hx)
  exact ⟨h6, fun hm => h7 (hq.subset hm)⟩

theorem Port.tagsOk_congr {p p' : Port} (h : p.tagsOk = true) (hw : p'.wtags = p.wtags) (hr : p'.rtags = p.rtags) (hq : p'.quar = p.quar) :
    p'.tagsOk = true := Port.tagsOk_mono h (hw ▸ .refl _) (hr ▸ .refl _) (hq ▸ .refl _)

/-- What an update of the accesses leaves of those outstanding is a part of what was. -/
theorem filterMap_issued {α β : Type} (iss : α → Bool) (π : α → β) {f : α → Option α} (hf : ∀ a b, f a = some b → π b = π a ∧ (iss b = true → iss a = true))
    (l : List α) : (((l.filterMap f).filter iss).map π).Sublist ((l.filter iss).map π) := by
  induction l with
  | nil => exact .refl _
  | cons a l ih =>
    rw [List.filterMap_cons]
    cases h : f a with
    | none =>
      refine ih.trans (List.Sublist.map _ ?_)
      exact (List.sublist_cons_self a l).filter _
    | some b =>
      obtain ⟨h1, h2⟩ := hf a b h
      cases hb : iss b with
      | false =>
        rw [List.filter_cons_of_neg (by simp [hb])]
        exact ih.trans (List.Sublist.map _ ((List.sublist_cons_self a l).filter _))
      | true =>
        rw [List.filter_cons_of_pos hb, List.filter_cons_of_pos (h2 hb), List.map_cons, List.map_cons, h1]
        exact ih.cons_cons _

theorem Port.pump_tagsOk {p : Port} (silent : Nat → Bool) (h : p.tagsOk = true) : (p.pump silent).tagsOk = true := by
  obtain ⟨hw, hr, hq⟩ := Port.pump_pumped silent p
  have hrt : ∀ q : Port, q.rtags.map (·.1) = idxs FRead.issued FRead.idx q.reads := fun q => by simp [Port.rtags, idxs]
  obtain ⟨h1, h2, h3, h4, h5⟩ := Port.tagsOk_iff.1 h
  refine Port.tagsOk_iff.2 ⟨hw.nodup h1, ?_, hq ▸ h3, fun i hi => ?_, fun x hx => ?_⟩
  · rw [hrt]
    exact hr.nodup (by rw [List.nil_append, ← hrt]; exact h2)
  · obtain ⟨w, hm, rfl⟩ := List.mem_map.1 hi
    obtain ⟨hm, hi'⟩ := List.mem_filter.1 hm
    rcases hw.issued hm with hm | ⟨hp, -⟩
    · exact h4 _ (List.mem_map_of_mem (List.mem_filter.2 ⟨hm, hi'⟩))
    · exact hp
  · obtain ⟨y, hm, rfl⟩ := List.mem_map.1 hx
    obtain ⟨hm, hi'⟩ := List.mem_filter.1 hm
    rw [hq]
    rcases hr.issued hm with hm | hp
    · exact h5 _ (List.mem_map_of_mem (List.mem_filter.2 ⟨hm, hi'⟩))
    · exact hp

end Tags

/-! #### The updates of the ports -/

section Ports

variable {u s : State}

theorem all_map_of {α : Type} {p : α → Bool} {f : α → α} (hf : ∀ a, p a = true → p (f a) = true) {l : List α} (h : l.all p = true) : (l.map f).all p = true := by
  simp only [List.all_eq_true, List.mem_map, forall_exists_index, and_imp, forall_apply_eq_imp_iff₂] at h ⊢
  exact fun a ha => hf a (h a ha)

theorem all_updAt_of {α : Type} {p : α → Bool} {f : α → α} (hf : ∀ a, p a = true → p (f a) = true) {l : List α} (n : Nat) (h : l.all p = true) :
    (updAt l n f).all p = true := by
  simp only [List.all_eq_true] at h ⊢
  intro a ha
  obtain ⟨i, hi⟩ := List.mem_iff_getElem?.1 ha
  rw [updAt_getElem?] at hi
  split at hi
  · obtain ⟨b, hb, rfl⟩ := Option.map_eq_some_iff.1 hi
    exact hf b (h b (List.mem_of_getElem? hb))
  · exact h a (List.mem_of_getElem? hi)

theorem State.onPort_intact (h : u.Intact s) (n : Nat) {f : Port → Port} (hf : ∀ p, p.tagsOk = true → (f p).tagsOk = true) : u.Intact (s.onPort n f) :=
  State.onMov_intact_of h fun _ hm => all_updAt_of hf n hm

theorem State.ports_intact (h : u.Intact s) {f : Port → Port} (hf : ∀ p, p.tagsOk = true → (f p).tagsOk = true) :
    u.Intact (s.onMov fun m => { m with ports := m.ports.map f }) := State.onMov_intact_of h fun _ hm => all_map_of hf hm

theorem State.onWrites_intact (h : u.Intact s) {f : FWrite → Option FWrite}
    (hf : ∀ w v, f w = some v → v.idx = w.idx ∧ (v.issued = true → w.issued = true)) : u.Intact (s.onWrites f) :=
  State.ports_intact h fun _ hp => Port.tagsOk_mono hp (filterMap_issued _ _ hf _) (.refl _) (.refl _)

theorem State.onReads_intact (h : u.Intact s) {f : FRead → Option FRead}
    (hf : ∀ w v, f w = some v → v.idx = w.idx ∧ v.vault = w.vault ∧ (v.issued = true → w.issued = true)) : u.Intact (s.onReads f) :=
  State.ports_intact h fun _ hp => Port.tagsOk_mono hp (.refl _)
    (filterMap_issued _ (fun r : FRead => (r.idx, r.vault)) (fun w v hv => by
      obtain ⟨h1, h2, h3⟩ := hf w v hv
      exact ⟨by rw [h1, h2], h3⟩) _) (.refl _)

theorem State.pump_intact (h : u.Intact s) : u.Intact s.pump := State.ports_intact h fun _ hp => Port.pump_tagsOk _ hp

/-- Accesses that have not issued take no tag. -/
theorem Port.addReads_tagsOk {p : Port} (h : p.tagsOk = true) {l : List FRead} (hl : ∀ r ∈ l, r.issued = false) :
    Port.tagsOk { p with reads := p.reads ++ l } = true :=
  Port.tagsOk_congr h rfl (by
    have h0 : l.filter (·.issued) = [] := List.filter_eq_nil_iff.2 fun r hr => by simp [hl r hr]
    unfold Port.rtags
    rw [List.filter_append, h0, List.append_nil]) rfl

theorem Port.addWrites_tagsOk {p : Port} (h : p.tagsOk = true) {l : List FWrite} (hl : ∀ w ∈ l, w.issued = false) :
    Port.tagsOk { p with writes := p.writes ++ l } = true :=
  Port.tagsOk_congr h (by
    have h0 : l.filter (·.issued) = [] := List.filter_eq_nil_iff.2 fun w hw => by simp [hl w hw]
    unfold Port.wtags
    rw [List.filter_append, h0, List.append_nil]) rfl rfl

theorem Mov.addRead_tagsOk {m : Mov} (h : m.ports.all Port.tagsOk = true) {r : FRead} (hr : r.issued = false) : (m.addRead r).ports.all Port.tagsOk = true :=
  all_updAt_of (fun _ hp => Port.addReads_tagsOk hp (by simpa using hr)) _ h

theorem Mov.addWrite_tagsOk {m : Mov} (h : m.ports.all Port.tagsOk = true) {w : FWrite} (hw : w.issued = false) : (m.addWrite w).ports.all Port.tagsOk = true :=
  all_updAt_of (fun _ hp => Port.addWrites_tagsOk hp (by simpa using hw)) _ h

theorem foldl_addRead_tagsOk {β : Type} (f : β → FRead) (hf : ∀ b, (f b).issued = false) (l : List β) {m : Mov} (h : m.ports.all Port.tagsOk = true) :
    (l.foldl (fun m c => m.addRead (f c)) m).ports.all Port.tagsOk = true :=
  foldl_invariant (P := fun m : Mov => m.ports.all Port.tagsOk = true) (fun _ c h => Mov.addRead_tagsOk h (hf c)) l h

theorem foldl_addWrite_tagsOk {β : Type} (f : β → FWrite) (hf : ∀ b, (f b).issued = false) (l : List β) {m : Mov} (h : m.ports.all Port.tagsOk = true) :
    (l.foldl (fun m c => m.addWrite (f c)) m).ports.all Port.tagsOk = true :=
  foldl_invariant (P := fun m : Mov => m.ports.all Port.tagsOk = true) (fun _ c h => Mov.addWrite_tagsOk h (hf c)) l h

theorem State.write_intact (h : u.Intact s) (addr : Nat) (data : Bytes) (fid cls : Nat) (p : WPurpose) (poison : List Nat) :
    u.Intact (s.write addr data fid cls p poison) := by
  unfold State.write
  exact State.pump_intact (State.onMov_intact_of h fun m hm => foldl_addWrite_tagsOk _ (fun _ => rfl) _ hm)

/-- A free tag read is out of use and out of quarantine. -/
theorem Port.tagFree_some {p : Port} {v : Bool} {i : Nat} (h : p.tagFree v = some i) : i ∉ p.rtags.map (·.1) ∧ i ∉ p.quar := by
  obtain ⟨-, -, hn⟩ := lowestFree_some h
  rw [List.mem_append, not_or] at hn
  exact ⟨by simpa [Port.rtags] using hn.1, hn.2⟩

/-- A tag out of use goes into quarantine. -/
theorem Port.quarantine_tagsOk {p : Port} {i : Nat} (h : p.tagsOk = true) (hr : i ∉ p.rtags.map (·.1)) (hq : i ∉ p.quar) :
    Port.tagsOk { p with quar := p.quar ++ [i] } = true := by
  obtain ⟨h1, h2, h3, h4, h5⟩ := Port.tagsOk_iff.1 h
  refine Port.tagsOk_iff.2 ⟨h1, h2, h3.append (List.nodup_singleton i) (by simpa using hq), h4, fun x hx => ?_⟩
  obtain ⟨h6, h7⟩ := h5 x hx
  refine ⟨h6, fun hm => ?_⟩
  rcases List.mem_append.1 hm with hm | hm
  · exact h7 hm
  · exact hr (List.mem_singleton.1 hm ▸ List.mem_map_of_mem hx)

/-- The tag of the read, where it has one, is out of use on its port and out of quarantine. -/
def State.TagApart (s : State) (r : FRead) : Prop :=
  ∀ p, s.mov.ports[portOf r.addr]? = some p → r.issued = true → r.idx ∉ p.rtags.map (·.1) ∧ r.idx ∉ p.quar

theorem all_updAt_at {α : Type} {p : α → Bool} {f : α → α} {l : List α} {n : Nat} (hf : ∀ a, l[n]? = some a → p a = true → p (f a) = true)
    (h : l.all p = true) : (updAt l n f).all p = true := by
  simp only [List.all_eq_true] at h ⊢
  intro a ha
  obtain ⟨i, hi⟩ := List.mem_iff_getElem?.1 ha
  rw [updAt_getElem?] at hi
  split at hi
  · next he =>
    subst he
    obtain ⟨b, hb, rfl⟩ := Option.map_eq_some_iff.1 hi
    exact hf b hb (h b (List.mem_of_getElem? hb))
  · exact h a (List.mem_of_getElem? hi)

/-- Operand memories in form. -/
def Dat.inForm (d : Dat) : Prop := (d.macus.all fun m => Memory.wf 0 m.mem) = true

theorem all_zipIdx_map {α : Type} {p : α → Bool} {f : α × Nat → α} (hf : ∀ a i, p a = true → p (f (a, i)) = true) {l : List α} (h : l.all p = true) :
    (l.zipIdx.map f).all p = true := by
  simp only [List.all_eq_true, List.mem_map, forall_exists_index, and_imp] at h ⊢
  rintro b ⟨a, i⟩ ha rfl
  exact hf a i (h a (List.fst_mem_of_mem_zipIdx ha))

end Ports

end Sys2Proof.Machine

/-! ### PROOFS. What every operation keeps, 2: every operation keeps memories and tags: records, links, reads, threads, jobs -/

namespace Sys2Proof.Machine

section Intact

variable {s₀ : State}

theorem State.onPart_intact (s : State) (p : Nat) (f : Part → Part) (hk : s₀.Intact s) : s₀.Intact (State.onPart s p f) := by
  unfold State.onPart
  grind [State.onPrt_intact]

theorem State.wakeReq_intact (s : State) (c : Nat) (hk : s₀.Intact s) : s₀.Intact (State.wakeReq s c) := by
  unfold State.wakeReq
  grind [State.onIo_intact]

theorem State.setRing_intact (s : State) (r : Nat) (x : Ring) (hk : s₀.Intact s) : s₀.Intact (State.setRing s r x) := by
  unfold State.setRing
  grind [State.onRng_intact]

theorem State.onRing_intact (s : State) (r : Nat) (f : Ring → Ring) (hk : s₀.Intact s) : s₀.Intact (State.onRing s r f) := by
  unfold State.onRing
  grind [State.setRing_intact]

theorem State.onReq_intact (s : State) (ring idx : Nat) (f : Req → Req) (hk : s₀.Intact s) : s₀.Intact (State.onReq s ring idx f) := by
  unfold State.onReq
  grind [State.onRng_intact]

theorem State.onLink_intact (s : State) (id : LinkId) (f : Link → Link) (hk : s₀.Intact s) : s₀.Intact (State.onLink s id f) := by
  unfold State.onLink
  grind [State.onReq_intact]

theorem State.onUnit_intact (s : State) (u : UnitId) (f : UnitSt → UnitSt) (hk : s₀.Intact s) : s₀.Intact (State.onUnit s u f) := by
  unfold State.onUnit
  cases u with
  | macu n =>
    refine State.onDat_intact_of hk fun d hd => all_updAt_of (fun m hm => ?_) n hd
    exact hm
  | oryCore c => exact State.onOry_intact hk _ fun _ => rfl
  | drbgCore c => exact State.onEnt_intact hk _
  | scintilla => exact hk
  | lane n => exact State.onDat_intact hk _ fun _ => rfl
  | engine n => exact State.onDat_intact hk _ fun _ => rfl
  | quad q => exact State.onDat_intact hk _ fun _ => rfl

theorem State.ephPush_intact (s : State) (q : EphQ) (hk : s₀.Intact s) : s₀.Intact (State.ephPush s q) := by
  unfold State.ephPush
  grind [State.onEph_intact]

theorem State.logSev_intact (s : State) (sev code source part : Nat) (detail : Bytes) (hk : s₀.Intact s) :
    s₀.Intact (State.logSev s sev code source part detail) := by
  unfold State.logSev
  grind [State.ephPush_intact]

theorem State.log_intact (s : State) (code source part : Nat) (detail : Bytes) (hk : s₀.Intact s) : s₀.Intact (State.log s code source part detail) := by
  unfold State.log
  grind [State.logSev_intact]

theorem State.logAt_intact (s : State) (code source part ring index link word : Nat) (req : Option (Nat × Nat)) (hk : s₀.Intact s) :
    s₀.Intact (State.logAt s code source part ring index link word req) := by
  unfold State.logAt
  grind [State.ephPush_intact]

theorem State.logReq_intact (s : State) (code source part ring idx link : Nat) (word : Nat) (hk : s₀.Intact s) :
    s₀.Intact (State.logReq s code source part ring idx link word) := by
  unfold State.logReq
  grind [State.logAt_intact]

theorem State.countViolation_intact (s : State) (part : Nat) (hk : s₀.Intact s) : s₀.Intact (State.countViolation s part) := by
  unfold State.countViolation
  grind [State.onPart_intact]

theorem State.countRing_intact (s : State) (r : Nat) (hk : s₀.Intact s) : s₀.Intact (State.countRing s r) := by
  unfold State.countRing
  grind [State.onRing_intact]

theorem State.violation_intact (s : State) (code source part : Nat) (ring : Option Nat) (toward : Bool) (value fid : Nat) (hk : s₀.Intact s) :
    s₀.Intact (State.violation s code source part ring toward value fid) := by
  unfold State.violation
  grind [State.countRing_intact, State.countViolation_intact, State.ephPush_intact]

theorem State.packetViolation_intact (s : State) (code ring idx link : Nat) (hk : s₀.Intact s) :
    s₀.Intact (State.packetViolation s code ring idx link) := by
  unfold State.packetViolation
  grind [State.countRing_intact, State.countViolation_intact, State.logReq_intact]

theorem State.irqMsg_intact (s : State) (fid vector : Nat) (hk : s₀.Intact s) : s₀.Intact (State.irqMsg s fid vector) := by
  unfold State.irqMsg
  grind [State.onIo_intact]

theorem State.ringIrq_intact (s : State) (r : Nat) (hk : s₀.Intact s) : s₀.Intact (State.ringIrq s r) := by
  unfold State.ringIrq
  grind [State.irqMsg_intact, State.onRing_intact]

theorem State.vaultWrite_intact (s : State) (addr : Nat) (data : Bytes) (purpose : WPurpose) (hk : s₀.Intact s) :
    s₀.Intact (State.vaultWrite s addr data purpose) := by
  unfold State.vaultWrite
  grind [State.write_intact]

theorem State.onChan_intact (s : State) (c : Nat) (f : Mbx → Mbx) (hk : s₀.Intact s) : s₀.Intact (State.onChan s c f) := by
  unfold State.onChan
  grind [State.onMbx_intact]

theorem State.cause_intact (s : State) (r : Reason) (code : Nat) (hk : s₀.Intact s) : s₀.Intact (State.cause s r code) := by
  unfold State.cause
  grind [State.onBlk_intact]

theorem State.readFailed_intact (s : State) (a : ReadAnswer) (addr part : Nat) (about : Option LinkId) (hk : s₀.Intact s) :
    s₀.Intact (State.readFailed s a addr part about) := by
  unfold State.readFailed
  cases a with
  | ok => exact hk
  | _ => cases about with
    | none => exact State.log_intact _ _ _ _ _ (State.onPort_intact hk _ fun _ h => h)
    | some id => exact State.logReq_intact _ _ _ _ _ _ _ _ (State.onPort_intact hk _ fun _ h => h)

theorem State.readFailed_timeout_ports (s : State) (o : List Nat) (k : Nat) (addr part : Nat) (about : Option LinkId) :
    (s.readFailed (.timeout k o) addr part about).mov.ports = updAt s.mov.ports (portOf addr) fun p => { p with tmo := sat 0xFF p.tmo 1 } := by
  unfold State.readFailed
  cases about <;> simp [State.onPort]

theorem State.wholeAnswered_intact (s : State) (x : Reader) (a : ReadAnswer) (fail : Bool) (r : FRead) (bs : List ReadBeat)
    (hr : s.TagApart r) (hk : s₀.Intact s) : s₀.Intact (s.wholeAnswered x a fail r bs) := by
  unfold State.wholeAnswered
  split
  · refine State.Intact.then (State.readFailed_intact _ _ _ _ _ hk) (fun h => h) fun ht => ?_
    refine all_updAt_at (fun p hp hpt => ?_) ht
    rw [State.readFailed_timeout_ports, updAt_getElem?, if_pos rfl] at hp
    obtain ⟨b, hb, rfl⟩ := Option.map_eq_some_iff.1 hp
    split
    · next hi =>
      obtain ⟨h1, h2⟩ := hr b hb hi
      exact Port.quarantine_tagsOk hpt h1 h2
    · exact hpt
  · exact State.readFailed_intact _ _ _ _ _ (State.onMov_intact hk _ fun _ => rfl)

/-- The tag that a read takes, to be answered at once, is free, and the tags outstanding are as before. -/
theorem State.readWhole_intact (s : State) (x : Reader) (c : Nat × Nat × Nat) (hk : s₀.Intact s) :
    s₀.Intact (s.onMov fun _ => (s.mov.readWhole x c).1) ∧ (s.onMov fun _ => (s.mov.readWhole x c).1).TagApart (s.mov.readWhole x c).2 := by
  unfold Mov.readWhole
  dsimp only
  split
  · exact ⟨hk.then (fun h => h) fun h => h, fun p _ hi => absurd hi (by simp)⟩
  · next i g he =>
    obtain ⟨p, hp, hf⟩ := Option.bind_eq_some_iff.1 he
    obtain ⟨j, hj, hji⟩ := Option.map_eq_some_iff.1 hf
    obtain ⟨rfl, -⟩ := Prod.mk.inj hji
    refine ⟨hk.then (fun h => h) fun h => ?_, fun b hb _ => ?_⟩
    · dsimp only [State.onMov, State.tagsOk]
      refine all_updAt_of (fun p hp => ?_) _ h
      exact hp
    · simp only [State.onMov_mov, updAt_getElem?, if_pos, hp, Option.map_some, Option.some.injEq] at hb
      subst hb
      exact Port.tagFree_some hj

theorem State.readString_intact (s : State) (x : Reader) (exts : List (Nat × Nat)) (a : ReadAnswer) (hk : s₀.Intact s) :
    s₀.Intact (State.readString s x exts a) := by
  unfold State.readString
  exact foldl_invariant (P := fun u : State × Bytes => s₀.Intact u.1)
    (fun u c hu => State.wholeAnswered_intact _ _ _ _ _ _ (State.readWhole_intact u.1 _ c hu).2 (State.readWhole_intact u.1 _ c hu).1) _ hk

theorem State.newReads_intact (s : State) (hk : s₀.Intact s) : s₀.Intact (State.newReads s) := by
  unfold State.newReads
  grind [State.onMov_intact]

theorem State.readAhead_intact (s : State) (id : LinkId) (want : Nat) (hk : s₀.Intact s) : s₀.Intact (State.readAhead s id want) := by
  unfold State.readAhead
  split
  · exact hk
  · split
    · exact hk
    · dsimp only
      split
      · exact hk
      · exact State.pump_intact (State.onLink_intact _ _ _ (State.onMov_intact_of hk fun m hm =>
          foldl_addRead_tagsOk (fun x : Nat × Nat × Nat => { addr := x.2.1, len := x.2.2, fid := _, cls := _, purpose := _ }) (fun _ => rfl) _ hm))

theorem State.readNext_intact (s : State) (id : LinkId) (e : Nat) (hk : s₀.Intact s) : s₀.Intact (State.readNext s id e) := by
  unfold State.readNext
  grind [State.onLink_intact, State.readAhead_intact]

theorem State.readWaiting_intact (s : State) (hk : s₀.Intact s) : s₀.Intact (State.readWaiting s) := by
  unfold State.readWaiting
  grind [State.Intact.foldl, State.readNext_intact]

theorem State.discardReads_intact (s : State) (p : RPurpose → Bool) (hk : s₀.Intact s) : s₀.Intact (State.discardReads s p) := by
  unfold State.discardReads
  grind [State.onReads_intact]

theorem State.emitAt_intact (s : State) (id : LinkId) (pos : Nat) (b : Bytes) (bad : Nat → Bool) (last : Bool) (hk : s₀.Intact s) :
    s₀.Intact (State.emitAt s id pos b bad last) := by
  unfold State.emitAt
  grind [State.Intact.foldl, State.onLink_intact, State.write_intact]

theorem State.emit_intact (s : State) (id : LinkId) (b : Bytes) (bad : Nat → Bool) (last : Bool) (hk : s₀.Intact s) :
    s₀.Intact (State.emit s id b bad last) := by
  unfold State.emit
  grind [State.emitAt_intact, State.onLink_intact]

theorem State.unbind_intact (s : State) (id : LinkId) (hk : s₀.Intact s) : s₀.Intact (State.unbind s id) := by
  unfold State.unbind
  grind [State.onDat_intact]

theorem State.transient_intact (s : State) (u : UnitId) (hk : s₀.Intact s) : s₀.Intact (State.transient s u) := by
  unfold State.transient
  grind [State.onSch_intact, State.onUnit_intact]

theorem State.healLink_intact (s : State) (id : LinkId) (hk : s₀.Intact s) : s₀.Intact (State.healLink s id) := by
  unfold State.healLink
  grind [State.Intact.foldl, State.logReq_intact, State.onLink_intact, State.onSch_intact, State.transient_intact]

theorem State.dropOps_intact (s : State) (f : PageOp → Bool) (hk : s₀.Intact s) : s₀.Intact (State.dropOps s f) := by
  unfold State.dropOps
  grind [State.discardReads_intact, State.onKey_intact]

theorem State.dropWork_intact (s : State) (id : LinkId) (hk : s₀.Intact s) : s₀.Intact (State.dropWork s id) := by
  unfold State.dropWork
  grind [State.dropOps_intact, State.onEnt_intact, State.onKey_intact, State.onSch_intact]

theorem State.forceStat_intact (s : State) (id : LinkId) (st : Stat) (hk : s₀.Intact s) : s₀.Intact (State.forceStat s id st) := by
  unfold State.forceStat
  grind [State.discardReads_intact, State.dropWork_intact, State.healLink_intact, State.onLink_intact, State.unbind_intact]

theorem State.forceFrom_intact (s : State) (q : Req) (k : Nat) (st : Nat → Stat) (hk : s₀.Intact s) : s₀.Intact (State.forceFrom s q k st) := by
  unfold State.forceFrom
  grind [State.Intact.foldl, State.forceStat_intact]

theorem State.abandonAfter_intact (s : State) (id : LinkId) (hk : s₀.Intact s) : s₀.Intact (State.abandonAfter s id) := by
  unfold State.abandonAfter
  grind [State.forceFrom_intact]

theorem State.dropWrites_intact (s : State) (id : LinkId) (hk : s₀.Intact s) : s₀.Intact (State.dropWrites s id) := by
  unfold State.dropWrites
  grind [State.onWrites_intact]

theorem State.endAs_intact (s : State) (id : LinkId) (st : Stat) (hk : s₀.Intact s) : s₀.Intact (State.endAs s id st) := by
  unfold State.endAs
  split
  · exact hk
  · split
    · exact hk
    · extract_lets +onlyGivenNames waits now s1 s2 s3 s4 s5
      have h4 : s₀.Intact s4 := State.discardReads_intact _ _ (State.onSch_intact (State.unbind_intact _ _ (State.healLink_intact _ _
        (State.onLink_intact _ _ _ hk))) _)
      have h5 : s₀.Intact s5 := by
        unfold s5
        grind [State.packetViolation_intact, State.onLink_intact]
      grind [State.abandonAfter_intact]

theorem State.handOver_intact (s : State) (id : LinkId) (hk : s₀.Intact s) : s₀.Intact (State.handOver s id) := by
  unfold State.handOver
  grind [State.endAs_intact, State.onLink_intact]

theorem State.endLink_intact (s : State) (id : LinkId) (st : Stat) (hk : s₀.Intact s) : s₀.Intact (State.endLink s id st) := by
  unfold State.endLink
  grind [State.endAs_intact, State.handOver_intact]

theorem State.failData_intact (s : State) (id : LinkId) (st : Stat) (hk : s₀.Intact s) : s₀.Intact (State.failData s id st) := by
  unfold State.failData
  grind [State.endLink_intact]

theorem State.noteErr_intact (s : State) (id : LinkId) (st : Stat) (hk : s₀.Intact s) : s₀.Intact (State.noteErr s id st) := by
  unfold State.noteErr
  grind [State.onLink_intact]

theorem State.readTimedOut_intact (s : State) (id : LinkId) (st : Stat) (hk : s₀.Intact s) : s₀.Intact (State.readTimedOut s id st) := by
  unfold State.readTimedOut
  grind [State.discardReads_intact, State.noteErr_intact, State.onLink_intact]

theorem State.failStage_intact (s : State) (id : LinkId) (st : Stat) (hk : s₀.Intact s) : s₀.Intact (State.failStage s id st) := by
  unfold State.failStage
  grind [State.endAs_intact, State.readTimedOut_intact]

theorem State.loadKey_intact (s : State) (id : LinkId) (hk : s₀.Intact s) : s₀.Intact (State.loadKey s id) := by
  unfold State.loadKey
  grind [State.onLink_intact]

theorem State.tagNow_intact (s : State) (id : LinkId) (hk : s₀.Intact s) : s₀.Intact (State.tagNow s id) := by
  unfold State.tagNow
  grind [State.emit_intact, State.endLink_intact]

theorem State.laneEnd_intact (s : State) (id : LinkId) (l : Link) (single : Bool) (out tag : Bytes) (hk : s₀.Intact s) :
    s₀.Intact (State.laneEnd s id l single out tag) := by
  unfold State.laneEnd
  grind [State.emit_intact, State.endLink_intact, State.onLink_intact, State.tagNow_intact]

theorem State.spill_intact (s : State) (q : Nat) (hk : s₀.Intact s) : s₀.Intact (State.spill s q) := by
  unfold State.spill
  grind [State.draw_intact, State.onLink_intact, State.vaultWrite_intact]

theorem State.runLane_intact (s : State) (g : Grant) (l : Link) (hk : s₀.Intact s) : s₀.Intact (State.runLane s g l) := by
  unfold State.runLane
  grind [State.emit_intact, State.emitAt_intact, State.endLink_intact, State.laneEnd_intact, State.onLink_intact, State.spill_intact]

theorem State.runDigest_intact (s : State) (g : Grant) (l : Link) (hk : s₀.Intact s) : s₀.Intact (State.runDigest s g l) := by
  unfold State.runDigest
  grind [State.emit_intact, State.endLink_intact, State.onLink_intact]

theorem State.markBad_intact (s : State) (id : LinkId) (part list n : Nat) (es : List Elem) (hk : s₀.Intact s) :
    s₀.Intact (State.markBad s id part list n es) := by
  unfold State.markBad
  grind [State.write_intact]

theorem State.markSourceAt_intact (s : State) (id : LinkId) (off : Nat) (hk : s₀.Intact s) : s₀.Intact (State.markSourceAt s id off) := by
  unfold State.markSourceAt
  grind [State.markBad_intact]

theorem State.sourceBusError_intact (s : State) (id : LinkId) (off : Nat) (hk : s₀.Intact s) : s₀.Intact (State.sourceBusError s id off) := by
  unfold State.sourceBusError
  grind [State.endLink_intact, State.markSourceAt_intact]

theorem State.markSource_intact (s : State) (id : LinkId) (a : ReadAnswer) (hk : s₀.Intact s) : s₀.Intact (State.markSource s id a) := by
  unfold State.markSource
  grind [State.markSourceAt_intact]

theorem State.destBusError_intact (s : State) (id : LinkId) (elem : Nat) (hk : s₀.Intact s) : s₀.Intact (State.destBusError s id elem) := by
  unfold State.destBusError
  grind [State.abandonAfter_intact, State.markBad_intact, State.noteErr_intact, State.onLink_intact]

theorem State.onThread_intact (s : State) (t : Nat) (f : Thread → Thread) (hk : s₀.Intact s) : s₀.Intact (State.onThread s t f) := by
  unfold State.onThread
  grind [State.onOry_intact]

theorem State.dmaStop_intact (s : State) (n : Nat) (hk : s₀.Intact s) : s₀.Intact (State.dmaStop s n) := by
  unfold State.dmaStop
  grind [State.discardReads_intact, State.onWrites_intact]

theorem State.endThreads_intact (s : State) (ids : List Nat) (hk : s₀.Intact s) : s₀.Intact (State.endThreads s ids) := by
  unfold State.endThreads
  refine State.Intact.foldl (fun t a ht => State.dmaStop_intact _ _ ht) _ ?_
  refine State.onMov_intact ?_ _ fun _ => rfl
  exact State.onOry_intact hk _ fun _ => rfl

theorem State.freeGroup_intact (s : State) (root : Nat) (hk : s₀.Intact s) : s₀.Intact (State.freeGroup s root) := by
  unfold State.freeGroup
  grind [State.endThreads_intact]

theorem State.moveThread_intact (s : State) (a b : Nat) (hk : s₀.Intact s) : s₀.Intact (State.moveThread s a b) := by
  unfold State.moveThread
  extract_lets +onlyGivenNames f wait fix chan old t
  have ht : s₀.Intact t := State.onOry_intact hk _ fun _ => rfl
  split
  · exact ht
  · refine State.onMov_intact_of ht fun m hm => ?_
    refine all_map_of (fun p hp => ?_) hm
    refine Port.tagsOk_congr hp ?_ ?_ rfl
    · simp only [Port.wtags, List.filter_map, List.map_map]
      rfl
    · simp only [Port.rtags, List.filter_map, List.map_map]
      rfl

theorem State.stopBatch_intact (s : State) (id : LinkId) (hk : s₀.Intact s) : s₀.Intact (State.stopBatch s id) := by
  unfold State.stopBatch
  refine State.onDat_intact_of hk fun d hd => all_zipIdx_map (fun m i h => ?_) hd
  split
  · exact h
  · exact h

theorem Dat.wipe_inForm {d : Dat} (h : d.inForm) (id : LinkId) : Dat.inForm { d with macus := d.macus.map fun m => m.wipe id } :=
  show (List.all (d.macus.map fun m => m.wipe id) _) = true from all_map_of (fun m hm => Macu.wipe_wf m id hm) h

theorem wipeBuffers_wf {m : Map Byte} (l : List Nat) (h : Memory.wf 0 m = true) : Memory.wf 0 (wipeBuffers l m) = true :=
  Memory.wf_sublist List.filter_sublist h

theorem State.wipeJob_intact (s : State) (id : LinkId) (hk : s₀.Intact s) : s₀.Intact (State.wipeJob s id) := by
  unfold State.wipeJob
  split
  · exact hk
  · have h := State.onDat_intact_of (State.stopBatch_intact _ id hk) fun d hd => Dat.wipe_inForm hd id
    have h := fun b : List Nat => State.onOry_intact_of h (f := fun o => { o with buffers := b.foldl (fun b k => mdel b k) o.buffers, shmem := wipeBuffers b o.shmem })
      fun o ho => wipeBuffers_wf b ho
    refine State.onLink_intact _ _ _ ?_
    split
    · exact State.freeGroup_intact _ _ (h _)
    · exact h _

theorem State.killJob_intact (s : State) (id : LinkId) (hk : s₀.Intact s) : s₀.Intact (State.killJob s id) := by
  unfold State.killJob
  grind [State.onSch_intact, State.wipeJob_intact]

theorem State.killJobs_intact (s : State) (p : Nat) (hk : s₀.Intact s) : s₀.Intact (State.killJobs s p) := by
  unfold State.killJobs
  grind [State.Intact.foldl, State.killJob_intact]

theorem State.dropReqs_intact (s : State) (p : Req → Bool) (hk : s₀.Intact s) : s₀.Intact (State.dropReqs s p) := by
  unfold State.dropReqs
  grind [State.Intact.foldl, State.discardReads_intact, State.dropWork_intact, State.onRng_intact, State.onWrites_intact, State.unbind_intact,
    State.wipeJob_intact]

theorem State.flushRing_intact (s : State) (r : Nat) (hk : s₀.Intact s) : s₀.Intact (State.flushRing s r) := by
  unfold State.flushRing
  grind [State.dropReqs_intact, State.logAt_intact, State.onRing_intact]

theorem State.countRecord_intact (s : State) (q : Req) (l : Link) (st : Stat) (last : Bool) (hk : s₀.Intact s) :
    s₀.Intact (State.countRecord s q l st last) := by
  unfold State.countRecord
  grind [State.onPart_intact, State.onRing_intact]

theorem State.onInst_intact (s : State) (i : Nat) (f : Inst → Inst) (hk : s₀.Intact s) : s₀.Intact (State.onInst s i f) := by
  unfold State.onInst
  grind [State.onEnt_intact]

theorem State.instWait_intact (s : State) (i : Nat) (hk : s₀.Intact s) : s₀.Intact (State.instWait s i) := by
  unfold State.instWait
  grind [State.onInst_intact]

theorem State.instDrop_intact (s : State) (i : Nat) (hk : s₀.Intact s) : s₀.Intact (State.instDrop s i) := by
  unfold State.instDrop
  grind [State.onEnt_intact]

theorem planContinue_intact (t c : Nat) (p : DPlan) (x : Item) (hk : s₀.Intact p.s) : s₀.Intact (planContinue t c p x).1.s := by
  unfold planContinue
  grind [State.onEnt_intact]

theorem DPlan.place_intact (p : DPlan) (t : Nat) (x : Item) (sealedW : Bool) (hk : s₀.Intact p.s) : s₀.Intact (DPlan.place p t x sealedW).1.s := by
  unfold DPlan.place
  grind [State.onEnt_intact, State.onInst_intact]

theorem State.countWait_intact (s : State) (id : LinkId) (hk : s₀.Intact s) : s₀.Intact (State.countWait s id) := by
  unfold State.countWait
  grind [State.onLink_intact]

theorem DPlan.waitBlock_intact (p : DPlan) (id : LinkId) (i : Nat) (hk : s₀.Intact p.s) : s₀.Intact (DPlan.waitBlock p id i).s := by
  unfold DPlan.waitBlock
  grind [State.countWait_intact, State.onEnt_intact, State.onInst_intact]

theorem DPlan.work_intact (p : DPlan) (t : Nat) (id : LinkId) (x : Item) (sealedW : Bool) (hk : s₀.Intact p.s) :
    s₀.Intact (DPlan.work p t id x sealedW).1.s := by
  unfold DPlan.work
  grind [DPlan.place_intact, DPlan.waitBlock_intact, State.onLink_intact]

theorem State.patternFill_intact (s : State) (hk : s₀.Intact s) : s₀.Intact (State.patternFill s) := by
  unfold State.patternFill
  grind [State.onEnt_intact]

theorem State.drbgStart_intact (s : State) (t : Nat) (hk : s₀.Intact s) : s₀.Intact (State.drbgStart s t).s := by
  unfold State.drbgStart
  refine foldl_invariant (P := fun p : DPlan => s₀.Intact p.s) (fun p c hp => ?_) _ ?_
  case refine_2 =>
    dsimp only
    exact State.onEnt_intact (State.patternFill_intact s hk) _
  dsimp only
  refine State.onEnt_intact ?_ _
  exact foldl_invariant (P := fun a : DPlan × List Item => s₀.Intact a.1.s) (fun a x ha => planContinue_intact t c a.1 x ha) _ hp

theorem DPlan.instantiate_intact (p : DPlan) (t lo hi : Nat) (hk : s₀.Intact p.s) : s₀.Intact (DPlan.instantiate p t lo hi).s := by
  unfold DPlan.instantiate
  refine foldl_invariant (P := fun p : DPlan => s₀.Intact p.s) (fun p x hp => ?_) _ hk
  split
  · exact hp
  · exact DPlan.place_intact p t _ _ hp

theorem DPlan.uninstantiate_intact (p : DPlan) (t : Nat) (hk : s₀.Intact p.s) : s₀.Intact (DPlan.uninstantiate p t).s := by
  unfold DPlan.uninstantiate
  refine foldl_invariant (P := fun p : DPlan => s₀.Intact p.s) (fun p i hp => ?_) _ hk
  have h := DPlan.place_intact p t { kind := .uninstantiate, inst := i } (mget p.win i).isSome hp
  dsimp only
  split
  · dsimp only
    exact State.onEnt_intact h _
  · exact h

theorem DPlan.drawSpill_intact (p : DPlan) (t : Nat) (hk : s₀.Intact p.s) : s₀.Intact (DPlan.drawSpill p t).s := by
  unfold DPlan.drawSpill
  grind [DPlan.place_intact]

theorem DPlan.ahead_intact (p : DPlan) (t : Nat) (hk : s₀.Intact p.s) : s₀.Intact (DPlan.ahead p t).s := by
  unfold DPlan.ahead
  refine foldl_invariant (P := fun p : DPlan => s₀.Intact p.s) (fun p x hp => ?_) _ hk
  dsimp only
  split
  · exact DPlan.place_intact p t _ _ hp
  · exact hp

theorem State.giveBytes_intact (s : State) (id : LinkId) (out : Bytes) (hk : s₀.Intact s) : s₀.Intact (State.giveBytes s id out) := by
  unfold State.giveBytes
  grind [State.emit_intact, State.endLink_intact, State.onLink_intact]

theorem State.seedCheck_intact (s : State) (hk : s₀.Intact s) : s₀.Intact (State.seedCheck s) := by
  unfold State.seedCheck
  grind [State.log_intact, State.onLdr_intact]

theorem State.itemDone_intact (s : State) (x : Item) (hk : s₀.Intact s) : s₀.Intact (State.itemDone s x) := by
  unfold State.itemDone
  grind [DPlan.ahead_intact, DPlan.instantiate_intact, DPlan.uninstantiate_intact, State.endLink_intact, State.giveBytes_intact, State.onEnt_intact,
    State.onInst_intact, State.onLink_intact, State.seedCheck_intact]

theorem State.coreDone_intact (s : State) (c : Nat) (hk : s₀.Intact s) : s₀.Intact (State.coreDone s c) := by
  unfold State.coreDone
  grind [State.itemDone_intact, State.onEnt_intact]

theorem State.coresDone_intact (s : State) (hk : s₀.Intact s) : s₀.Intact (State.coresDone s) := by
  unfold State.coresDone
  grind [State.Intact.foldl, State.coreDone_intact]

theorem execDrbgItemDone_intact (c : Nat) (s : State) (hk : s₀.Intact s) : ∀ z, execDrbgItemDone c s = .next z → s₀.Intact z := by
  unfold execDrbgItemDone
  grind [State.coreDone_intact]

theorem State.runItemOf_intact (s : State) (id : LinkId) (op : Nat) (hk : s₀.Intact s) : s₀.Intact (State.runItemOf s id op) := by
  unfold State.runItemOf
  grind [State.Intact.foldl, State.itemDone_intact, State.onEnt_intact]

theorem execRandom_intact (id : LinkId) (s : State) (hk : s₀.Intact s) : ∀ z, execRandom id s = .next z → s₀.Intact z := by
  unfold execRandom
  grind [State.runItemOf_intact]

theorem execReseed_intact (id : LinkId) (s : State) (hk : s₀.Intact s) : ∀ z, execReseed id s = .next z → s₀.Intact z := by
  unfold execReseed
  grind [State.runItemOf_intact]

theorem execEntropyWaitExpiry_intact (id : LinkId) (s : State) (hk : s₀.Intact s) : ∀ z, execEntropyWaitExpiry id s = .next z → s₀.Intact z := by
  unfold execEntropyWaitExpiry
  grind [State.endLink_intact, State.logReq_intact, State.onLink_intact, State.onSch_intact]

theorem State.stager_intact (s : State) (hk : s₀.Intact s) : s₀.Intact (State.stager s).2 := by
  unfold State.stager
  grind [State.draw_intact]

theorem State.logKey_intact (s : State) (code part : Nat) (detail : Bytes) (hk : s₀.Intact s) : s₀.Intact (State.logKey s code part detail) := by
  unfold State.logKey
  grind [State.log_intact, State.stager_intact]

theorem State.logKeyReq_intact (s : State) (code part : Nat) (v : VJob) (hk : s₀.Intact s) : s₀.Intact (State.logKeyReq s code part v) := by
  unfold State.logKeyReq
  grind [State.logReq_intact]

theorem State.setPage_intact (s : State) (x : LPage) (hk : s₀.Intact s) : s₀.Intact (State.setPage s x) := by
  unfold State.setPage
  grind [State.onKey_intact]

theorem foldl_reads_tagsOk {β : Type} (g : β → List (Nat × Nat)) (f : β → Nat × Nat → FRead) (hf : ∀ b c, (f b c).issued = false) (l : List β) {m : Mov}
    (h : m.ports.all Port.tagsOk = true) : (l.foldl (fun m b => (g b).foldl (fun m c => m.addRead (f b c)) m) m).ports.all Port.tagsOk = true :=
  foldl_invariant (P := fun m : Mov => m.ports.all Port.tagsOk = true) (fun _ b h => foldl_addRead_tagsOk (f b) (hf b) (g b) h) l h

theorem State.opsNext_intact (s : State) (hk : s₀.Intact s) : s₀.Intact (State.opsNext s) := by
  unfold State.opsNext
  split
  · exact hk
  · extract_lets +onlyGivenNames ops first go t add
    refine State.pump_intact (State.onMov_intact_of (State.onKey_intact hk _) fun m hm => ?_)
    exact foldl_reads_tagsOk (fun o => cut (t.pageAddr o.part o.page) 512) (fun o c => { addr := c.1, len := c.2, fid := t.vaultFid, cls := clsVault, vault := true, purpose := .page o.part o.page })
      (fun _ _ => rfl) go hm

theorem State.writePage_intact (s : State) (p n : Nat) (why : WPurpose) (us : List PageUpd) (hk : s₀.Intact s) :
    s₀.Intact (State.writePage s p n why us) := by
  unfold State.writePage
  grind [State.onKey_intact, State.opsNext_intact]

theorem State.opWrite_intact (s : State) (o : PageOp) (x : LPage) (hk : s₀.Intact s) : s₀.Intact (State.opWrite s o x) := by
  unfold State.opWrite
  grind [State.Intact.foldl, State.onKey_intact, State.setPage_intact, State.vaultWrite_intact]

theorem State.onSlot_intact (s : State) (k : Nat × Nat × Nat) (f : KSlot → KSlot) (hk : s₀.Intact s) : s₀.Intact (State.onSlot s k f) := by
  unfold State.onSlot
  grind [State.onKey_intact]

end Intact

end Sys2Proof.Machine

/-! ### PROOFS. What every operation keeps, 2: the Vault, staging, fetching, completion, preparation, the mailboxes -/

namespace Sys2Proof.Machine

section Intact

variable {s₀ : State}

theorem State.wipeSlot_intact (s : State) (k : Nat × Nat × Nat) (hk : s₀.Intact s) : s₀.Intact (State.wipeSlot s k) := by
  unfold State.wipeSlot
  grind [State.onKey_intact]

theorem State.wipePart_intact (s : State) (p : Nat) (hk : s₀.Intact s) : s₀.Intact (State.wipePart s p) := by
  unfold State.wipePart
  grind [State.dropOps_intact, State.onKey_intact]

theorem State.dropUnusable_intact (s : State) (p : Nat) (hk : s₀.Intact s) : s₀.Intact (State.dropUnusable s p) := by
  unfold State.dropUnusable
  grind [State.Intact.foldl, State.wipeSlot_intact]

theorem State.pageBad_intact (s : State) (p n : Nat) (hk : s₀.Intact s) : s₀.Intact (State.pageBad s p n) := by
  unfold State.pageBad
  grind [State.Intact.foldl, State.dropUnusable_intact, State.endAs_intact, State.logKey_intact, State.onKey_intact, State.setPage_intact]

theorem State.takePage_intact (s : State) (p n : Nat) (a : ReadAnswer) (id : LinkId) (hk : s₀.Intact s) : s₀.Intact (State.takePage s p n a id).1 := by
  unfold State.takePage
  grind [State.pageBad_intact, State.readString_intact, State.setPage_intact]

theorem State.ledgerWrite_intact (s : State) (k : Nat × Nat × Nat) (why : LedgerWhy) (v : Nat) (clean : Bool) (hk : s₀.Intact s) :
    s₀.Intact (State.ledgerWrite s k why v clean) := by
  unfold State.ledgerWrite
  grind [State.onSlot_intact, State.write_intact, State.writePage_intact]

theorem State.makeRoom_intact (s : State) (p : Nat) (hk : s₀.Intact s) : s₀.Intact (State.makeRoom s p).1 := by
  unfold State.makeRoom
  grind [State.ledgerWrite_intact, State.wipeSlot_intact, State.write_intact]

theorem State.placeKey_intact (s : State) (p i g : Nat) (c : Bytes) (hk : s₀.Intact s) : s₀.Intact (State.placeKey s p i g c) := by
  unfold State.placeKey
  grind [State.ledgerWrite_intact, State.onKey_intact]

theorem State.makeHRoom_intact (s : State) (p : Nat) (hk : s₀.Intact s) : s₀.Intact (State.makeHRoom s p).1 := by
  unfold State.makeHRoom
  grind [State.onKey_intact]

theorem State.placeStates_intact (s : State) (p i g hash : Nat) (mat : Bytes) (hk : s₀.Intact s) : s₀.Intact (State.placeStates s p i g hash mat) := by
  unfold State.placeStates
  grind [State.onKey_intact]

theorem State.stageWaiters_intact (s : State) (k : Nat × Nat × Nat) (hk : s₀.Intact s) : s₀.Intact (State.stageWaiters s k) := by
  unfold State.stageWaiters
  grind [State.onRng_intact]

theorem execLedgerReservationAck_intact (p i : Nat) (s : State) (hk : s₀.Intact s) : ∀ z, execLedgerReservationAck p i s = .next z → s₀.Intact z := by
  unfold execLedgerReservationAck
  grind [State.onSlot_intact, State.stageWaiters_intact, State.wipeSlot_intact, State.write_intact]

theorem execLedgerWriteRetry_intact (p i : Nat) (s : State) (hk : s₀.Intact s) : ∀ z, execLedgerWriteRetry p i s = .next z → s₀.Intact z := by
  unfold execLedgerWriteRetry
  grind [State.ledgerWrite_intact, State.onSlot_intact, State.wipeSlot_intact, State.write_intact]

theorem State.ledgerFailed_intact (s : State) (p i : Nat) (hk : s₀.Intact s) : s₀.Intact (State.ledgerFailed s p i) := by
  unfold State.ledgerFailed
  grind [State.Intact.foldl, State.endAs_intact, State.logKey_intact, State.onSlot_intact, State.wipeSlot_intact, State.write_intact]

theorem State.ledgerStep_intact (s : State) (v : VJob) (hk : s₀.Intact s) : s₀.Intact (State.ledgerStep s v) := by
  unfold State.ledgerStep
  grind [State.writePage_intact]

theorem State.vaultStep_intact (s : State) (v : VJob) (hk : s₀.Intact s) : s₀.Intact (State.vaultStep s v) := by
  unfold State.vaultStep
  grind [State.ledgerStep_intact, State.vaultWrite_intact]

theorem State.vaultBegin_intact (s : State) (v : VJob) (hk : s₀.Intact s) : s₀.Intact (State.vaultBegin s v) := by
  unfold State.vaultBegin
  grind [State.onKey_intact, State.stager_intact, State.vaultStep_intact]

theorem State.onVJob_intact (s : State) (id : LinkId) (f : VJob → VJob) (hk : s₀.Intact s) : s₀.Intact (State.onVJob s id f) := by
  unfold State.onVJob
  grind [State.onKey_intact]

theorem State.dropVJob_intact (s : State) (id : LinkId) (hk : s₀.Intact s) : s₀.Intact (State.dropVJob s id) := by
  unfold State.dropVJob
  grind [State.dropOps_intact, State.onKey_intact]

theorem State.opsReady_intact (s : State) (id : LinkId) (hk : s₀.Intact s) : s₀.Intact (State.opsReady s id) := by
  unfold State.opsReady
  grind [State.opWrite_intact]

theorem State.vaultAnswered_intact (s : State) (id : LinkId) (hk : s₀.Intact s) : s₀.Intact (State.vaultAnswered s id) := by
  unfold State.vaultAnswered
  grind [State.dropVJob_intact, State.endLink_intact, State.logKeyReq_intact, State.onVJob_intact, State.opsReady_intact, State.vaultStep_intact]

theorem State.vaultFailed_intact (s : State) (n : Nat) (w : FWrite) (id : LinkId) (hk : s₀.Intact s) : s₀.Intact (State.vaultFailed s n w id) := by
  unfold State.vaultFailed
  split
  · exact State.onVJob_intact _ _ _ hk
  · exact State.onPort_intact hk n fun p hp => Port.addWrites_tagsOk hp (by simp)

theorem State.opTagFails_intact (s : State) (o : PageOp) (hk : s₀.Intact s) : s₀.Intact (State.opTagFails s o) := by
  unfold State.opTagFails
  grind [State.dropOps_intact, State.dropVJob_intact, State.endLink_intact, State.onSlot_intact, State.pageBad_intact, State.write_intact]

theorem State.onOp_intact (s : State) (o : PageOp) (f : PageOp → PageOp) (hk : s₀.Intact s) : s₀.Intact (State.onOp s o f) := by
  unfold State.onOp
  grind [State.onKey_intact]

theorem State.opReadFails_intact (s : State) (o : PageOp) (late : Bool) (hk : s₀.Intact s) : s₀.Intact (State.opReadFails s o late) := by
  unfold State.opReadFails
  grind [State.discardReads_intact, State.dropOps_intact, State.dropVJob_intact, State.failStage_intact, State.ledgerFailed_intact, State.onOp_intact,
    State.onVJob_intact, State.vaultAnswered_intact]

theorem State.opReady_intact (s : State) (o : PageOp) (x : LPage) (hk : s₀.Intact s) : s₀.Intact (State.opReady s o x) := by
  unfold State.opReady
  grind [State.onOp_intact, State.opWrite_intact, State.opsReady_intact]

theorem State.opPart_intact (s : State) (o : PageOp) (addr : Nat) (b : Bytes) (hk : s₀.Intact s) : s₀.Intact (State.opPart s o addr b) := by
  unfold State.opPart
  grind [State.onOp_intact, State.opReady_intact, State.opTagFails_intact]

theorem State.pageArrived_intact (s : State) (p n addr : Nat) (a : ReadAnswer) (hk : s₀.Intact s) : s₀.Intact (State.pageArrived s p n addr a) := by
  unfold State.pageArrived
  grind [State.opPart_intact, State.opReadFails_intact, State.opTagFails_intact, State.opsNext_intact]

theorem State.vaultRepeat_intact (s : State) (hk : s₀.Intact s) : s₀.Intact (State.vaultRepeat s) := by
  unfold State.vaultRepeat
  grind [State.onKey_intact, State.onWrites_intact, State.pump_intact]

theorem State.vaultResume_intact (s : State) (hk : s₀.Intact s) : s₀.Intact (State.vaultResume s) := by
  unfold State.vaultResume
  grind [State.Intact.foldl, State.vaultAnswered_intact]

theorem State.readKey_intact (s : State) (id : LinkId) (p g i : Nat) (r : VaultReads) (hk : s₀.Intact s) : s₀.Intact (s.readKey id p g i r).1 := by
  unfold State.readKey
  extract_lets +onlyGivenNames t
  have ht : s₀.Intact t := State.readString_intact _ _ _ _ hk
  split
  · exact ht
  · split
    · exact ht
    · next c hc =>
      extract_lets +onlyGivenNames ext t'
      have ht' : s₀.Intact t' := by
        unfold t'
        split
        · exact State.readString_intact _ _ _ _ ht
        · exact ht
      split
      · exact ht'
      · split
        · exact ht'
        · extract_lets +onlyGivenNames m
          have hm : s₀.Intact m.1 := State.makeRoom_intact t' p ht'
          split
          · exact State.placeKey_intact _ _ _ _ _ hm
          · exact hm

theorem State.stageOperating_intact (s : State) (id : LinkId) (p g i : Nat) (r : VaultReads) (hk : s₀.Intact s) :
    s₀.Intact (State.stageOperating s id p g i r).1 := by
  unfold State.stageOperating
  grind [State.onSlot_intact, State.readKey_intact, State.takePage_intact, State.write_intact]

theorem State.targetCheck_intact (s : State) (id : LinkId) (p i : Nat) (r : VaultReads) (same : Bool) (hk : s₀.Intact s) :
    s₀.Intact (State.targetCheck s id p i r same).1 := by
  unfold State.targetCheck
  grind [State.takePage_intact]

theorem State.quotaCheck_intact (s : State) (id : LinkId) (p : Nat) (r : VaultReads) (read : Bool) (hk : s₀.Intact s) :
    s₀.Intact (State.quotaCheck s id p r read).1 := by
  unfold State.quotaCheck
  grind [State.takePage_intact]

theorem State.createCheck_intact (s : State) (id : LinkId) (p : Nat) (h : Hdr) (blob : Bytes) (opPage : Option Nat) (op : Option Stat) (r : VaultReads) (hk : s₀.Intact s) :
    s₀.Intact (State.createCheck s id p h blob opPage op r).1 := by
  unfold State.createCheck
  grind [State.quotaCheck_intact, State.targetCheck_intact]

theorem State.stageStates_intact (s : State) (p g i : Nat) (h : Hdr) (c : Bytes) (hk : s₀.Intact s) : s₀.Intact (State.stageStates s p g i h c).1 := by
  unfold State.stageStates
  grind [State.makeHRoom_intact, State.onKey_intact, State.placeStates_intact]

theorem State.holdKey_intact (s : State) (id : LinkId) (k : Nat × Nat × Nat) (c : Bytes) (hk : s₀.Intact s) : s₀.Intact (State.holdKey s id k c) := by
  unfold State.holdKey
  grind [State.onLink_intact, State.write_intact]

theorem State.takeBlob_intact (s : State) (id : LinkId) (p g : Nat) (l : Link) (a : ReadAnswer) (hk : s₀.Intact s) :
    s₀.Intact (State.takeBlob s id p g l a).1 := by
  unfold State.takeBlob
  grind [State.markSource_intact, State.readString_intact]

theorem State.stageLink_intact (s : State) (id : LinkId) (q : Req) (l : Link) (r : VaultReads) (hk : s₀.Intact s) :
    s₀.Intact (State.stageLink s id q l r) := by
  unfold State.stageLink
  extract_lets +onlyGivenNames h p g k create
  split
  · extract_lets +onlyGivenNames o
    have ho : s₀.Intact o.1 := State.stageOperating_intact s id p g h.keyIndex r hk
    split
    · exact ho
    · exact State.failStage_intact _ _ _ ho
    · extract_lets +onlyGivenNames s1
      split
      · exact ho
      · next x hx =>
        split
        · exact State.endAs_intact _ _ _ ho
        · extract_lets +onlyGivenNames own c
          have hc : s₀.Intact c.1 := by
            unfold c
            split
            · exact State.createCheck_intact _ _ _ _ _ _ _ _ ho
            · exact ho
          split
          · exact State.failStage_intact _ _ _ hc
          · extract_lets +onlyGivenNames t
            have ht : s₀.Intact t.1 := State.stageStates_intact c.1 p g h.keyIndex h x.ctx hc
            split
            · exact State.holdKey_intact _ _ _ _ ht
            · exact ht
  · split
    · extract_lets +onlyGivenNames b
      have hb : s₀.Intact b.1 := by
        unfold b
        split
        · exact State.takeBlob_intact _ _ _ _ _ _ hk
        · exact hk
      split
      · exact State.failStage_intact _ _ _ hb
      · extract_lets +onlyGivenNames c
        have hc : s₀.Intact c.1 := State.createCheck_intact b.1 id p h b.2.1 none none r hb
        split
        · exact State.failStage_intact _ _ _ hc
        · exact State.onLink_intact _ _ _ hc
    · exact hk

theorem execKeyStaging_intact (id : LinkId) (r : VaultReads) (s : State) (hk : s₀.Intact s) : ∀ z, execKeyStaging id r s = .next z → s₀.Intact z := by
  unfold execKeyStaging
  grind [State.endAs_intact, State.newReads_intact, State.stageLink_intact]

theorem State.createKey_intact (s : State) (id : LinkId) (hk : s₀.Intact s) : s₀.Intact (State.createKey s id) := by
  unfold State.createKey
  grind [State.draw_intact, State.endLink_intact, State.onLink_intact, State.vaultBegin_intact]

theorem State.createOf_intact (s : State) (op : Nat) (id : LinkId) (hk : s₀.Intact s) : s₀.Intact (State.createOf s op id) := by
  unfold State.createOf
  grind [State.createKey_intact]

theorem execKeyGenerate_intact (id : LinkId) (s : State) (hk : s₀.Intact s) : ∀ z, execKeyGenerate id s = .next z → s₀.Intact z := by
  unfold execKeyGenerate
  grind [State.createOf_intact]

theorem execKeyImport_intact (id : LinkId) (s : State) (hk : s₀.Intact s) : ∀ z, execKeyImport id s = .next z → s₀.Intact z := by
  unfold execKeyImport
  grind [State.createOf_intact]

theorem execKeyDerive_intact (id : LinkId) (s : State) (hk : s₀.Intact s) : ∀ z, execKeyDerive id s = .next z → s₀.Intact z := by
  unfold execKeyDerive
  grind [State.createOf_intact]

theorem execKeyRetire_intact (id : LinkId) (s : State) (hk : s₀.Intact s) : ∀ z, execKeyRetire id s = .next z → s₀.Intact z := by
  unfold execKeyRetire
  grind [State.endAs_intact, State.vaultBegin_intact, State.wipeSlot_intact, State.write_intact]

theorem State.readerFails_intact (s : State) (id : LinkId) (hk : s₀.Intact s) : s₀.Intact (State.readerFails s id) := by
  unfold State.readerFails
  grind [State.dropWrites_intact, State.endLink_intact]

theorem State.slotLost_intact (s : State) (state : Bool) (k : Nat × Nat × Nat) (reader : Option LinkId) (hk : s₀.Intact s) :
    s₀.Intact (State.slotLost s state k reader) := by
  unfold State.slotLost
  grind [State.onKey_intact, State.onRng_intact, State.readerFails_intact]

theorem State.storeLost_intact (s : State) (p : Nat) (reader : Option LinkId) (hk : s₀.Intact s) : s₀.Intact (State.storeLost s p reader) := by
  unfold State.storeLost
  grind [State.readerFails_intact]

theorem execCacheUncorrectable_intact (cache : KeyCacheId) (p i : Nat) (reader : Option LinkId) (s : State) (hk : s₀.Intact s) :
    ∀ z, execCacheUncorrectable cache p i reader s = .next z → s₀.Intact z := by
  unfold execCacheUncorrectable
  grind [State.logKey_intact, State.onKey_intact, State.slotLost_intact, State.storeLost_intact]

theorem State.respond_intact (s : State) (v : W32) (hk : s₀.Intact s) : s₀.Intact (State.respond s v) := by
  unfold State.respond
  grind [State.onBlk_intact]

theorem State.wrote_intact (s : State) (hk : s₀.Intact s) : s₀.Intact (State.wrote s) := by
  unfold State.wrote
  grind [State.respond_intact]

theorem State.refuse_intact (s : State) (who : Accessor) (addr : Nat) (ring : Option Nat) (hk : s₀.Intact s) :
    s₀.Intact (State.refuse s who addr ring) := by
  unfold State.refuse
  grind [State.violation_intact]

theorem State.dropDoorbell_intact (s : State) (who : Accessor) (r code value : Nat) (hk : s₀.Intact s) :
    s₀.Intact (State.dropDoorbell s who r code value) := by
  unfold State.dropDoorbell
  grind [State.onRing_intact, State.violation_intact]

theorem State.doorbell_intact (s : State) (who : Accessor) (r addr value : Nat) (go : State → State) (h : ∀ s, s₀.Intact s → s₀.Intact (go s)) (hk : s₀.Intact s) :
    s₀.Intact (State.doorbell s who r addr value go) := by
  unfold State.doorbell
  grind [State.dropDoorbell_intact, State.refuse_intact]

theorem execProducerWrite_intact (who : Accessor) (r : Nat) (value : W32) (s : State) (hk : s₀.Intact s) :
    ∀ z, execProducerWrite who r value s = .next z → s₀.Intact z := by
  unfold execProducerWrite
  grind [State.doorbell_intact, State.dropDoorbell_intact, State.onRing_intact, State.wrote_intact]

theorem execConsumerWrite_intact (who : Accessor) (r : Nat) (value : W32) (s : State) (hk : s₀.Intact s) :
    ∀ z, execConsumerWrite who r value s = .next z → s₀.Intact z := by
  unfold execConsumerWrite
  grind [State.doorbell_intact, State.dropDoorbell_intact, State.onRing_intact, State.wrote_intact]

theorem execAbortWrite_intact (who : Accessor) (r : Nat) (value : W32) (s : State) (hk : s₀.Intact s) :
    ∀ z, execAbortWrite who r value s = .next z → s₀.Intact z := by
  unfold execAbortWrite
  grind [State.dropDoorbell_intact, State.onRing_intact, State.refuse_intact, State.wrote_intact]

theorem State.cacheRing_intact (s : State) (r : Nat) (hk : s₀.Intact s) : s₀.Intact (State.cacheRing s r) := by
  unfold State.cacheRing
  grind [State.draw_intact, State.onRing_intact, State.spill_intact, State.vaultWrite_intact]

theorem execRingContextMiss_intact (r : Nat) (a : ReadAnswer) (s : State) (hk : s₀.Intact s) :
    ∀ z, execRingContextMiss r a s = .next z → s₀.Intact z := by
  unfold execRingContextMiss
  grind [State.cacheRing_intact, State.newReads_intact, State.readString_intact]

theorem State.abortTidy_intact (s : State) (r : Nat) (hk : s₀.Intact s) : s₀.Intact (State.abortTidy s r) := by
  unfold State.abortTidy
  grind [State.onRing_intact]

theorem State.beginLink_intact (s : State) (id : LinkId) (hk : s₀.Intact s) : s₀.Intact (State.beginLink s id) := by
  unfold State.beginLink
  grind [State.onLink_intact, State.readNext_intact]

/-- A link whose header is found wrong takes that status. -/
def State.orForced (s : State) (x : LinkId × Option Stat) : State :=
  match x.2 with
  | some st => s.forceStat x.1 st
  | none => s

theorem State.orForced_intact (s : State) (x : LinkId × Option Stat) (hk : s₀.Intact s) : s₀.Intact (s.orForced x) := by
  unfold State.orForced
  split
  · exact State.forceStat_intact _ _ _ hk
  · exact hk

theorem State.chainFetched_intact (s : State) (q : Req) (own : List (Option Stat)) (hk : s₀.Intact s) : s₀.Intact (State.chainFetched s q own) := by
  unfold State.chainFetched
  extract_lets +onlyGivenNames c ids
  dsimp only
  refine State.Intact.foldl (fun t id ht => State.beginLink_intact _ _ ht) _ ?_
  split
  · exact hk
  · have ht : s₀.Intact ((ids.zip c.2).foldl State.orForced s) := State.Intact.foldl (fun t x ht => State.orForced_intact t x ht) _ hk
    split
    · exact State.packetViolation_intact _ _ _ _ _ ht
    · exact ht

theorem State.abortFrom_intact (s : State) (q : Req) (k : Nat) (st : Nat → Stat) (hk : s₀.Intact s) : s₀.Intact (State.abortFrom s q k st) := by
  unfold State.abortFrom
  grind [State.forceFrom_intact, State.onReq_intact]

theorem State.addLink_intact (s : State) (r idx arrival : Nat) (l : Link) (chain : Bool) (hk : s₀.Intact s) :
    s₀.Intact (State.addLink s r idx arrival l chain) := by
  unfold State.addLink
  grind [State.abortFrom_intact, State.chainFetched_intact, State.onReq_intact, State.onRing_intact, State.onRng_intact]

theorem State.takePacket_intact (s : State) (r : Nat) (hb : Bytes) (inl : ReadAnswer) (hk : s₀.Intact s) : s₀.Intact (State.takePacket s r hb inl) := by
  unfold State.takePacket
  grind [State.abortTidy_intact, State.addLink_intact, State.onRing_intact, State.onRng_intact]

theorem State.headerFailed_intact (s : State) (r : Nat) (hk : s₀.Intact s) : s₀.Intact (State.headerFailed s r) := by
  unfold State.headerFailed
  extract_lets +onlyGivenNames x t addr first u
  have hu : s₀.Intact u := State.onRing_intact _ _ _ hk
  exact .ite (State.logReq_intact _ _ _ _ _ _ _ _ hu) hu

theorem State.fetchAt_intact (s : State) (r : Nat) (reads : FetchReads) (hk : s₀.Intact s) : s₀.Intact (State.fetchAt s r reads) := by
  unfold State.fetchAt
  grind [State.headerFailed_intact, State.newReads_intact, State.readString_intact, State.takePacket_intact]

theorem execRingFetch_intact (r : Nat) (reads : FetchReads) (s : State) (hk : s₀.Intact s) : ∀ z, execRingFetch r reads s = .next z → s₀.Intact z := by
  unfold execRingFetch
  grind [State.fetchAt_intact]

theorem execHeaderReread_intact (r : Nat) (reads : FetchReads) (s : State) (hk : s₀.Intact s) :
    ∀ z, execHeaderReread r reads s = .next z → s₀.Intact z := by
  unfold execHeaderReread
  grind [State.fetchAt_intact]

theorem execChainIncomplete_intact (r : Nat) (s : State) (hk : s₀.Intact s) : ∀ z, execChainIncomplete r s = .next z → s₀.Intact z := by
  unfold execChainIncomplete
  grind [State.abortTidy_intact, State.forceFrom_intact, State.onReq_intact, State.packetViolation_intact]

theorem execCqStall_intact (r : Nat) (s : State) (hk : s₀.Intact s) : ∀ z, execCqStall r s = .next z → s₀.Intact z := by
  unfold execCqStall
  grind [State.onRing_intact, State.violation_intact]

theorem execGatherListRead_intact (id : LinkId) (src dst : ReadAnswer) (s : State) (hk : s₀.Intact s) :
    ∀ z, execGatherListRead id src dst s = .next z → s₀.Intact z := by
  unfold execGatherListRead
  rintro z ⟨⟩
  split
  · exact hk
  · extract_lets +onlyGivenNames h rd se de
    split
    · exact hk
    · extract_lets +onlyGivenNames a b t
      have ht : s₀.Intact t := State.readString_intact _ _ _ _ (State.readString_intact _ _ _ _ (State.newReads_intact _ hk))
      split
      · exact State.failStage_intact _ _ _ ht
      · extract_lets +onlyGivenNames se' de'
        split
        · exact State.endAs_intact _ _ _ ht
        · have hl := State.onLink_intact t id (fun l => { l with srcElems := se'.map (·.1), dstElems := de'.map (·.1), listsDone := true }) ht
          split
          · exact State.readNext_intact _ _ _ hl
          · exact hl

theorem State.enterHold_intact (s : State) (r : Nat) (hk : s₀.Intact s) : s₀.Intact (State.enterHold s r) := by
  unfold State.enterHold
  grind [State.Intact.foldl, State.forceFrom_intact, State.onReq_intact, State.onRing_intact]

theorem State.retire_intact (s : State) (r : Nat) (hk : s₀.Intact s) : s₀.Intact (State.retire s r) := by
  unfold State.retire
  grind [State.abortTidy_intact, State.onRng_intact]

theorem State.violNext_intact (s : State) (q : Req) (k : Nat) (hk : s₀.Intact s) : s₀.Intact (State.violNext s q k) := by
  unfold State.violNext
  grind [State.onLink_intact, State.packetViolation_intact, State.violation_intact]

theorem execCompletionRecordWrite_intact (r : Nat) (s : State) (hk : s₀.Intact s) : ∀ z, execCompletionRecordWrite r s = .next z → s₀.Intact z := by
  unfold execCompletionRecordWrite
  extract_lets +onlyGivenNames x
  rintro z ⟨⟩
  split
  · exact hk
  · split
    · exact hk
    · extract_lets +onlyGivenNames fid addr
      split
      · exact hk
      · extract_lets +onlyGivenNames st id last rec' s1 s2 s3 s4
        have h3 : s₀.Intact s3 := State.countRecord_intact _ _ _ _ _ (State.onRing_intact _ _ _ (State.violNext_intact _ _ _ (State.onLink_intact _ _ _ hk)))
        have h4 : s₀.Intact s4 := by
          unfold s4
          split
          · exact State.onMov_intact h3 _ fun _ => rfl
          · exact State.write_intact h3 _ _ _ _ _ _
        split
        · exact State.enterHold_intact _ _ h4
        · exact h4

theorem FWrite.recordAgain_issued (t : Nat) (w : FWrite) : (w.recordAgain t).idx = w.idx ∧ (w.recordAgain t).issued = w.issued := by
  unfold FWrite.recordAgain
  split <;> exact ⟨rfl, rfl⟩

theorem State.nextHeld_intact (s : State) (r : Nat) (hk : s₀.Intact s) : s₀.Intact (State.nextHeld s r) := by
  unfold State.nextHeld
  split
  · exact hk
  · split
    · exact hk
    · refine State.pump_intact (State.onWrites_intact hk fun w v hv => ?_)
      split at hv
      · obtain rfl := Option.some.inj hv
        exact ⟨(w.recordAgain_issued _).1, fun h => (w.recordAgain_issued _).2 ▸ h⟩
      · obtain rfl := Option.some.inj hv
        exact ⟨rfl, fun h => h⟩

theorem execRecordWriteRetry_intact (r : Nat) (s : State) (hk : s₀.Intact s) : ∀ z, execRecordWriteRetry r s = .next z → s₀.Intact z := by
  unfold execRecordWriteRetry
  grind [State.nextHeld_intact, State.onRing_intact]

theorem State.recordVisible_intact (s : State) (r : Nat) (irq : Bool) (hk : s₀.Intact s) : s₀.Intact (State.recordVisible s r irq) := by
  unfold State.recordVisible
  grind [State.onRing_intact, State.ringIrq_intact]

theorem execIrqTicksTrigger_intact (r : Nat) (s : State) (hk : s₀.Intact s) : ∀ z, execIrqTicksTrigger r s = .next z → s₀.Intact z := by
  unfold execIrqTicksTrigger
  grind [State.ringIrq_intact]

theorem execInterruptMessage_intact (fid : Nat) (s : State) (hk : s₀.Intact s) : ∀ z, execInterruptMessage fid s = .next z → s₀.Intact z := by
  unfold execInterruptMessage
  grind [State.onIo_intact]

theorem State.replyOk_intact (s : State) (ch : Nat) (words : List W32) (hk : s₀.Intact s) : s₀.Intact (State.replyOk s ch words) := by
  unfold State.replyOk
  grind [State.onChan_intact]

theorem State.closeRing_intact (s : State) (r : Nat) (hk : s₀.Intact s) : s₀.Intact (State.closeRing s r) := by
  unfold State.closeRing
  grind [State.onRng_intact]

theorem execRingDrainComplete_intact (r : Nat) (s : State) (hk : s₀.Intact s) : ∀ z, execRingDrainComplete r s = .next z → s₀.Intact z := by
  unfold execRingDrainComplete
  grind [State.closeRing_intact, State.replyOk_intact]

theorem execRingOpenComplete_intact (r : Nat) (s : State) (hk : s₀.Intact s) : ∀ z, execRingOpenComplete r s = .next z → s₀.Intact z := by
  unfold execRingOpenComplete
  grind [State.cacheRing_intact, State.replyOk_intact, State.setRing_intact]

theorem State.prepRead_intact (s : State) (id : LinkId) (q : Req) (l : Link) (r : JobReads) (hk : s₀.Intact s) :
    s₀.Intact (State.prepRead s id q l r).1 := by
  unfold State.prepRead
  grind [State.Intact.foldl, State.markSource_intact, State.readString_intact]

theorem execJobPreparation_intact (id : LinkId) (r : JobReads) (s : State) (hk : s₀.Intact s) :
    ∀ z, execJobPreparation id r s = .next z → s₀.Intact z := by
  unfold execJobPreparation
  rintro z ⟨⟩
  split
  · exact hk
  · extract_lets +onlyGivenNames h
    split
    · exact hk
    · split
      · exact hk
      · split
        · exact State.wakeReq_intact _ _ hk
        · next q l hl h1 _ t bufs h2 h3 =>
          extract_lets +onlyGivenNames x src j s1 s2
          have hx : s₀.Intact x.1 := State.prepRead_intact _ _ _ _ _ (State.loadKey_intact _ _ (State.newReads_intact _ hk))
          have h2 : s₀.Intact s2 := State.onLink_intact _ _ _ (State.onOry_intact hx _ fun _ => rfl)
          split
          · split
            · exact State.readTimedOut_intact _ _ _ h2
            · exact State.endLink_intact _ _ _ h2
          · exact h2

theorem State.jobBuild_intact (s : State) (id : LinkId) (hk : s₀.Intact s) : s₀.Intact (State.jobBuild s id) := by
  unfold State.jobBuild
  grind [State.onLink_intact]

theorem State.finishJob_intact (s : State) (id : LinkId) (l : Link) (j : Job) (hk : s₀.Intact s) : s₀.Intact (State.finishJob s id l j) := by
  unfold State.finishJob
  grind [State.draw_intact, State.emit_intact, State.endLink_intact, State.onLink_intact]

theorem State.runJob_intact (s : State) (id : LinkId) (l : Link) (hk : s₀.Intact s) : s₀.Intact (State.runJob s id l) := by
  unfold State.runJob
  grind [State.endLink_intact, State.finishJob_intact, State.onLink_intact, State.unbind_intact]

theorem execJobWipe_intact (id : LinkId) (s : State) (hk : s₀.Intact s) : ∀ z, execJobWipe id s = .next z → s₀.Intact z := by
  unfold execJobWipe
  grind [State.wipeJob_intact]

theorem State.mbxIrq_intact (s : State) (c : Nat) (hk : s₀.Intact s) : s₀.Intact (State.mbxIrq s c) := by
  unfold State.mbxIrq
  grind [State.irqMsg_intact]

theorem State.dbSet_intact (s : State) (c bit' : Nat) (hk : s₀.Intact s) : s₀.Intact (State.dbSet s c bit') := by
  unfold State.dbSet
  grind [State.mbxIrq_intact, State.onChan_intact]

theorem State.wakeLevel_intact (s : State) (hk : s₀.Intact s) : s₀.Intact (State.wakeLevel s) := by
  unfold State.wakeLevel
  grind [State.onBlk_intact]

theorem State.notifyOut_intact (s : State) (c bit' : Nat) (hk : s₀.Intact s) : s₀.Intact (State.notifyOut s c bit') := by
  unfold State.notifyOut
  grind [State.dbSet_intact, State.mbxIrq_intact, State.wakeLevel_intact]

theorem State.mbxLog_intact (s : State) (code c a b : Nat) (hk : s₀.Intact s) : s₀.Intact (State.mbxLog s code c a b) := by
  unfold State.mbxLog
  grind [State.log_intact]

theorem State.commit_intact (s : State) (c : Nat) (hk : s₀.Intact s) : s₀.Intact (State.commit s c) := by
  unfold State.commit
  grind [State.mbxLog_intact, State.onChan_intact]

theorem State.dropExercise_intact (s : State) (c : Nat) (hk : s₀.Intact s) : s₀.Intact (State.dropExercise s c) := by
  unfold State.dropExercise
  grind [State.Intact.foldl, State.onEnt_intact, State.onUnit_intact]

theorem State.detach_intact (s : State) (c : Nat) (hk : s₀.Intact s) : s₀.Intact (State.detach s c) := by
  unfold State.detach
  extract_lets +onlyGivenNames un s1 s2 s3
  have h3 : s₀.Intact s3 := State.onOry_intact (State.onPrt_intact (State.onRng_intact hk _) _) _ fun _ => rfl
  split
  · exact h3
  · exact State.onOry_intact h3 _ fun _ => rfl

theorem State.abortMsg_intact (s : State) (c cause : Nat) (hk : s₀.Intact s) : s₀.Intact (State.abortMsg s c cause) := by
  unfold State.abortMsg
  grind [DPlan.work_intact, State.Intact.foldl, State.cause_intact, State.detach_intact, State.dropExercise_intact, State.freeGroup_intact,
    State.mbxLog_intact, State.notifyOut_intact, State.onChan_intact, State.onMbx_intact]

theorem State.replyRes_intact (s : State) (c res det : Nat) (words : List W32) (hk : s₀.Intact s) : s₀.Intact (State.replyRes s c res det words) := by
  unfold State.replyRes
  grind [State.onChan_intact]

theorem State.reply_intact (s : State) (c : Nat) (hk : s₀.Intact s) : s₀.Intact (State.reply s c) := by
  unfold State.reply
  grind [DPlan.work_intact, State.Intact.foldl, State.freeGroup_intact, State.mbxLog_intact, State.notifyOut_intact, State.onChan_intact]

end Intact

end Sys2Proof.Machine

/-! ### PROOFS. What every operation keeps, 2: recovery, the plan of a cut, the MACUs -/

namespace Sys2Proof.Machine

section Intact

variable {s₀ : State}

theorem execMailboxReply_intact (c : Nat) (s : State) (hk : s₀.Intact s) : ∀ z, execMailboxReply c s = .next z → s₀.Intact z := by
  unfold execMailboxReply
  grind [State.reply_intact]

theorem State.ackChan_intact (s : State) (c : Nat) (hk : s₀.Intact s) : s₀.Intact (State.ackChan s c) := by
  unfold State.ackChan
  grind [State.onChan_intact, State.wakeLevel_intact]

theorem State.statusReply_intact (s : State) (c : Nat) (hk : s₀.Intact s) : s₀.Intact (State.statusReply s c) := by
  unfold State.statusReply
  grind [State.onChan_intact, State.reply_intact, State.replyRes_intact]

theorem State.goChan_intact (s : State) (c : Nat) (db : Bool) (hk : s₀.Intact s) : s₀.Intact (State.goChan s c db) := by
  unfold State.goChan
  split
  · exact hk
  · exact hk
  · extract_lets +onlyGivenNames v s1 s2 s3 m mode status early
    have h3 : s₀.Intact s3 := State.onMbx_intact (State.onChan_intact _ _ _ (State.ackChan_intact _ _ hk)) _
    have ha := fun n => State.abortMsg_intact s3 c n h3
    have hp := State.onChan_intact s3 c (fun m => { m with st := .pending }) h3
    refine .ite (ha 1) (.ite (ha 3) (.ite (ha 4) ?_))
    split
    · refine .ite ?_ (.ite (State.statusReply_intact _ _ h3) hp)
      exact State.notifyOut_intact _ _ _ (State.violation_intact _ _ _ _ _ _ _ _ (State.onChan_intact _ _ _ h3))
    · exact hp

theorem State.mailWrite_intact (s : State) (who : Accessor) (c off : Nat) (go : State → State) (h : ∀ s, s₀.Intact s → s₀.Intact (go s)) (hk : s₀.Intact s) :
    s₀.Intact (State.mailWrite s who c off go) := by
  unfold State.mailWrite
  grind [State.refuse_intact]

theorem State.ctrlWrite_intact (s : State) (c : Nat) (v : W32) (hk : s₀.Intact s) : s₀.Intact (State.ctrlWrite s c v) := by
  unfold State.ctrlWrite
  grind [State.ackChan_intact, State.goChan_intact, State.onChan_intact, State.wakeLevel_intact]

theorem execGo_intact (who : Accessor) (c : Nat) (v : W32) (s : State) (hk : s₀.Intact s) : ∀ z, execGo who c v s = .next z → s₀.Intact z := by
  unfold execGo
  grind [State.ctrlWrite_intact, State.mailWrite_intact, State.wrote_intact]

theorem execAck_intact (who : Accessor) (c : Nat) (v : W32) (s : State) (hk : s₀.Intact s) : ∀ z, execAck who c v s = .next z → s₀.Intact z := by
  unfold execAck
  grind [State.ctrlWrite_intact, State.mailWrite_intact, State.wrote_intact]

theorem State.dbDown_intact (s : State) (who : Accessor) (c : Nat) (act : State → State) (h : ∀ s, s₀.Intact s → s₀.Intact (act s)) (hk : s₀.Intact s) :
    s₀.Intact (State.dbDown s who c act) := by
  unfold State.dbDown
  grind [State.mailWrite_intact]

theorem execCompatDoorbellMsg_intact (who : Accessor) (c : Nat) (s : State) (hk : s₀.Intact s) :
    ∀ z, execCompatDoorbellMsg who c s = .next z → s₀.Intact z := by
  unfold execCompatDoorbellMsg
  grind [State.dbDown_intact, State.goChan_intact, State.wrote_intact]

theorem execCompatDoorbellAck_intact (who : Accessor) (c : Nat) (s : State) (hk : s₀.Intact s) :
    ∀ z, execCompatDoorbellAck who c s = .next z → s₀.Intact z := by
  unfold execCompatDoorbellAck
  grind [State.ackChan_intact, State.dbDown_intact, State.wrote_intact]

theorem execMbDbMaskClear_intact (who : Accessor) (c : Nat) (v : W32) (s : State) (hk : s₀.Intact s) :
    ∀ z, execMbDbMaskClear who c v s = .next z → s₀.Intact z := by
  unfold execMbDbMaskClear
  grind [State.mailWrite_intact, State.mbxIrq_intact, State.onChan_intact, State.wrote_intact]

theorem State.modeChanged_intact (s : State) (hk : s₀.Intact s) : s₀.Intact (State.modeChanged s) := by
  unfold State.modeChanged
  grind [State.Intact.foldl, State.dbSet_intact]

theorem State.clearChan_intact (s : State) (p : Nat) (hk : s₀.Intact s) : s₀.Intact (State.clearChan s p) := by
  unfold State.clearChan
  grind [State.abortMsg_intact, State.onChan_intact]

theorem State.markDue_intact (s : State) (det : Nat) (u : UnitId) (hk : s₀.Intact s) : s₀.Intact (State.markDue s det u) := by
  unfold State.markDue
  grind [State.onUnit_intact]

theorem State.eclipse_intact (s : State) (u : UnitId) (code : Nat) (hk : s₀.Intact s) : s₀.Intact (State.eclipse s u code) := by
  unfold State.eclipse
  grind [State.cause_intact, State.log_intact, State.onEnt_intact, State.onSch_intact, State.onUnit_intact]

theorem State.refund_intact (s : State) (g : Grant) (hk : s₀.Intact s) : s₀.Intact (State.refund s g) := by
  unfold State.refund
  grind [State.onPart_intact]

theorem State.withdraw_intact (s : State) (id : LinkId) (hk : s₀.Intact s) : s₀.Intact (State.withdraw s id) := by
  unfold State.withdraw
  grind [State.Intact.foldl, State.onSch_intact, State.refund_intact]

theorem State.rewind_intact (s : State) (id : LinkId) (hk : s₀.Intact s) : s₀.Intact (State.rewind s id) := by
  unfold State.rewind
  split
  · exact hk
  · extract_lets +onlyGivenNames h
    split
    · exact hk
    · split
      · exact State.readNext_intact _ _ _ (State.onLink_intact _ _ _ (State.discardReads_intact _ _ (State.unbind_intact _ _ hk)))
      · split
        · exact hk
        · extract_lets +onlyGivenNames s1 s2
          have h1 : s₀.Intact s1 := State.onDat_intact_of (State.unbind_intact _ _ hk) fun d hd => Dat.wipe_inForm hd id
          exact State.onLink_intact _ _ _ (State.onOry_intact_of h1 fun o ho => wipeBuffers_wf _ ho)

theorem State.retryOk_intact (s : State) (id : LinkId) (hk : s₀.Intact s) : s₀.Intact (State.retryOk s id) := by
  unfold State.retryOk
  grind [State.onLink_intact]

theorem State.retryFailed_intact (s : State) (id : LinkId) (units : List UnitId) (src : Nat) (hk : s₀.Intact s) :
    s₀.Intact (State.retryFailed s id units src) := by
  unfold State.retryFailed
  grind [State.Intact.foldl, State.endLink_intact, State.logReq_intact, State.markDue_intact, State.onLink_intact, State.onSch_intact,
    State.withdraw_intact]

theorem State.enterRetry_intact (s : State) (id : LinkId) (det : Nat) (units charged : List UnitId) (hk : s₀.Intact s) :
    s₀.Intact (State.enterRetry s id det units charged) := by
  unfold State.enterRetry
  grind [State.onLink_intact, State.retryFailed_intact, State.rewind_intact, State.withdraw_intact]

theorem State.beatsBefore_intact (s : State) (g : Grant) (n : Nat) (hk : s₀.Intact s) : s₀.Intact (State.beatsBefore s g n) := by
  unfold State.beatsBefore
  grind [State.emitAt_intact, State.onLink_intact]

theorem State.strike_intact (s : State) (f : UnitFault) (g : Grant) (hk : s₀.Intact s) : s₀.Intact (State.strike s f g) := by
  unfold State.strike
  grind [State.beatsBefore_intact, State.enterRetry_intact, State.logReq_intact, State.onUnit_intact, State.stopBatch_intact]

theorem State.strikeAll_intact (s : State) (fs : List UnitFault) (hk : s₀.Intact s) : s₀.Intact (State.strikeAll s fs) := by
  unfold State.strikeAll
  grind [State.Intact.foldl, State.strike_intact]

theorem execCommandFault_intact (u : Nat) (s : State) (hk : s₀.Intact s) : ∀ z, execCommandFault u s = .next z → s₀.Intact z := by
  unfold execCommandFault
  grind [State.strike_intact]

theorem State.loseHeld_intact (s : State) (u : UnitId) (det : Nat) (hk : s₀.Intact s) : s₀.Intact (State.loseHeld s u det) := by
  unfold State.loseHeld
  grind [State.Intact.foldl, State.enterRetry_intact]

theorem execSelfTest_intact (u : UnitId) (pass : Bool) (s : State) (hk : s₀.Intact s) : ∀ z, execSelfTest u pass s = .next z → s₀.Intact z := by
  unfold execSelfTest
  grind [State.log_intact, State.onSch_intact, State.onUnit_intact]

theorem State.testEnd_intact (s : State) (u : UnitId) (hk : s₀.Intact s) : s₀.Intact (State.testEnd s u) := by
  unfold State.testEnd
  grind [State.Intact.foldl, State.eclipse_intact, State.loseHeld_intact, State.onUnit_intact, State.replyRes_intact, State.transient_intact]

theorem State.testsEnd_intact (s : State) (hk : s₀.Intact s) : s₀.Intact (State.testsEnd s) := by
  unfold State.testsEnd
  grind [State.Intact.foldl, State.testEnd_intact]

theorem State.testsCut_intact (s : State) (hk : s₀.Intact s) : s₀.Intact (State.testsCut s) := by
  unfold State.testsCut
  grind [State.Intact.foldl, State.onUnit_intact, State.wakeReq_intact]

theorem State.testsBegin_intact (s : State) (hk : s₀.Intact s) : s₀.Intact (State.testsBegin s) := by
  unfold State.testsBegin
  grind [State.Intact.foldl, State.onUnit_intact]

theorem State.seat_intact (s : State) (h a b : Nat) (hk : s₀.Intact s) : s₀.Intact (State.seat s h a b) := by
  unfold State.seat
  grind [State.moveThread_intact, State.onOry_intact, State.onThread_intact]

theorem State.seatStatics_intact (s : State) (hk : s₀.Intact s) : s₀.Intact (State.seatStatics s) := by
  unfold State.seatStatics
  grind [State.Intact.foldl, State.seat_intact]

theorem State.restoreCore_intact (s : State) (c : Nat) (hk : s₀.Intact s) : s₀.Intact (State.restoreCore s c) := by
  unfold State.restoreCore
  grind [State.Intact.foldl, State.onThread_intact, State.seat_intact]

theorem State.loseLink_intact (s : State) (id : LinkId) (hk : s₀.Intact s) : s₀.Intact (State.loseLink s id) := by
  unfold State.loseLink
  grind [State.Intact.foldl, State.forceFrom_intact, State.onLink_intact, State.onWrites_intact, State.withdraw_intact]

theorem State.restage_intact (s : State) (q : Nat) (hk : s₀.Intact s) : s₀.Intact (State.restage s q) := by
  unfold State.restage
  grind [State.onKey_intact]

theorem execQuadrantLoss_intact (q : Nat) (s : State) (hk : s₀.Intact s) : ∀ z, execQuadrantLoss q s = .next z → s₀.Intact z := by
  unfold execQuadrantLoss
  rintro z ⟨⟩
  split
  · exact hk
  · extract_lets +onlyGivenNames s1 hit s2 s3
    have h1 : s₀.Intact s1 := State.eclipse_intact _ _ _ (State.log_intact _ _ _ _ _ hk)
    have h2 : s₀.Intact s2 := by
      refine State.Intact.foldl (fun t r ht => ?_) _ h1
      split
      · exact ht
      · exact State.loseLink_intact _ _ ht
    refine State.restage_intact _ _ (State.onDat_intact_of h2 fun d hd => all_zipIdx_map (fun m i h => ?_) hd)
    split
    · rfl
    · exact h

theorem State.reduceFloors_intact (s : State) (hk : s₀.Intact s) : s₀.Intact (State.reduceFloors s) := by
  unfold State.reduceFloors
  grind [State.onPrt_intact]

theorem State.newPatterns_intact (s : State) (epoch : Nat) (hk : s₀.Intact s) : s₀.Intact (State.newPatterns s epoch) := by
  unfold State.newPatterns
  grind [State.onEnt_intact, State.onPrt_intact]

theorem State.takeShares_intact (s : State) (hk : s₀.Intact s) : s₀.Intact (State.takeShares s) := by
  unfold State.takeShares
  grind [State.onPrt_intact]

theorem State.forEpoch_intact (s : State) (hk : s₀.Intact s) : s₀.Intact (State.forEpoch s) := by
  unfold State.forEpoch
  grind [State.newPatterns_intact, State.onPrt_intact, State.takeShares_intact]

theorem State.backFrom_intact (new old : State) (hk : s₀.Intact new) : s₀.Intact (State.backFrom new old) := by
  unfold State.backFrom
  grind [State.onEnt_intact, State.onPrt_intact]

theorem State.moveWindows_intact (s : State) (c : Nat) (hk : s₀.Intact s) : s₀.Intact (State.moveWindows s c) := by
  unfold State.moveWindows
  grind [State.Intact.foldl, State.log_intact, State.onPrt_intact]

theorem State.lightWindows_intact (s : State) (hk : s₀.Intact s) : s₀.Intact (State.lightWindows s) := by
  unfold State.lightWindows
  grind [State.Intact.foldl, State.log_intact, State.onIo_intact, State.onSch_intact]

theorem State.residCut_intact (s : State) (hk : s₀.Intact s) : s₀.Intact (State.residCut s) := by
  unfold State.residCut
  grind [State.onPrt_intact]

theorem State.prepBuffered_intact (s : State) (hk : s₀.Intact s) : s₀.Intact (State.prepBuffered s) := by
  unfold State.prepBuffered
  grind [State.Intact.foldl, State.onLink_intact]

theorem State.noteElig_intact (s : State) (x : Cand) (hk : s₀.Intact s) : s₀.Intact (State.noteElig s x).1 := by
  unfold State.noteElig
  grind [State.onLink_intact, State.onReq_intact]

theorem State.noteLate_intact (s : State) (q : Req) (seg : Nat) (hk : s₀.Intact s) : s₀.Intact (State.noteLate s q seg) := by
  unfold State.noteLate
  grind [State.logReq_intact, State.onLink_intact, State.onPart_intact]

theorem State.scan_intact (s : State) (q : Req) (hk : s₀.Intact s) : s₀.Intact (State.scan s q).1 := by
  unfold State.scan
  grind [State.draw_intact, State.endLink_intact, State.noteElig_intact, State.noteLate_intact, State.withdraw_intact]

theorem State.scanAll_intact (s : State) (hk : s₀.Intact s) : s₀.Intact (State.scanAll s).1 := by
  unfold State.scanAll
  exact foldl_invariant (P := fun a : State × List Cand => s₀.Intact a.1) (fun a q ha => State.scan_intact a.1 q ha) _ hk

theorem GPlan.block_intact (w : GPlan) (c : Nat) (x : Win) (hk : s₀.Intact w.s) : s₀.Intact (GPlan.block w c x).s := by
  unfold GPlan.block
  grind []

theorem GPlan.begin_intact (w : GPlan) (c : Nat) (hk : s₀.Intact w.s) : s₀.Intact (GPlan.begin w c).s := by
  unfold GPlan.begin
  exact foldl_invariant (P := fun w : GPlan => s₀.Intact w.s) (fun w x hw => GPlan.block_intact w c x hw) _ hk

theorem State.takeCount_intact (s : State) (x : Cand) (hk : s₀.Intact s) : s₀.Intact (State.takeCount s x) := by
  unfold State.takeCount
  grind [State.ledgerWrite_intact, State.onLink_intact, State.onSlot_intact, State.write_intact]

theorem GPlan.add_intact (w : GPlan) (x : Cand) (g : Grant) (hk : s₀.Intact w.s) : s₀.Intact (GPlan.add w x g).s := by
  unfold GPlan.add
  grind [State.onReq_intact]

theorem GPlan.lacks_intact (w : GPlan) (x : Cand) (unit : Bool) (hk : s₀.Intact w.s) : s₀.Intact (GPlan.lacks w x unit).1.s := by
  unfold GPlan.lacks
  grind []

theorem GPlan.keyHold_intact (w : GPlan) (x : Cand) (hk : s₀.Intact w.s) : s₀.Intact (GPlan.keyHold w x).1.s := by
  unfold GPlan.keyHold
  grind [State.onKey_intact, State.onLink_intact]

theorem GPlan.keyOut_intact (w : GPlan) (x : Cand) (hk : s₀.Intact w.s) : s₀.Intact (GPlan.keyOut w x).1.s := by
  unfold GPlan.keyOut
  grind [State.noteErr_intact]

theorem GPlan.fill_intact (w : GPlan) (c n : Nat) (p : Bool) (k : Nat) (hk : s₀.Intact w.s) : s₀.Intact (w.fill c n p k).2.2.s := by
  unfold GPlan.fill
  grind []

theorem GPlan.tryLane_intact (w : GPlan) (x : Cand) (lend : Bool) (hk : s₀.Intact w.s) : s₀.Intact (GPlan.tryLane w x lend).1.s := by
  unfold GPlan.tryLane
  grind [GPlan.add_intact, GPlan.fill_intact, GPlan.keyHold_intact, GPlan.keyOut_intact, GPlan.lacks_intact, State.takeCount_intact]

theorem pinned_wf (l : List (Nat × BitVec 256)) {m : Map (BitVec 256)} (h : Memory.wf 0 m = true) :
    Memory.wf 0 (l.foldl (fun (t : Map (BitVec 256)) w => if w.2 = 0 then mdel t w.1 else mset t w.1 w.2) m) = true :=
  foldl_invariant (P := fun t : Map (BitVec 256) => Memory.wf 0 t = true) (fun _ w ht => Memory.wf_write w.1 w.2 ht) l h

theorem State.pin_intact (s : State) (id : LinkId) (n : Nat) (pair : Bool) (k : Nat) (hk : s₀.Intact s) : s₀.Intact (State.pin s id n pair k) := by
  unfold State.pin
  extract_lets +onlyGivenNames held ext set
  have hs : ∀ m : Macu, Memory.wf 0 m.mem = true → Memory.wf 0 (set m).mem = true := fun m hm => pinned_wf ext hm
  refine State.onLink_intact _ _ _ (State.onDat_intact_of hk fun d hd => ?_)
  refine all_updAt_of hs n ?_
  split
  · exact all_updAt_of hs _ hd
  · exact hd

theorem GPlan.tryMacu_intact (w : GPlan) (x : Cand) (lend : Bool) (hk : s₀.Intact w.s) : s₀.Intact (GPlan.tryMacu w x lend).1.s := by
  unfold GPlan.tryMacu
  grind [GPlan.add_intact, GPlan.fill_intact, GPlan.lacks_intact, State.pin_intact]

theorem GPlan.onEngines_intact (w : GPlan) (x : Cand) (g : Grant) (m : Option Nat) (hk : s₀.Intact w.s) : s₀.Intact (GPlan.onEngines w x g m).s := by
  unfold GPlan.onEngines
  grind [GPlan.add_intact]

theorem GPlan.tryEngine_intact (w : GPlan) (x : Cand) (win lend : Bool) (hk : s₀.Intact w.s) : s₀.Intact (GPlan.tryEngine w x win lend).1.s := by
  unfold GPlan.tryEngine
  grind [GPlan.lacks_intact, GPlan.onEngines_intact]

theorem GPlan.attempt_intact (w : GPlan) (x : Cand) (lend : Bool) (hk : s₀.Intact w.s) : s₀.Intact (GPlan.attempt w x lend).1.s := by
  unfold GPlan.attempt
  grind [GPlan.tryEngine_intact, GPlan.tryLane_intact, GPlan.tryMacu_intact]

theorem GPlan.retryWins_intact (w : GPlan) (x : Cand) (hk : s₀.Intact w.s) : s₀.Intact (GPlan.retryWins w x).s := by
  unfold GPlan.retryWins
  grind [GPlan.block_intact]

theorem GPlan.onBound_intact (w : GPlan) (x : Cand) (win : Bool) (hk : s₀.Intact w.s) : s₀.Intact (GPlan.onBound w x win).1.s := by
  unfold GPlan.onBound
  grind [GPlan.onEngines_intact]

theorem State.repack_intact (s : State) (id : LinkId) (a : Option (List JElem × Nat)) (hk : s₀.Intact s) : s₀.Intact (State.repack s id a) := by
  unfold State.repack
  grind [State.onLink_intact]

theorem State.retriesCut_intact (s : State) (hk : s₀.Intact s) : s₀.Intact (State.retriesCut s) := by
  unfold State.retriesCut
  grind [State.Intact.foldl, State.retryFailed_intact]

theorem GPlan.trySealed_intact (w : GPlan) (x : Cand) (hk : s₀.Intact w.s) : s₀.Intact (GPlan.trySealed w x).1.s := by
  unfold GPlan.trySealed
  grind [GPlan.add_intact, GPlan.keyHold_intact, GPlan.keyOut_intact, GPlan.lacks_intact, GPlan.onBound_intact, GPlan.retryWins_intact,
    GPlan.tryEngine_intact, State.pin_intact, State.repack_intact, State.takeCount_intact]

theorem State.setDc_intact (s : State) (p c v : Nat) (hk : s₀.Intact s) : s₀.Intact (State.setDc s p c v) := by
  unfold State.setDc
  grind [State.onPart_intact]

theorem GPlan.credit_intact (w : GPlan) (floors : Map (List Nat)) (c : Nat) (has : List Nat) (hk : s₀.Intact w.s) :
    s₀.Intact (GPlan.credit w floors c has).s := by
  unfold GPlan.credit
  exact foldl_invariant (P := fun w : GPlan => s₀.Intact w.s) (fun w x hw => State.setDc_intact w.s x.1 c _ hw) _ hk

theorem GPlan.floorPart_intact (w : GPlan) (c p g : Nat) (l : List Cand) (hk : s₀.Intact w.s) : s₀.Intact (w.floorPart c p g l).s := by
  induction l generalizing w with
  | nil => exact hk
  | cons x l ih =>
    unfold GPlan.floorPart
    extract_lets +onlyGivenNames k
    split
    · exact hk
    · extract_lets +onlyGivenNames r
      have hr : s₀.Intact r.1.s := GPlan.attempt_intact w x false hk
      split
      · exact ih _ (State.setDc_intact _ _ _ _ hr)
      · exact ih _ hr

theorem GPlan.lendPart_intact (w : GPlan) (c p g : Nat) (l : List Cand) (hk : s₀.Intact w.s) : s₀.Intact (w.lendPart c p g l).1.s := by
  induction l generalizing w with
  | nil => exact hk
  | cons x l ih =>
    unfold GPlan.lendPart
    extract_lets +onlyGivenNames k
    split
    · exact ih _ hk
    · extract_lets +onlyGivenNames r
      have hr : s₀.Intact r.1.s := GPlan.attempt_intact w x true hk
      split
      · exact hr
      · exact ih _ hr

theorem GPlan.lend_intact (c : Nat) (work : List (Nat × List Cand)) (n : Nat) (w : GPlan) (hk : s₀.Intact w.s) :
    s₀.Intact (GPlan.lend c work n w).s := by
  induction n generalizing w with
  | zero => exact hk
  | succ n ih =>
    unfold GPlan.lend
    extract_lets +onlyGivenNames r
    have hr : s₀.Intact r.1.s :=
      foldl_invariant (P := fun a : GPlan × Bool => s₀.Intact a.1.s) (fun a x ha => GPlan.lendPart_intact a.1 c x.1 _ x.2 ha) _ hk
    split
    · exact ih _ hr
    · exact hr

theorem GPlan.boundPass_intact (w : GPlan) (cands : List Cand) (hk : s₀.Intact w.s) : s₀.Intact (GPlan.boundPass w cands).s := by
  unfold GPlan.boundPass
  refine foldl_invariant (P := fun w : GPlan => s₀.Intact w.s) (fun w e hw => ?_) _ hk
  split
  · exact hw
  · next id he =>
    extract_lets +onlyGivenNames ends w'
    have hw' : s₀.Intact w'.s := by
      unfold w'
      split
      · exact hw
      · exact hw
    split
    · exact hw'
    · exact GPlan.onBound_intact w' _ false hw'

theorem GPlan.lendPass_intact (w : GPlan) (c : Nat) (work : List (Nat × List Cand)) (n : Nat) (hk : s₀.Intact w.s) :
    s₀.Intact (GPlan.lendPass w c work n).s := by
  unfold GPlan.lendPass
  grind [DPlan.work_intact, GPlan.lend_intact, State.onSch_intact]

theorem State.noteShort_intact (s : State) (left : List LinkId) (hk : s₀.Intact s) : s₀.Intact (State.noteShort s left) := by
  unfold State.noteShort
  grind [State.onSch_intact]

theorem State.noteMsgs_intact (s : State) (msgs : List LinkId) (hk : s₀.Intact s) : s₀.Intact (State.noteMsgs s msgs) := by
  unfold State.noteMsgs
  grind [State.Intact.foldl, State.onLink_intact, State.onSch_intact]

theorem GPlan.noteWaits_intact (w : GPlan) (c : Nat) (mine : List Cand) (hk : s₀.Intact w.s) : s₀.Intact (GPlan.noteWaits w c mine).s := by
  unfold GPlan.noteWaits
  grind [State.Intact.foldl, State.noteMsgs_intact, State.noteShort_intact, State.onLink_intact, State.onSch_intact]

theorem GPlan.sealedPass_intact (w : GPlan) (mine : List Cand) (hk : s₀.Intact w.s) : s₀.Intact (GPlan.sealedPass w mine).s := by
  unfold GPlan.sealedPass
  refine foldl_invariant (P := fun w : GPlan => s₀.Intact w.s) (fun w p hw => ?_) _ hk
  refine foldl_invariant (P := fun w : GPlan => s₀.Intact w.s) (fun w x hw => ?_) _ hw
  split
  · exact hw
  · exact GPlan.trySealed_intact w x hw

theorem GPlan.floorPass_intact (w : GPlan) (c : Nat) (work : List (Nat × List Cand)) (hk : s₀.Intact w.s) : s₀.Intact (GPlan.floorPass w c work).s := by
  unfold GPlan.floorPass
  exact foldl_invariant (P := fun w : GPlan => s₀.Intact w.s) (fun w x hw => GPlan.floorPart_intact w c x.1 _ _ hw) _ hk

theorem GPlan.runClass_intact (w : GPlan) (cands : List Cand) (floors : Map (List Nat)) (c : Nat) (hk : s₀.Intact w.s) :
    s₀.Intact (GPlan.runClass w cands floors c).s := by
  unfold GPlan.runClass
  grind [DPlan.work_intact, GPlan.begin_intact, GPlan.boundPass_intact, GPlan.credit_intact, GPlan.floorPass_intact, GPlan.lendPass_intact,
    GPlan.noteWaits_intact, GPlan.sealedPass_intact]

theorem State.makePlan_intact (s : State) (hk : s₀.Intact s) : s₀.Intact (State.makePlan s) := by
  unfold State.makePlan
  refine State.onSch_intact ?_ _
  refine foldl_invariant (P := fun w : GPlan => s₀.Intact w.s) (fun w c hw => GPlan.runClass_intact w _ _ c hw) _ ?_
  dsimp only
  exact State.onPrt_intact (State.onSch_intact (State.scanAll_intact s hk) _) _

theorem State.endGroup_intact (s : State) (root det cause : Nat) (hk : s₀.Intact s) : s₀.Intact (State.endGroup s root det cause) := by
  unfold State.endGroup
  grind [DPlan.work_intact, State.Intact.foldl, State.abortMsg_intact, State.cause_intact, State.dropVJob_intact, State.endLink_intact,
    State.freeGroup_intact, State.onThread_intact, State.withdraw_intact]

theorem State.restartControl_intact (s : State) (hk : s₀.Intact s) : s₀.Intact (State.restartControl s) := by
  unfold State.restartControl
  grind [State.Intact.foldl, State.onThread_intact]

theorem State.logGroup_intact (s : State) (code root : Nat) (detail : Bytes) (hk : s₀.Intact s) : s₀.Intact (State.logGroup s code root detail) := by
  unfold State.logGroup
  grind [DPlan.work_intact, State.log_intact, State.logReq_intact]

theorem State.closedCut_intact (s : State) (hk : s₀.Intact s) : s₀.Intact (State.closedCut s) := by
  unfold State.closedCut
  grind [State.Intact.foldl, State.endGroup_intact, State.logGroup_intact, State.onOry_intact, State.onThread_intact]

theorem State.chargeTicks_intact (s : State) (hk : s₀.Intact s) : s₀.Intact (State.chargeTicks s) := by
  unfold State.chargeTicks
  grind [DPlan.work_intact, State.Intact.foldl, State.onLink_intact, State.onThread_intact]

theorem execTimeLimit_intact (root : Nat) (s : State) (hk : s₀.Intact s) : ∀ z, execTimeLimit root s = .next z → s₀.Intact z := by
  unfold execTimeLimit
  grind [DPlan.work_intact, State.endGroup_intact, State.logGroup_intact, State.onOry_intact]

theorem execFork_intact (t entry : Nat) (s : State) (hk : s₀.Intact s) : ∀ z, execFork t entry s = .next z → s₀.Intact z := by
  unfold execFork
  grind [DPlan.work_intact, State.onOry_intact, State.onThread_intact]

theorem execJoin_intact (t u : Nat) (s : State) (hk : s₀.Intact s) : ∀ z, execJoin t u s = .next z → s₀.Intact z := by
  unfold execJoin
  grind [State.endThreads_intact, State.onThread_intact]

theorem State.chanFor_intact (s : State) (t c : Nat) (read : Bool) (hk : s₀.Intact s) : s₀.Intact (State.chanFor s t c read) := by
  unfold State.chanFor
  grind [State.onOry_intact]

theorem State.onChanO_intact (s : State) (c : Nat) (f : Chan → Chan) (hk : s₀.Intact s) : s₀.Intact (State.onChanO s c f) := by
  unfold State.onChanO
  grind [State.onOry_intact]

theorem State.takeMsg_intact (s : State) (t c : Nat) (hk : s₀.Intact s) : s₀.Intact (State.takeMsg s t c) := by
  unfold State.takeMsg
  grind [State.onChanO_intact, State.onThread_intact]

theorem State.commitMsg_intact (s : State) (t c : Nat) (hk : s₀.Intact s) : s₀.Intact (State.commitMsg s t c) := by
  unfold State.commitMsg
  grind [State.onChanO_intact, State.takeMsg_intact]

theorem State.readChan_intact (s : State) (t c : Nat) (hk : s₀.Intact s) : s₀.Intact (State.readChan s t c) := by
  unfold State.readChan
  grind [State.commitMsg_intact, State.onThread_intact, State.takeMsg_intact]

theorem execChannelWrite_intact (t c : Nat) (word : W64) (final : Bool) (s : State) (hk : s₀.Intact s) :
    ∀ z, execChannelWrite t c word final s = .next z → s₀.Intact z := by
  unfold execChannelWrite
  grind [State.chanFor_intact, State.commitMsg_intact, State.onChanO_intact, State.onThread_intact]

end Intact

end Sys2Proof.Machine

/-! ### PROOFS. What every operation keeps, 2: the requests, containment, function control, service DMA -/

namespace Sys2Proof.Machine

section Intact

variable {s₀ : State}

theorem execChannelRead_intact (t c : Nat) (s : State) (hk : s₀.Intact s) : ∀ z, execChannelRead t c s = .next z → s₀.Intact z := by
  unfold execChannelRead
  grind [State.chanFor_intact, State.onThread_intact, State.readChan_intact]

theorem State.portTaken_intact (s : State) (t : Nat) (p : OryPort) (hk : s₀.Intact s) : s₀.Intact (State.portTaken s t p) := by
  unfold State.portTaken
  extract_lets +onlyGivenNames id ended
  clear_value id ended
  split
  · next i h1 h2 =>
    split
    · exact State.onThread_intact _ _ _ hk
    · refine State.onThread_intact _ _ _ (State.onDat_intact_of hk fun d hd => ?_)
      refine all_updAt_of (fun m hm => ?_) _ hd
      exact hm
  · exact State.onThread_intact _ _ _ hk
  · exact hk

theorem execPortRead_intact (t : Nat) (p : OryPort) (s : State) (hk : s₀.Intact s) : ∀ z, execPortRead t p s = .next z → s₀.Intact z := by
  unfold execPortRead
  grind [State.onThread_intact, State.portTaken_intact]

theorem State.stopThread_intact (s : State) (t : Nat) (hk : s₀.Intact s) : s₀.Intact (State.stopThread s t) := by
  unfold State.stopThread
  grind [State.log_intact, State.onThread_intact]

theorem State.resumeChan_intact (s : State) (t : Nat) (hk : s₀.Intact s) : s₀.Intact (State.resumeChan s t) := by
  unfold State.resumeChan
  grind [State.commitMsg_intact, State.onThread_intact, State.readChan_intact]

theorem State.resumeThread_intact (s : State) (t : Nat) (hk : s₀.Intact s) : s₀.Intact (State.resumeThread s t) := by
  unfold State.resumeThread
  grind [State.log_intact, State.onThread_intact, State.resumeChan_intact]

theorem State.onCore_intact (s : State) (c : Nat) (f : Core → Core) (hk : s₀.Intact s) : s₀.Intact (State.onCore s c f) := by
  unfold State.onCore
  grind [State.onOry_intact]

theorem execCorePowerDown_intact (c : Nat) (s : State) (hk : s₀.Intact s) : ∀ z, execCorePowerDown c s = .next z → s₀.Intact z := by
  unfold execCorePowerDown
  grind [State.onCore_intact, State.onIo_intact]

theorem execCoreWake_intact (c : Nat) (s : State) (hk : s₀.Intact s) : ∀ z, execCoreWake c s = .next z → s₀.Intact z := by
  unfold execCoreWake
  grind [State.onCore_intact, State.wakeReq_intact]

theorem State.coreTicks_intact (s : State) (hk : s₀.Intact s) : s₀.Intact (State.coreTicks s) := by
  unfold State.coreTicks
  grind [State.Intact.foldl, State.onCore_intact]

theorem execOrreryCoreLoss_intact (c : Nat) (s : State) (hk : s₀.Intact s) : ∀ z, execOrreryCoreLoss c s = .next z → s₀.Intact z := by
  unfold execOrreryCoreLoss
  grind [State.Intact.foldl, State.eclipse_intact, State.endGroup_intact, State.onOry_intact]

theorem State.macuCmd_intact (s : State) (u : Nat) (ok : Macu → Bool) (f : Macu → Macu) (hf : ∀ m, Memory.wf 0 m.mem = true → Memory.wf 0 (f m).mem = true) (hk : s₀.Intact s) :
    ∀ z, s.macuCmd u ok f = .next z → s₀.Intact z := by
  intro z h
  unfold State.macuCmd at h
  split at h
  · obtain rfl := Host.Outcome.next.inj h
    exact hk
  · split at h
    · obtain rfl := Host.Outcome.next.inj h
      exact hk
    · split at h
      · obtain rfl := Host.Outcome.next.inj h
        exact State.onDat_intact_of hk fun d hd => all_updAt_of hf u hd
      · exact execCommandFault_intact u s hk z h

theorem State.macuOut_intact (s : State) (u n : Nat) (ok : Macu → Bool) (out : Macu → Nat → List (BitVec 256)) (f : Macu → Nat → Macu) (g : Dat → Dat)
    (hf : ∀ m n, Memory.wf 0 m.mem = true → Memory.wf 0 (f m n).mem = true) (hg : ∀ d, d.inForm → (g d).inForm) (hk : s₀.Intact s) :
    ∀ z, s.macuOut u n ok out f g = .next z → s₀.Intact z := by
  intro z h
  unfold State.macuOut at h
  split at h
  · split at h
    · exact State.macuCmd_intact s u _ _ (fun m hm => hf m _ hm) hk z h
    · split at h
      · refine State.macuCmd_intact _ u ok _ (fun m hm => hf m _ hm) ?_ z h
        exact State.onDat_intact hk _ fun _ => rfl
      · split at h
        · obtain rfl := Host.Outcome.next.inj h
          exact hk
        · next w hw =>
          split at h
          · refine State.macuCmd_intact _ u _ _ (fun m hm => hf m _ hm) (State.onDat_intact_of hk fun d hd => ?_) z h
            exact hg _ hd
          · split at h
            · obtain rfl := Host.Outcome.next.inj h
              exact hk
            · obtain rfl := Host.Outcome.next.inj h
              exact State.strike_intact _ _ _ hk
  · exact State.macuCmd_intact s u _ _ (fun m hm => hf m _ hm) hk z h

theorem execMac_intact (u : Nat) (mod : BitVec 4) (a b : BitVec 10) (s : State) (hk : s₀.Intact s) :
    ∀ z, execMac u mod a b s = .next z → s₀.Intact z :=
  State.macuCmd_intact s u _ _ (fun _ hm => hm) hk

theorem execShift_intact (u : Nat) (mod : BitVec 4) (b : BitVec 10) (s : State) (hk : s₀.Intact s) :
    ∀ z, execShift u mod b s = .next z → s₀.Intact z := by
  refine State.macuOut_intact s u 0 _ _ _ _ (fun m _ hm => ?_) (fun _ hd => hd) hk
  dsimp only
  split
  · exact hm
  · exact Macu.put_wf m _ _ hm

theorem execLoad_intact (u : Nat) (b : BitVec 10) (s : State) (hk : s₀.Intact s) : ∀ z, execLoad u b s = .next z → s₀.Intact z := by
  unfold execLoad
  extract_lets +onlyGivenNames none' d w s'
  have hd : s₀.Intact d.2 := by
    unfold d
    split
    · exact State.draw_intact hk 6
    · exact hk
  have hs : s₀.Intact s' := by
    unfold s'
    split
    · refine State.onDat_intact_of hd fun x hx => all_updAt_of (fun m hm => ?_) _ hx
      exact hm
    · exact hd
  refine State.macuCmd_intact s' u _ _ (fun m hm => ?_) hs
  split
  · exact Macu.put_wf m _ _ hm
  · exact Macu.put_wf m _ _ hm

theorem execStore_intact (u : Nat) (a : BitVec 10) (s : State) (hk : s₀.Intact s) : ∀ z, execStore u a s = .next z → s₀.Intact z := by
  unfold execStore
  refine State.macuOut_intact s u 0 _ _ _ _ (fun m _ hm => ?_) (fun d hd => ?_) hk
  · split
    · exact hm
    · split
      · exact hm
      · exact hm
  · split
    · refine all_updAt_of (fun m hm => ?_) _ hd
      exact hm
    · exact hd

theorem execVmac_intact (u : Nat) (mod : BitVec 4) (a b : BitVec 10) (s : State) (hk : s₀.Intact s) :
    ∀ z, execVmac u mod a b s = .next z → s₀.Intact z :=
  State.macuCmd_intact s u _ _ (fun _ hm => hm) hk

theorem execVshift_intact (u : Nat) (mod : BitVec 4) (sh : BitVec 6) (b : BitVec 10) (s : State) (hk : s₀.Intact s) :
    ∀ z, execVshift u mod sh b s = .next z → s₀.Intact z := by
  unfold execVshift
  extract_lets +onlyGivenNames n d
  have hd : s₀.Intact d.2 := by
    unfold d
    split
    · exact State.draw_intact hk 7
    · exact hk
  refine State.macuOut_intact d.2 u _ _ _ _ _ (fun m v hm => ?_) (fun _ h => h) hd
  show Memory.wf 0 (m.putLanes b.toNat (vshiftLane m n v)).mem = true
  exact Macu.putLanes_wf m _ _ hm

theorem execMacuNop_intact (u : Nat) (s : State) (hk : s₀.Intact s) : ∀ z, execMacuNop u s = .next z → s₀.Intact z :=
  State.macuCmd_intact s u _ _ (fun _ hm => hm) hk

theorem execMacuEnd_intact (u : Nat) (s : State) (hk : s₀.Intact s) : ∀ z, execMacuEnd u s = .next z → s₀.Intact z :=
  State.macuCmd_intact s u _ _ (fun _ hm => hm) hk

theorem State.runUnit_intact (s : State) (g : Grant) (hk : s₀.Intact s) : s₀.Intact (State.runUnit s g) := by
  unfold State.runUnit
  grind [State.runDigest_intact, State.runJob_intact, State.runLane_intact]

theorem State.runGrant_intact (s : State) (g : Grant) (hk : s₀.Intact s) : s₀.Intact (State.runGrant s g) := by
  unfold State.runGrant
  grind [State.onSch_intact, State.retryOk_intact, State.runUnit_intact, State.stopBatch_intact, State.strike_intact]

theorem State.runLink_intact (s : State) (id : LinkId) (hk : s₀.Intact s) : s₀.Intact (State.runLink s id) := by
  unfold State.runLink
  grind [State.runGrant_intact]

theorem State.runAll_intact (s : State) (p : Grant → Bool) (hk : s₀.Intact s) : s₀.Intact (State.runAll s p) := by
  unfold State.runAll
  grind [State.Intact.foldl, State.runGrant_intact]

theorem State.abortReq_intact (s : State) (q : Req) (hk : s₀.Intact s) : s₀.Intact (State.abortReq s q) := by
  unfold State.abortReq
  split
  · exact hk
  · extract_lets +onlyGivenNames k id
    split
    · exact hk
    · split
      · exact State.onReq_intact _ _ _ _ hk
      · next l hl =>
        extract_lets +onlyGivenNames began s1 s2 s3 s4 s5
        have h1 : s₀.Intact s1 := by
          unfold s1
          split
          · exact State.Intact.foldl (fun t u ht => State.markDue_intact _ _ _ ht) _ hk
          · exact hk
        have h3 : s₀.Intact s3 := State.onLink_intact _ _ _ (State.onReq_intact _ _ _ _ h1)
        have h4 : s₀.Intact s4 := by
          unfold s4
          split
          · exact State.dropWrites_intact _ _ h3
          · exact h3
        have h5 : s₀.Intact s5 := by
          unfold s5
          split
          · split
            · exact State.freeGroup_intact _ _ h4
            · exact h4
          · exact h4
        exact State.abortFrom_intact _ _ _ _ h5

theorem State.abortRange_intact (s : State) (r : Nat) (a : Nat × Nat) (hk : s₀.Intact s) : s₀.Intact (State.abortRange s r a) := by
  unfold State.abortRange
  grind [DPlan.ahead_intact, State.Intact.foldl, State.abortReq_intact, State.abortTidy_intact, State.onRing_intact, State.onRng_intact]

theorem State.abortsCut_intact (s : State) (hk : s₀.Intact s) : s₀.Intact (State.abortsCut s) := by
  unfold State.abortsCut
  grind [State.Intact.foldl, State.abortRange_intact, State.onRing_intact]

theorem State.endErrs_intact (s : State) (hk : s₀.Intact s) : s₀.Intact (State.endErrs s) := by
  unfold State.endErrs
  grind [State.Intact.foldl, State.endLink_intact, State.withdraw_intact]

theorem State.timeoutsCut_intact (s : State) (hk : s₀.Intact s) : s₀.Intact (State.timeoutsCut s) := by
  unfold State.timeoutsCut
  grind [State.Intact.foldl, State.endLink_intact, State.withdraw_intact]

theorem State.jobsCut_intact (s : State) (hk : s₀.Intact s) : s₀.Intact (State.jobsCut s) := by
  unfold State.jobsCut
  grind [State.Intact.foldl, State.jobBuild_intact, State.onLink_intact, State.onReq_intact]

theorem DPlan.requests_intact (p : DPlan) (t : Nat) (qs : List Req) (ok : Nat → Bool) (hk : s₀.Intact p.s) : s₀.Intact (DPlan.requests p t qs ok).s := by
  unfold DPlan.requests
  refine foldl_invariant (P := fun p : DPlan => s₀.Intact p.s) (fun p q hp => ?_) _ hk
  split
  · exact hp
  · next x hx =>
    split
    · exact hp
    · extract_lets +onlyGivenNames e p' r
      have hp' : s₀.Intact p'.s := by
        unfold p'
        split
        · exact hp
        · exact State.onReq_intact _ _ _ _ hp
      have hr : s₀.Intact r.1.s := DPlan.work_intact p' t _ _ _ hp'
      split
      · exact State.noteLate_intact _ _ _ hr
      · exact hr

theorem State.drbgCut_intact (s : State) (hk : s₀.Intact s) : s₀.Intact (State.drbgCut s) := by
  unfold State.drbgCut
  extract_lets +onlyGivenNames t rr qs turn p1 p2 p3 p4
  have h1 : s₀.Intact p1.s := DPlan.instantiate_intact _ _ _ _ (State.drbgStart_intact s t hk)
  have h2 : s₀.Intact p2.s := DPlan.requests_intact _ _ _ _ h1
  have h3 : s₀.Intact p3.s := DPlan.instantiate_intact _ _ _ _ (DPlan.drawSpill_intact _ _ (DPlan.instantiate_intact _ _ _ _ h2))
  have h4 : s₀.Intact p4.s := DPlan.uninstantiate_intact _ _ (DPlan.instantiate_intact _ _ _ _ h3)
  exact DPlan.ahead_intact _ _ (DPlan.requests_intact _ _ _ _ h4)

theorem State.ungate_intact (s : State) (hk : s₀.Intact s) : s₀.Intact (State.ungate s) := by
  unfold State.ungate
  grind [State.log_intact, State.onIo_intact, State.onSch_intact]

theorem State.runOp_intact (s : State) (op : Nat) (id : LinkId) (hk : s₀.Intact s) : s₀.Intact (State.runOp s op id) := by
  unfold State.runOp
  grind [State.runLink_intact]

theorem execAeadSeal_intact (id : LinkId) (s : State) (hk : s₀.Intact s) : ∀ z, execAeadSeal id s = .next z → s₀.Intact z := by
  unfold execAeadSeal
  grind [State.runOp_intact]

theorem execAeadOpen_intact (id : LinkId) (s : State) (hk : s₀.Intact s) : ∀ z, execAeadOpen id s = .next z → s₀.Intact z := by
  unfold execAeadOpen
  grind [State.runOp_intact]

theorem execCipherEnc_intact (id : LinkId) (s : State) (hk : s₀.Intact s) : ∀ z, execCipherEnc id s = .next z → s₀.Intact z := by
  unfold execCipherEnc
  grind [State.runOp_intact]

theorem execCipherDec_intact (id : LinkId) (s : State) (hk : s₀.Intact s) : ∀ z, execCipherDec id s = .next z → s₀.Intact z := by
  unfold execCipherDec
  grind [State.runOp_intact]

theorem execGmacGen_intact (id : LinkId) (s : State) (hk : s₀.Intact s) : ∀ z, execGmacGen id s = .next z → s₀.Intact z := by
  unfold execGmacGen
  grind [State.runOp_intact]

theorem execGmacVerify_intact (id : LinkId) (s : State) (hk : s₀.Intact s) : ∀ z, execGmacVerify id s = .next z → s₀.Intact z := by
  unfold execGmacVerify
  grind [State.runOp_intact]

theorem execDigest_intact (id : LinkId) (s : State) (hk : s₀.Intact s) : ∀ z, execDigest id s = .next z → s₀.Intact z := by
  unfold execDigest
  grind [State.runOp_intact]

theorem execHmacGen_intact (id : LinkId) (s : State) (hk : s₀.Intact s) : ∀ z, execHmacGen id s = .next z → s₀.Intact z := by
  unfold execHmacGen
  grind [State.runOp_intact]

theorem execHmacVerify_intact (id : LinkId) (s : State) (hk : s₀.Intact s) : ∀ z, execHmacVerify id s = .next z → s₀.Intact z := by
  unfold execHmacVerify
  grind [State.runOp_intact]

theorem execCopy_intact (id : LinkId) (s : State) (hk : s₀.Intact s) : ∀ z, execCopy id s = .next z → s₀.Intact z := by
  unfold execCopy
  grind [State.runOp_intact]

theorem execPkJob_intact (id : LinkId) (s : State) (hk : s₀.Intact s) : ∀ z, execPkJob id s = .next z → s₀.Intact z := by
  unfold execPkJob
  grind [State.createOf_intact, State.runOp_intact]

theorem execNop_intact (id : LinkId) (s : State) (hk : s₀.Intact s) : ∀ z, execNop id s = .next z → s₀.Intact z := by
  unfold execNop
  grind [State.endLink_intact]

theorem execFenceRing_intact (id : LinkId) (s : State) (hk : s₀.Intact s) : ∀ z, execFenceRing id s = .next z → s₀.Intact z := by
  unfold execFenceRing
  grind [State.endLink_intact]

theorem execFencePartition_intact (id : LinkId) (s : State) (hk : s₀.Intact s) : ∀ z, execFencePartition id s = .next z → s₀.Intact z := by
  unfold execFencePartition
  grind [State.endLink_intact]

theorem State.commitOne_intact (s : State) (hk : s₀.Intact s) : s₀.Intact (State.commitOne s) := by
  unfold State.commitOne
  grind [State.onEph_intact, State.onGlog_intact]

theorem execRecordCommit_intact (s : State) (hk : s₀.Intact s) : ∀ z, execRecordCommit s = .next z → s₀.Intact z := by
  unfold execRecordCommit
  grind [State.commitOne_intact]

theorem State.commitAll_intact (s : State) (hk : s₀.Intact s) : s₀.Intact (State.commitAll s) := by
  unfold State.commitAll
  grind [State.Intact.foldl, State.commitOne_intact]

theorem State.setMode_intact (s : State) (m : Mode) (hk : s₀.Intact s) : s₀.Intact (State.setMode s m) := by
  unfold State.setMode
  grind [State.logSev_intact, State.modeChanged_intact, State.onBlk_intact]

theorem State.reducedAlarm_intact (s : State) (hk : s₀.Intact s) : s₀.Intact (State.reducedAlarm s) := by
  unfold State.reducedAlarm
  grind [State.onBlk_intact]

theorem State.zeroize_intact (s : State) (hk : s₀.Intact s) : s₀.Intact (State.zeroize s) := by
  unfold State.zeroize
  refine State.onOry_intact_of (State.onRng_intact (State.onDat_intact_of (State.onEnt_intact (State.onKey_intact (State.onLdr_intact hk _) _) _)
    fun d _ => ?_) _) fun _ _ => rfl
  simp only [List.all_map, List.all_eq_true]
  exact fun _ _ => rfl

theorem State.silence_intact (s : State) (hk : s₀.Intact s) : s₀.Intact (State.silence s) := by
  unfold State.silence
  extract_lets +onlyGivenNames s1 s2 s3 s4
  have h2 : s₀.Intact s2 := State.onReads_intact (State.onSch_intact hk _) fun w v hv => by
    split at hv
    · next hi =>
      obtain rfl := Option.some.inj hv
      exact ⟨rfl, rfl, fun _ => hi⟩
    · simp at hv
  have h3 : s₀.Intact s3 := State.onWrites_intact h2 fun w v hv => by
    split at hv
    · next hi =>
      obtain rfl := Option.some.inj hv
      exact ⟨rfl, fun _ => hi⟩
    · simp at hv
  have h4 : s₀.Intact s4 := State.onMov_intact h3 _ fun _ => rfl
  exact State.onIo_intact h4 _

theorem State.contain_intact (s : State) (r : Reason) (code : Nat) (hk : s₀.Intact s) : s₀.Intact (State.contain s r code) := by
  unfold State.contain
  extract_lets +onlyGivenNames s1 s2 s3 s4 s5 s6 s7 s8 s9
  have h2 : s₀.Intact s2 := by
    refine State.Intact.foldl (fun t c ht => ?_) _ (State.reducedAlarm_intact _ hk)
    split
    · exact State.abortMsg_intact _ _ _ ht
    · exact ht
  have h5 : s₀.Intact s5 := State.commitAll_intact _ (State.setMode_intact _ _ (State.onIo_intact (State.onMbx_intact h2 _) _))
  have h6 : s₀.Intact s6 := State.commitAll_intact _ (State.log_intact _ _ _ _ _ h5)
  exact State.zeroize_intact _ (State.silence_intact _ (State.onBlk_intact (State.onGlog_intact (State.onEph_intact h6 _) _) _))

theorem State.containIfCaused_intact (s : State) (hk : s₀.Intact s) : s₀.Intact (State.containIfCaused s) := by
  unfold State.containIfCaused
  grind [State.cause_intact, State.contain_intact]

theorem execBlockFault_intact (s : State) (hk : s₀.Intact s) : ∀ z, execBlockFault s = .next z → s₀.Intact z := by
  unfold execBlockFault
  grind [State.cause_intact, State.containIfCaused_intact]

theorem State.wakePart_intact (s : State) (p : Nat) (hk : s₀.Intact s) : s₀.Intact (State.wakePart s p) := by
  unfold State.wakePart
  grind [State.instWait_intact, State.onPart_intact]

theorem State.silence1_intact (s : State) (fid : Nat) (keep : Bool) (hk : s₀.Intact s) : s₀.Intact (State.silence1 s fid keep) := by
  unfold State.silence1
  refine State.onWrites_intact (State.onReads_intact hk fun w v hv => ?_) fun w v hv => ?_
  · split at hv
    · obtain rfl := Option.some.inj hv
      exact ⟨rfl, rfl, fun h => h⟩
    · split at hv
      · next hi =>
        obtain rfl := Option.some.inj hv
        exact ⟨rfl, rfl, fun _ => hi⟩
      · simp at hv
  · split at hv
    · simp at hv
    · obtain rfl := Option.some.inj hv
      exact ⟨rfl, fun h => h⟩

/-- A read that is doubled, the copy not issued, leaves the reads outstanding as they are. -/
theorem flatMap_rtags {g : FRead → List FRead} (hg : ∀ r, ((g r).filter (·.issued)).map (fun x => (x.idx, x.vault)) =
    ([r].filter (·.issued)).map fun x => (x.idx, x.vault)) (l : List FRead) :
    ((l.flatMap g).filter (·.issued)).map (fun x => (x.idx, x.vault)) = (l.filter (·.issued)).map fun x => (x.idx, x.vault) := by
  induction l with
  | nil => rfl
  | cons r l ih => rw [List.flatMap_cons, List.filter_append, List.map_append, ih, hg, ← List.singleton_append (l := l), List.filter_append, List.map_append]

theorem State.silenceVault_intact (s : State) (hk : s₀.Intact s) : s₀.Intact (State.silenceVault s) := by
  unfold State.silenceVault
  refine State.ports_intact hk fun p hp => Port.tagsOk_congr hp rfl ?_ rfl
  refine flatMap_rtags (fun r => ?_) _
  split
  · next h => simp_all
  · rfl

theorem State.unrecord_intact (s : State) (r : Nat) (hk : s₀.Intact s) : s₀.Intact (State.unrecord s r) := by
  unfold State.unrecord
  grind [State.Intact.foldl, State.onLink_intact, State.onMov_intact]

theorem State.flushPart_intact (s : State) (p : Nat) (hk : s₀.Intact s) : s₀.Intact (State.flushPart s p) := by
  unfold State.flushPart
  grind [State.Intact.foldl, State.flushRing_intact, State.onPart_intact, State.silence1_intact, State.unrecord_intact, State.wipePart_intact]

theorem State.fcAck_intact (s : State) (fid op : Nat) (hk : s₀.Intact s) : s₀.Intact (State.fcAck s fid op) := by
  unfold State.fcAck
  grind [State.onIo_intact]

theorem State.bmeSetNow_intact (s : State) (fid : Nat) (hk : s₀.Intact s) : s₀.Intact (State.bmeSetNow s fid) := by
  unfold State.bmeSetNow
  grind [State.fcAck_intact, State.onPrt_intact]

theorem State.bmeClearNow_intact (s : State) (fid : Nat) (hk : s₀.Intact s) : s₀.Intact (State.bmeClearNow s fid) := by
  unfold State.bmeClearNow
  grind [State.fcAck_intact, State.killJobs_intact, State.onIo_intact, State.onPart_intact, State.onPrt_intact, State.silence1_intact,
    State.silenceVault_intact]

theorem State.fcNext_intact (s : State) (fid n : Nat) (hk : s₀.Intact s) : s₀.Intact (s.fcNext fid n) := by
  induction n generalizing s with
  | zero => exact hk
  | succ n ih =>
    unfold State.fcNext
    split
    · exact hk
    · exact hk
    · exact ih _ (State.bmeSetNow_intact _ _ (State.onIo_intact hk _))
    · extract_lets +onlyGivenNames old s1
      have h1 : s₀.Intact s1 := State.bmeClearNow_intact _ _ (State.onIo_intact hk _)
      split
      · exact ih _ h1
      · exact h1

theorem State.fcTake_intact (s : State) (fid : Nat) (go : State → State) (h : ∀ s, s₀.Intact s → s₀.Intact (go s)) (hk : s₀.Intact s) :
    s₀.Intact (State.fcTake s fid go) := by
  unfold State.fcTake
  grind [State.onIo_intact]

theorem execBmeSet_intact (fid : Nat) (s : State) (hk : s₀.Intact s) : ∀ z, execBmeSet fid s = .next z → s₀.Intact z := by
  unfold execBmeSet
  grind [State.bmeSetNow_intact, State.fcAck_intact, State.fcTake_intact, State.onIo_intact]

theorem execBmeClear_intact (fid : Nat) (s : State) (hk : s₀.Intact s) : ∀ z, execBmeClear fid s = .next z → s₀.Intact z := by
  unfold execBmeClear
  grind [State.bmeClearNow_intact, State.fcAck_intact, State.fcTake_intact, State.onIo_intact]

theorem execBmeClearAck_intact (fid : Nat) (s : State) (hk : s₀.Intact s) : ∀ z, execBmeClearAck fid s = .next z → s₀.Intact z := by
  unfold execBmeClearAck
  grind [State.fcNext_intact, State.onIo_intact]

theorem execFcReservedOp_intact (fid : Nat) (s : State) (hk : s₀.Intact s) : ∀ z, execFcReservedOp fid s = .next z → s₀.Intact z := by
  unfold execFcReservedOp
  grind [State.fcAck_intact, State.fcTake_intact]

theorem State.writeRecord_intact (s : State) (p g : Nat) (spent again : Bool) (first : Option Nat) (hk : s₀.Intact s) :
    s₀.Intact (State.writeRecord s p g spent again first) := by
  unfold State.writeRecord
  grind [State.onKey_intact, State.onPart_intact, State.vaultWrite_intact]

theorem State.cutRotation_intact (s : State) (p : Nat) (hk : s₀.Intact s) : s₀.Intact (State.cutRotation s p) := by
  unfold State.cutRotation
  grind [State.abortMsg_intact, State.onPart_intact, State.writeRecord_intact]

theorem State.startReset_intact (s : State) (p : Nat) (f : Flr) (hk : s₀.Intact s) : s₀.Intact (State.startReset s p f) := by
  unfold State.startReset
  extract_lets +onlyGivenNames fid s1 s2 s3 s4 s5
  have h3 : s₀.Intact s3 := State.silence1_intact _ _ _ (State.dropReqs_intact _ _ (State.cutRotation_intact _ _ (State.onPart_intact _ _ _ hk)))
  have h4 : s₀.Intact s4 := State.onMov_intact h3 _ fun _ => rfl
  exact State.clearChan_intact _ _ (State.wipePart_intact _ _ (State.onIo_intact h4 _))

theorem State.resetPart_intact (s : State) (p : Nat) (ch : Option Nat) (destroy : Bool) (hk : s₀.Intact s) :
    s₀.Intact (State.resetPart s p ch destroy) := by
  unfold State.resetPart
  grind [State.onPart_intact, State.startReset_intact]

theorem execFlrStart_intact (fid : Nat) (s : State) (hk : s₀.Intact s) : ∀ z, execFlrStart fid s = .next z → s₀.Intact z := by
  unfold execFlrStart
  grind [State.fcAck_intact, State.fcTake_intact, State.log_intact, State.onIo_intact, State.resetPart_intact]

theorem execFlrWriteLate_intact (fid : Nat) (s : State) (hk : s₀.Intact s) : ∀ z, execFlrWriteLate fid s = .next z → s₀.Intact z := by
  unfold execFlrWriteLate
  rintro z ⟨⟩
  split
  · exact hk
  · extract_lets +onlyGivenNames late s1
    refine State.log_intact _ _ _ _ _ (State.ports_intact hk fun p hp => Port.tagsOk_congr hp ?_ rfl rfl)
    simp only [Port.wtags, List.filter_map, List.map_map]
    have hl : ∀ w, (if late w then { w with given := true } else w).idx = w.idx ∧ (if late w then { w with given := true } else w).issued = w.issued :=
      fun w => by split <;> exact ⟨rfl, rfl⟩
    simp [Function.comp_def, hl]

theorem State.resetBoundary_intact (s : State) (p : Nat) (hk : s₀.Intact s) : s₀.Intact (State.resetBoundary s p) := by
  unfold State.resetBoundary
  grind [State.Intact.foldl, State.abortMsg_intact, State.closeRing_intact, State.instDrop_intact, State.onPart_intact, State.replyOk_intact]

theorem State.endReset_intact (s : State) (p : Nat) (f : Flr) (hk : s₀.Intact s) : s₀.Intact (State.endReset s p f) := by
  unfold State.endReset
  grind [State.Intact.foldl, State.onPart_intact, State.replyOk_intact]

theorem State.flrAcks_intact (s : State) (fid : Nat) (hk : s₀.Intact s) : s₀.Intact (State.flrAcks s fid) := by
  unfold State.flrAcks
  grind [State.fcNext_intact, State.onIo_intact]

theorem State.destroyWrite_intact (s : State) (p : Nat) (hk : s₀.Intact s) : s₀.Intact (State.destroyWrite s p) := by
  unfold State.destroyWrite
  grind [State.onPart_intact, State.writeRecord_intact, State.wrote_intact]

theorem execFlrAck_intact (fid duration : Nat) (s : State) (hk : s₀.Intact s) : ∀ z, execFlrAck fid duration s = .next z → s₀.Intact z := by
  unfold execFlrAck
  rintro z ⟨⟩
  split
  · exact hk
  · next p hp =>
    split
    · exact hk
    · next f hf =>
      extract_lets +onlyGivenNames flr
      split
      · exact hk
      · extract_lets +onlyGivenNames s1 s2 s3
        have h2 : s₀.Intact s2 := by
          unfold s2
          split
          · exact State.log_intact _ _ _ _ _ (State.onIo_intact hk _)
          · exact State.onIo_intact hk _
        refine State.flrAcks_intact _ _ ?_
        unfold s3
        split
        · exact State.destroyWrite_intact _ _ (State.onPart_intact _ _ _ h2)
        · exact State.endReset_intact _ _ _ h2

theorem State.bmeBoundary_intact (s : State) (hk : s₀.Intact s) : s₀.Intact (State.bmeBoundary s) := by
  unfold State.bmeBoundary
  grind [State.Intact.foldl, State.onPart_intact, State.onPrt_intact, State.pump_intact, State.wakePart_intact]

theorem State.fcBoundary_intact (s : State) (hk : s₀.Intact s) : s₀.Intact (State.fcBoundary s) := by
  unfold State.fcBoundary
  grind [State.Intact.foldl, State.bmeBoundary_intact, State.flushPart_intact, State.resetBoundary_intact]

theorem State.onDma_intact (s : State) (n : Nat) (f : Sdma → Sdma) (hk : s₀.Intact s) : s₀.Intact (State.onDma s n f) := by
  unfold State.onDma
  grind [State.onMov_intact]

theorem State.shWrite_intact (s : State) (a : Nat) (b : Bytes) (hk : s₀.Intact s) : s₀.Intact (State.shWrite s a b) :=
  State.onOry_intact_of hk fun _ ho => shPut_wf a b ho

theorem State.dmaBack_intact (s : State) (n : Nat) (d : Desc) (o : Nat) (b : Bytes) (hk : s₀.Intact s) : s₀.Intact (State.dmaBack s n d o b) := by
  unfold State.dmaBack
  grind [State.shWrite_intact, State.write_intact]

theorem State.dmaFail_intact (s : State) (n : Nat) (d : Desc) (cause done : Nat) (hk : s₀.Intact s) : s₀.Intact (State.dmaFail s n d cause done) := by
  unfold State.dmaFail
  grind [State.cause_intact, State.dmaBack_intact, State.onDma_intact]

theorem State.dmaGood_intact (s : State) (n k : Nat) (hk : s₀.Intact s) : s₀.Intact (State.dmaGood s n k) := by
  unfold State.dmaGood
  grind [State.dmaBack_intact]

theorem State.dmaOver_intact (s : State) (n : Nat) (d : Desc) (hk : s₀.Intact s) : s₀.Intact (State.dmaOver s n d) := by
  unfold State.dmaOver
  grind [State.onDma_intact]

theorem State.dmaPut_intact (s : State) (n : Nat) (d : Desc) (b : Bytes) (hk : s₀.Intact s) : s₀.Intact (State.dmaPut s n d b) := by
  unfold State.dmaPut
  grind [State.shWrite_intact, State.write_intact]

theorem State.dmaArrived_intact (s : State) (n : Nat) (hk : s₀.Intact s) : s₀.Intact (State.dmaArrived s n) := by
  unfold State.dmaArrived
  grind [State.cause_intact, State.dmaFail_intact, State.dmaGood_intact, State.dmaOver_intact, State.dmaPut_intact]

theorem State.dmaStart_intact (s : State) (n : Nat) (d : Desc) (hk : s₀.Intact s) : s₀.Intact (State.dmaStart s n d) := by
  unfold State.dmaStart
  extract_lets +onlyGivenNames x
  split
  · exact State.dmaFail_intact _ _ _ _ _ (State.dmaOver_intact _ _ _ hk)
  · extract_lets +onlyGivenNames s1 fid
    have h1 : s₀.Intact s1 := State.onDma_intact _ _ _ hk
    split
    · refine State.pump_intact (State.onMov_intact_of h1 fun m hm => ?_)
      exact foldl_addRead_tagsOk _ (fun _ => rfl) _ hm
    · exact State.dmaArrived_intact _ _ (State.onDma_intact _ _ _ h1)
    · exact State.dmaArrived_intact _ _ (State.onDma_intact _ _ _ h1)

theorem State.dmaRun_intact (s : State) (n k : Nat) (hk : s₀.Intact s) : s₀.Intact (s.dmaRun n k) := by
  induction k generalizing s with
  | zero => exact hk
  | succ k ih =>
    unfold State.dmaRun
    extract_lets +onlyGivenNames x
    split
    · exact hk
    · exact ih _ (State.dmaStart_intact _ _ _ hk)

theorem State.dmaRead_intact (s : State) (n off : Nat) (data : Option Bytes) (cause : Nat) (hk : s₀.Intact s) :
    s₀.Intact (State.dmaRead s n off data cause) := by
  unfold State.dmaRead
  grind [State.cause_intact, State.dmaArrived_intact, State.dmaRun_intact, State.onDma_intact, State.onReads_intact]

theorem State.dmaWritten_intact (s : State) (n k addr : Nat) (okay : Bool) (hk : s₀.Intact s) : s₀.Intact (State.dmaWritten s n k addr okay) := by
  unfold State.dmaWritten
  grind [State.dmaFail_intact, State.dmaGood_intact, State.dmaRun_intact, State.dmaStop_intact, State.onDma_intact]

theorem execSdmaStart_intact (n : Nat) (c : SdmaSetup) (list : ReadAnswer) (s : State) (hk : s₀.Intact s) :
    ∀ z, execSdmaStart n c list s = .next z → s₀.Intact z := by
  unfold execSdmaStart
  grind [State.cause_intact, State.dmaRun_intact, State.newReads_intact, State.onDma_intact, State.readString_intact]

theorem execSdmaAbort_intact (n : Nat) (s : State) (hk : s₀.Intact s) : ∀ z, execSdmaAbort n s = .next z → s₀.Intact z := by
  unfold execSdmaAbort
  grind [State.dmaStop_intact, State.onDma_intact]

theorem execSdmaDone_intact (n : Nat) (s : State) (hk : s₀.Intact s) : ∀ z, execSdmaDone n s = .next z → s₀.Intact z := by
  unfold execSdmaDone
  grind [State.cause_intact, State.dmaStop_intact, State.onDma_intact]

theorem State.sourcePoisoned_intact (s : State) (id : LinkId) (off : Nat) (b : Bytes) (bad : List (Nat × Nat)) (hk : s₀.Intact s) :
    s₀.Intact (State.sourcePoisoned s id off b bad) := by
  unfold State.sourcePoisoned
  grind [State.failData_intact, State.noteErr_intact, State.onLink_intact]

theorem State.restored_intact (s : State) (id : LinkId) (hk : s₀.Intact s) : s₀.Intact (State.restored s id) := by
  unfold State.restored
  grind [State.onLink_intact]

end Intact

end Sys2Proof.Machine

/-! ### PROOFS. What every operation keeps, 2: the fabric, the registers, the streams, the swap, the boundary, the cut -/

namespace Sys2Proof.Machine

section Intact

variable {s₀ : State}

theorem State.readAnswered_intact (s : State) (r : FRead) (a : ReadAnswer) (bs : List ReadBeat) (hk : s₀.Intact s) :
    s₀.Intact (State.readAnswered s r a bs) := by
  unfold State.readAnswered
  grind [State.dmaRead_intact, State.failData_intact, State.onLink_intact, State.pageArrived_intact, State.readFailed_intact, State.readTimedOut_intact,
    State.restored_intact, State.sourceBusError_intact, State.sourcePoisoned_intact]

theorem State.late_intact (s : State) (n index gen : Nat) (hk : s₀.Intact s) : s₀.Intact (State.late s n index gen) := by
  unfold State.late
  split
  · exact hk
  · exact State.log_intact _ _ _ _ _ (State.onPort_intact hk n fun _ hp => hp)

theorem State.takeRead_intact (s : State) (n index : Nat) (hk : s₀.Intact s) : s₀.Intact (State.takeRead s n index) := by
  unfold State.takeRead
  refine State.onPort_intact hk n fun p hp => Port.tagsOk_mono hp (.refl _) ?_ (.refl _)
  exact (List.filter_sublist.filter _).map _

theorem execReadCompletion_intact (n index gen : Nat) (bs : List ReadBeat) (s : State) (hk : s₀.Intact s) :
    ∀ z, execReadCompletion n index gen bs s = .next z → s₀.Intact z := by
  unfold execReadCompletion
  extract_lets +onlyGivenNames beats
  rintro z ⟨⟩
  extract_lets +onlyGivenNames s1
  have h1 : s₀.Intact s1 := State.onPort_intact hk n fun _ hp => hp
  split
  · exact hk
  · split
    · exact State.late_intact _ _ _ _ h1
    · next r hr =>
      extract_lets +onlyGivenNames s2
      have h2 : s₀.Intact s2 := State.takeRead_intact _ _ _ h1
      refine State.pump_intact ?_
      split
      · exact h2
      · exact State.readAnswered_intact _ _ _ _ h2

/-- The tag of a read that is taken off its port goes into quarantine. -/
theorem Port.expire_tagsOk {p : Port} {i : Nat} (h : p.tagsOk = true) (hi : i ∈ p.rtags.map (·.1)) :
    Port.tagsOk { p with reads := p.reads.filter fun r => !(r.issued && r.idx == i), quar := p.quar ++ [i] } = true := by
  have ht : ({ p with reads := p.reads.filter fun r => !(r.issued && r.idx == i) } : Port).tagsOk = true :=
    Port.tagsOk_mono h (.refl _) ((List.filter_sublist.filter _).map _) (.refl _)
  refine Port.quarantine_tagsOk ht ?_ ?_
  · simp only [Port.rtags, List.map_map, List.mem_map, List.mem_filter]
    rintro ⟨r, ⟨⟨-, hn⟩, hr⟩, rfl⟩
    simp [hr] at hn
  · obtain ⟨x, hx, rfl⟩ := List.mem_map.1 hi
    exact ((Port.tagsOk_iff.1 h).2.2.2.2 x hx).2

theorem State.expire_intact (s : State) (n i : Nat) {r : FRead}
    (hr : (((s.mov.ports[n]?).map (·.reads)).bind fun l => l.find? fun r => r.issued && r.idx == i) = some r) (hk : s₀.Intact s) :
    s₀.Intact ((s.takeRead n i).onPort n fun p => { p with quar := p.quar ++ [i] }) := by
  refine hk.then (fun h => h) fun ht => ?_
  have he : ((s.takeRead n i).onPort n fun p => { p with quar := p.quar ++ [i] }).mov.ports =
      updAt s.mov.ports n fun p => { p with reads := p.reads.filter fun r => !(r.issued && r.idx == i), quar := p.quar ++ [i] } := by
    simp [State.onPort, State.takeRead, updAt_updAt]
  unfold State.tagsOk
  rw [he]
  refine all_updAt_at (fun p hp hpt => Port.expire_tagsOk hpt ?_) ht
  rw [hp, Option.map_some, Option.bind_some] at hr
  have hm := List.mem_of_find?_eq_some hr
  have hp := List.find?_some hr
  simp only [Bool.and_eq_true, beq_iff_eq] at hp
  obtain ⟨h1, rfl⟩ := hp
  simpa [Port.rtags] using ⟨r, ⟨hm, h1⟩, rfl⟩

theorem execReadTimeout_intact (n index : Nat) (s : State) (hk : s₀.Intact s) : ∀ z, execReadTimeout n index s = .next z → s₀.Intact z := by
  unfold execReadTimeout
  rintro z ⟨⟩
  split
  · exact hk
  · next r hr =>
    split
    · exact hk
    · exact State.pump_intact (State.readAnswered_intact _ _ _ _ (State.expire_intact s n index hr hk))

theorem execTagQuarantineEnd_intact (n index : Nat) (s : State) (hk : s₀.Intact s) : ∀ z, execTagQuarantineEnd n index s = .next z → s₀.Intact z := by
  unfold execTagQuarantineEnd
  rintro z ⟨⟩
  split
  · exact hk
  · refine State.pump_intact (State.onPort_intact hk n fun p hp => Port.tagsOk_mono hp (.refl _) (.refl _) ?_)
    exact List.filter_sublist

theorem State.addReads_intact {s : State} (hk : s₀.Intact s) (l : List (Nat × Nat)) (f : Nat × Nat → FRead) (hf : ∀ c, (f c).issued = false) :
    s₀.Intact (s.onMov fun m => l.foldl (fun m c => m.addRead (f c)) m) :=
  State.onMov_intact_of hk fun _ hm => foldl_addRead_tagsOk f hf l hm

theorem State.restoreQuad_intact (s : State) (q : Nat) (hk : s₀.Intact s) : s₀.Intact (s.restoreQuad q) := by
  unfold State.restoreQuad
  refine State.pump_intact (State.Intact.foldl (fun t x ht => ?_) _ hk)
  have hs : s₀.Intact (t.spill q) := State.spill_intact _ _ ht
  exact .ite (State.addReads_intact hs (cut ((t.spill q).key.base + spillBase + 128 * x.2) 128)
    (fun c => { addr := c.1, len := c.2, fid := (t.spill q).vaultFid, cls := clsVault, vault := true, purpose := .restore x.1 }) fun _ => rfl) hs

theorem State.restoreAll_intact (s : State) (hk : s₀.Intact s) : s₀.Intact (State.restoreAll s) := by
  unfold State.restoreAll
  grind [State.Intact.foldl, State.restoreQuad_intact]

theorem State.stampLink_intact (s : State) (id : LinkId) (hk : s₀.Intact s) : s₀.Intact (State.stampLink s id) := by
  unfold State.stampLink
  grind [State.onLink_intact]

theorem State.recordDone_intact (s : State) (id : LinkId) (irq : Bool) (hk : s₀.Intact s) : s₀.Intact (State.recordDone s id irq) := by
  unfold State.recordDone
  grind [State.onLink_intact, State.onRing_intact, State.recordVisible_intact, State.retire_intact]

theorem State.recordFailed_intact (s : State) (n : Nat) (w : FWrite) (id : LinkId) (hk : s₀.Intact s) : s₀.Intact (State.recordFailed s n w id) := by
  unfold State.recordFailed
  extract_lets +onlyGivenNames t x s1 s2
  have h1 : s₀.Intact s1 := State.onPort_intact hk n fun p hp => Port.addWrites_tagsOk hp (by simp)
  have h2 : s₀.Intact s2 := State.onRing_intact _ _ _ h1
  split
  · exact h2
  · exact State.logReq_intact _ _ _ _ _ _ _ _ h2

theorem State.partRecFailed_intact (s : State) (p : Nat) (hk : s₀.Intact s) : s₀.Intact (State.partRecFailed s p) := by
  unfold State.partRecFailed
  grind [State.logKey_intact, State.onPart_intact]

theorem State.messageWritten_intact (s : State) (c : Nat) (okay : Bool) (hk : s₀.Intact s) : s₀.Intact (State.messageWritten s c okay) := by
  unfold State.messageWritten
  grind [DPlan.work_intact, State.onMbx_intact, State.replyRes_intact]

theorem State.writeError_intact (s : State) (n : Nat) (w : FWrite) (hk : s₀.Intact s) : s₀.Intact (State.writeError s n w) := by
  unfold State.writeError
  extract_lets +onlyGivenNames s1
  have h1 : s₀.Intact s1 := State.onPort_intact hk n fun _ hp => hp
  split
  · exact State.logReq_intact _ _ _ _ _ _ _ _ h1
  · exact h1

theorem State.writeAnswered_intact (s : State) (n : Nat) (w : FWrite) (okay : Bool) (hk : s₀.Intact s) : s₀.Intact (State.writeAnswered s n w okay) := by
  unfold State.writeAnswered
  split
  · refine State.stampLink_intact _ _ (State.tagNow_intact _ _ ?_)
    split
    · exact hk
    · exact State.destBusError_intact _ _ _ hk
  · exact State.stampLink_intact _ _ (State.tagNow_intact _ _ hk)
  · split
    · exact State.recordDone_intact _ _ _ hk
    · exact State.recordFailed_intact _ _ _ _ hk
  · refine State.stampLink_intact _ _ (State.vaultAnswered_intact _ _ ?_)
    split
    · exact hk
    · exact State.vaultFailed_intact _ _ _ _ hk
  · split
    · exact hk
    · exact State.ledgerFailed_intact _ _ _ hk
  · split
    · exact hk
    · exact State.partRecFailed_intact _ _ hk
  · exact State.dmaWritten_intact _ _ _ _ _ hk
  · exact State.messageWritten_intact _ _ _ hk
  · split
    · exact hk
    · exact State.onPort_intact hk n fun p hp => Port.addWrites_tagsOk hp (by simp)

theorem execWriteResponse_intact (n index gen : Nat) (okay : Bool) (s : State) (hk : s₀.Intact s) :
    ∀ z, execWriteResponse n index gen okay s = .next z → s₀.Intact z := by
  unfold execWriteResponse
  rintro z ⟨⟩
  split
  · exact hk
  · split
    · exact State.late_intact _ _ _ _ hk
    · next w hw =>
      extract_lets +onlyGivenNames s1
      have h1 : s₀.Intact s1 := by
        refine State.onPort_intact hk n fun p hp => Port.tagsOk_mono hp ?_ (.refl _) (.refl _)
        exact (List.filter_sublist.filter _).map _
      refine State.pump_intact ?_
      split
      · exact h1
      · refine State.opsNext_intact _ (State.writeAnswered_intact _ _ _ _ ?_)
        split
        · exact h1
        · exact State.writeError_intact _ _ _ h1

theorem State.onStream_intact (s : State) (n : Nat) (f : Stream → Stream) (hk : s₀.Intact s) : s₀.Intact (State.onStream s n f) := by
  unfold State.onStream
  grind [State.onMov_intact]

theorem State.frameForeign_intact (s : State) (n r : Nat) (hk : s₀.Intact s) : s₀.Intact (State.frameForeign s n r) := by
  unfold State.frameForeign
  grind [State.violation_intact]

theorem State.addUnrun_intact (s : State) (r idx : Nat) (l : Link) (st : Stat) (hk : s₀.Intact s) : s₀.Intact (State.addUnrun s r idx l st) := by
  unfold State.addUnrun
  grind [State.forceFrom_intact, State.onRing_intact, State.onRng_intact]

theorem State.takeFrame_intact (s : State) (n : Nat) (f : InFrame) (how : FrameEnd) (hk : s₀.Intact s) : s₀.Intact (State.takeFrame s n f how) := by
  unfold State.takeFrame
  grind [State.abortTidy_intact, State.addLink_intact, State.addUnrun_intact, State.frameForeign_intact, State.onRing_intact]

theorem State.beat_intact (s : State) (n : Nat) (sop : Bool) (r : Nat) (data : Bytes) (eop : Bool) (hk : s₀.Intact s) :
    s₀.Intact (State.beat s n sop r data eop) := by
  unfold State.beat
  grind [GPlan.add_intact, State.onStream_intact, State.takeFrame_intact, State.violation_intact]

theorem execStreamInputFrame_intact (n : Nat) (sop : Bool) (r : Nat) (data : Bytes) (s : State) (hk : s₀.Intact s) :
    ∀ z, execStreamInputFrame n sop r data s = .next z → s₀.Intact z := by
  unfold execStreamInputFrame
  grind [State.beat_intact]

theorem execStreamInputBeat_intact (n : Nat) (sop : Bool) (r : Nat) (data : Bytes) (s : State) (hk : s₀.Intact s) :
    ∀ z, execStreamInputBeat n sop r data s = .next z → s₀.Intact z := by
  unfold execStreamInputBeat
  grind [State.beat_intact]

theorem execStreamOutputFrame_intact (n : Nat) (s : State) (hk : s₀.Intact s) : ∀ z, execStreamOutputFrame n s = .next z → s₀.Intact z := by
  unfold execStreamOutputFrame
  grind [State.onLink_intact, State.onStream_intact, State.recordVisible_intact, State.retire_intact]

theorem execStreamOutputPause_intact (n : Nat) (s : State) (hk : s₀.Intact s) : ∀ z, execStreamOutputPause n s = .next z → s₀.Intact z := by
  unfold execStreamOutputPause
  grind [State.onStream_intact]

theorem execStreamLongPause_intact (n : Nat) (s : State) (hk : s₀.Intact s) : ∀ z, execStreamLongPause n s = .next z → s₀.Intact z := by
  unfold execStreamLongPause
  grind [State.log_intact, State.onStream_intact]

theorem execStreamPauseEnd_intact (n : Nat) (s : State) (hk : s₀.Intact s) : ∀ z, execStreamPauseEnd n s = .next z → s₀.Intact z := by
  unfold execStreamPauseEnd
  grind [State.log_intact, State.onStream_intact]

theorem State.exerAnswer_intact (s : State) (pass : Bool) (begun : Bool) (hk : s₀.Intact s) : s₀.Intact (State.exerAnswer s pass begun) := by
  unfold State.exerAnswer
  grind [State.Intact.foldl, State.onEnt_intact, State.replyRes_intact]

theorem State.winBegin_intact (s : State) (hk : s₀.Intact s) : s₀.Intact (State.winBegin s) := by
  unfold State.winBegin
  grind [State.onEnt_intact]

theorem State.testFailed_intact (s : State) (t : HealthTest) (osc tick : Nat) (hk : s₀.Intact s) : s₀.Intact (State.testFailed s t osc tick) := by
  unfold State.testFailed
  grind [State.exerAnswer_intact, State.onEnt_intact]

theorem execWindowEnd_intact (samples : List W64) (s : State) (hk : s₀.Intact s) : ∀ z, execWindowEnd samples s = .next z → s₀.Intact z := by
  unfold execWindowEnd
  grind [State.exerAnswer_intact, State.onEnt_intact, State.testFailed_intact, State.winBegin_intact]

theorem execHealthTestFailure_intact (t : HealthTest) (osc : OscCounts) (s : State) (hk : s₀.Intact s) :
    ∀ z, execHealthTestFailure t osc s = .next z → s₀.Intact z := by
  unfold execHealthTestFailure
  grind [State.testFailed_intact]

theorem execRetestStart_intact (s : State) (hk : s₀.Intact s) : ∀ z, execRetestStart s = .next z → s₀.Intact z := by
  unfold execRetestStart
  grind [State.onEnt_intact, State.winBegin_intact]

theorem execRetestVerdict_intact (pass : Bool) (samples : List W64) (s : State) (hk : s₀.Intact s) :
    ∀ z, execRetestVerdict pass samples s = .next z → s₀.Intact z := by
  unfold execRetestVerdict
  grind [State.cause_intact, State.exerAnswer_intact, State.log_intact, State.onBlk_intact, State.onEnt_intact, State.testFailed_intact,
    State.transient_intact]

theorem State.flushEntropy_intact (s : State) (hk : s₀.Intact s) : s₀.Intact (State.flushEntropy s) := by
  unfold State.flushEntropy
  grind [State.onEnt_intact]

theorem State.testCtl_intact (s : State) (who : Accessor) (go : State → State) (h : ∀ s, s₀.Intact s → s₀.Intact (go s)) (hk : s₀.Intact s) :
    s₀.Intact (State.testCtl s who go) := by
  unfold State.testCtl
  grind [State.refuse_intact]

theorem execTestPatternEnable_intact (who : Accessor) (s : State) (hk : s₀.Intact s) : ∀ z, execTestPatternEnable who s = .next z → s₀.Intact z := by
  unfold execTestPatternEnable
  grind [State.flushEntropy_intact, State.log_intact, State.onEnt_intact, State.testCtl_intact, State.wrote_intact]

theorem execTestPatternDisable_intact (who : Accessor) (s : State) (hk : s₀.Intact s) : ∀ z, execTestPatternDisable who s = .next z → s₀.Intact z := by
  unfold execTestPatternDisable
  grind [State.flushEntropy_intact, State.log_intact, State.onEnt_intact, State.testCtl_intact, State.wrote_intact]

theorem execKnownAnswerTestDone_intact (core0 core1 cond : Bool) (s : State) (hk : s₀.Intact s) :
    ∀ z, execKnownAnswerTestDone core0 core1 cond s = .next z → s₀.Intact z := by
  unfold execKnownAnswerTestDone
  grind [State.Intact.foldl, State.cause_intact, State.eclipse_intact, State.instWait_intact, State.onLdr_intact]

theorem State.regAct_intact (s : State) (who : Accessor) (a : Nat) (go : State → State) (h : ∀ s, s₀.Intact s → s₀.Intact (go s)) (hk : s₀.Intact s) :
    s₀.Intact (State.regAct s who a go) := by
  unfold State.regAct
  grind [State.refuse_intact]

theorem State.glogFreeze_intact (s : State) (hk : s₀.Intact s) : s₀.Intact (State.glogFreeze s) := by
  unfold State.glogFreeze
  grind [State.onGlog_intact]

theorem State.glogThaw_intact (s : State) (hk : s₀.Intact s) : s₀.Intact (State.glogThaw s) := by
  unfold State.glogThaw
  grind [State.onGlog_intact]

theorem State.glogWrite_intact (s : State) (v : W32) (hk : s₀.Intact s) : s₀.Intact (State.glogWrite s v) := by
  unfold State.glogWrite
  grind [State.glogFreeze_intact, State.glogThaw_intact, State.onGlog_intact]

theorem State.pendClear_intact (s : State) (w : Nat) (v : W32) (p : Option Nat) (hk : s₀.Intact s) : s₀.Intact (State.pendClear s w v p) := by
  unfold State.pendClear
  grind [State.Intact.foldl, State.onRing_intact]

theorem State.irqTestMsg_intact (s : State) (v : W32) (hk : s₀.Intact s) : s₀.Intact (State.irqTestMsg s v) := by
  unfold State.irqTestMsg
  grind [State.irqMsg_intact]

theorem State.ringStatusWrite_intact (s : State) (r : Nat) (v : W32) (hk : s₀.Intact s) : s₀.Intact (State.ringStatusWrite s r v) := by
  unfold State.ringStatusWrite
  grind [State.onRing_intact]

theorem nextOf_intact {o : Out} {s : State} (h : ∀ z, o = .next z → s₀.Intact z) (hk : s₀.Intact s) : s₀.Intact (nextOf o s) := by
  unfold nextOf
  split
  · exact h _ rfl
  · exact hk

theorem State.chanWrite_intact (s : State) (who : Accessor) (c off : Nat) (v : W32) (hk : s₀.Intact s) : s₀.Intact (State.chanWrite s who c off v) := by
  unfold State.chanWrite
  have hn := nextOf_intact (execMbDbMaskClear_intact who c v s hk) hk
  refine .ite (State.mailWrite_intact s who c off _ (fun t ht => State.onChan_intact _ _ _ ht) hk)
    (.ite (State.mailWrite_intact s who c off _ (fun t ht => State.ctrlWrite_intact _ _ _ ht) hk)
    (.ite (State.dbDown_intact s who c _ (fun t ht => ?_) hk)
    (.ite (State.mailWrite_intact s who c off _ (fun t ht => State.onChan_intact _ _ _ ht) hk)
    (.ite hn (.ite hk (State.mailWrite_intact s who c off _ (fun t ht => ht) hk))))))
  exact .ite (State.goChan_intact _ _ _ ht) (.ite (State.ackChan_intact _ _ ht) ht)

theorem State.blockWrite_intact (s : State) (who : Accessor) (a : Nat) (v : W32) (hk : s₀.Intact s) : s₀.Intact (State.blockWrite s who a v) := by
  unfold State.blockWrite
  have he := nextOf_intact (execTestPatternEnable_intact who s hk) hk
  have hd := nextOf_intact (execTestPatternDisable_intact who s hk) hk
  refine .ite (State.onBlk_intact hk _) (.ite (State.irqTestMsg_intact _ _ hk)
    (.ite (State.pendClear_intact _ _ _ _ hk) (.ite (State.glogWrite_intact _ _ hk)
    (.ite (.ite he hd)
    (.ite (.ite hk (State.onEnt_intact hk _))
    (.ite (State.onEph_intact hk _) hk))))))

theorem execRegisterWrite_intact (who : Accessor) (addr : Nat) (v : W32) (s : State) (hk : s₀.Intact s) :
    ∀ z, execRegisterWrite who addr v s = .next z → s₀.Intact z := by
  unfold execRegisterWrite
  extract_lets +onlyGivenNames a
  rintro z ⟨⟩
  refine State.wrote_intact _ ?_
  split
  · next _ _ r _ =>
    refine .ite (.ite (nextOf_intact (execProducerWrite_intact who r v s hk) hk)
      (nextOf_intact (execConsumerWrite_intact who r v s hk) hk))
      (.ite (State.regAct_intact s who a _ (fun t ht => State.ringStatusWrite_intact _ _ _ ht) hk)
      (nextOf_intact (execAbortWrite_intact who r v s hk) hk))
  · exact State.chanWrite_intact _ _ _ _ _ hk
  · exact State.regAct_intact s who a _ (fun t ht => State.blockWrite_intact _ _ _ _ ht) hk

theorem State.clearRc_intact (s : State) (a : Nat) (hk : s₀.Intact s) : s₀.Intact (State.clearRc s a) := by
  unfold State.clearRc
  split
  · exact .ite (State.onChan_intact _ _ _ hk) hk
  · extract_lets +onlyGivenNames ecc
    have hp := fun n => State.onPort_intact hk n (f := fun p => { p with late := 0, tmo := 0, pois := 0, bus := 0 }) fun _ hp => hp
    have ho := State.onOry_intact hk (fun o => { o with closedWait := 0, timeLimit := 0, quiesce := 0, forkFail := 0 }) fun _ => rfl
    refine .ite (State.onSch_intact hk _) (.ite (State.onSch_intact hk _)
      (.ite (hp _) (.ite (State.onStream_intact _ _ _ hk)
      (.ite (State.onUnit_intact _ _ _ hk) (.ite (State.onUnit_intact _ _ _ hk)
      (.ite (State.onUnit_intact _ _ _ hk) (.ite (State.onSch_intact hk _)
      (.ite (State.onKey_intact hk _) (.ite ho
      (.ite (State.onEnt_intact hk _) (.ite (State.onSch_intact hk _)
      (.ite (State.onSch_intact hk _) (.ite (State.onEph_intact hk _)
      (.ite (State.onEph_intact hk _) hk))))))))))))))

theorem execReadClears_intact (who : Accessor) (addr : Nat) (s : State) (hk : s₀.Intact s) : ∀ z, execReadClears who addr s = .next z → s₀.Intact z := by
  unfold execReadClears
  grind [State.clearRc_intact, State.respond_intact]

theorem execReadRefused_intact (who : Accessor) (addr : Nat) (s : State) (hk : s₀.Intact s) :
    ∀ z, execReadRefused who addr s = .next z → s₀.Intact z := by
  unfold execReadRefused
  grind [State.refuse_intact, State.respond_intact]

theorem execIrqPendClear_intact (who : Accessor) (w : Nat) (v : W32) (s : State) (hk : s₀.Intact s) :
    ∀ z, execIrqPendClear who w v s = .next z → s₀.Intact z := by
  unfold execIrqPendClear
  grind [State.blockWrite_intact, State.regAct_intact, State.wrote_intact]

theorem execIrqTest_intact (who : Accessor) (v : W32) (s : State) (hk : s₀.Intact s) : ∀ z, execIrqTest who v s = .next z → s₀.Intact z := by
  unfold execIrqTest
  grind [State.irqTestMsg_intact, State.regAct_intact, State.wrote_intact]

theorem execFreezeNow_intact (who : Accessor) (s : State) (hk : s₀.Intact s) : ∀ z, execFreezeNow who s = .next z → s₀.Intact z := by
  unfold execFreezeNow
  grind [State.glogFreeze_intact, State.regAct_intact, State.wrote_intact]

theorem execFrozenClear_intact (who : Accessor) (s : State) (hk : s₀.Intact s) : ∀ z, execFrozenClear who s = .next z → s₀.Intact z := by
  unfold execFrozenClear
  grind [State.glogThaw_intact, State.regAct_intact, State.wrote_intact]

theorem State.setInactive_intact (s : State) (i : Option Image) (hk : s₀.Intact s) : s₀.Intact (State.setInactive s i) := by
  unfold State.setInactive
  grind [State.onOry_intact]

theorem State.stageEnd_intact (s : State) (c t code : Nat) (i : Option Image) (hk : s₀.Intact s) : s₀.Intact (State.stageEnd s c t code i) := by
  unfold State.stageEnd
  grind [State.commit_intact, State.log_intact, State.onOry_intact, State.replyRes_intact, State.setInactive_intact]

theorem State.stageTaken_intact (s : State) (c t fid addr len : Nat) (read : ReadAnswer) (hk : s₀.Intact s) :
    s₀.Intact (State.stageTaken s c t fid addr len read) := by
  unfold State.stageTaken
  grind [State.freeGroup_intact, State.newReads_intact, State.onOry_intact, State.readString_intact, State.stageEnd_intact]

theorem execFwVerifyVerdict_intact (s : State) (hk : s₀.Intact s) : ∀ z, execFwVerifyVerdict s = .next z → s₀.Intact z := by
  unfold execFwVerifyVerdict
  grind [State.stageEnd_intact]

theorem State.swapBoundary_intact (s : State) (hk : s₀.Intact s) : s₀.Intact (State.swapBoundary s) := by
  unfold State.swapBoundary
  grind [State.onOry_intact]

theorem State.setSwap_intact (s : State) (n : Nat) (hk : s₀.Intact s) : s₀.Intact (State.setSwap s n) := by
  unfold State.setSwap
  grind [State.onOry_intact]

theorem execSwapEnter_intact (s : State) (hk : s₀.Intact s) : ∀ z, execSwapEnter s = .next z → s₀.Intact z := by
  unfold execSwapEnter
  grind [State.setMode_intact, State.setSwap_intact]

theorem execQuiesceTimeout_intact (t : Nat) (s : State) (hk : s₀.Intact s) : ∀ z, execQuiesceTimeout t s = .next z → s₀.Intact z := by
  unfold execQuiesceTimeout
  grind [State.endGroup_intact, State.logGroup_intact, State.onOry_intact]

theorem State.initRuns_intact (s : State) (hk : s₀.Intact s) : s₀.Intact (State.initRuns s) := by
  unfold State.initRuns
  grind [DPlan.work_intact, State.onOry_intact]

theorem State.initOver_intact (s : State) (hk : s₀.Intact s) : s₀.Intact (State.initOver s) := by
  unfold State.initOver
  grind [State.onOry_intact]

theorem execFlip_intact (s : State) (hk : s₀.Intact s) : ∀ z, execFlip s = .next z → s₀.Intact z := by
  unfold execFlip
  grind [State.commit_intact, State.initRuns_intact, State.onOry_intact, State.setSwap_intact]

theorem execInitDone_intact (s : State) (hk : s₀.Intact s) : ∀ z, execInitDone s = .next z → s₀.Intact z := by
  unfold execInitDone
  grind [State.initOver_intact, State.onOry_intact, State.setSwap_intact]

theorem execInitTimeout_intact (s : State) (hk : s₀.Intact s) : ∀ z, execInitTimeout s = .next z → s₀.Intact z := by
  unfold execInitTimeout
  rintro z ⟨⟩
  refine .ite hk ?_
  extract_lets +onlyGivenNames s1 s2
  have h1 : s₀.Intact s1 := State.setSwap_intact _ _ (State.onOry_intact (State.initOver_intact _ hk) _ fun _ => rfl)
  have h2 : s₀.Intact s2 := State.log_intact _ _ _ _ _ h1
  split
  · exact State.replyRes_intact _ _ _ _ _ h2
  · exact h2

theorem execSwapExit_intact (s : State) (hk : s₀.Intact s) : ∀ z, execSwapExit s = .next z → s₀.Intact z := by
  unfold execSwapExit
  grind [State.log_intact, State.onOry_intact, State.replyRes_intact, State.setMode_intact]

theorem State.hello_intact (s : State) (c : Nat) (hk : s₀.Intact s) : s₀.Intact (State.hello s c) := by
  unfold State.hello
  grind [State.commit_intact, State.onPart_intact, State.replyRes_intact, State.wakePart_intact]

theorem State.createPart_intact (s : State) (c p : Nat) (read : ReadAnswer) (hk : s₀.Intact s) : s₀.Intact (State.createPart s c p read) := by
  unfold State.createPart
  extract_lets +onlyGivenNames s1 e key
  have h1 : s₀.Intact s1 := State.readString_intact _ _ _ _ (State.newReads_intact _ hk)
  split
  · split
    · exact State.replyRes_intact _ _ _ _ _ (State.logKey_intact _ _ _ _ (State.onKey_intact h1 _))
    · refine .ite (State.replyRes_intact _ _ _ _ _ h1) ?_
      exact State.replyRes_intact _ _ _ _ _ (State.commit_intact _ _ (State.onPart_intact _ _ _ (State.onKey_intact h1 _)))
  · exact State.replyRes_intact _ _ _ _ _ h1

theorem State.openRing_intact (s : State) (c : Nat) (hk : s₀.Intact s) : s₀.Intact (State.openRing s c) := by
  unfold State.openRing
  grind [State.commit_intact, State.setRing_intact]

theorem State.closeMsg_intact (s : State) (c : Nat) (hk : s₀.Intact s) : s₀.Intact (State.closeMsg s c) := by
  unfold State.closeMsg
  grind [State.closeRing_intact, State.commit_intact, State.dropReqs_intact, State.onRing_intact, State.replyRes_intact, State.unrecord_intact]

theorem State.readout_intact (s : State) (c dst : Nat) (data : Bytes) (ws : List Nat) (hk : s₀.Intact s) :
    s₀.Intact (State.readout s c dst data ws) := by
  unfold State.readout
  grind [DPlan.work_intact, State.onMbx_intact, State.replyRes_intact, State.write_intact]

theorem State.ephCopy_intact (s : State) (c first next stop dst : Nat) (failed : Bool) (hk : s₀.Intact s) :
    s₀.Intact (State.ephCopy s c first next stop dst failed) := by
  unfold State.ephCopy
  extract_lets +onlyGivenNames back left
  dsimp only
  refine .ite (State.messageWritten_intact _ _ _ ?_) (State.write_intact ?_ _ _ _ _ _ _)
  · exact State.onMbx_intact (State.onEph_intact (State.draw_intact hk 9) _) _
  · exact State.onMbx_intact (State.onEph_intact (State.draw_intact hk 9) _) _

theorem State.ephRead_intact (s : State) (c : Nat) (hk : s₀.Intact s) : s₀.Intact (State.ephRead s c) := by
  unfold State.ephRead
  extract_lets +onlyGivenNames m n held d
  have hr := fun l => State.readout_intact s c 0 [] l hk
  refine .ite (hr _) ?_
  extract_lets +onlyGivenNames back k
  exact .ite (hr _) (State.ephCopy_intact _ _ _ _ _ _ _ hk)

theorem State.exerciseMsg_intact (s : State) (c : Nat) (u : UnitId) (hk : s₀.Intact s) : s₀.Intact (State.exerciseMsg s c u) := by
  unfold State.exerciseMsg
  grind [State.onEnt_intact, State.onUnit_intact]

theorem State.eclipseMsg_intact (s : State) (c : Nat) (u : UnitId) (hk : s₀.Intact s) : s₀.Intact (State.eclipseMsg s c u) := by
  unfold State.eclipseMsg
  grind [State.commit_intact, State.onEnt_intact, State.onSch_intact, State.onUnit_intact, State.replyRes_intact]

theorem State.addWork_intact (s : State) (w : Mgmt) (hk : s₀.Intact s) : s₀.Intact (State.addWork s w) := by
  unfold State.addWork
  grind [DPlan.work_intact, State.onMbx_intact]

theorem State.msgActs_intact (s : State) (c t : Nat) (read : ReadAnswer) (hk : s₀.Intact s) : s₀.Intact (State.msgActs s c t read) := by
  unfold State.msgActs
  extract_lets +onlyGivenNames m p u
  have hw := fun w => State.addWork_intact s w hk
  have ho := State.onOry_intact hk (fun o => { o with swapCh := some c, swapStage := 0 }) fun _ => rfl
  refine .ite (State.hello_intact _ _ hk) (.ite (State.replyRes_intact _ _ _ _ _ hk)
    (.ite (State.createPart_intact _ _ _ _ hk) (.ite (hw _)
    (.ite (hw _) (.ite (hw _)
    (.ite (State.openRing_intact _ _ hk) (.ite (State.closeMsg_intact _ _ hk)
    (.ite (State.replyRes_intact _ _ _ _ _ (State.commit_intact _ _ (State.onRing_intact _ _ _ hk)))
    (.ite (State.addWork_intact _ _ (State.onPart_intact _ _ _ hk)) (.ite (hw _)
    (.ite (State.ephRead_intact _ _ hk) (.ite (State.stageTaken_intact _ _ _ _ _ _ _ hk)
    (.ite ho (.ite (State.exerciseMsg_intact _ _ _ hk)
    (.ite (State.eclipseMsg_intact _ _ _ hk)
    (State.replyRes_intact _ _ _ _ _ (State.commit_intact _ _ (hw _))))))))))))))))))

theorem State.waitMsg_intact (s : State) (t c : Nat) (hk : s₀.Intact s) : s₀.Intact (State.waitMsg s t c) := by
  unfold State.waitMsg
  grind [DPlan.work_intact, State.onThread_intact, State.reply_intact]

theorem execMessageTaken_intact (t : Nat) (read : ReadAnswer) (s : State) (hk : s₀.Intact s) :
    ∀ z, execMessageTaken t read s = .next z → s₀.Intact z := by
  unfold execMessageTaken
  grind [DPlan.work_intact, State.msgActs_intact, State.onChan_intact, State.onThread_intact, State.replyRes_intact, State.waitMsg_intact]

theorem State.commitQuota_intact (s : State) (p k f g rings keys : Nat) (susp : Bool) (hk : s₀.Intact s) :
    s₀.Intact (State.commitQuota s p k f g rings keys susp) := by
  unfold State.commitQuota
  grind [State.onPart_intact, State.onSch_intact, State.wakePart_intact]

theorem State.rotateOut_intact (s : State) (p : Nat) (hk : s₀.Intact s) : s₀.Intact (State.rotateOut s p) := by
  unfold State.rotateOut
  grind [State.Intact.foldl, State.endAs_intact]

theorem State.rotWrite_intact (s : State) (p : Nat) (hk : s₀.Intact s) : s₀.Intact (State.rotWrite s p) := by
  unfold State.rotWrite
  grind [State.onPart_intact, State.writeRecord_intact]

theorem State.commitRotate_intact (s : State) (c p : Nat) (hk : s₀.Intact s) : s₀.Intact (State.commitRotate s c p) := by
  unfold State.commitRotate
  grind [State.abortMsg_intact, State.addWork_intact, State.commit_intact, State.onPart_intact, State.replyRes_intact, State.rotWrite_intact,
    State.rotateOut_intact]

theorem State.restoreUnit_intact (s : State) (u : UnitId) (hk : s₀.Intact s) : s₀.Intact (State.restoreUnit s u) := by
  unfold State.restoreUnit
  grind [State.log_intact, State.onSch_intact, State.onUnit_intact, State.restoreCore_intact]

theorem State.commitWork_intact (s : State) (w : Mgmt) (hk : s₀.Intact s) : s₀.Intact (State.commitWork s w) := by
  unfold State.commitWork
  grind [State.addWork_intact, State.commit_intact, State.commitQuota_intact, State.commitRotate_intact, State.ephCopy_intact, State.readout_intact,
    State.replyRes_intact, State.resetPart_intact, State.restoreUnit_intact]

theorem State.commitsDue_intact (s : State) (hk : s₀.Intact s) : s₀.Intact (State.commitsDue s) := by
  unfold State.commitsDue
  grind [DPlan.work_intact, State.Intact.foldl, State.commitWork_intact, State.onMbx_intact]

theorem State.rotDrain_intact (s : State) (p : Nat) (hk : s₀.Intact s) : s₀.Intact (State.rotDrain s p) := by
  unfold State.rotDrain
  grind [State.onKey_intact, State.onPart_intact, State.replyRes_intact]

theorem execPartitionRecordAck_intact (p : Nat) (s : State) (hk : s₀.Intact s) : ∀ z, execPartitionRecordAck p s = .next z → s₀.Intact z := by
  unfold execPartitionRecordAck
  rintro z ⟨⟩
  split
  · exact hk
  · next x hx =>
    split
    · exact hk
    · next w hw =>
      refine .ite hk ?_
      extract_lets +onlyGivenNames s1 s2 s3
      have h2 : s₀.Intact s2 := State.onKey_intact (State.dropOps_intact _ _ (State.onPart_intact _ _ _ hk)) _
      have h3 : s₀.Intact s3 := .ite h2 (State.logKey_intact _ _ _ _ h2)
      split
      · exact .ite (State.onKey_intact (State.endReset_intact _ _ _ h3) _) (State.destroyWrite_intact _ _ h3)
      · exact State.rotDrain_intact _ _ h3

theorem execPartitionRecordRetry_intact (p : Nat) (s : State) (hk : s₀.Intact s) : ∀ z, execPartitionRecordRetry p s = .next z → s₀.Intact z := by
  unfold execPartitionRecordRetry
  grind [State.writeRecord_intact]

theorem State.lendTick_intact (s : State) (hk : s₀.Intact s) : s₀.Intact (State.lendTick s) := by
  unfold State.lendTick
  grind [State.Intact.foldl, State.onPrt_intact]

theorem State.powerTick_intact (s : State) (ev : TickEvents) (hk : s₀.Intact s) : s₀.Intact (State.powerTick s ev) := by
  unfold State.powerTick
  grind [State.onSch_intact]

theorem State.beatsTick_intact (s : State) (hk : s₀.Intact s) : s₀.Intact (State.beatsTick s) := by
  unfold State.beatsTick
  refine State.onMov_intact_of hk fun m hm => ?_
  refine all_map_of (fun p hp => ?_) hm
  exact hp

theorem State.eccTick_intact (s : State) (l : List (UnitId × Nat)) (hk : s₀.Intact s) : s₀.Intact (State.eccTick s l) := by
  unfold State.eccTick
  grind [State.Intact.foldl, State.onUnit_intact]

theorem State.unitTick_intact (s : State) (hk : s₀.Intact s) : s₀.Intact (State.unitTick s) := by
  unfold State.unitTick
  extract_lets +onlyGivenNames held f g
  refine State.onDat_intact_of hk fun d hd => ?_
  refine all_map_of (fun m hm => ?_) hd
  exact hm

theorem State.ringTick_intact (s : State) (hk : s₀.Intact s) : s₀.Intact (State.ringTick s) := by
  unfold State.ringTick
  grind [State.onRng_intact]

theorem State.publish_intact (s : State) (hk : s₀.Intact s) : s₀.Intact (State.publish s) := by
  unfold State.publish
  grind [State.onPrt_intact, State.onSch_intact]

theorem State.recordsLate_intact (s : State) (hk : s₀.Intact s) : s₀.Intact (State.recordsLate s) := by
  unfold State.recordsLate
  grind [State.Intact.foldl, State.late_intact, State.logReq_intact, State.onPart_intact]

theorem State.endTick_intact (s : State) (ev : TickEvents) (hk : s₀.Intact s) : s₀.Intact (State.endTick s ev) := by
  unfold State.endTick
  extract_lets +onlyGivenNames s1 s2 s3
  have h1 : s₀.Intact s1 := .ite hk
    (State.endErrs_intact _ (State.coresDone_intact _ (State.runAll_intact _ _ (State.strikeAll_intact _ _ hk))))
  have h2 : s₀.Intact s2 := State.eccTick_intact _ _ (State.beatsTick_intact _ (State.powerTick_intact _ _ (State.lendTick_intact _ h1)))
  exact State.publish_intact _ (State.coreTicks_intact _ (State.chargeTicks_intact _ (State.ringTick_intact _ (State.unitTick_intact _
    (State.recordsLate_intact _ (State.onKey_intact h2 _))))))

theorem State.eclipsesDue_intact (s : State) (hk : s₀.Intact s) : s₀.Intact (State.eclipsesDue s) := by
  unfold State.eclipsesDue
  grind [State.Intact.foldl, State.onUnit_intact]

theorem State.seedDue_intact (s : State) (hk : s₀.Intact s) : s₀.Intact (State.seedDue s) := by
  unfold State.seedDue
  grind [State.onLdr_intact]

theorem State.modeBoundary_intact (s : State) (hk : s₀.Intact s) : s₀.Intact (State.modeBoundary s) := by
  unfold State.modeBoundary
  grind [State.reducedAlarm_intact, State.setMode_intact]

theorem State.recomputeNow_intact (s : State) (hk : s₀.Intact s) : s₀.Intact (State.recomputeNow s) := by
  unfold State.recomputeNow
  grind [State.log_intact, State.onSch_intact, State.reduceFloors_intact]

theorem State.ungateAcked_intact (s : State) (hk : s₀.Intact s) : s₀.Intact (State.ungateAcked s) := by
  unfold State.ungateAcked
  grind [State.onDat_intact]

theorem State.lastingFailures_intact (s : State) (hk : s₀.Intact s) : s₀.Intact (State.lastingFailures s) := by
  unfold State.lastingFailures
  grind [State.Intact.foldl, State.logKey_intact, State.logReq_intact]

theorem State.createFinished_intact (s : State) (hk : s₀.Intact s) : s₀.Intact (State.createFinished s) := by
  unfold State.createFinished
  grind [State.Intact.foldl, State.createKey_intact]

theorem State.abortRecords_intact (s : State) (hk : s₀.Intact s) : s₀.Intact (State.abortRecords s) := by
  unfold State.abortRecords
  grind [State.Intact.foldl, State.logReq_intact, State.onRing_intact]

theorem State.atBoundary_intact (s : State) (hk : s₀.Intact s) : s₀.Intact (State.atBoundary s) := by
  unfold State.atBoundary
  extract_lets +onlyGivenNames s1 s2 s3 s4 s5
  have h1 : s₀.Intact s1 := State.commitsDue_intact _ (State.fcBoundary_intact _ (State.restartControl_intact _ (State.abortRecords_intact _ hk)))
  have h2 : s₀.Intact s2 := State.Intact.foldl (fun t x ht => State.dropUnusable_intact _ _ (State.rotDrain_intact _ _ (State.rotWrite_intact _ _ ht))) _ h1
  have h3 : s₀.Intact s3 := State.testsBegin_intact _ (State.modeBoundary_intact _ (State.swapBoundary_intact _ (State.eclipsesDue_intact _
    (State.seedDue_intact _ (State.seatStatics_intact _ (State.testsEnd_intact _ h2))))))
  have h4 : s₀.Intact s4 := State.lastingFailures_intact _ (State.restoreAll_intact _ (State.createFinished_intact _ (State.prepBuffered_intact _
    (State.readWaiting_intact _ (State.opsNext_intact _ (State.vaultResume_intact _ (State.vaultRepeat_intact _ (State.ungateAcked_intact _ h3))))))))
  exact State.moveWindows_intact _ _ (State.moveWindows_intact _ _ (State.moveWindows_intact _ _ (State.recomputeNow_intact _ h4)))

theorem State.bind_intact (s : State) (g : Grant) (hk : s₀.Intact s) : s₀.Intact (State.bind s g) := by
  unfold State.bind
  grind [State.Intact.foldl, State.onDat_intact]

theorem State.readAfter_intact (s : State) (g : Grant) (hk : s₀.Intact s) : s₀.Intact (State.readAfter s g) := by
  unfold State.readAfter
  grind [State.readNext_intact]

theorem State.issue_intact (s : State) (g : Grant) (hk : s₀.Intact s) : s₀.Intact (State.issue s g) := by
  unfold State.issue
  extract_lets +onlyGivenNames t c s1 s2 s3 s4 s5
  have h2 : s₀.Intact s2 := State.Intact.foldl (fun t u ht => State.onUnit_intact _ _ _ ht) _ (State.onPart_intact _ _ _ hk)
  have h3 : s₀.Intact s3 := State.onDat_intact h2 _ fun _ => rfl
  have h4 : s₀.Intact s4 := State.onLink_intact _ _ _ h3
  have h5 : s₀.Intact s5 := by
    unfold s5
    split
    · exact .ite h4 (State.loadKey_intact _ _ h4)
    · exact h4
  exact State.readAfter_intact _ _ (State.onGlog_intact (State.bind_intact _ _ h5) _)

theorem State.engineTicks_intact (s : State) (hk : s₀.Intact s) : s₀.Intact (State.engineTicks s) := by
  unfold State.engineTicks
  grind [State.onPrt_intact]

theorem State.markDual_intact (s : State) (hk : s₀.Intact s) : s₀.Intact (State.markDual s) := by
  unfold State.markDual
  extract_lets +onlyGivenNames win dual
  refine State.onDat_intact_of hk fun d hd => ?_
  refine all_zipIdx_map (fun m i hm => ?_) hd
  exact hm

theorem State.macusBegin_intact (s : State) (hk : s₀.Intact s) : s₀.Intact (State.macusBegin s) := by
  unfold State.macusBegin
  refine State.markDual_intact _ (State.onDat_intact_of hk fun d hd => ?_)
  refine all_zipIdx_map (fun m i hm => ?_) hd
  exact hm

theorem State.issueAll_intact (s : State) (hk : s₀.Intact s) : s₀.Intact (State.issueAll s) := by
  unfold State.issueAll
  grind [State.Intact.foldl, State.engineTicks_intact, State.issue_intact, State.macusBegin_intact, State.onPrt_intact, State.onSch_intact,
    State.refund_intact]

theorem State.sealedShares_intact (s : State) (hk : s₀.Intact s) : s₀.Intact (State.sealedShares s) := by
  unfold State.sealedShares
  grind [State.onSch_intact, State.recomputeNow_intact, State.takeShares_intact]

theorem State.moveFor_intact (s : State) (u : UnitId) (hk : s₀.Intact s) : s₀.Intact (State.moveFor s u) := by
  unfold State.moveFor
  grind [State.moveWindows_intact]

theorem execEclipseEffect_intact (u : UnitId) (s : State) (hk : s₀.Intact s) : ∀ z, execEclipseEffect u s = .next z → s₀.Intact z := by
  unfold execEclipseEffect
  grind [State.eclipse_intact, State.modeBoundary_intact, State.moveFor_intact, State.recomputeNow_intact, State.seatStatics_intact]

theorem State.decide1_intact (s : State) (hk : s₀.Intact s) : s₀.Intact (State.decide1 s) := by
  unfold State.decide1
  grind [State.onSch_intact]

theorem State.shapeClear_intact (s : State) (calm : Nat) (hk : s₀.Intact s) : s₀.Intact (State.shapeClear s calm) := by
  unfold State.shapeClear
  grind [State.onPrt_intact, State.onSch_intact]

theorem execSegmentShaping_intact (s : State) (hk : s₀.Intact s) : ∀ z, execSegmentShaping s = .next z → s₀.Intact z := by
  unfold execSegmentShaping
  grind [State.decide1_intact, State.onPart_intact, State.shapeClear_intact]

theorem execQuadrantGating_intact (q : Nat) (s : State) (hk : s₀.Intact s) : ∀ z, execQuadrantGating q s = .next z → s₀.Intact z := by
  unfold execQuadrantGating
  grind [State.decide1_intact, State.log_intact, State.onDat_intact, State.onIo_intact]

theorem State.setCap_intact (s : State) (n : Nat) (hk : s₀.Intact s) : s₀.Intact (State.setCap s n) := by
  unfold State.setCap
  grind [State.decide1_intact, State.log_intact, State.onSch_intact]

theorem execPowerGovernor_intact (s : State) (hk : s₀.Intact s) : ∀ z, execPowerGovernor s = .next z → s₀.Intact z := by
  unfold execPowerGovernor
  grind [State.onSch_intact, State.setCap_intact]

theorem State.nvCommand_intact (s : State) (on : Bool) (hk : s₀.Intact s) : s₀.Intact (State.nvCommand s on) := by
  unfold State.nvCommand
  grind [State.onIo_intact]

theorem execNvmFirstCommand_intact (r : SfdpRead) (s : State) (hk : s₀.Intact s) : ∀ z, execNvmFirstCommand r s = .next z → s₀.Intact z := by
  unfold execNvmFirstCommand
  grind [State.nvCommand_intact, State.onLdr_intact]

theorem execContainerReadDone_intact (data : ReadAnswer) (s : State) (hk : s₀.Intact s) : ∀ z, execContainerReadDone data s = .next z → s₀.Intact z := by
  unfold execContainerReadDone
  grind [State.nvCommand_intact, State.onIo_intact, State.onLdr_intact]

theorem State.containerResult_intact (s : State) (k res : Nat) (chk : Check) (hk : s₀.Intact s) : s₀.Intact (State.containerResult s k res chk) := by
  unfold State.containerResult
  grind [State.logSev_intact, State.onLdr_intact]

theorem State.loadFailed_intact (s : State) (hk : s₀.Intact s) : s₀.Intact (State.loadFailed s) := by
  unfold State.loadFailed
  grind [State.cause_intact, State.containIfCaused_intact, State.onLdr_intact]

theorem State.charterVerdict_intact (s : State) (k : Nat) (b : Bytes) (hk : s₀.Intact s) : s₀.Intact (State.charterVerdict s k b) := by
  unfold State.charterVerdict
  grind [State.containerResult_intact, State.loadFailed_intact, State.onLdr_intact]

theorem State.nvNext_intact (s : State) (hk : s₀.Intact s) : s₀.Intact (State.nvNext s) := by
  unfold State.nvNext
  grind [State.nvCommand_intact, State.onLdr_intact]

theorem execSeedingEnd_intact (elapsed : Nat) (s : State) (hk : s₀.Intact s) : ∀ z, execSeedingEnd elapsed s = .next z → s₀.Intact z := by
  unfold execSeedingEnd
  grind [State.cause_intact, State.containIfCaused_intact, State.log_intact, State.onBlk_intact, State.onLdr_intact, State.reducedAlarm_intact,
    State.setMode_intact]

/-- No tag is outstanding at reset. -/
theorem State.reset_tagsOk : State.reset.tagsOk = true := by decide

theorem execRstCoreAssert_intact (s : State) : ∀ z, execRstCoreAssert s = .next z → s₀.Intact z := by
  rintro z ⟨⟩
  exact ⟨fun _ => State.reset_memWf, fun _ => State.reset_tagsOk⟩

theorem execRstRpAssert_intact (s : State) (hk : s₀.Intact s) : ∀ z, execRstRpAssert s = .next z → s₀.Intact z := by
  unfold execRstRpAssert
  grind [State.onBlk_intact]

theorem execRstRpRelease_intact (s : State) (hk : s₀.Intact s) : ∀ z, execRstRpRelease s = .next z → s₀.Intact z := by
  unfold execRstRpRelease
  grind [State.onBlk_intact]

theorem State.tapLoad_intact (s : State) (code : BitVec 8) (hk : s₀.Intact s) : s₀.Intact (s.tapLoad code) := by
  unfold State.tapLoad
  grind [State.onIo_intact]

theorem execTapReset_intact (s : State) (hk : s₀.Intact s) : ∀ z, execTapReset s = .next z → s₀.Intact z := by
  unfold execTapReset
  grind [State.onIo_intact]

theorem execIdcode_intact (s : State) (hk : s₀.Intact s) : ∀ z, execIdcode s = .next z → s₀.Intact z := by
  unfold execIdcode
  grind [State.tapLoad_intact]

theorem execBypass_intact (s : State) (hk : s₀.Intact s) : ∀ z, execBypass s = .next z → s₀.Intact z := by
  unfold execBypass
  grind [State.tapLoad_intact]

theorem execOryState_intact (s : State) (hk : s₀.Intact s) : ∀ z, execOryState s = .next z → s₀.Intact z := by
  unfold execOryState
  grind [State.tapLoad_intact]

theorem State.oryCtrl_intact (s : State) (w : W32) (hk : s₀.Intact s) : s₀.Intact (s.oryCtrl w) := by
  unfold State.oryCtrl
  grind [State.onIo_intact, State.onOry_intact, State.resumeThread_intact, State.stopThread_intact, State.tapLoad_intact]

theorem execThreadStop_intact (t : Nat) (s : State) (hk : s₀.Intact s) : ∀ z, execThreadStop t s = .next z → s₀.Intact z := by
  unfold execThreadStop
  grind [State.oryCtrl_intact]

theorem execThreadResume_intact (t : Nat) (s : State) (hk : s₀.Intact s) : ∀ z, execThreadResume t s = .next z → s₀.Intact z := by
  unfold execThreadResume
  grind [State.oryCtrl_intact]

theorem execHoldSet_intact (s : State) (hk : s₀.Intact s) : ∀ z, execHoldSet s = .next z → s₀.Intact z := by
  unfold execHoldSet
  grind [State.oryCtrl_intact]

theorem execHoldClear_intact (s : State) (hk : s₀.Intact s) : ∀ z, execHoldClear s = .next z → s₀.Intact z := by
  unfold execHoldClear
  grind [State.oryCtrl_intact]

theorem State.sampleTime_intact (s : State) (ns : W64) (hk : s₀.Intact s) : s₀.Intact (s.sampleTime ns) := by
  unfold State.sampleTime
  exact State.onBlk_intact hk _

theorem execResetRelease_intact (release : Release) (s : State) (hk : s₀.Intact s) : ∀ z, execResetRelease release s = .next z → s₀.Intact z := by
  unfold execResetRelease
  extract_lets +onlyGivenNames lifecycle
  rintro z ⟨⟩
  refine .ite hk ?_
  extract_lets +onlyGivenNames s1 s2 s3 s4
  have h4 : s₀.Intact s4 := State.log_intact _ _ _ _ _ (State.setMode_intact _ _ (State.onIo_intact (State.onLdr_intact
    (State.sampleTime_intact _ _ (State.onBlk_intact hk _)) _) _))
  exact .ite (State.containIfCaused_intact _ (State.cause_intact _ _ _ h4)) h4

theorem State.rootTaken_intact (s : State) (l : List W32) (hk : s₀.Intact s) : s₀.Intact (s.rootTaken l) := by
  unfold State.rootTaken
  exact State.onLdr_intact hk _

theorem execRootKeyWord_intact (word : W32) (last : Bool) (s : State) (hk : s₀.Intact s) : ∀ z, execRootKeyWord word last s = .next z → s₀.Intact z := by
  unfold execRootKeyWord
  rintro z ⟨⟩
  refine .ite hk ?_
  extract_lets +onlyGivenNames l
  exact .ite (State.rootTaken_intact _ _ hk) (State.onLdr_intact hk _)

theorem State.applyCharter_intact (s : State) (c : Charter) (i : Image) (hk : s₀.Intact s) : s₀.Intact (s.applyCharter c i) := by
  unfold State.applyCharter
  extract_lets +onlyGivenNames s1 s2 s3 s4
  have h3 : s₀.Intact s3 := State.onMov_intact (State.onPrt_intact (State.onLdr_intact hk _) _) _ fun _ => rfl
  exact State.onOry_intact (State.onKey_intact h3 _) _ fun _ => rfl

theorem State.beginSeeding_intact (s : State) (e : Nat) (hk : s₀.Intact s) : s₀.Intact (s.beginSeeding e) := by
  unfold State.beginSeeding
  extract_lets +onlyGivenNames test s1 s2 s3 s4
  have h3 : s₀.Intact s3 := by
    refine State.onDat_intact_of (State.onSch_intact (State.onBlk_intact hk _) _) fun d hd => ?_
    refine all_map_of (fun m hm => ?_) hd
    exact hm
  have h4 : s₀.Intact s4 := State.onOry_intact h3 _ fun _ => rfl
  exact State.setMode_intact _ _ (State.onEnt_intact h4 _)

theorem State.acceptCopy_intact (s : State) (k : Nat) (c : Charter) (i : Image) (e : Nat) (hk : s₀.Intact s) : s₀.Intact (s.acceptCopy k c i e) := by
  unfold State.acceptCopy
  grind [State.applyCharter_intact, State.beginSeeding_intact, State.log_intact, State.onBlk_intact]

theorem State.firmwareVerdict_intact (s : State) (k : Nat) (b : Bytes) (e : Nat) (hk : s₀.Intact s) : s₀.Intact (s.firmwareVerdict k b e) := by
  unfold State.firmwareVerdict
  grind [State.acceptCopy_intact, State.containerResult_intact, State.loadFailed_intact, State.onLdr_intact]

theorem State.loadTime_intact (s : State) (e : Nat) (ns : W64) (hk : s₀.Intact s) : s₀.Intact (s.loadTime e ns) := by
  unfold State.loadTime
  refine .ite (State.sampleTime_intact _ _ hk) ?_
  exact State.onBlk_intact hk _

theorem execContainerVerdict_intact (elapsed : Nat) (ns : W64) (s : State) (hk : s₀.Intact s) :
    ∀ z, execContainerVerdict elapsed ns s = .next z → s₀.Intact z := by
  unfold execContainerVerdict
  grind [State.charterVerdict_intact, State.firmwareVerdict_intact, State.loadTime_intact, State.nvNext_intact]

theorem execTbLost_intact (s : State) (hk : s₀.Intact s) : ∀ z, execTbLost s = .next z → s₀.Intact z := by
  unfold execTbLost
  grind [State.log_intact, State.onBlk_intact]

theorem execTbRestored_intact (back : TimeBack) (s : State) (hk : s₀.Intact s) : ∀ z, execTbRestored back s = .next z → s₀.Intact z := by
  unfold execTbRestored
  grind [State.log_intact, State.onBlk_intact]

theorem execPowerAck_intact (ory : Bool) (n : Nat) (level : Bool) (s : State) (hk : s₀.Intact s) :
    ∀ z, execPowerAck ory n level s = .next z → s₀.Intact z := by
  unfold execPowerAck
  grind [State.onIo_intact]

theorem State.nextTick_intact (s : State) (ns : W64) (hk : s₀.Intact s) : s₀.Intact (s.nextTick ns) := by
  unfold State.nextTick
  grind [State.onBlk_intact, State.onEnt_intact, State.onMbx_intact, State.onSch_intact]

theorem State.boundary_intact (s : State) (ev : TickEvents) (hk : s₀.Intact s) : s₀.Intact (s.boundary ev) := by
  unfold State.boundary
  grind [State.atBoundary_intact, State.cause_intact, State.contain_intact, State.endTick_intact, State.issueAll_intact, State.nextTick_intact]

theorem execTickBoundary_intact (ev : TickEvents) (s : State) (hk : s₀.Intact s) : ∀ z, execTickBoundary ev s = .next z → s₀.Intact z := by
  unfold execTickBoundary
  grind [State.boundary_intact]

theorem execContainment_intact (s : State) (hk : s₀.Intact s) : ∀ z, execContainment s = .next z → s₀.Intact z := by
  unfold execContainment
  grind [State.boundary_intact, State.cause_intact, State.containIfCaused_intact]

theorem execEpochBoundary_intact (s : State) (hk : s₀.Intact s) : ∀ z, execEpochBoundary s = .next z → s₀.Intact z := by
  unfold execEpochBoundary
  grind [State.lightWindows_intact, State.markDual_intact, State.newPatterns_intact, State.onSch_intact, State.sealedShares_intact]

theorem execEligibilityCut_intact (fs : List UnitFault) (s : State) (hk : s₀.Intact s) : ∀ z, execEligibilityCut fs s = .next z → s₀.Intact z := by
  unfold execEligibilityCut
  rintro z ⟨⟩
  refine .ite hk ?_
  extract_lets +onlyGivenNames s1 s2 s3 s4
  have h2 : s₀.Intact s2 := State.runAll_intact _ _ (State.strikeAll_intact _ _ hk)
  have h3 : s₀.Intact s3 := State.jobsCut_intact _ (State.testsCut_intact _ (State.retriesCut_intact _ (State.endErrs_intact _
    (State.timeoutsCut_intact _ (State.abortsCut_intact _ (State.residCut_intact _ h2))))))
  have h4 : s₀.Intact s4 := State.lightWindows_intact _ (State.backFrom_intact _ _ (State.drbgCut_intact _ (State.closedCut_intact _ (State.ungate_intact _
    (State.makePlan_intact _ (State.forEpoch_intact _ h3))))))
  exact State.onSch_intact h4 _

end Intact

end Sys2Proof.Machine

/-! ### PROOFS. The canonical form of the memories, and the tags, through every command (R201, R231, R272, R274, R376) -/

namespace Sys2Proof.Machine

/-- Every command keeps the form of the memories and the discipline of the tags. -/
theorem exec_intact {c : Instr} {s t : State} (h : exec c s = .next t) : s.Intact t := by
  cases c with
  | rstCoreAssert => exact execRstCoreAssert_intact _ t h
  | rstRpAssert => exact execRstRpAssert_intact _ (.refl s) t h
  | resetRelease _ => exact execResetRelease_intact _ _ (.refl s) t h
  | rootKeyWord _ _ => exact execRootKeyWord_intact _ _ _ (.refl s) t h
  | nvmFirstCommand _ => exact execNvmFirstCommand_intact _ _ (.refl s) t h
  | containerReadDone _ => exact execContainerReadDone_intact _ _ (.refl s) t h
  | containerVerdict _ _ => exact execContainerVerdict_intact _ _ _ (.refl s) t h
  | seedingEnd _ => exact execSeedingEnd_intact _ _ (.refl s) t h
  | containment => exact execContainment_intact _ (.refl s) t h
  | blockFault => exact execBlockFault_intact _ (.refl s) t h
  | tickBoundary _ => exact execTickBoundary_intact _ _ (.refl s) t h
  | epochBoundary => exact execEpochBoundary_intact _ (.refl s) t h
  | eligibilityCut _ => exact execEligibilityCut_intact _ _ (.refl s) t h
  | mac _ _ _ _ => exact execMac_intact _ _ _ _ _ (.refl s) t h
  | shift _ _ _ => exact execShift_intact _ _ _ _ (.refl s) t h
  | load _ _ => exact execLoad_intact _ _ _ (.refl s) t h
  | store _ _ => exact execStore_intact _ _ _ (.refl s) t h
  | vmac _ _ _ _ => exact execVmac_intact _ _ _ _ _ (.refl s) t h
  | vshift _ _ _ _ => exact execVshift_intact _ _ _ _ _ (.refl s) t h
  | macuNop _ => exact execMacuNop_intact _ _ (.refl s) t h
  | macuEnd _ => exact execMacuEnd_intact _ _ (.refl s) t h
  | commandFault _ => exact execCommandFault_intact _ _ (.refl s) t h
  | jobPreparation _ _ => exact execJobPreparation_intact _ _ _ (.refl s) t h
  | jobWipe _ => exact execJobWipe_intact _ _ (.refl s) t h
  | selfTest _ _ => exact execSelfTest_intact _ _ _ (.refl s) t h
  | eclipseEffect _ => exact execEclipseEffect_intact _ _ (.refl s) t h
  | quadrantLoss _ => exact execQuadrantLoss_intact _ _ (.refl s) t h
  | orreryCoreLoss _ => exact execOrreryCoreLoss_intact _ _ (.refl s) t h
  | cacheUncorrectable _ _ _ _ => exact execCacheUncorrectable_intact _ _ _ _ _ (.refl s) t h
  | segmentShaping => exact execSegmentShaping_intact _ (.refl s) t h
  | quadrantGating _ => exact execQuadrantGating_intact _ _ (.refl s) t h
  | powerGovernor => exact execPowerGovernor_intact _ (.refl s) t h
  | powerAck _ _ _ => exact execPowerAck_intact _ _ _ _ (.refl s) t h
  | producerWrite _ _ _ => exact execProducerWrite_intact _ _ _ _ (.refl s) t h
  | consumerWrite _ _ _ => exact execConsumerWrite_intact _ _ _ _ (.refl s) t h
  | abortWrite _ _ _ => exact execAbortWrite_intact _ _ _ _ (.refl s) t h
  | registerWrite _ _ _ => exact execRegisterWrite_intact _ _ _ _ (.refl s) t h
  | readClears _ _ => exact execReadClears_intact _ _ _ (.refl s) t h
  | irqPendClear _ _ _ => exact execIrqPendClear_intact _ _ _ _ (.refl s) t h
  | irqTest _ _ => exact execIrqTest_intact _ _ _ (.refl s) t h
  | freezeNow _ => exact execFreezeNow_intact _ _ (.refl s) t h
  | frozenClear _ => exact execFrozenClear_intact _ _ (.refl s) t h
  | testPatternEnable _ => exact execTestPatternEnable_intact _ _ (.refl s) t h
  | testPatternDisable _ => exact execTestPatternDisable_intact _ _ (.refl s) t h
  | ringFetch _ _ => exact execRingFetch_intact _ _ _ (.refl s) t h
  | ringContextMiss _ _ => exact execRingContextMiss_intact _ _ _ (.refl s) t h
  | headerReread _ _ => exact execHeaderReread_intact _ _ _ (.refl s) t h
  | chainIncomplete _ => exact execChainIncomplete_intact _ _ (.refl s) t h
  | cqStall _ => exact execCqStall_intact _ _ (.refl s) t h
  | gatherListRead _ _ _ => exact execGatherListRead_intact _ _ _ _ (.refl s) t h
  | keyStaging _ _ => exact execKeyStaging_intact _ _ _ (.refl s) t h
  | ledgerReservationAck _ _ => exact execLedgerReservationAck_intact _ _ _ (.refl s) t h
  | ledgerWriteRetry _ _ => exact execLedgerWriteRetry_intact _ _ _ (.refl s) t h
  | nop _ => exact execNop_intact _ _ (.refl s) t h
  | fenceRing _ => exact execFenceRing_intact _ _ (.refl s) t h
  | fencePartition _ => exact execFencePartition_intact _ _ (.refl s) t h
  | aeadSeal _ => exact execAeadSeal_intact _ _ (.refl s) t h
  | aeadOpen _ => exact execAeadOpen_intact _ _ (.refl s) t h
  | cipherEnc _ => exact execCipherEnc_intact _ _ (.refl s) t h
  | cipherDec _ => exact execCipherDec_intact _ _ (.refl s) t h
  | gmacGen _ => exact execGmacGen_intact _ _ (.refl s) t h
  | gmacVerify _ => exact execGmacVerify_intact _ _ (.refl s) t h
  | digest _ => exact execDigest_intact _ _ (.refl s) t h
  | hmacGen _ => exact execHmacGen_intact _ _ (.refl s) t h
  | hmacVerify _ => exact execHmacVerify_intact _ _ (.refl s) t h
  | pkJob _ => exact execPkJob_intact _ _ (.refl s) t h
  | random _ => exact execRandom_intact _ _ (.refl s) t h
  | reseed _ => exact execReseed_intact _ _ (.refl s) t h
  | keyGenerate _ => exact execKeyGenerate_intact _ _ (.refl s) t h
  | keyImport _ => exact execKeyImport_intact _ _ (.refl s) t h
  | keyDerive _ => exact execKeyDerive_intact _ _ (.refl s) t h
  | keyRetire _ => exact execKeyRetire_intact _ _ (.refl s) t h
  | copy _ => exact execCopy_intact _ _ (.refl s) t h
  | completionRecordWrite _ => exact execCompletionRecordWrite_intact _ _ (.refl s) t h
  | recordWriteRetry _ => exact execRecordWriteRetry_intact _ _ (.refl s) t h
  | irqTicksTrigger _ => exact execIrqTicksTrigger_intact _ _ (.refl s) t h
  | interruptMessage _ => exact execInterruptMessage_intact _ _ (.refl s) t h
  | ringDrainComplete _ => exact execRingDrainComplete_intact _ _ (.refl s) t h
  | ringOpenComplete _ => exact execRingOpenComplete_intact _ _ (.refl s) t h
  | streamInputFrame _ _ _ _ => exact execStreamInputFrame_intact _ _ _ _ _ (.refl s) t h
  | streamOutputFrame _ => exact execStreamOutputFrame_intact _ _ (.refl s) t h
  | streamOutputPause _ => exact execStreamOutputPause_intact _ _ (.refl s) t h
  | streamLongPause _ => exact execStreamLongPause_intact _ _ (.refl s) t h
  | readCompletion _ _ _ _ => exact execReadCompletion_intact _ _ _ _ _ (.refl s) t h
  | readTimeout _ _ => exact execReadTimeout_intact _ _ _ (.refl s) t h
  | tagQuarantineEnd _ _ => exact execTagQuarantineEnd_intact _ _ _ (.refl s) t h
  | writeResponse _ _ _ _ => exact execWriteResponse_intact _ _ _ _ _ (.refl s) t h
  | bmeSet _ => exact execBmeSet_intact _ _ (.refl s) t h
  | bmeClear _ => exact execBmeClear_intact _ _ (.refl s) t h
  | bmeClearAck _ => exact execBmeClearAck_intact _ _ (.refl s) t h
  | flrStart _ => exact execFlrStart_intact _ _ (.refl s) t h
  | flrAck _ _ => exact execFlrAck_intact _ _ _ (.refl s) t h
  | flrWriteLate _ => exact execFlrWriteLate_intact _ _ (.refl s) t h
  | fcReservedOp _ => exact execFcReservedOp_intact _ _ (.refl s) t h
  | tbLost => exact execTbLost_intact _ (.refl s) t h
  | tbRestored _ => exact execTbRestored_intact _ _ (.refl s) t h
  | tapReset => exact execTapReset_intact _ (.refl s) t h
  | idcode => exact execIdcode_intact _ (.refl s) t h
  | bypass => exact execBypass_intact _ (.refl s) t h
  | oryState => exact execOryState_intact _ (.refl s) t h
  | threadStop _ => exact execThreadStop_intact _ _ (.refl s) t h
  | threadResume _ => exact execThreadResume_intact _ _ (.refl s) t h
  | holdSet => exact execHoldSet_intact _ (.refl s) t h
  | holdClear => exact execHoldClear_intact _ (.refl s) t h
  | fork _ _ => exact execFork_intact _ _ _ (.refl s) t h
  | join _ _ => exact execJoin_intact _ _ _ (.refl s) t h
  | channelWrite _ _ _ _ => exact execChannelWrite_intact _ _ _ _ _ (.refl s) t h
  | channelRead _ _ => exact execChannelRead_intact _ _ _ (.refl s) t h
  | portRead _ _ => exact execPortRead_intact _ _ _ (.refl s) t h
  | timeLimit _ => exact execTimeLimit_intact _ _ (.refl s) t h
  | corePowerDown _ => exact execCorePowerDown_intact _ _ (.refl s) t h
  | coreWake _ => exact execCoreWake_intact _ _ (.refl s) t h
  | sdmaStart _ _ _ => exact execSdmaStart_intact _ _ _ _ (.refl s) t h
  | sdmaAbort _ => exact execSdmaAbort_intact _ _ (.refl s) t h
  | sdmaDone _ => exact execSdmaDone_intact _ _ (.refl s) t h
  | go _ _ _ => exact execGo_intact _ _ _ _ (.refl s) t h
  | ack _ _ _ => exact execAck_intact _ _ _ _ (.refl s) t h
  | compatDoorbellMsg _ _ => exact execCompatDoorbellMsg_intact _ _ _ (.refl s) t h
  | compatDoorbellAck _ _ => exact execCompatDoorbellAck_intact _ _ _ (.refl s) t h
  | mbDbMaskClear _ _ _ => exact execMbDbMaskClear_intact _ _ _ _ (.refl s) t h
  | messageTaken _ _ => exact execMessageTaken_intact _ _ _ (.refl s) t h
  | mailboxReply _ => exact execMailboxReply_intact _ _ (.refl s) t h
  | partitionRecordAck _ => exact execPartitionRecordAck_intact _ _ (.refl s) t h
  | partitionRecordRetry _ => exact execPartitionRecordRetry_intact _ _ (.refl s) t h
  | fwVerifyVerdict => exact execFwVerifyVerdict_intact _ (.refl s) t h
  | swapEnter => exact execSwapEnter_intact _ (.refl s) t h
  | quiesceTimeout _ => exact execQuiesceTimeout_intact _ _ (.refl s) t h
  | flip => exact execFlip_intact _ (.refl s) t h
  | initDone => exact execInitDone_intact _ (.refl s) t h
  | initTimeout => exact execInitTimeout_intact _ (.refl s) t h
  | swapExit => exact execSwapExit_intact _ (.refl s) t h
  | windowEnd _ => exact execWindowEnd_intact _ _ (.refl s) t h
  | healthTestFailure _ _ => exact execHealthTestFailure_intact _ _ _ (.refl s) t h
  | retestStart => exact execRetestStart_intact _ (.refl s) t h
  | retestVerdict _ _ => exact execRetestVerdict_intact _ _ _ (.refl s) t h
  | drbgItemDone _ => exact execDrbgItemDone_intact _ _ (.refl s) t h
  | entropyWaitExpiry _ => exact execEntropyWaitExpiry_intact _ _ (.refl s) t h
  | recordCommit => exact execRecordCommit_intact _ (.refl s) t h
  | readRefused _ _ => exact execReadRefused_intact _ _ _ (.refl s) t h
  | streamInputBeat _ _ _ _ => exact execStreamInputBeat_intact _ _ _ _ _ (.refl s) t h
  | streamPauseEnd _ => exact execStreamPauseEnd_intact _ _ (.refl s) t h
  | rstRpRelease => exact execRstRpRelease_intact _ (.refl s) t h
  | knownAnswerTestDone _ _ _ => exact execKnownAnswerTestDone_intact _ _ _ _ (.refl s) t h

/-- Settles O5: a tag issues only when it is free, leaves with its answer, and goes into quarantine only out of use. -/
theorem tagsKept : Obligations.TagsKept := by
  unfold Obligations.TagsKept
  intro c s t hs h
  exact (exec_intact h).tags hs

/-- Settles O4: every write to a memory is one that keeps the form. -/
theorem memoryFormKept : Obligations.MemoryFormKept := by
  unfold Obligations.MemoryFormKept
  intro c s t hs h
  exact (exec_intact h).mem hs

end Sys2Proof.Machine

/-! ### PROOFS. The passes keep the accounts: what is charged, what is borrowed and what is credited (R111, R112, R114) -/

namespace Sys2Proof.Machine

/-! #### A partition's dc -/

theorem State.dcOf_of_prt {s t : State} (h : t.prt = s.prt) (p c : Nat) : t.dcOf p c = s.dcOf p c := by
  unfold State.dcOf State.part
  rw [h]

theorem State.part_setDc (s : State) (p c v k : Nat) :
    (s.setDc p c v).part k = if p = k then (s.part k).map (fun x => { x with dc := updAt x.dc c fun _ => v }) else s.part k :=
  State.part_onPart s p k _

theorem State.dcOf_of_part {s t : State} {p : Nat} (h : t.part p = s.part p) (c : Nat) : t.dcOf p c = s.dcOf p c := by
  unfold State.dcOf
  rw [h]

theorem State.dcOf_setDc {s : State} {p c : Nat} {x : Part} (h : s.part p = some x) (hc : c < x.dc.length) (v : Nat) : (s.setDc p c v).dcOf p c = v := by
  simp [State.dcOf, State.part_setDc, h, List.getD_eq_getElem?_getD, updAt_getElem?, List.getElem?_eq_getElem hc]

/-- A charge to a partition without a dc of the class is a charge of 0. -/
theorem State.dcOf_setDc_sub (s : State) (p c k : Nat) : (s.setDc p c (s.dcOf p c - k)).dcOf p c = s.dcOf p c - k := by
  cases h : s.part p with
  | none => simp [State.dcOf, State.part_setDc, h]
  | some x =>
    by_cases hc : c < x.dc.length
    · exact State.dcOf_setDc h hc _
    · simp [State.dcOf, State.part_setDc, h, List.getD_eq_getElem?_getD, updAt_getElem?, List.getElem?_eq_none (Nat.le_of_not_lt hc)]

theorem Map.nat_mset (m : Map Nat) (k j v : Nat) : (Map.nat (mset m k v) j) = if k = j then v else m.nat j := by
  unfold Map.nat
  rw [mget_mset]
  split <;> rfl

/-! #### What an attempt leaves of the accounts -/

theorem State.opsNext_prt (s : State) : s.opsNext.prt = s.prt := by
  unfold State.opsNext
  split <;> rfl

theorem State.ledgerWrite_prt (s : State) (k : Nat × Nat × Nat) (why : LedgerWhy) (v : Nat) (clean : Bool) : (s.ledgerWrite k why v clean).prt = s.prt :=
  State.opsNext_prt _

theorem State.takeCount_prt (s : State) (x : Cand) : (s.takeCount x).prt = s.prt := by
  unfold State.takeCount
  split
  · rfl
  · split
    · rfl
    · split
      · rfl
      · exact kept_ite (P := fun z : State => z.prt = s.prt) (State.ledgerWrite_prt _ _ _ _ _) rfl

/-- The partitions, what is charged and what is borrowed stand as they did. -/
structure GPlan.SameAccounts (u w : GPlan) : Prop where
  prt  : w.s.prt = u.s.prt
  used : w.used = u.used
  bor  : w.bor = u.bor

theorem GPlan.fill_same (w : GPlan) (c n : Nat) (pair : Bool) (k : Nat) : w.SameAccounts (w.fill c n pair k).2.2 := by
  unfold GPlan.fill
  extract_lets +onlyGivenNames h
  split
  · extract_lets +onlyGivenNames d
    split <;> exact ⟨rfl, rfl, rfl⟩
  · split <;> exact ⟨rfl, rfl, rfl⟩

theorem GPlan.tryLane_same (w : GPlan) (x : Cand) (lend : Bool) : w.SameAccounts (w.tryLane x lend).1 := by
  unfold GPlan.tryLane
  extract_lets +onlyGivenNames pair
  split
  · exact ⟨rfl, rfl, rfl⟩
  · split
    · exact ⟨rfl, rfl, rfl⟩
    · exact ⟨rfl, rfl, rfl⟩
    · obtain ⟨hp, hu, hb⟩ := GPlan.fill_same { w with s := w.s.takeCount x } 0 _ pair x.cost
      exact ⟨hp.trans (State.takeCount_prt w.s x), hu, hb⟩

theorem GPlan.tryMacu_same (w : GPlan) (x : Cand) (lend : Bool) : w.SameAccounts (w.tryMacu x lend).1 := by
  unfold GPlan.tryMacu
  split
  · exact ⟨rfl, rfl, rfl⟩
  · next j hj =>
    split
    · exact ⟨rfl, rfl, rfl⟩
    · next n hn =>
      extract_lets +onlyGivenNames w'
      have hw : w.SameAccounts w' := by
        unfold w'
        split <;> exact ⟨rfl, rfl, rfl⟩
      obtain ⟨hp, hu, hb⟩ := GPlan.fill_same w' 1 n j.dual x.cost
      exact ⟨hp.trans hw.prt, hu.trans hw.used, hb.trans hw.bor⟩

theorem GPlan.tryEngine_same (w : GPlan) (x : Cand) (win lend : Bool) : w.SameAccounts (w.tryEngine x win lend).1 := by
  unfold GPlan.tryEngine
  split
  · exact ⟨rfl, rfl, rfl⟩
  · split
    · exact ⟨rfl, rfl, rfl⟩
    · next n m h =>
      unfold GPlan.onEngines
      cases m <;> exact ⟨rfl, rfl, rfl⟩

theorem GPlan.attempt_same (w : GPlan) (x : Cand) (lend : Bool) : w.SameAccounts (w.attempt x lend).1 := by
  unfold GPlan.attempt
  split
  · exact w.tryLane_same x lend
  · split
    · exact w.tryMacu_same x lend
    · exact w.tryEngine_same x false lend

/-! #### The passes -/

/-- What the floor pass leaves of a partition's accounts: charged within the ceiling, and from its dc. -/
structure GPlan.FloorKept (c p g : Nat) (w r : GPlan) : Prop where
  top    : r.used.nat p ≤ max (w.used.nat p) g
  total  : r.used.nat p + r.s.dcOf p c = w.used.nat p + w.s.dcOf p c
  bor    : r.bor = w.bor
  others : ∀ k, k ≠ p → r.used.nat k = w.used.nat k

theorem GPlan.FloorKept.trans {c p g : Nat} {u w r : GPlan} (h : GPlan.FloorKept c p g u w) (h' : GPlan.FloorKept c p g w r) : GPlan.FloorKept c p g u r :=
  ⟨by have := h.top; have := h'.top; omega, h'.total.trans h.total, h'.bor.trans h.bor, fun k hk => (h'.others k hk).trans (h.others k hk)⟩

theorem GPlan.SameAccounts.floorKept {w r : GPlan} (h : w.SameAccounts r) (c p g : Nat) : GPlan.FloorKept c p g w r :=
  ⟨by rw [h.used]; omega, by rw [h.used, State.dcOf_of_prt h.prt], h.bor, fun k _ => by rw [h.used]⟩

/-- A segment charged in the floor pass. -/
theorem GPlan.SameAccounts.charged {w r : GPlan} (h : w.SameAccounts r) {c p g k : Nat} (hd : k ≤ w.s.dcOf p c) (hu : w.used.nat p + k ≤ g) :
    GPlan.FloorKept c p g w { r with s := r.s.setDc p c (r.s.dcOf p c - k), used := mset r.used p (r.used.nat p + k) } := by
  have hdc := State.dcOf_of_prt h.prt p c
  refine ⟨?_, ?_, h.bor, fun j hj => ?_⟩
  · rw [Map.nat_mset, if_pos rfl, h.used]
    omega
  · rw [Map.nat_mset, if_pos rfl, h.used, State.dcOf_setDc_sub, hdc]
    omega
  · rw [Map.nat_mset, if_neg (Ne.symm hj), h.used]

theorem GPlan.floorPart_kept (c p g : Nat) (l : List Cand) (w : GPlan) (hl : ∀ x ∈ l, x.retry = false) :
    GPlan.FloorKept c p g w (w.floorPart c p g l) := by
  induction l generalizing w with
  | nil => exact GPlan.SameAccounts.floorKept ⟨rfl, rfl, rfl⟩ c p g
  | cons x l ih =>
    have ih := fun w => ih w fun y hy => hl y (List.mem_cons_of_mem x hy)
    unfold GPlan.floorPart
    extract_lets +onlyGivenNames k
    split
    · exact GPlan.SameAccounts.floorKept ⟨rfl, rfl, rfl⟩ c p g
    · next hk =>
      simp only [hl x List.mem_cons_self, Bool.not_false, Bool.true_and, Bool.or_eq_true, decide_eq_true_eq, not_or, gt_iff_lt, Nat.not_lt] at hk
      extract_lets +onlyGivenNames r
      have hr : w.SameAccounts r.1 := w.attempt_same x false
      split
      · exact (hr.charged hk.1 hk.2).trans (ih _)
      · exact (hr.floorKept c p g).trans (ih _)

/-- What the lending pass leaves of the accounts: a charge within the ceiling, counted as borrowed. -/
structure GPlan.LendKept (c p g : Nat) (w r : GPlan) : Prop where
  top    : r.used.nat p ≤ max (w.used.nat p) g
  total  : r.bor.nat p + w.used.nat p = w.bor.nat p + r.used.nat p
  dc     : ∀ k, r.s.dcOf k c = w.s.dcOf k c
  others : ∀ k, k ≠ p → r.used.nat k = w.used.nat k ∧ r.bor.nat k = w.bor.nat k

theorem GPlan.SameAccounts.lendKept {w r : GPlan} (h : w.SameAccounts r) (c p g : Nat) : GPlan.LendKept c p g w r :=
  ⟨by rw [h.used]; omega, by rw [h.used, h.bor], fun k => State.dcOf_of_prt h.prt k c, fun k _ => by rw [h.used, h.bor]; exact ⟨rfl, rfl⟩⟩

theorem GPlan.LendKept.trans_same {c p g : Nat} {u w r : GPlan} (h : u.SameAccounts w) (h' : GPlan.LendKept c p g w r) : GPlan.LendKept c p g u r := by
  obtain ⟨h1, h2, h3, h4⟩ := h'
  rw [h.used] at h1 h2 h4
  rw [h.bor] at h2 h4
  exact ⟨h1, h2, fun k => (h3 k).trans (State.dcOf_of_prt h.prt k c), h4⟩

theorem GPlan.SameAccounts.lent {w r : GPlan} (h : w.SameAccounts r) {c p g k : Nat} (hu : w.used.nat p + k ≤ g) :
    GPlan.LendKept c p g w { r with used := mset r.used p (r.used.nat p + k), bor := mset r.bor p (r.bor.nat p + k) } := by
  refine ⟨?_, ?_, fun j => State.dcOf_of_prt h.prt j c, fun j hj => ?_⟩
  · rw [Map.nat_mset, if_pos rfl, h.used]
    omega
  · rw [Map.nat_mset, if_pos rfl, Map.nat_mset, if_pos rfl, h.used, h.bor]
    omega
  · rw [Map.nat_mset, if_neg (Ne.symm hj), Map.nat_mset, if_neg (Ne.symm hj), h.used, h.bor]
    exact ⟨rfl, rfl⟩

theorem GPlan.lendPart_kept (c p g : Nat) (l : List Cand) (w : GPlan) : GPlan.LendKept c p g w (w.lendPart c p g l).1 := by
  induction l generalizing w with
  | nil => exact GPlan.SameAccounts.lendKept ⟨rfl, rfl, rfl⟩ c p g
  | cons x l ih =>
    unfold GPlan.lendPart
    extract_lets +onlyGivenNames k
    split
    · exact ih w
    · next hk =>
      simp only [Bool.or_eq_true, decide_eq_true_eq, not_or, gt_iff_lt, Nat.not_lt] at hk
      extract_lets +onlyGivenNames r
      have hr : w.SameAccounts r.1 := w.attempt_same x true
      split
      · exact hr.lent hk.2
      · exact GPlan.LendKept.trans_same hr (ih _)

/-! #### The credit -/

/-- Crediting one partition. -/
def GPlan.credit1 (floors : Map (List Nat)) (c top : Nat) (has : List Nat) (w : GPlan) (p : Nat) : GPlan :=
  { w with s := w.s.setDc p c (if has.contains p then min (w.s.dcOf p c + w.quant floors c p) (w.quant floors c p + top) else 0) }

theorem GPlan.credit_eq (w : GPlan) (floors : Map (List Nat)) (c : Nat) (has : List Nat) :
    w.credit floors c has = (w.s.prt.parts.map (·.1)).foldl (GPlan.credit1 floors c (if c = 2 then 1 else w.s.budget) has) w := by
  rw [List.foldl_map]
  rfl

theorem GPlan.quant_of_budget {v w : GPlan} (h : w.s.budget = v.s.budget) (floors : Map (List Nat)) (c p : Nat) :
    w.quant floors c p = v.quant floors c p := by
  unfold GPlan.quant State.quantum State.capacity
  rw [h]

theorem State.setDc_budget (s : State) (p c v : Nat) : (s.setDc p c v).budget = s.budget := rfl

theorem GPlan.credit1_budget (floors : Map (List Nat)) (c top : Nat) (has : List Nat) (l : List Nat) (w : GPlan) :
    (l.foldl (GPlan.credit1 floors c top has) w).s.budget = w.s.budget := by
  induction l generalizing w with
  | nil => rfl
  | cons p l ih => exact (ih _).trans (State.setDc_budget w.s p c _)

theorem GPlan.credit1_quant (floors : Map (List Nat)) (c top : Nat) (has : List Nat) (l : List Nat) (w : GPlan) (p : Nat) :
    (l.foldl (GPlan.credit1 floors c top has) w).quant floors c p = w.quant floors c p :=
  GPlan.quant_of_budget (GPlan.credit1_budget floors c top has l w) floors c p

theorem GPlan.credit1_other (floors : Map (List Nat)) (c top : Nat) (has : List Nat) {l : List Nat} {p : Nat} (hp : p ∉ l) (w : GPlan) :
    (l.foldl (GPlan.credit1 floors c top has) w).s.part p = w.s.part p := by
  induction l generalizing w with
  | nil => rfl
  | cons k l ih =>
    obtain ⟨hk, hl⟩ := not_or.1 (mt List.mem_cons.2 hp)
    rw [List.foldl_cons, ih hl]
    exact (State.part_setDc _ _ _ _ _).trans (if_neg (Ne.symm hk))

theorem GPlan.credit1_at (floors : Map (List Nat)) (c top : Nat) (has : List Nat) {l : List Nat} (hl : l.Nodup) {p : Nat} (hp : p ∈ l) {w : GPlan} {x : Part}
    (hx : w.s.part p = some x) (hc : c < x.dc.length) :
    (l.foldl (GPlan.credit1 floors c top has) w).s.dcOf p c
      = if has.contains p then min (x.dc.getD c 0 + w.quant floors c p) (w.quant floors c p + top) else 0 := by
  obtain ⟨a, b, rfl⟩ := List.append_of_mem hp
  obtain ⟨-, hb, hd⟩ := List.nodup_append.1 hl
  have ha : p ∉ a := fun h => hd p h p List.mem_cons_self rfl
  have hq := GPlan.credit1_quant floors c top has a w p
  have hpa : (a.foldl (GPlan.credit1 floors c top has) w).s.part p = some x := (GPlan.credit1_other floors c top has ha w).trans hx
  rw [List.foldl_append, List.foldl_cons, State.dcOf_of_part (GPlan.credit1_other floors c top has (List.nodup_cons.1 hb).1 _)]
  refine (State.dcOf_setDc hpa hc _).trans ?_
  rw [hq, State.dcOf, hpa]
  rfl

end Sys2Proof.Machine

/-! ### PROOFS. The passes of a class: what every attempt keeps the class keeps, and where the grants lie (R98, R112, R113, R208) -/

namespace Sys2Proof.Machine

/-! #### The quadrants of the requests -/

/-- The quadrant of the request under these numbers. -/
def State.quadAt (s : State) (r i : Nat) : Option (Option Nat) := (s.req r i).map (·.quad)

theorem State.quadAt_of_rng {s t : State} (h : t.rng = s.rng) : t.quadAt = s.quadAt := by
  funext r i
  unfold State.quadAt State.req
  rw [h]

theorem State.quadAt_onReq (s : State) (r i : Nat) {f : Req → Req} (hf : ∀ q, (f q).ring = q.ring ∧ (f q).idx = q.idx ∧ (f q).quad = q.quad) :
    (s.onReq r i f).quadAt = s.quadAt := by
  funext r' i'
  unfold State.quadAt
  by_cases h : r = r' ∧ i = i'
  · obtain ⟨rfl, rfl⟩ := h
    rw [State.req_onReq _ _ _ _ fun q => ⟨(hf q).1, (hf q).2.1⟩, Option.map_map]
    exact congrArg (fun g => (s.req r i).map g) (funext fun q => (hf q).2.2)
  · rw [State.req_onReq_other s (by omega) f (fun q => (hf q).1) fun q => (hf q).2.1]

theorem State.quadAt_onLink (s : State) (id : LinkId) (f : Link → Link) : (s.onLink id f).quadAt = s.quadAt :=
  State.quadAt_onReq s _ _ fun _ => ⟨rfl, rfl, rfl⟩

theorem State.opsNext_rng (s : State) : s.opsNext.rng = s.rng := by
  unfold State.opsNext
  split <;> rfl

theorem State.ledgerWrite_rng (s : State) (k : Nat × Nat × Nat) (why : LedgerWhy) (v : Nat) (clean : Bool) : (s.ledgerWrite k why v clean).rng = s.rng :=
  State.opsNext_rng _

theorem State.takeCount_quadAt (s : State) (x : Cand) : (s.takeCount x).quadAt = s.quadAt := by
  unfold State.takeCount
  split
  · rfl
  · split
    · rfl
    · split
      · rfl
      · next k _ v _ =>
        extract_lets +onlyGivenNames t
        have ht : t.quadAt = s.quadAt := State.quadAt_onLink s _ _
        exact kept_ite (P := fun z : State => z.quadAt = s.quadAt) ((State.quadAt_of_rng (State.ledgerWrite_rng _ _ _ _ _)).trans ht) ht

theorem State.pin_quadAt (s : State) (id : LinkId) (n : Nat) (pair : Bool) (k : Nat) : (s.pin id n pair k).quadAt = s.quadAt :=
  State.quadAt_onLink _ _ _

theorem State.repack_quadAt (s : State) (id : LinkId) (a : Option (List JElem × Nat)) : (s.repack id a).quadAt = s.quadAt := State.quadAt_onLink _ _ _

theorem State.noteMsgs_quadAt (s : State) (l : List LinkId) : (s.noteMsgs l).quadAt = s.quadAt := by
  unfold State.noteMsgs
  exact foldl_keeps State.quadAt (fun s i => State.quadAt_onLink s i _) _ s

theorem GPlan.noteWaits_quadAt (w : GPlan) (c : Nat) (mine : List Cand) : (w.noteWaits c mine).s.quadAt = w.s.quadAt := by
  unfold GPlan.noteWaits
  extract_lets +onlyGivenNames left s1 s2
  have h : s2.quadAt = w.s.quadAt := foldl_keeps State.quadAt (fun s (x : Cand) => State.quadAt_onLink s x.id _) left s1
  exact kept_ite (P := fun z : State => z.quadAt = w.s.quadAt) h
    (kept_ite (P := fun z : State => z.quadAt = w.s.quadAt) ((State.noteMsgs_quadAt _ _).trans h) h)

/-! #### The traversal of a class -/

theorem State.budget_of_latched {s t : State} (h : s.latched = t.latched) : s.budget = t.budget := congrArg (· - 256) (State.tickLen_of_latched h)

/-- What a predicate of the workspace needs for the passes of a class to keep it. -/
structure GPlan.PassKept (mine : List Cand) (P : GPlan → Prop) : Prop where
  same    : ∀ v w : GPlan, w.s.budget = v.s.budget → w.s.quadAt = v.s.quadAt → w.pos = v.pos → w.wins = v.wins → w.out = v.out → w.done = v.done → P v → P w
  attempt : ∀ (w : GPlan) (x : Cand) (lend : Bool), x ∈ mine → ((mine.map (·.id)).Nodup → x.id ∉ w.done) → P w → P (w.attempt x lend).1
  sealing : ∀ (w : GPlan) (x : Cand), x ∈ mine → x.id ∉ w.done → P w → P (w.trySealed x).1
  bound   : ∀ (w : GPlan) (x : Cand), x ∈ mine → x.id ∉ w.done → P w → P (w.onBound x false).1

/-- From v to w no link is done but, maybe, this one. -/
def GPlan.DoneBy (v w : GPlan) (id : LinkId) : Prop := ∀ i ∈ w.done, i = id ∨ i ∈ v.done

theorem GPlan.fill_done (w : GPlan) (c n : Nat) (pair : Bool) (k : Nat) : (w.fill c n pair k).2.2.done = w.done := by
  unfold GPlan.fill
  extract_lets +onlyGivenNames h
  split
  · extract_lets +onlyGivenNames d
    split <;> rfl
  · split <;> rfl

theorem GPlan.add_doneBy {v w : GPlan} (h : w.done = v.done) (x : Cand) (g : Grant) : v.DoneBy (w.add x g) x.id :=
  fun _ hi => (List.mem_cons.1 hi).imp id fun hi => h ▸ hi

theorem GPlan.doneBy_of_eq {v w : GPlan} (h : w.done = v.done) (id : LinkId) : v.DoneBy w id := fun _ hi => .inr (h ▸ hi)

theorem GPlan.attempt_done (w : GPlan) (x : Cand) (lend : Bool) : w.DoneBy (w.attempt x lend).1 x.id := by
  unfold GPlan.attempt
  split
  · unfold GPlan.tryLane
    extract_lets +onlyGivenNames pair
    split
    · exact GPlan.doneBy_of_eq rfl _
    · split
      · exact GPlan.doneBy_of_eq rfl _
      · exact fun _ hi => List.mem_cons.1 hi
      · exact GPlan.add_doneBy (v := w) (GPlan.fill_done { w with s := w.s.takeCount x } 0 _ pair x.cost) x _
  · split
    · unfold GPlan.tryMacu
      split
      · exact GPlan.doneBy_of_eq rfl _
      · split
        · exact GPlan.doneBy_of_eq rfl _
        · extract_lets +onlyGivenNames w'
          have hw : w'.done = w.done := by
            unfold w'
            split <;> rfl
          exact GPlan.add_doneBy ((GPlan.fill_done w' _ _ _ _).trans hw) x _
    · unfold GPlan.tryEngine
      split
      · exact GPlan.doneBy_of_eq rfl _
      · split
        · exact GPlan.doneBy_of_eq rfl _
        · next n m h =>
          unfold GPlan.onEngines
          cases m with
          | none => exact fun _ hi => List.mem_cons.1 hi
          | some k => exact fun _ hi => List.mem_cons.1 hi

namespace GPlan.PassKept

variable {mine : List Cand} {P : GPlan → Prop} (h : GPlan.PassKept mine P)

include h

theorem accounts {w : GPlan} (used bor : Map Nat) (hw : P w) : P { w with used := used, bor := bor } := h.same w _ rfl rfl rfl rfl rfl rfl hw

theorem floorPart (c p g : Nat) (l : List Cand) {w : GPlan} (hl : ∀ x ∈ l, x ∈ mine)
    (hd : (mine.map (·.id)).Nodup → (l.map (·.id)).Nodup ∧ ∀ x ∈ l, x.id ∉ w.done) (hw : P w) : P (w.floorPart c p g l) := by
  induction l generalizing w with
  | nil => exact hw
  | cons x l ih =>
    have hx : x ∈ mine := hl x List.mem_cons_self
    have hl' : ∀ y ∈ l, y ∈ mine := fun y hy => hl y (List.mem_cons_of_mem x hy)
    unfold GPlan.floorPart
    extract_lets +onlyGivenNames k
    split
    · exact hw
    · extract_lets +onlyGivenNames r
      have hr : P r.1 := h.attempt w x false hx (fun hm => (hd hm).2 x List.mem_cons_self) hw
      have hd' : (mine.map (·.id)).Nodup → (l.map (·.id)).Nodup ∧ ∀ y ∈ l, y.id ∉ r.1.done := fun hm => by
        obtain ⟨hn, ho⟩ := hd hm
        obtain ⟨hxl, hn⟩ := List.nodup_cons.1 hn
        refine ⟨hn, fun y hy hi => ?_⟩
        rcases w.attempt_done x false _ hi with he | hi
        · exact hxl (List.mem_map.2 ⟨y, hy, he⟩)
        · exact ho y (List.mem_cons_of_mem x hy) hi
      split
      · refine ih hl' hd' (h.same r.1 _ ?_ rfl rfl rfl rfl rfl hr)
        exact State.setDc_budget r.1.s p c _
      · exact ih hl' hd' hr

theorem lendPart (c p g : Nat) (l : List Cand) {w : GPlan} (hl : ∀ x ∈ l, x ∈ mine) (hw : P w) : P (w.lendPart c p g l).1 := by
  induction l generalizing w with
  | nil => exact hw
  | cons x l ih =>
    have hl' : ∀ y ∈ l, y ∈ mine := fun y hy => hl y (List.mem_cons_of_mem x hy)
    unfold GPlan.lendPart
    extract_lets +onlyGivenNames k
    split
    · exact ih hl' hw
    · next hk =>
      simp only [Bool.or_eq_true, List.contains_eq_mem, decide_eq_true_eq, not_or] at hk
      extract_lets +onlyGivenNames r
      have hr : P r.1 := h.attempt w x true (hl x List.mem_cons_self) (fun _ => hk.1) hw
      split
      · exact h.accounts _ _ hr
      · exact ih hl' hr

theorem lend (c : Nat) {work : List (Nat × List Cand)} (hwork : ∀ y ∈ work, ∀ x ∈ y.2, x ∈ mine) (n : Nat) {w : GPlan} (hw : P w) : P (GPlan.lend c work n w) := by
  induction n generalizing w with
  | zero => exact hw
  | succ n ih =>
    unfold GPlan.lend
    extract_lets +onlyGivenNames r
    have hr : P r.1 := List.foldlRecOn work _ (motive := fun a : GPlan × Bool => P a.1) hw fun a ha y hy => h.lendPart c y.1 _ y.2 (hwork y hy) ha
    split
    · exact ih hr
    · exact hr

theorem lendPass (c : Nat) {work : List (Nat × List Cand)} (hwork : ∀ y ∈ work, ∀ x ∈ y.2, x ∈ mine) (n : Nat) {w : GPlan} (hw : P w) :
    P (w.lendPass c work n) := by
  unfold GPlan.lendPass
  extract_lets +onlyGivenNames before w'
  have hw' : P w' := h.lend c hwork n hw
  exact kept_ite P (h.same w' _ rfl rfl rfl rfl rfl rfl hw') hw'

theorem floorPass (c : Nat) {work : List (Nat × List Cand)} (hwork : ∀ y ∈ work, y.2.Sublist mine) {w : GPlan} (hw : P w) : P (w.floorPass c work) := by
  unfold GPlan.floorPass
  refine List.foldlRecOn work _ (motive := P) hw fun w hw y hy => ?_
  have hs : (y.2.filter fun x => !w.done.contains x.id).Sublist mine := List.filter_sublist.trans (hwork y hy)
  refine h.floorPart c y.1 _ _ (fun x hx => hs.subset hx) (fun hm => ⟨hm.sublist (hs.map _), fun x hx => ?_⟩) hw
  simpa using (List.mem_filter.1 hx).2

theorem sealedPass {w : GPlan} (hw : P w) : P (w.sealedPass mine) := by
  unfold GPlan.sealedPass
  refine List.foldlRecOn _ _ (motive := P) hw fun w hw p _ => ?_
  refine List.foldlRecOn _ _ (motive := P) hw fun w hw x hx => ?_
  split
  · exact hw
  · next hd => exact h.sealing w x (List.mem_filter.1 hx).1 (by simpa using hd) hw

theorem boundPass {w : GPlan} (hw : P w) : P (w.boundPass mine) := by
  unfold GPlan.boundPass
  refine List.foldlRecOn _ _ (motive := P) hw fun w hw e _ => ?_
  split
  · exact hw
  · next id he =>
    extract_lets +onlyGivenNames ends w'
    have hw' : P w' := kept_ite P hw (h.accounts _ w.bor hw)
    split
    · exact hw'
    · next x hx =>
      have hp := List.find?_some hx
      simp only [Bool.and_eq_true, beq_iff_eq, Bool.not_eq_true', List.contains_eq_mem, decide_eq_false_iff_not] at hp
      obtain ⟨⟨rfl, -⟩, hd⟩ := hp
      exact h.bound w' x (List.mem_of_find?_eq_some hx) hd hw'

theorem credit (floors : Map (List Nat)) (c : Nat) (has : List Nat) {w : GPlan} (hw : P w) : P (w.credit floors c has) := by
  rw [GPlan.credit_eq]
  refine List.foldlRecOn _ _ (motive := P) hw fun w hw p _ => h.same w _ ?_ rfl rfl rfl rfl rfl hw
  exact State.setDc_budget w.s p c _

theorem noteWaits (c : Nat) {w : GPlan} (hw : P w) : P (w.noteWaits c mine) :=
  h.same w _ (State.budget_of_latched (GPlan.noteWaits_latched w c mine)) (GPlan.noteWaits_quadAt w c mine) rfl rfl rfl rfl hw

end GPlan.PassKept

/-- The candidates of a class, in service order. -/
def GPlan.served (w : GPlan) (cands : List Cand) (c : Nat) : List Cand := serviceOrder w.s.sch.tick (cands.filter fun x => x.cls == c)

theorem GPlan.block_s (w : GPlan) (c : Nat) (x : Win) : (w.block c x).s = w.s := by
  unfold GPlan.block
  dsimp only
  split
  · rfl
  · split <;> rfl

theorem GPlan.begin_s (w : GPlan) (c : Nat) : (w.begin c).s = w.s := by
  unfold GPlan.begin
  exact foldl_keeps (fun w : GPlan => w.s) (fun w x => w.block_s c x) _ _

/-- A class keeps what its passes keep. -/
theorem GPlan.PassKept.runClass {w : GPlan} {cands : List Cand} {c : Nat} {P : GPlan → Prop} (h : GPlan.PassKept (w.served cands c) P)
    (floors : Map (List Nat)) (hw : P (w.begin c)) : P (w.runClass cands floors c) := by
  unfold GPlan.runClass
  extract_lets +onlyGivenNames w1 mine
  have hm : mine = w.served cands c := by
    unfold mine w1 GPlan.served
    rw [GPlan.begin_s]
  clear_value mine
  subst hm
  extract_lets +onlyGivenNames isSeal has w2 w3 order work
  have h2 : P w2 := h.sealedPass hw
  have h3 : P w3 := h.credit floors c has (kept_ite P (h.boundPass h2) h2)
  have hwork : ∀ y ∈ work, y.2.Sublist (w.served cands c) := by
    intro y hy
    obtain ⟨p, -, rfl⟩ := List.mem_map.1 hy
    exact List.filter_sublist
  exact h.noteWaits c (h.lendPass c (fun y hy x hx => (hwork y hy).subset hx) _ (h.floorPass c hwork h3))

end Sys2Proof.Machine

/-! ### PROOFS. Where the grants of a cut lie: within the budget and one after another (R98, R112, R113, R208) -/

namespace Sys2Proof.Machine

/-! #### What a grant keeps -/

/-- Outside the windows the grant ends within the budget, a batch of a pair within its half (R98, R113, R208). -/
def Grant.InBudget (b : Nat) (g : Grant) : Prop := g.win = false → 0 < g.cost →
  (∀ n, g.unit = .lane n → g.start + g.cost ≤ b)
  ∧ ∀ n, g.unit = .macu n → (g.pair = false → g.start + g.cost ≤ b) ∧ (g.pair = true → g.odd = false → g.start + g.cost ≤ b / 2)
    ∧ (g.pair = true → g.odd = true → g.start + g.cost ≤ b - b / 2)

/-- Of two grants of a set the later one begins, on a lane or single MACU, after the end of the earlier (R112, R113). -/
def Grant.Ahead (g h : Grant) : Prop :=
  (∀ n, g.onLane n → h.onLane n → h.win = false → g.start + g.cost ≤ h.start)
  ∧ ∀ n, g.unit = .macu n → h.unit = .macu n → g.win = false → h.win = false → g.pair = false → h.pair = false → g.start + g.cost ≤ h.start

/-- The clocks taken on the units of the class cover the grant. -/
def Grant.EndsBy (c : Nat) (pos : Map Nat) (g : Grant) : Prop :=
  (c = 0 → ∀ n, g.onLane n → g.start + g.cost ≤ pos.nat n)
  ∧ (c = 1 → ∀ n, g.unit = .macu n → g.win = false → g.pair = false → g.start + g.cost ≤ pos.nat n)

/-- A grant outside the windows begins after the clocks taken. -/
def Grant.After (c : Nat) (pos : Map Nat) (g : Grant) : Prop := g.win = false →
  (∀ n, g.onLane n → c = 0 ∧ pos.nat n ≤ g.start) ∧ ∀ n, g.unit = .macu n → g.pair = false → c = 1 ∧ pos.nat n ≤ g.start

/-- The clocks taken cover the window. -/
def Win.BlockedIn (pos : Map Nat) (v : Win) : Prop := v.start + v.len ≤ pos.nat v.unit ∧ (v.pair = true → v.start + v.len ≤ pos.nat (v.unit + 1))

/-- The grants so far lie in the budget and one after another, and the clocks taken cover those of the class at hand. -/
structure GPlan.Placed (b c : Nat) (w : GPlan) : Prop where
  budget : w.s.budget = b
  fits   : ∀ g ∈ w.out, g.InBudget b
  order  : w.out.Pairwise Grant.Ahead
  macus  : ∀ g ∈ w.out, ∀ n, g.unit = .macu n → c ≠ 0
  ends   : ∀ g ∈ w.out, g.EndsBy c w.pos
  wins   : c = 0 → ∀ v ∈ w.wins, v.BlockedIn w.pos

theorem Grant.EndsBy.mono {c : Nat} {p q : Map Nat} {g : Grant} (h : g.EndsBy c p) (hq : ∀ n, p.nat n ≤ q.nat n) : g.EndsBy c q :=
  ⟨fun hc n hn => (h.1 hc n hn).trans (hq n), fun hc n hn hw hp => (h.2 hc n hn hw hp).trans (hq n)⟩

theorem Win.BlockedIn.mono {p q : Map Nat} {v : Win} (h : v.BlockedIn p) (hq : ∀ n, p.nat n ≤ q.nat n) : v.BlockedIn q :=
  ⟨h.1.trans (hq _), fun hp => (h.2 hp).trans (hq _)⟩

theorem Grant.EndsBy.ahead {c : Nat} {p : Map Nat} {g h : Grant} (hg : g.EndsBy c p) (hh : h.After c p) : g.Ahead h := by
  refine ⟨fun n h1 h2 hw => ?_, fun n h1 h2 gw hw gp hp => ?_⟩
  · obtain ⟨hc, hs⟩ := (hh hw).1 n h2
    exact (hg.1 hc n h1).trans hs
  · obtain ⟨hc, hs⟩ := (hh hw).2 n h2 hp
    exact (hg.2 hc n h1 gw gp).trans hs

section Placed

variable {b c : Nat} {v w : GPlan}

theorem GPlan.Placed.same (h : v.Placed b c) (hb : w.s.budget = v.s.budget) (hp : w.pos = v.pos) (hw : w.wins = v.wins) (ho : w.out = v.out) : w.Placed b c := by
  obtain ⟨h1, h2, h3, h4, h5, h6⟩ := h
  exact ⟨hb.trans h1, ho ▸ h2, ho ▸ h3, ho ▸ h4, by rw [ho, hp]; exact h5, by rw [hw, hp]; exact h6⟩

/-- One grant more. -/
theorem GPlan.Placed.push (h : v.Placed b c) {g : Grant} (hb : w.s.budget = b) (ho : w.out = v.out ++ [g]) (hp : ∀ n, v.pos.nat n ≤ w.pos.nat n)
    (hw : w.wins = v.wins) (hfit : g.InBudget b) (haft : g.After c v.pos) (hm : ∀ n, g.unit = .macu n → c ≠ 0) (hend : g.EndsBy c w.pos) : w.Placed b c := by
  have hall : ∀ {Q : Grant → Prop}, (∀ x ∈ v.out, Q x) → Q g → ∀ x ∈ w.out, Q x := fun h1 h2 x hx => by
    rw [ho, List.mem_append, List.mem_singleton] at hx
    rcases hx with hx | rfl
    · exact h1 x hx
    · exact h2
  refine ⟨hb, hall h.fits hfit, ?_, hall h.macus hm, hall (fun x hx => (h.ends x hx).mono hp) hend, fun hc x hx => ((h.wins hc) x (hw ▸ hx)).mono hp⟩
  rw [ho]
  refine List.pairwise_append.2 ⟨h.order, List.pairwise_singleton _ _, fun x hx y hy => ?_⟩
  obtain rfl := List.mem_singleton.1 hy
  exact (h.ends x hx).ahead haft

/-- A grant on an engine has no place among the clocks. -/
theorem GPlan.Placed.push_engine (h : v.Placed b c) {g : Grant} (hb : w.s.budget = v.s.budget) (hp : w.pos = v.pos) (hw : w.wins = v.wins) (ho : w.out = v.out ++ [g])
    (hu : ∃ n, g.unit = .engine n) : w.Placed b c := by
  obtain ⟨n, hu⟩ := hu
  have hl : ∀ m, ¬ g.onLane m := fun m hm => by
    rcases hm with hm | ⟨-, k, hm, -⟩
    · exact UnitId.noConfusion (hu.symm.trans hm)
    · exact UnitId.noConfusion (hu.symm.trans hm)
  refine h.push (hb.trans h.budget) ho (fun m => hp ▸ le_rfl) hw ?_ ?_ ?_ ?_
  · exact fun _ _ => ⟨fun m hm => by simp [hu] at hm, fun m hm => by simp [hu] at hm⟩
  · exact fun _ => ⟨fun m hm => absurd hm (hl m), fun m hm => by simp [hu] at hm⟩
  · exact fun m hm => by simp [hu] at hm
  · exact ⟨fun _ m hm => absurd hm (hl m), fun _ m hm => by simp [hu] at hm⟩

end Placed

/-! #### Room -/

theorem mostRoom_mem {k : Nat} {l : List (Nat × Nat)} {n : Nat} (h : mostRoom k l = some n) : ∃ r, (n, r) ∈ l ∧ k ≤ r := by
  unfold mostRoom at h
  obtain ⟨⟨m, r⟩, hx, rfl⟩ := Option.map_eq_some_iff.1 h
  have hinv : ∀ y, (l.foldl (fun (a : Option (Nat × Nat)) x => if x.2 < k then a else match a with
      | none => some x
      | some y => if y.2 < x.2 then some x else some y) none) = some y → y ∈ l ∧ k ≤ y.2 := by
    refine List.foldlRecOn l _ (motive := fun a : Option (Nat × Nat) => ∀ y, a = some y → y ∈ l ∧ k ≤ y.2) (fun y hy => nomatch hy) fun a ha x hx y hy => ?_
    split at hy
    · exact ha y hy
    · next hk =>
      split at hy
      · obtain rfl := Option.some.inj hy
        exact ⟨hx, Nat.le_of_not_lt hk⟩
      · next z =>
        split at hy
        · obtain rfl := Option.some.inj hy
          exact ⟨hx, Nat.le_of_not_lt hk⟩
        · exact ha y hy
  obtain ⟨h1, h2⟩ := hinv _ hx
  exact ⟨r, h1, h2⟩

theorem GPlan.laneFor_room {w : GPlan} {x : Cand} {pair : Bool} {n : Nat} (h : w.laneFor x pair = some n) :
    n ∈ w.unitsFor x 0 pair (fun _ => true) ∧ x.cost ≤ w.room 0 n pair := by
  obtain ⟨r, hm, hr⟩ := mostRoom_mem h
  obtain ⟨m, hu, he⟩ := List.mem_map.1 hm
  obtain ⟨rfl, rfl⟩ := Prod.mk.inj he
  exact ⟨hu, hr⟩

theorem GPlan.macuFor_room {w : GPlan} {x : Cand} {j : Job} {n : Nat} (h : w.macuFor x j = some n) : x.cost ≤ w.room 1 n j.dual := by
  obtain ⟨r, hm, hr⟩ := mostRoom_mem h
  obtain ⟨m, hu, he⟩ := List.mem_map.1 hm
  obtain ⟨rfl, rfl⟩ := Prod.mk.inj he
  exact hr

theorem GPlan.room_congr {v w : GPlan} (hb : w.s.budget = v.s.budget) (hp : w.pos = v.pos) (hu : w.use = v.use) (ht : w.two = v.two) (c n : Nat) (pair : Bool) :
    w.room c n pair = v.room c n pair := by
  unfold GPlan.room GPlan.duo
  rw [hb, hp, hu, ht]

theorem State.takeCount_budget (s : State) (x : Cand) : (s.takeCount x).budget = s.budget := State.budget_of_latched (State.takeCount_latched s x)

/-! #### The clocks on lanes -/

theorem Grant.onLane_iff {g : Grant} {n m : Nat} (hu : g.unit = .lane n) : g.onLane m ↔ m = n ∨ g.pair = true ∧ m = n + 1 := by
  unfold Grant.onLane
  rw [hu]
  constructor
  · rintro (h | ⟨hp, k, h, rfl⟩)
    · exact .inl (UnitId.lane.inj h).symm
    · exact .inr ⟨hp, congrArg (· + 1) (UnitId.lane.inj h).symm⟩
  · rintro (rfl | ⟨hp, rfl⟩)
    · exact .inl rfl
    · exact .inr ⟨hp, n, rfl, rfl⟩

/-- Clocks on a lane or a pair begin after all that are taken there. -/
structure GPlan.LaneFill (w : GPlan) (n : Nat) (pair : Bool) (k : Nat) (f : Nat × Bool × GPlan) : Prop where
  s     : f.2.2.s = w.s
  out   : f.2.2.out = w.out
  wins  : f.2.2.wins = w.wins
  pos   : ∀ m, w.pos.nat m ≤ f.2.2.pos.nat m
  start : ∀ m, m = n ∨ pair = true ∧ m = n + 1 → w.pos.nat m ≤ f.1 ∧ f.1 + k ≤ f.2.2.pos.nat m
  room  : 0 < k → k ≤ w.room 0 n pair → f.1 + k ≤ w.s.budget

theorem GPlan.fill_lane (w : GPlan) (n : Nat) (pair : Bool) (k : Nat) : w.LaneFill n pair k (w.fill 0 n pair k) := by
  unfold GPlan.fill
  cases pair with
  | false =>
    refine ⟨rfl, rfl, rfl, fun m => ?_, fun m hm => ?_, fun h0 hk => ?_⟩
    · simp only [zero_ne_one, false_and, if_false, Bool.false_eq_true, Map.nat_mset]
      split
      · next e => subst e; omega
      · exact le_rfl
    · obtain rfl : m = n := by simpa using hm
      simp [Map.nat_mset]
    · simp only [GPlan.room, zero_ne_one, false_and, if_false, Bool.false_eq_true] at hk ⊢
      omega
  | true =>
    refine ⟨rfl, rfl, rfl, fun m => ?_, fun m hm => ?_, fun h0 hk => ?_⟩
    · simp only [zero_ne_one, false_and, if_false, if_true, Map.nat_mset]
      split
      · next e => subst e; omega
      · split
        · next e => subst e; omega
        · exact le_rfl
    · simp only [zero_ne_one, false_and, if_false, if_true, Map.nat_mset]
      rcases hm with rfl | ⟨-, rfl⟩
      · simp
      · simp
    · simp only [GPlan.room, zero_ne_one, false_and, if_false, if_true] at hk ⊢
      omega

section Attempts

variable {b : Nat} {w : GPlan}

theorem GPlan.Placed.tryLane (h : w.Placed b 0) (x : Cand) (lend : Bool) : (w.tryLane x lend).1.Placed b 0 := by
  unfold GPlan.tryLane
  extract_lets +onlyGivenNames pair
  split
  · exact h.same rfl rfl rfl rfl
  · next n hn =>
    split
    · exact h.same (State.budget_of_latched (GPlan.keyHold_latched w x)) rfl rfl rfl
    · exact h.same (State.budget_of_latched (GPlan.keyOut_latched w x)) rfl rfl rfl
    · extract_lets +onlyGivenNames w' f
      have hf : w'.LaneFill n pair x.cost f := w'.fill_lane n pair x.cost
      have hb : w'.s.budget = b := (State.takeCount_budget w.s x).trans h.budget
      have hr : x.cost ≤ w'.room 0 n pair :=
        (GPlan.laneFor_room hn).2.trans (GPlan.room_congr (hb.trans h.budget.symm) rfl rfl rfl 0 n pair).ge
      refine GPlan.Placed.push h (g := x.grant (.lane n) pair f.1 false lend) ?_ ?_ hf.pos hf.wins ?_ ?_ ?_ ?_
      · exact (State.budget_of_latched (GPlan.add_latched _ _ _)).trans ((congrArg State.budget hf.s).trans hb)
      · exact congrArg (· ++ _) hf.out
      · exact fun _ h0 => ⟨fun _ _ => (hf.room h0 hr).trans hb.le, fun m hm => UnitId.noConfusion hm⟩
      · exact fun _ => ⟨fun m hm => ⟨rfl, (hf.start m ((Grant.onLane_iff rfl).1 hm)).1⟩, fun m hm => UnitId.noConfusion hm⟩
      · exact fun m hm => UnitId.noConfusion hm
      · exact ⟨fun _ m hm => (hf.start m ((Grant.onLane_iff rfl).1 hm)).2, fun h1 => absurd h1 (by decide)⟩

/-! #### The clocks on MACUs -/

theorem GPlan.duo_bounds (w : GPlan) (n : Nat) : w.pos.nat n ≤ (w.duo n).1 ∧ w.s.budget / 2 ≤ (w.duo n).2 := by
  unfold GPlan.duo
  dsimp only
  split <;> exact ⟨by omega, by omega⟩

/-- Clocks on a MACU begin after all that are taken there; those on a pair lie in its slot's half (R113, R208). -/
structure GPlan.MacuFill (w : GPlan) (n : Nat) (pair : Bool) (k : Nat) (f : Nat × Bool × GPlan) : Prop where
  s     : f.2.2.s = w.s
  out   : f.2.2.out = w.out
  wins  : f.2.2.wins = w.wins
  pos   : ∀ m, w.pos.nat m ≤ f.2.2.pos.nat m
  start : pair = false → w.pos.nat n ≤ f.1 ∧ f.1 + k ≤ f.2.2.pos.nat n
  room  : 0 < k → k ≤ w.room 1 n pair → (pair = false → f.1 + k ≤ w.s.budget) ∧ (pair = true → f.2.1 = false → f.1 + k ≤ w.s.budget / 2)
    ∧ (pair = true → f.2.1 = true → f.1 + k ≤ w.s.budget - w.s.budget / 2)

theorem GPlan.fill_macu (w : GPlan) (n : Nat) (pair : Bool) (k : Nat) : w.MacuFill n pair k (w.fill 1 n pair k) := by
  obtain ⟨hd1, hd2⟩ := w.duo_bounds n
  unfold GPlan.fill
  cases pair with
  | false =>
    refine ⟨rfl, rfl, rfl, fun m => ?_, fun _ => ?_, fun h0 hk => ⟨fun _ => ?_, nofun, nofun⟩⟩
    · simp only [Bool.false_eq_true, and_false, if_false, Map.nat_mset]
      split
      · next e => subst e; omega
      · exact le_rfl
    · simp [Map.nat_mset]
    · simp only [GPlan.room, Bool.false_eq_true, and_false, if_false, if_true] at hk ⊢
      split at hk
      · omega
      · omega
  | true =>
    simp only [and_self, if_true]
    split
    · next hh =>
      refine ⟨rfl, rfl, rfl, fun m => ?_, nofun, fun h0 hk => ⟨nofun, fun _ _ => hh, nofun⟩⟩
      simp only [Map.nat_mset]
      split
      · next e => subst e; omega
      · exact le_rfl
    · next hh =>
      refine ⟨rfl, rfl, rfl, fun m => ?_, nofun, fun h0 hk => ⟨nofun, nofun, fun _ _ => ?_⟩⟩
      · simp only [Map.nat_mset]
        split
        · next e => subst e; omega
        · exact le_rfl
      · simp only [GPlan.room, if_true] at hk
        split at hk
        · omega
        · dsimp only
          omega

theorem State.pin_budget (s : State) (id : LinkId) (n : Nat) (pair : Bool) (k : Nat) : (s.pin id n pair k).budget = s.budget :=
  State.budget_of_latched (State.pin_latched s id n pair k)

theorem GPlan.Placed.tryMacu (h : w.Placed b 1) (x : Cand) (lend : Bool) : (w.tryMacu x lend).1.Placed b 1 := by
  unfold GPlan.tryMacu
  split
  · exact h
  · next j hj =>
    split
    · exact h.same rfl rfl rfl rfl
    · next n hn =>
      extract_lets +onlyGivenNames w' f
      have hw : w'.s.budget = b ∧ w'.pos = w.pos ∧ w'.use = w.use ∧ w'.two = w.two ∧ w'.out = w.out ∧ w'.wins = w.wins := by
        unfold w'
        split
        · exact ⟨h.budget, rfl, rfl, rfl, rfl, rfl⟩
        · exact ⟨(State.pin_budget _ _ _ _ _).trans h.budget, rfl, rfl, rfl, rfl, rfl⟩
      obtain ⟨hb, hp, hu, ht, ho, hs⟩ := hw
      have hf : w'.MacuFill n j.dual x.cost f := w'.fill_macu n j.dual x.cost
      have hr : x.cost ≤ w'.room 1 n j.dual :=
        (GPlan.macuFor_room hn).trans (GPlan.room_congr (hb.trans h.budget.symm) hp hu ht 1 n j.dual).ge
      have hroom := fun h0 : 0 < x.cost => hf.room h0 hr
      rw [hb] at hroom
      have hpos := hf.pos
      have hstart := hf.start
      rw [hp] at hpos hstart
      refine GPlan.Placed.push h (g := { x.grant (.macu n) j.dual f.1 false lend with odd := f.2.1 }) ?_ ?_ hpos (hf.wins.trans hs) ?_ ?_ ?_ ?_
      · exact (State.budget_of_latched (GPlan.add_latched _ _ _)).trans ((congrArg State.budget hf.s).trans hb)
      · exact congrArg (· ++ _) (hf.out.trans ho)
      · exact fun _ h0 => ⟨fun m hm => UnitId.noConfusion hm, fun _ _ => hroom h0⟩
      · refine fun _ => ⟨fun m hm => ?_, fun m hm hpair => ?_⟩
        · rcases hm with hm | ⟨-, k, hm, -⟩
          · exact UnitId.noConfusion hm
          · exact UnitId.noConfusion hm
        · obtain rfl := UnitId.macu.inj hm
          exact ⟨rfl, (hstart hpair).1⟩
      · exact fun _ _ => by decide
      · refine ⟨fun h0 => absurd h0 (by decide), fun _ m hm _ hpair => ?_⟩
        obtain rfl := UnitId.macu.inj hm
        exact (hstart hpair).2

/-! #### Engines -/

variable {c : Nat}

theorem GPlan.Placed.onEngines (h : w.Placed b c) (x : Cand) {g : Grant} (hg : ∃ n, g.unit = .engine n) (m : Option Nat) :
    (w.onEngines x g m).Placed b c := by
  have ha : (w.add x g).Placed b c := h.push_engine (State.budget_of_latched (GPlan.add_latched w x g)) rfl rfl rfl hg
  unfold GPlan.onEngines
  cases m with
  | none => exact ha
  | some k => exact ha.push_engine (g := { g with unit := .engine k, follow := true }) rfl rfl rfl rfl ⟨k, rfl⟩

theorem GPlan.Placed.tryEngine (h : w.Placed b c) (x : Cand) (win lend : Bool) : (w.tryEngine x win lend).1.Placed b c := by
  unfold GPlan.tryEngine
  split
  · exact h
  · split
    · exact h.same rfl rfl rfl rfl
    · next n m hm => exact (h.onEngines x ⟨n, rfl⟩ m).same rfl rfl rfl rfl

theorem GPlan.Placed.onBound (h : w.Placed b c) (x : Cand) (win : Bool) : (w.onBound x win).1.Placed b c := by
  unfold GPlan.onBound
  split
  · exact h
  · next n l hl =>
    split
    · exact h.onEngines x ⟨n, rfl⟩ _
    · exact h

theorem GPlan.Placed.attempt (h : w.Placed b c) {x : Cand} (hx : x.cls = c) (lend : Bool) : (w.attempt x lend).1.Placed b c := by
  unfold GPlan.attempt
  split
  · next h0 =>
    obtain rfl : c = 0 := hx.symm.trans h0
    exact h.tryLane x lend
  · split
    · next h1 =>
      obtain rfl : c = 1 := hx.symm.trans h1
      exact h.tryMacu x lend
    · exact h.tryEngine x false lend

end Attempts

end Sys2Proof.Machine

/-! ### PROOFS. The windows of a cut, and the grant set's clocks (R98, R112, R113, R117, R307) -/

namespace Sys2Proof.Machine

/-! #### Windows -/

theorem Map.nat_raise (m : Map Nat) (k v j : Nat) : m.nat j ≤ Map.nat (mset m k (max (m.nat k) v)) j ∧ v ≤ Map.nat (mset m k (max (m.nat k) v)) k := by
  rw [Map.nat_mset, Map.nat_mset, if_pos rfl]
  split
  · next e => subst e; omega
  · omega

theorem GPlan.block_out (w : GPlan) (c : Nat) (x : Win) : (w.block c x).out = w.out ∧ (w.block c x).wins = w.wins ∧ (w.block c x).done = w.done := by
  unfold GPlan.block
  dsimp only
  split
  · exact ⟨rfl, rfl, rfl⟩
  · split <;> exact ⟨rfl, rfl, rfl⟩

theorem GPlan.block_pos (w : GPlan) (c : Nat) (x : Win) (m : Nat) : w.pos.nat m ≤ (w.block c x).pos.nat m := by
  unfold GPlan.block
  dsimp only
  split
  · exact (Map.nat_raise _ _ _ m).1
  · split
    · exact (Map.nat_raise _ _ _ m).1.trans (Map.nat_raise _ _ _ m).1
    · exact (Map.nat_raise _ _ _ m).1

theorem GPlan.block_blocked (w : GPlan) (x : Win) : x.BlockedIn (w.block 0 x).pos := by
  unfold GPlan.block
  simp only [zero_ne_one, false_and, if_false]
  split
  · exact ⟨(Map.nat_raise w.pos x.unit _ 0).2.trans (Map.nat_raise _ _ _ _).1, fun _ => (Map.nat_raise _ _ _ 0).2⟩
  · next hp => exact ⟨(Map.nat_raise _ _ _ 0).2, fun h => absurd h hp⟩

theorem GPlan.blocks_pos (c : Nat) (l : List Win) (w : GPlan) (m : Nat) : w.pos.nat m ≤ (l.foldl (fun w x => w.block c x) w).pos.nat m := by
  induction l generalizing w with
  | nil => exact le_rfl
  | cons x l ih => exact (w.block_pos c x m).trans (ih _)

theorem GPlan.blocks_blocked {l : List Win} {x : Win} (hx : x ∈ l) (w : GPlan) : x.BlockedIn (l.foldl (fun w x => w.block 0 x) w).pos := by
  obtain ⟨a, t, rfl⟩ := List.append_of_mem hx
  rw [List.foldl_append, List.foldl_cons]
  exact (GPlan.block_blocked _ x).mono (GPlan.blocks_pos 0 t _)

/-- A fit in a window ends within it. -/
theorem GPlan.winStart_le {w : GPlan} {c : Nat} {v : Win} {k p : Nat} (h : w.winStart c v k = some p) : p + k ≤ v.start + v.len := by
  unfold GPlan.winStart at h
  extract_lets +onlyGivenNames h' p' p'' at h
  clear_value p''
  split at h
  · next hle => exact Option.some.inj h ▸ hle
  · exact nomatch h

/-- The window chosen is the partition's, lies where the request may run, and takes the segment. -/
theorem GPlan.pickWin_some {w : GPlan} {x : Cand} {ok : Win → Bool} {v : Win} (h : w.pickWin x ok = some v) :
    v ∈ w.wins ∧ w.quadOk x (v.unit / perQuad x.cls) = true ∧ ∃ p, w.winStart x.cls v (x.costIn v) = some p := by
  unfold GPlan.pickWin at h
  extract_lets +onlyGivenNames l at h
  have hinv : v ∈ l := by
    revert h
    suffices hs : ∀ o : Option Win, (∀ y, o = some y → y ∈ l) → ∀ t : List Win, (∀ y ∈ t, y ∈ l) → ∀ y, (t.foldl (fun (a : Option Win) v => match a with
        | none => some v
        | some y =>
          let r := v.len - v.used
          let z := y.len - y.used
          if z < r || (z == r && v.unit < y.unit) then some v else some y) o) = some y → y ∈ l from
      fun h => hs none (fun y hy => nomatch hy) l (fun y hy => hy) v h
    intro o ho t ht
    refine List.foldlRecOn t _ (motive := fun a : Option Win => ∀ y, a = some y → y ∈ l) ho fun a ha x hx y hy => ?_
    dsimp only at hy
    split at hy
    · exact Option.some.inj hy ▸ ht x hx
    · next z =>
      split at hy
      · exact Option.some.inj hy ▸ ht x hx
      · exact ha y hy
  obtain ⟨hw, hp⟩ := List.mem_filter.1 hinv
  simp only [Bool.and_eq_true, Option.isSome_iff_exists] at hp
  obtain ⟨⟨⟨-, hq⟩, -⟩, hs⟩ := hp
  exact ⟨hw, hq, hs⟩

section Windows

variable {b c : Nat} {w : GPlan}

theorem GPlan.Placed.block (h : w.Placed b c) (x : Win) : (w.block c x).Placed b c := by
  obtain ⟨ho, hw, -⟩ := w.block_out c x
  obtain ⟨h1, h2, h3, h4, h5, h6⟩ := h
  exact ⟨(congrArg State.budget (w.block_s c x)).trans h1, ho ▸ h2, ho ▸ h3, ho ▸ h4, fun g hg => (h5 g (ho ▸ hg)).mono (w.block_pos c x),
    fun hc v hv => (h6 hc v (hw ▸ hv)).mono (w.block_pos c x)⟩

/-- Other windows, covered too. -/
theorem GPlan.Placed.withWins (h : w.Placed b c) {v : GPlan} (hb : v.s.budget = w.s.budget) (hp : v.pos = w.pos) (ho : v.out = w.out)
    (hw : c = 0 → ∀ x ∈ v.wins, x.BlockedIn w.pos) : v.Placed b c := by
  obtain ⟨h1, h2, h3, h4, h5, -⟩ := h
  exact ⟨hb.trans h1, ho ▸ h2, ho ▸ h3, ho ▸ h4, by rw [ho, hp]; exact h5, by rw [hp]; exact hw⟩

theorem GPlan.Placed.retryWins (h : w.Placed b c) {x : Cand} (hx : x.cls = c) : (w.retryWins x).Placed b c := by
  unfold GPlan.retryWins
  extract_lets +onlyGivenNames mine
  split
  · exact h
  · split
    · exact h
    · next v hv =>
      dsimp only
      split
      · exact h
      · next n hn =>
        rw [hx]
        refine (h.block { v with unit := n, used := 0 }).withWins rfl rfl rfl fun hc y hy => ?_
        subst hc
        rcases List.mem_append.1 hy with hy | hy
        · exact (h.block _).wins rfl y hy
        · exact List.mem_singleton.1 hy ▸ GPlan.block_blocked w _

theorem GPlan.Placed.trySealed (h : w.Placed b c) (h3 : c < 3) {x : Cand} (hx : x.cls = c) : (w.trySealed x).1.Placed b c := by
  unfold GPlan.trySealed
  extract_lets +onlyGivenNames c'
  obtain rfl : c' = c := hx
  split
  · split
    · exact h.tryEngine x true false
    · exact h.onBound x true
  · next h2 =>
    extract_lets +onlyGivenNames w1 job pinned regs new ok
    have h1 : w1.Placed b c' := h.retryWins rfl
    split
    · exact h1.same rfl rfl rfl rfl
    · next v hv =>
      split
      · exact h1.same (State.budget_of_latched (GPlan.keyHold_latched w1 x)) rfl rfl rfl
      · exact h1.same (State.budget_of_latched (GPlan.keyOut_latched w1 x)) rfl rfl rfl
      · obtain ⟨hvw, -, p', hp'⟩ := GPlan.pickWin_some hv
        extract_lets +onlyGivenNames y p w2 w3 hf start
        have hp : p + y.cost ≤ v.start + v.len := by
          have : p = p' := congrArg (·.getD 0) hp'
          exact this ▸ GPlan.winStart_le hp'
        have hw2 : w2.Placed b c' := by
          refine h1.withWins (State.takeCount_budget w1.s y) rfl rfl fun hc z hz => ?_
          obtain ⟨z', hz', rfl⟩ := List.mem_map.1 hz
          have := h1.wins hc z' hz'
          split
          · next he =>
            obtain rfl := eq_of_beq he
            exact this
          · exact this
        have hw3 : w3.Placed b c' := by
          unfold w3
          split
          · refine hw2.same ?_ rfl rfl rfl
            exact (State.budget_of_latched (State.repack_latched _ _ _)).trans (State.pin_budget _ _ _ _ _)
          · exact hw2
        have hw3s : w3.wins = w2.wins ∧ w3.pos = w1.pos := by
          unfold w3
          split <;> exact ⟨rfl, rfl⟩
        refine hw3.push (g := { y.grant (mkUnit c' v.unit) v.pair start true false with odd := decide (c' = 1 ∧ v.pair ∧ p ≥ hf) }) ?_ rfl (fun _ => le_rfl) rfl ?_ ?_ ?_ ?_
        · exact (State.budget_of_latched (GPlan.add_latched _ _ _)).trans hw3.budget
        · exact fun hf => nomatch hf
        · exact fun hf => nomatch hf
        · intro n hn hc
          rw [hc] at hn
          exact UnitId.noConfusion hn
        · refine ⟨fun hc n hn => ?_, fun _ n _ hf => nomatch hf⟩
          have hs : start = p := if_neg fun hh => absurd (hc.symm.trans hh.1) (by decide)
          have hb := h1.wins hc v hvw
          have hn' : n = v.unit ∨ v.pair = true ∧ n = v.unit + 1 := (Grant.onLane_iff (by rw [hc]; rfl)).1 hn
          show start + y.cost ≤ w3.pos.nat n
          rw [hs, hw3s.2]
          rcases hn' with rfl | ⟨hpair, rfl⟩
          · exact hp.trans hb.1
          · exact hp.trans (hb.2 hpair)

/-- A class begins with no clock of its own taken outside the windows. -/
theorem GPlan.placed_begin (hb : w.s.budget = b) (hfit : ∀ g ∈ w.out, g.InBudget b) (hord : w.out.Pairwise Grant.Ahead)
    (hm : ∀ g ∈ w.out, c ≠ 0 ∧ (c = 1 → ∀ n, g.unit ≠ .macu n)) : (w.begin c).Placed b c := by
  unfold GPlan.begin
  extract_lets +onlyGivenNames wins
  have hout : ∀ v : GPlan, (wins.foldl (fun w x => w.block c x) v).out = v.out := fun v => foldl_keeps (fun w : GPlan => w.out) (fun w x => (w.block_out c x).1) wins v
  have hwin : ∀ v : GPlan, (wins.foldl (fun w x => w.block c x) v).wins = v.wins := fun v => foldl_keeps (fun w : GPlan => w.wins) (fun w x => (w.block_out c x).2.1) wins v
  have hs : ∀ v : GPlan, (wins.foldl (fun w x => w.block c x) v).s = v.s := fun v => foldl_keeps (fun w : GPlan => w.s) (fun w x => w.block_s c x) wins v
  refine ⟨?_, ?_, ?_, ?_, ?_, ?_⟩
  · rw [hs]
    exact hb
  · rw [hout]
    exact hfit
  · rw [hout]
    exact hord
  · rw [hout]
    exact fun g hg _ _ => (hm g hg).1
  · rw [hout]
    exact fun g hg => ⟨fun hc => absurd hc (hm g hg).1, fun hc n hn => absurd hn ((hm g hg).2 hc n)⟩
  · intro hc x hx
    rw [hwin] at hx
    subst hc
    exact GPlan.blocks_blocked hx _

end Windows

/-! #### The classes of a cut -/

theorem insertC_perm (t : Nat) (x : Cand) (l : List Cand) : (insertC t x l).Perm (x :: l) := by
  induction l with
  | nil => exact .refl _
  | cons z l ih =>
    unfold insertC
    split
    · exact .refl _
    · exact (ih.cons z).trans (List.Perm.swap x z l)

theorem serviceOrder_perm (t : Nat) (l : List Cand) : (serviceOrder t l).Perm l := by
  suffices h : ∀ m : List Cand, (l.foldl (fun m x => insertC t x m) m).Perm (m ++ l) from h []
  induction l with
  | nil => intro m; rw [List.append_nil]; exact .refl _
  | cons x l ih =>
    intro m
    exact (ih _).trans (((insertC_perm t x m).append_right l).trans List.perm_middle.symm)

theorem GPlan.mem_served {w : GPlan} {cands : List Cand} {c : Nat} {x : Cand} (h : x ∈ w.served cands c) : x ∈ cands ∧ x.cls = c := by
  obtain ⟨h1, h2⟩ := List.mem_filter.1 ((serviceOrder_perm _ _).subset h)
  exact ⟨h1, by simpa using h2⟩

theorem GPlan.Placed.passes {b c : Nat} (hc : c < 3) (w : GPlan) (cands : List Cand) : GPlan.PassKept (w.served cands c) (GPlan.Placed b c) where
  same _ _ hb _ hp hw ho _ h := h.same hb hp hw ho
  attempt _ _ lend hx _ h := h.attempt (GPlan.mem_served hx).2 lend
  sealing _ _ hx _ h := h.trySealed hc (GPlan.mem_served hx).2
  bound _ x _ _ h := h.onBound x false

theorem GPlan.placed_runClass {b c : Nat} (hc : c < 3) {w : GPlan} (hb : w.s.budget = b) (hfit : ∀ g ∈ w.out, g.InBudget b) (hord : w.out.Pairwise Grant.Ahead)
    (hm : ∀ g ∈ w.out, c ≠ 0 ∧ (c = 1 → ∀ n, g.unit ≠ .macu n)) (cands : List Cand) (floors : Map (List Nat)) : (w.runClass cands floors c).Placed b c :=
  (GPlan.Placed.passes hc w cands).runClass floors (GPlan.placed_begin hb hfit hord hm)

/-- The three classes of a cut. -/
def GPlan.runAll (w : GPlan) (cands : List Cand) (floors : Map (List Nat)) : GPlan := [0, 1, 2].foldl (fun w c => w.runClass cands floors c) w

theorem GPlan.placed_runAll {w : GPlan} (hw : w.out = []) (cands : List Cand) (floors : Map (List Nat)) : (w.runAll cands floors).Placed w.s.budget 2 := by
  have hnil : ∀ g, g ∉ w.out := fun g hg => List.not_mem_nil (hw ▸ hg)
  have h0 : (w.runClass cands floors 0).Placed w.s.budget 0 :=
    GPlan.placed_runClass (by decide) rfl (fun g hg => absurd hg (hnil g)) (by rw [hw]; exact .nil) (fun g hg => absurd hg (hnil g)) cands floors
  have h1 : ((w.runClass cands floors 0).runClass cands floors 1).Placed w.s.budget 1 :=
    GPlan.placed_runClass (by decide) h0.budget h0.fits h0.order (fun g hg => ⟨one_ne_zero, fun _ n hn => h0.macus g hg n hn rfl⟩) cands floors
  unfold GPlan.runAll
  simp only [List.foldl_cons, List.foldl_nil]
  exact GPlan.placed_runClass (by decide) h1.budget h1.fits h1.order (fun g hg => ⟨two_ne_zero, fun h => absurd h (by decide)⟩) cands floors

end Sys2Proof.Machine

/-! ### PROOFS. The quadrants of a grant set, and what is told of it (R14, R98, R111 to R114, R208) -/

namespace Sys2Proof.Machine

/-! #### The candidates of a cut -/

/-- The candidate stands for the request's current link. -/
def Cand.Of (x : Cand) (q : Req) : Prop := x.q = q ∧ x.id = q.linkId q.current

theorem State.laneCand_of {s : State} {id : LinkId} {q : Req} {l : Link} {x : Cand} (h : s.laneCand id q l = some x) : x.q = q ∧ x.id = id := by
  unfold State.laneCand at h
  obtain ⟨-, h⟩ := Option.ite_none_left_eq_some.1 h
  split at h
  · obtain ⟨y, -, rfl⟩ := Option.map_eq_some_iff.1 h
    exact ⟨rfl, rfl⟩
  · obtain ⟨y, -, h⟩ := Option.bind_eq_some_iff.1 h
    obtain ⟨-, h⟩ := Option.ite_none_right_eq_some.1 h
    obtain rfl := Option.some.inj h
    exact ⟨rfl, rfl⟩

theorem State.digestCand_of {s : State} {id : LinkId} {q : Req} {l : Link} {x : Cand} (h : s.digestCand id q l = some x) : x.q = q ∧ x.id = id := by
  unfold State.digestCand at h
  obtain ⟨y, -, h⟩ := Option.bind_eq_some_iff.1 h
  obtain ⟨-, h⟩ := Option.ite_none_right_eq_some.1 h
  obtain rfl := Option.some.inj h
  exact ⟨rfl, rfl⟩

theorem State.jobCand_of {s : State} {id : LinkId} {q : Req} {l : Link} {free : Nat} {x : Cand} (h : s.jobCand id q l free = some x) : x.q = q ∧ x.id = id := by
  unfold State.jobCand at h
  obtain ⟨j, -, h⟩ := Option.bind_eq_some_iff.1 h
  obtain ⟨-, h⟩ := Option.ite_none_left_eq_some.1 h
  obtain ⟨e, -, rfl⟩ := Option.map_eq_some_iff.1 h
  cases e <;> exact ⟨rfl, rfl⟩

theorem State.candOf_of {s : State} {q : Req} {free : Nat} {x : Cand} (h : s.candOf q free = some x) : x.Of q := by
  unfold State.candOf at h
  obtain ⟨l, -, h⟩ := Option.bind_eq_some_iff.1 h
  obtain ⟨-, h⟩ := Option.ite_none_left_eq_some.1 h
  obtain ⟨y, hy, rfl⟩ := Option.map_eq_some_iff.1 h
  obtain ⟨l', -, hl⟩ := Option.bind_eq_some_iff.1 hy
  have hof : y.Of q := by
    split at hl
    · exact State.laneCand_of hl
    · split at hl
      · exact State.digestCand_of hl
      · exact State.jobCand_of (Option.ite_none_right_eq_some.1 hl).2
  exact hof

theorem State.keptByEnd_quadAt (u : State) : KeptByEnd fun t => t.quadAt = u.quadAt where
  link s id f h := (State.quadAt_onLink s id f).trans h
  ring _ _ h := h
  eph _ _ h := h
  sch _ _ _ h := h
  prt _ _ h := h
  reads _ _ h := h
  unbind _ _ h := h
  unit s w f h := by
    refine (State.quadAt_of_rng ?_).trans h
    unfold State.onUnit
    cases w <;> rfl
  ent _ _ h := h
  key _ _ _ h := h

theorem State.noteLate_quadAt (s : State) (q : Req) (seg : Nat) : (s.noteLate q seg).quadAt = s.quadAt := by
  unfold State.noteLate
  dsimp only
  split
  · rfl
  · split
    · rfl
    · refine (State.quadAt_of_rng ?_).trans (State.quadAt_onLink s (q.linkId q.current) fun l => { l with lateSeg := some seg })
      simp [State.onPart]

theorem State.noteElig_quadAt (s : State) (x : Cand) : (s.noteElig x).1.quadAt = s.quadAt := by
  unfold State.noteElig
  dsimp only
  rw [State.quadAt_onReq, State.quadAt_onLink]
  exact fun _ => ⟨rfl, rfl, rfl⟩

theorem State.scan_quadAt (s : State) (q : Req) : (s.scan q).1.quadAt = s.quadAt := by
  unfold State.scan
  extract_lets +onlyGivenNames d s1 c s2
  have h1 : s1.quadAt = s.quadAt := by
    unfold s1 d
    split
    · split <;> rfl
    · rfl
  have h2 : s2.quadAt = s.quadAt := by
    unfold s2
    split
    · exact kept_ite (P := fun z : State => z.quadAt = s.quadAt) ((State.noteLate_quadAt _ _ _).trans h1) h1
    · exact h1
  clear_value s2 c
  split
  · exact h2
  · next x hx =>
    split
    · exact (State.keptByEnd_quadAt s).endLink _ _ ((State.quadAt_of_rng (State.withdraw_rng _ _)).trans h2)
    · exact (State.noteElig_quadAt _ _).trans h2

theorem State.scan_of {s : State} {q : Req} {x : Cand} (h : (s.scan q).2 = some x) : x.Of q := by
  unfold State.scan at h
  extract_lets +onlyGivenNames d s1 c s2 at h
  have hc : c = s1.candOf q d.1 := rfl
  clear_value s2 c
  split at h
  · exact nomatch h
  · next y =>
    split at h
    · exact nomatch h
    · obtain rfl := Option.some.inj h
      have hof : y.Of q := State.candOf_of hc.symm
      exact hof

/-- Going over some of the requests. -/
def State.scans (a : State × List Cand) (q : Req) : State × List Cand :=
  ((a.1.scan q).1, match (a.1.scan q).2 with
    | some x => a.2 ++ [x]
    | none => a.2)

theorem State.scans_quadAt (l : List Req) (a : State × List Cand) : (l.foldl State.scans a).1.quadAt = a.1.quadAt :=
  foldl_keeps (fun a : State × List Cand => a.1.quadAt) (fun a q => State.scan_quadAt a.1 q) l a

/-- Each candidate is that of its request, in the order of these. -/
theorem State.scans_of (l : List Req) (a : State × List Cand) :
    ∃ m : List Req, m.Sublist l ∧ ∃ t : List Cand, (l.foldl State.scans a).2 = a.2 ++ t ∧ List.Forall₂ Cand.Of t m := by
  induction l generalizing a with
  | nil => exact ⟨[], .refl _, [], (List.append_nil _).symm, .nil⟩
  | cons q l ih =>
    obtain ⟨m, hm, t, ht, hf⟩ := ih (State.scans a q)
    rw [List.foldl_cons, ht]
    unfold State.scans
    dsimp only
    split
    · next x hx => exact ⟨q :: m, hm.cons_cons q, x :: t, by rw [List.append_assoc]; rfl, .cons (State.scan_of hx) hf⟩
    · exact ⟨m, hm.cons q, t, rfl, hf⟩

/-! #### Quadrants (R14, R113) -/

/-- A lane segment, or a segment that takes an engine. -/
def Grant.Seated (g : Grant) : Prop := (∃ n, g.unit = .lane n) ∨ (∃ n, g.unit = .engine n) ∧ g.cont = false

/-- The candidates are of different requests. -/
def Apart (cands : List Cand) : Prop := ∀ x ∈ cands, ∀ y ∈ cands, x.id.ring = y.id.ring → x.id.idx = y.id.idx → x.id = y.id

/-- Every grant lies in the quadrant of its request, and a request without a grant has the quadrant that it had. -/
structure GPlan.Seats (cands : List Cand) (w : GPlan) : Prop where
  seats : ∀ g ∈ w.out, g.Seated → ∀ k, w.s.quadAt g.id.ring g.id.idx = some k → k = some (quadOf g.unit)
  opens : ∀ x ∈ cands, x.id ∉ w.done → ∀ k, w.s.quadAt x.id.ring x.id.idx = some k → k = x.q.quad

theorem GPlan.quadOk_quad {w : GPlan} {x : Cand} {j k : Nat} (h : w.quadOk x k = true) (hj : x.q.quad = some j) : j = k := by
  unfold GPlan.quadOk at h
  rw [hj] at h
  exact eq_of_beq h

theorem GPlan.quadAt_add (w : GPlan) (x : Cand) (g : Grant) (r i : Nat) : (w.add x g).s.quadAt r i = if x.id.ring = r ∧ x.id.idx = i
    then (w.s.quadAt r i).map fun k => if k.isSome then k else some (quadOf g.unit) else w.s.quadAt r i := by
  unfold GPlan.add State.quadAt
  dsimp only
  split
  · next h =>
    obtain ⟨rfl, rfl⟩ := h
    rw [State.req_onReq _ _ _ _ fun q => by split <;> exact ⟨rfl, rfl⟩, Option.map_map, Option.map_map]
    refine congrArg (fun f => (w.s.req x.id.ring x.id.idx).map f) (funext fun q => ?_)
    simp only [Function.comp_apply]
    split <;> rfl
  · next h => rw [State.req_onReq_other w.s (by omega) _ (fun q => by split <;> rfl) fun q => by split <;> rfl]

section Seats

variable {cands : List Cand} {v w : GPlan}

theorem GPlan.Seats.same (h : v.Seats cands) (hq : w.s.quadAt = v.s.quadAt) (ho : w.out = v.out) (hd : v.done ⊆ w.done) : w.Seats cands :=
  ⟨by rw [ho, hq]; exact h.seats, fun x hx hn => by rw [hq]; exact h.opens x hx fun hm => hn (hd hm)⟩

/-- A grant of a candidate, in its request's quadrant. -/
theorem GPlan.Seats.add (h : w.Seats cands) (hap : Apart cands) {x : Cand} (hx : x ∈ cands) (hd : x.id ∉ w.done) {y : Cand} (hy : y.id = x.id) {g : Grant}
    (hg : g.id = x.id) (hq : g.Seated → ∀ j, x.q.quad = some j → j = quadOf g.unit) : (w.add y g).Seats cands := by
  constructor
  · intro g' hg' hs k hk
    rw [GPlan.quadAt_add, hy] at hk
    rcases List.mem_append.1 hg' with hm | hm
    · split at hk
      · obtain ⟨k0, hk0, rfl⟩ := Option.map_eq_some_iff.1 hk
        rw [h.seats g' hm hs k0 hk0]
        rfl
      · exact h.seats g' hm hs k hk
    · obtain rfl := List.mem_singleton.1 hm
      rw [hg, if_pos ⟨rfl, rfl⟩] at hk
      obtain ⟨k0, hk0, rfl⟩ := Option.map_eq_some_iff.1 hk
      obtain rfl := h.opens x hx hd k0 hk0
      cases hj : x.q.quad with
      | none => rfl
      | some j => exact congrArg some (hq hs j hj)
  · intro z hz hn k hk
    have hn' : z.id ≠ y.id ∧ z.id ∉ w.done := not_or.1 (mt List.mem_cons.2 hn)
    rw [GPlan.quadAt_add, if_neg fun he => hn'.1 (hy ▸ (hap x hx z hz (hy ▸ he.1) (hy ▸ he.2)).symm)] at hk
    exact h.opens z hz hn'.2 k hk

/-- A second grant for the segment, in the same quadrant. -/
theorem GPlan.Seats.follow (h : w.Seats cands) {g g' : Grant} (hg : g ∈ w.out) (hi : g'.id = g.id) (hs : g'.Seated → g.Seated ∧ quadOf g'.unit = quadOf g.unit) :
    GPlan.Seats cands { w with out := w.out ++ [g'] } := by
  refine ⟨fun x hx hxs k hk => ?_, h.opens⟩
  rcases List.mem_append.1 hx with hm | hm
  · exact h.seats x hm hxs k hk
  · obtain rfl := List.mem_singleton.1 hm
    obtain ⟨h1, h2⟩ := hs hxs
    rw [h2]
    exact h.seats g hg h1 k (hi ▸ hk)

theorem GPlan.Seats.onEngines (h : w.Seats cands) (hap : Apart cands) {x : Cand} (hx : x ∈ cands) (hd : x.id ∉ w.done) {g : Grant} {n : Nat}
    (hu : g.unit = .engine n) (hg : g.id = x.id) (hq : g.cont = false → ∀ j, x.q.quad = some j → j = n / 8) {m : Option Nat}
    (hm : g.cont = false → ∀ k, m = some k → k / 8 = n / 8) : (w.onEngines x g m).Seats cands := by
  have hs : g.Seated → g.cont = false := fun hs => by
    rcases hs with ⟨k, hk⟩ | ⟨-, hc⟩
    · exact UnitId.noConfusion (hu.symm.trans hk)
    · exact hc
  have ha : (w.add x g).Seats cands := h.add hap hx hd rfl hg fun hgs j hj => by
    rw [hu]
    exact hq (hs hgs) j hj
  unfold GPlan.onEngines
  cases hk : m with
  | none => exact ha
  | some k =>
    refine ha.follow (g := g) (List.mem_append_right _ List.mem_cons_self) rfl fun hf => ?_
    have hc : g.cont = false := by
      rcases hf with ⟨k, hk⟩ | ⟨-, hc⟩
      · exact UnitId.noConfusion hk
      · exact hc
    refine ⟨.inr ⟨⟨n, hu⟩, hc⟩, ?_⟩
    rw [hu]
    exact hm hc k hk

theorem GPlan.mem_enginesFor {x : Cand} {n : Nat} (h : n ∈ w.enginesFor x) : w.quadOk x (n / 8) = true := by
  unfold GPlan.enginesFor at h
  have hf := (List.mem_filter.1 h).2
  simp only [Bool.and_eq_true] at hf
  exact hf.1.1.1.1.2

theorem GPlan.engineFor_some {x : Cand} {n : Nat} {m : Option Nat} (h : w.engineFor x = some (n, m)) :
    w.quadOk x (n / 8) = true ∧ ∀ k, m = some k → k / 8 = n / 8 := by
  unfold GPlan.engineFor at h
  dsimp only at h
  split at h
  · obtain ⟨n', hn, he⟩ := Option.map_eq_some_iff.1 h
    obtain ⟨rfl, rfl⟩ := Prod.mk.inj he
    refine ⟨GPlan.mem_enginesFor (List.mem_of_find?_eq_some hn), fun k hk => ?_⟩
    have hp := List.find?_some hk
    simp only [Bool.and_eq_true, beq_iff_eq] at hp
    exact hp.1
  · obtain ⟨n', hn, he⟩ := Option.map_eq_some_iff.1 h
    obtain ⟨rfl, rfl⟩ := Prod.mk.inj he
    exact ⟨GPlan.mem_enginesFor (List.mem_of_mem_head? hn), nofun⟩

theorem GPlan.Seats.tryEngine (h : w.Seats cands) (hap : Apart cands) {x : Cand} (hx : x ∈ cands) (hd : x.id ∉ w.done) (win lend : Bool) :
    (w.tryEngine x win lend).1.Seats cands := by
  unfold GPlan.tryEngine
  split
  · exact h
  · split
    · exact h.same rfl rfl (List.Subset.refl _)
    · next n m hm =>
      obtain ⟨hq, hk⟩ := GPlan.engineFor_some hm
      exact (h.onEngines hap hx hd (g := x.grant (.engine n) false 0 win lend) rfl rfl (fun _ j hj => GPlan.quadOk_quad hq hj) fun _ => hk).same rfl rfl
        (List.Subset.refl _)

theorem GPlan.Seats.onBound (h : w.Seats cands) (hap : Apart cands) {x : Cand} (hx : x ∈ cands) (hd : x.id ∉ w.done) (win : Bool) :
    (w.onBound x win).1.Seats cands := by
  unfold GPlan.onBound
  split
  · exact h
  · next n l hl =>
    split
    · exact h.onEngines hap hx hd (g := { x.grant (.engine n) false 0 win false with cont := true }) rfl rfl nofun nofun
    · exact h

theorem GPlan.Seats.keyHold (h : w.Seats cands) (x : Cand) : (w.keyHold x).1.Seats cands :=
  h.same (State.quadAt_onLink w.s x.id _) rfl (List.Subset.refl _)

theorem GPlan.Seats.keyOut (h : w.Seats cands) (x : Cand) : (w.keyOut x).1.Seats cands :=
  h.same (State.quadAt_onLink w.s x.id _) rfl (List.subset_cons_self _ _)

theorem GPlan.mem_unitsFor {x : Cand} {c n : Nat} {pair : Bool} {more : Nat → Bool} (h : n ∈ w.unitsFor x c pair more) : w.quadOk x (n / perQuad c) = true := by
  have hok : ∀ relaxed, w.unitOk x c pair relaxed n = true → w.quadOk x (n / perQuad c) = true := fun r hr => by
    unfold GPlan.unitOk at hr
    simp only [Bool.and_eq_true] at hr
    exact hr.1.1
  unfold GPlan.unitsFor at h
  have h := (List.mem_filter.1 h).1
  split at h
  · exact hok _ (List.mem_filter.1 h).2
  · exact hok _ (List.mem_filter.1 h).2

theorem GPlan.Seats.tryLane (h : w.Seats cands) (hap : Apart cands) {x : Cand} (hx : x ∈ cands) (hd : x.id ∉ w.done) (lend : Bool) :
    (w.tryLane x lend).1.Seats cands := by
  unfold GPlan.tryLane
  extract_lets +onlyGivenNames pair
  split
  · exact h.same rfl rfl (List.Subset.refl _)
  · next n hn =>
    split
    · exact h.keyHold x
    · exact h.keyOut x
    · extract_lets +onlyGivenNames w' f
      have hf : w'.LaneFill n pair x.cost f := w'.fill_lane n pair x.cost
      have hfd : f.2.2.done = w.done := GPlan.fill_done w' 0 n pair x.cost
      have hw : f.2.2.Seats cands := h.same ((congrArg State.quadAt hf.s).trans (State.takeCount_quadAt w.s x)) hf.out (hfd ▸ List.Subset.refl _)
      refine hw.add hap hx (hfd ▸ hd) rfl rfl fun _ j hj => ?_
      exact GPlan.quadOk_quad (GPlan.mem_unitsFor (GPlan.laneFor_room hn).1) hj

theorem GPlan.Seats.tryMacu (h : w.Seats cands) (hap : Apart cands) {x : Cand} (hx : x ∈ cands) (hd : x.id ∉ w.done) (lend : Bool) :
    (w.tryMacu x lend).1.Seats cands := by
  unfold GPlan.tryMacu
  split
  · exact h
  · next j hj =>
    split
    · exact h.same rfl rfl (List.Subset.refl _)
    · next n hn =>
      extract_lets +onlyGivenNames w' f
      have hw : w'.s.quadAt = w.s.quadAt ∧ w'.out = w.out ∧ w'.done = w.done := by
        unfold w'
        split
        · exact ⟨rfl, rfl, rfl⟩
        · exact ⟨State.pin_quadAt _ _ _ _ _, rfl, rfl⟩
      obtain ⟨hwq, hwo, hwd⟩ := hw
      have hf : w'.MacuFill n j.dual x.cost f := w'.fill_macu n j.dual x.cost
      have hfd : f.2.2.done = w.done := (GPlan.fill_done w' 1 n j.dual x.cost).trans hwd
      have hs : f.2.2.Seats cands := h.same ((congrArg State.quadAt hf.s).trans hwq) (hf.out.trans hwo) (hfd ▸ List.Subset.refl _)
      refine hs.add hap hx (hfd ▸ hd) rfl rfl fun hg => ?_
      rcases hg with ⟨k, hk⟩ | ⟨⟨k, hk⟩, -⟩
      · exact UnitId.noConfusion hk
      · exact UnitId.noConfusion hk

theorem GPlan.Seats.attempt (h : w.Seats cands) (hap : Apart cands) {x : Cand} (hx : x ∈ cands) (hd : x.id ∉ w.done) (lend : Bool) :
    (w.attempt x lend).1.Seats cands := by
  unfold GPlan.attempt
  split
  · exact h.tryLane hap hx hd lend
  · split
    · exact h.tryMacu hap hx hd lend
    · exact h.tryEngine hap hx hd false lend

theorem GPlan.retryWins_same (w : GPlan) (x : Cand) : (w.retryWins x).s = w.s ∧ (w.retryWins x).out = w.out ∧ (w.retryWins x).done = w.done := by
  unfold GPlan.retryWins
  extract_lets +onlyGivenNames mine
  split
  · exact ⟨rfl, rfl, rfl⟩
  · split
    · exact ⟨rfl, rfl, rfl⟩
    · dsimp only
      split
      · exact ⟨rfl, rfl, rfl⟩
      · exact ⟨w.block_s _ _, (w.block_out _ _).1, (w.block_out _ _).2.2⟩

theorem GPlan.Seats.trySealed (h : w.Seats cands) (hap : Apart cands) {x : Cand} (hx : x ∈ cands) (hd : x.id ∉ w.done) (h3 : x.cls < 3) :
    (w.trySealed x).1.Seats cands := by
  unfold GPlan.trySealed
  extract_lets +onlyGivenNames c
  split
  · split
    · exact h.tryEngine hap hx hd true false
    · exact h.onBound hap hx hd true
  · next h2 =>
    extract_lets +onlyGivenNames w1 job pinned regs new ok
    obtain ⟨hs1, ho1, hd1⟩ := w.retryWins_same x
    have h1 : w1.Seats cands := h.same (congrArg State.quadAt hs1) ho1 (hd1 ▸ List.Subset.refl _)
    split
    · exact h1.same rfl rfl (List.Subset.refl _)
    · next v hv =>
      split
      · exact h1.keyHold x
      · exact h1.keyOut x
      · obtain ⟨-, hq, -⟩ := GPlan.pickWin_some hv
        extract_lets +onlyGivenNames y p w2 w3 hf start
        have hw2 : w2.Seats cands := h1.same (State.takeCount_quadAt w1.s y) rfl (List.Subset.refl _)
        have hw3 : w3.Seats cands ∧ w3.done = w.done := by
          unfold w3
          split
          · exact ⟨hw2.same ((State.repack_quadAt _ _ _).trans (State.pin_quadAt _ _ _ _ _)) rfl (List.Subset.refl _), hd1⟩
          · exact ⟨hw2, hd1⟩
        refine hw3.1.add hap hx (hw3.2 ▸ hd) rfl rfl fun hg j hj => ?_
        have hqj : j = v.unit / perQuad x.cls := GPlan.quadOk_quad hq hj
        have hc : c = 0 ∨ c = 1 := by
          have : c < 3 := h3
          omega
        rcases hc with hc | hc
        · rw [hqj]
          show v.unit / perQuad c = quadOf (mkUnit c v.unit)
          rw [hc]
          rfl
        · have hu : (mkUnit c v.unit) = .macu v.unit := by rw [hc]; rfl
          rcases hg with ⟨k, hk⟩ | ⟨⟨k, hk⟩, -⟩
          · exact UnitId.noConfusion (hu.symm.trans hk)
          · exact UnitId.noConfusion (hu.symm.trans hk)

theorem GPlan.Seats.begin (h : w.Seats cands) (c : Nat) : (w.begin c).Seats cands := by
  have hs := w.begin_s c
  unfold GPlan.begin at hs ⊢
  refine h.same (congrArg State.quadAt hs) ?_ ?_
  · exact foldl_keeps (fun w : GPlan => w.out) (fun w x => (w.block_out c x).1) _ _
  · rw [foldl_keeps (fun w : GPlan => w.done) (fun w x => (w.block_out c x).2.2) _ _]
    exact List.Subset.refl _

theorem GPlan.served_ids (hn : (cands.map (·.id)).Nodup) (w : GPlan) (c : Nat) : ((w.served cands c).map (·.id)).Nodup :=
  ((serviceOrder_perm _ _).map _).nodup_iff.2 (hn.sublist (List.filter_sublist.map _))

theorem GPlan.Seats.passes (hap : Apart cands) (hn : (cands.map (·.id)).Nodup) {c : Nat} (hc : c < 3) (w : GPlan) :
    GPlan.PassKept (w.served cands c) (GPlan.Seats cands) where
  same _ _ _ hq _ _ ho hd h := h.same hq ho (hd ▸ List.Subset.refl _)
  attempt _ _ lend hx hd h := h.attempt hap (GPlan.mem_served hx).1 (hd (GPlan.served_ids hn w c)) lend
  sealing _ _ hx hd h := h.trySealed hap (GPlan.mem_served hx).1 hd ((GPlan.mem_served hx).2 ▸ hc)
  bound _ _ hx hd h := h.onBound hap (GPlan.mem_served hx).1 hd false

theorem GPlan.Seats.runClass (h : w.Seats cands) (hap : Apart cands) (hn : (cands.map (·.id)).Nodup) (floors : Map (List Nat)) {c : Nat} (hc : c < 3) :
    (w.runClass cands floors c).Seats cands := (GPlan.Seats.passes hap hn hc w).runClass floors (h.begin c)

theorem GPlan.Seats.runAll (h : w.Seats cands) (hap : Apart cands) (hn : (cands.map (·.id)).Nodup) (floors : Map (List Nat)) : (w.runAll cands floors).Seats cands :=
  ((h.runClass hap hn floors (by decide)).runClass hap hn floors (by decide)).runClass hap hn floors (by decide)

end Seats

/-! #### The grant set -/

theorem mem_of_mget {α : Type} {m : Map α} {k : Nat} {v : α} (h : mget m k = some v) : k ∈ m.map (·.1) := by
  induction m with
  | nil => exact nomatch h
  | cons y m ih =>
    obtain ⟨a, w⟩ := y
    unfold mget at h
    split at h
    · next e => exact List.mem_cons.2 (.inl e.symm)
    · exact List.mem_cons_of_mem _ (ih h)

/-- A cut plans from an empty workspace, over the candidates of the scan. -/
theorem State.makePlan_from (s : State) : ∃ w : GPlan, w.out = [] ∧ w.done = [] ∧ w.s.latched = s.latched ∧ w.s.rng = s.scanAll.1.rng
    ∧ s.makePlan.sch.plan = (w.runAll s.scanAll.2 s.comingFloors).out ∧ s.makePlan.rng = (w.runAll s.scanAll.2 s.comingFloors).s.rng := by
  unfold State.makePlan
  extract_lets +onlyGivenNames floors r s1 cut s2 w w'
  have hl : w.s.latched = s.latched := by
    unfold w s2 s1 r
    simp
  have ho : w.out = [] := rfl
  have hd : w.done = [] := rfl
  have hr : w.s.rng = s.scanAll.1.rng := rfl
  have hw : w' = w.runAll r.2 floors := by
    unfold w' GPlan.runAll
    rfl
  have hc : r.2 = s.scanAll.2 := rfl
  have hf : floors = s.comingFloors := rfl
  rw [← hc, ← hf]
  clear_value w' w s2 cut s1 r floors
  subst hw
  exact ⟨w, ho, hd, hl, hr, rfl, rfl⟩

theorem State.scanAll_quadAt (s : State) : s.scanAll.1.quadAt = s.quadAt := State.scans_quadAt s.rng.reqs (s, [])

theorem State.scanAll_of (s : State) : ∃ m : List Req, m.Sublist s.rng.reqs ∧ List.Forall₂ Cand.Of s.scanAll.2 m := by
  obtain ⟨m, hm, t, ht, hf⟩ := State.scans_of s.rng.reqs (s, [])
  have : s.scanAll.2 = t := ht
  exact ⟨m, hm, this ▸ hf⟩

theorem forall₂_of_mem {α β : Type} {R : α → β → Prop} {l : List α} {m : List β} (h : List.Forall₂ R l m) {a : α} (ha : a ∈ l) : ∃ b ∈ m, R a b := by
  induction h with
  | nil => exact nomatch ha
  | cons hr _ ih =>
    rcases List.mem_cons.1 ha with rfl | ha
    · exact ⟨_, List.mem_cons_self, hr⟩
    · obtain ⟨b, hb, hab⟩ := ih ha
      exact ⟨b, List.mem_cons_of_mem _ hb, hab⟩

theorem Cand.ids_of {l : List Cand} {m : List Req} (h : List.Forall₂ Cand.Of l m) : l.map (·.id) = m.map fun q => q.linkId q.current := by
  induction h with
  | nil => rfl
  | cons hr _ ih => rw [List.map_cons, List.map_cons, ih, hr.2]

/-- The candidates of different requests stand for different requests. -/
theorem State.scanAll_apart {s : State} (hn : (s.rng.reqs.map fun r => (r.ring, r.idx)).Nodup) : Apart s.scanAll.2 ∧ (s.scanAll.2.map (·.id)).Nodup := by
  obtain ⟨m, hm, hf⟩ := s.scanAll_of
  have hinj := List.inj_on_of_nodup_map hn
  constructor
  · intro x hx y hy hr hi
    obtain ⟨q, hq, -, hxq⟩ := forall₂_of_mem hf hx
    obtain ⟨q', hq', -, hyq⟩ := forall₂_of_mem hf hy
    rw [hxq, hyq] at hr hi
    have : q = q' := hinj (hm.subset hq) (hm.subset hq') (Prod.ext hr hi)
    rw [hxq, hyq, this]
  · rw [Cand.ids_of hf]
    refine List.Nodup.of_map (fun i : LinkId => (i.ring, i.idx)) ?_
    rw [List.map_map]
    exact hn.sublist (hm.map _)

theorem State.makePlan_seats {s : State} (hn : (s.rng.reqs.map fun r => (r.ring, r.idx)).Nodup) {g : Grant} (hg : g ∈ s.makePlan.sch.plan) (hs : g.Seated)
    {q : Req} (hq : s.makePlan.req g.id.ring g.id.idx = some q) : q.quad = some (quadOf g.unit) := by
  obtain ⟨w, hout, hdone, -, hrng, hplan, hreqs⟩ := s.makePlan_from
  obtain ⟨hap, hids⟩ := State.scanAll_apart hn
  have h0 : w.Seats s.scanAll.2 := by
    refine ⟨fun g hg => absurd (hout ▸ hg) List.not_mem_nil, fun x hx _ k hk => ?_⟩
    obtain ⟨m, hm, hf⟩ := s.scanAll_of
    obtain ⟨q, hqm, hxq, hxi⟩ := forall₂_of_mem hf hx
    rw [State.quadAt_of_rng hrng, State.scanAll_quadAt, hxi, State.quadAt] at hk
    have hr : s.req (q.linkId q.current).ring (q.linkId q.current).idx = some q := State.req_of_mem hn (hm.subset hqm)
    rw [hr, Option.map_some] at hk
    rw [hxq]
    exact (Option.some.inj hk).symm
  have h := h0.runAll hap hids s.comingFloors
  rw [hplan] at hg
  refine h.seats g hg hs q.quad ?_
  rw [← State.quadAt_of_rng hreqs, State.quadAt, hq]
  rfl

/-- Settles O17: the passes keep their accounts, every grant begins after the clocks taken on its unit, and the first of a request's
grants is what fixes its quadrant. -/
theorem grantSetRules : Obligations.GrantSetRules := by
  unfold Obligations.GrantSetRules
  refine ⟨fun s => ?_, fun w c p g l => ⟨fun hl => ?_, ?_⟩, fun w floors c p has x hn hx hc => ?_⟩
  · obtain ⟨w, hout, -, hl, -, hplan, -⟩ := s.makePlan_from
    have hp := GPlan.placed_runAll hout s.scanAll.2 s.comingFloors
    rw [State.budget_of_latched hl] at hp
    have hfit := hp.fits
    have hord := hp.order
    rw [← hplan] at hfit hord
    dsimp only
    refine ⟨fun g hg n hu hw h0 => (hfit g hg hw h0).1 n hu, hord.imp fun h => h.1, fun g hg n hu hw h0 => (hfit g hg hw h0).2 n hu, hord.imp fun h => h.2,
      fun hn g hg hs q hq => State.makePlan_seats hn hg hs hq⟩
  · obtain ⟨h1, h2, h3, h4⟩ := GPlan.floorPart_kept c p g l w hl
    exact ⟨h1, h2, h3, h4⟩
  · obtain ⟨h1, h2, h3, h4⟩ := GPlan.lendPart_kept c p g l w
    exact ⟨h1, h2, fun k => ⟨h3 k, h4 k⟩⟩
  · dsimp only
    rw [GPlan.credit_eq]
    rw [GPlan.credit1_at floors c _ has hn (mem_of_mget hx) hx hc]
    rfl

end Sys2Proof.Machine
